-- ==== Sys2Proof/Word.lean ====
section
/-! DEFINITION. The word types of the Kostakor K8 model. The spec's registers are 64 bits wide (R442), a byte is the
smallest unit of its memories (R103), and a vector lane is 32 bits (R218). -/

namespace Sys2Proof

/-- One byte of a memory, an image, a cell or a frame. -/
abbrev Byte := BitVec 8

/-- One 64-bit register of the register region (R442). -/
abbrev Reg := BitVec 64

/-- One lane of a vector register (R218). -/
abbrev Lane := BitVec 32

/-- One FW128 code (R131). -/
abbrev Fw := BitVec 128

end Sys2Proof
end

