-- ==== Sys2Proof/Syntax.lean ====
section
/-! DEFINITION. The commands of the block: one constructor of `Instr` for each row of spec/opcode_table.json, with the
operands the row's rule gives it. Rows that are words of a stream (chapters 06 to 09) carry the word's DELTA and, where
the spec gives one, its predicate; rows that are events carry what the event brings from outside the module. -/

namespace Sys2Proof

/-- The fields every cluster unit word shares (R158): the issue delta and the predicate. -/
structure Wd where
  delta : Nat
  pred  : Bool
  pidx  : Nat
  deriving DecidableEq, Repr

/-- Element formats (R187, codes 0 to 11; codes 12 to 15 are reserved and have no constructor). -/
inductive Fmt where
  | e4m3 | e5m2 | mxE4m3 | mxE5m2 | mxE3m2 | mxE2m3 | mxE2m1 | mxInt8 | int8 | int4 | bf16 | fp32
  deriving DecidableEq, Repr

/-- Types of a floating-point vector instruction (R225, codes 0 and 1). -/
inductive FTy where
  | fp32 | bf16
  deriving DecidableEq, Repr

/-- Types of a vector instruction that also takes integers (R225). -/
inductive VTy where
  | fp32 | bf16 | s32
  deriving DecidableEq, Repr

/-- Comparison conditions (R232). -/
inductive Cond where
  | eq | ne | lt | le | gt | ge | un
  deriving DecidableEq, Repr

/-- The four units of a cluster, in stream order (R156). -/
inductive Unit4 where
  | me | vu | mv | sq
  deriving DecidableEq, Repr

/-- A stream of words: a cluster unit, a port by logical index, or a memory stack (R156). -/
inductive StreamId where
  | unit (cluster : Nat) (u : Unit4)
  | port (lport : Nat)
  | mem  (stack : Nat)
  deriving DecidableEq, Repr

/-- Destination of MV.RECV (R201): store lines, or instruction memory (a refill, R205). -/
inductive RecvDst where
  | store (dline : Nat)
  | imem  (wline sln : Nat)
  deriving DecidableEq, Repr

/-- Source of VU.LD (R227). -/
inductive LdSrc where
  | store   (line : Nat)
  | landing (q entry : Nat)
  deriving DecidableEq, Repr

/-- Second operand of an integer vector instruction (R234). -/
inductive Opnd where
  | reg (vb : Nat)
  | imm (v : BitVec 16)
  deriving DecidableEq, Repr

/-- Shift count of VU.SHL and VU.SHR (R234). -/
inductive ShOp where
  | reg (vb : Nat)
  | imm (amt : Nat)
  deriving DecidableEq, Repr

/-- Which half or halves SQ.FLAG LOADE names (R211). -/
inductive HalfSel where
  | first | second | both
  deriving DecidableEq, Repr

/-- Actions of SQ.FLAG (R211). -/
inductive FlagAct where
  | set   (mask : BitVec 8) (inv : Bool)
  | loads (line byte : Nat)
  | loade (q entry : Nat) (half : HalfSel) (dbit : Nat)
  | imm   (mask value : BitVec 8)
  deriving DecidableEq, Repr

/-- Arm lengths of a fixed-length branch, in words of each stream (R210). -/
structure ArmLens where
  me : Nat
  vu : Nat
  mv : Nat
  sq : Nat
  deriving DecidableEq, Repr

/-- Memories in which a bit error can stand (R109, R115, R264). -/
inductive Area where
  | store | landing | hbm
  deriving DecidableEq, Repr

/-- A bit error that stands in one 64-bit word of a protected line: the flipped data bits and check bits. `line` is the
line's number in its area: local offset div 128 for store and HBM, the landing key of a landing buffer. -/
structure Upset where
  area  : Area
  line  : Nat
  word  : Nat
  data  : BitVec 64
  check : BitVec 8
  /-- The cell has failed: a scrub's rewrite does not clear the error (R112, R119). -/
  hard  : Bool := false
  deriving DecidableEq, Repr

/-- What EXCLUDE carries (R364; log 42): the cause, and the hall number of the modules excluded. -/
structure Exclusion where
  cause : Nat
  hall  : Nat
  deriving DecidableEq, Repr

/-- The port at which a PROPOSE came, and the first bytes of the job digest that it names (R375, R376). -/
structure Proposer where
  port    : Nat
  digest8 : List Byte
  deriving DecidableEq, Repr

/-- Where a host command came from (R393, R411). -/
inductive Via where
  | ring0 | ring1 | mbox
  deriving DecidableEq, Repr

/-- The common fields of a command descriptor (R395). -/
structure Hdr where
  via   : Via
  tag   : BitVec 32
  irq   : Bool
  order : Bool
  /-- The OPCODE that the descriptor gives in place of the row's own, for one that R398 does not list. -/
  raw   : Option (BitVec 16) := none
  deriving DecidableEq, Repr

/-- What a host memory transfer answers (R388). -/
inductive HostRes where
  | ok (data : List Byte)
  | timeout
  | errorResponse
  deriving DecidableEq, Repr

/-- Which transfer a HOST_DMA_COMPLETE belongs to: the i-th running transfer command, with the agents (source and agent; 0xFF a span
controller) that gave a dump no answer meanwhile (R437), or lines of a staging descriptor. -/
inductive DmaRef where
  | command (i : Nat) (deaf : List (Nat × Nat))
  | staging (desc step line : Nat)
  deriving DecidableEq, Repr

/-- Ways in which the PCIe interface alone is reset (R387, R508). -/
inductive PcieResetKind where
  | functionLevel | hot | perst | linkLoss
  deriving DecidableEq, Repr

/-- A cell of an Olfin link (R302), without its CRC. `payload` is 64 bytes. -/
structure Cell where
  seq     : BitVec 10
  ack     : BitVec 10
  cls     : BitVec 2
  kind    : BitVec 4
  gen     : BitVec 4
  credit  : BitVec 6
  tag     : BitVec 12
  payload : List Byte
  deriving DecidableEq, Repr

/-- What the FEC of a port found since the cell before (R304, R327): codewords corrected, codewords it could not correct, and whether the cell
lies in a codeword that it could. -/
structure FecObs where
  ok        : Bool
  corrected : Nat
  failed    : Nat
  deriving DecidableEq, Repr

/-- What one receiving lane shows during alignment (R294): lock, inverted pair, and the logical lane its marker names. -/
structure LaneObs where
  lock     : Bool
  inverted : Bool
  logical  : Nat
  deriving DecidableEq, Repr

/-- One port of a health record (R367). Delays are in units of 0.01 ns. -/
structure HealthPort where
  peer     : BitVec 64
  peerPort : Nat
  width    : BitVec 2
  up       : Bool
  revDiff  : Bool
  laneFault : Bool
  base     : Nat
  hold     : Nat
  delay    : Nat
  deriving DecidableEq, Repr

/-- A health record (R367). -/
structure Health where
  physId    : BitVec 64
  hall      : Nat
  gen       : BitVec 4
  topStep   : Nat
  timeGood  : Bool
  gradeB    : Bool
  kept      : Bool
  ucieNarrow : Bool
  /-- A tile failed in service waits for repair (R120), in bit 4 of FLAGS (log 92). -/
  repairDue : Bool := false
  fabricRev : Nat
  ports     : List HealthPort
  digest16  : List Byte
  deriving DecidableEq, Repr

/-- One entry of the canonical map (R373): `ports` and `pads` by logical port. -/
structure MapEntry where
  physId : BitVec 64
  gen    : BitVec 4
  hall   : Nat
  ports  : List Nat
  pads   : List Nat
  deriving DecidableEq, Repr

/-- A service request as the service agent is asked to send it (R347). -/
structure SvcReq where
  nbr    : Bool
  dest   : Nat
  offset : Nat
  write  : Bool
  len    : BitVec 2
  data   : List Byte
  deriving DecidableEq, Repr

/-- A decoder of the CXL region as firmware programs it (R272, R286). -/
structure HdmDecoder where
  base    : Nat
  size    : Nat
  ways    : BitVec 2
  gran    : BitVec 3
  targets : BitVec 8
  deriving DecidableEq, Repr

/-- Ways in which an external CXL access fails (R282, KIND of CXL_STG_LOG). -/
inductive CxlErr where
  | poison | completion | linkDown | unmapped
  deriving DecidableEq, Repr

/-- FEC modes of the management Ethernet lane (R62). -/
inductive FecMode where
  | none | clause74 | clause108
  deriving DecidableEq, Repr

/-- What the transmit descriptor of a management frame asks for (R63). -/
inductive OneStep where
  | none | sync (at_ : Nat) | pdelayResp (at_ : Nat) (rx : Nat)
  deriving DecidableEq, Repr

/-- What the MAC found wrong with a frame (R64, ERR_KIND). -/
inductive EthErr where
  | none | fcs | length | fec | underrun
  deriving DecidableEq, Repr

/-- The sensor values one policy evaluation reads (R482), each in the unit of its register field (R483): every compute-die, tollhouse and
regulator sensor, and what else is measured. MSQ_TEMP holds what the HBM stacks report. -/
structure Sensors where
  die     : List Nat
  toll    : List Nat
  reg     : List Nat
  inlet   : Nat
  outlet  : Nat
  voltsA  : Nat
  ampsA   : Nat
  voltsB  : Nat
  ampsB   : Nat
  coreMv  : Nat
  coreAmps : Nat
  deriving DecidableEq, Repr

/-- Input feeds (R469). -/
inductive Feed where
  | a | b
  deriving DecidableEq, Repr

/-- Rails, in the order of the table of R472, whose last three lines name two, one and three. -/
inductive Rail where
  | core | fixed | serdesAnalog | serdesHigh | hbmVpp | hbmVdd | hbmVddq | tollCore | tollIo | tollMem | tollFlash
  deriving DecidableEq, Repr

/-- What an access through the debug port does (R493). -/
inductive DbgAccess where
  | scanRead | scanWrite | coreHalt | coreStep | coreRun
  deriving DecidableEq, Repr

/-- The commands: one constructor for each row of spec/opcode_table.json, in the table's order. -/
inductive Instr where
  -- matrix engine (07)
  | meWin (cl : Nat) (w : Wd) (b : Bool) (wcode : BitVec 6) (ta tw : Int)
  | meClear (cl : Nat) (w : Wd) (b : Bool)
  | meLoadw (cl : Nat) (w : Wd) (t : Bool) (wfmt : Fmt) (tline : Nat)
  | meMac (cl : Nat) (w : Wd) (b t : Bool) (afmt wfmt : Fmt) (aline m row : Nat)
  | meMacs (cl : Nat) (w : Wd) (b t : Bool) (afmt wfmt : Fmt) (aline m row : Nat)
  | meMacv (cl : Nat) (w : Wd) (b : Bool) (fmt : Fmt) (wgrp agrp ic g row : Nat)
  | meAddx (cl : Nat) (w : Wd) (b : Bool) (wcode : BitVec 6) (sline r row : Nat)
  | meRound (cl : Nat) (w : Wd) (b : Bool) (ofmt : Fmt) (tOut : Int) (dline r row : Nat)
  | meDrain (cl : Nat) (w : Wd) (b : Bool) (dline r row : Nat)
  -- data mover (07)
  | mvCopy (cl : Nat) (w : Wd) (sline dline dpos n : Nat)
  | mvSend (cl : Nat) (w : Wd) (sline dspan q entry n : Nat)
  | mvRecv (cl : Nat) (w : Wd) (q entry : Nat) (dst : RecvDst) (n : Nat)
  | mvHbm (cl : Nat) (w : Wd) (sline stack q entry n tagb : Nat)
  | mvStage (cl : Nat) (w : Wd) (sline q entry n desc : Nat)
  | mvFill (cl : Nat) (w : Wd) (dline n : Nat) (pat : BitVec 16)
  -- cluster sequencer (07): PRED is 0 in every word (R208)
  | sqWait (cl delta q : Nat)
  | sqBr (cl delta sel n : Nat) (l0 l1 : ArmLens)
  | sqFlag (cl delta : Nat) (act : FlagAct)
  | sqAgree (cl delta port q entry bp : Nat) (vs : Bool) (val : BitVec 2) (p1 p0 : Nat)
  | sqDigest (cl delta line n : Nat)
  | sqEnd (cl delta : Nat)
  -- port streams (07), by logical port
  | ptPage (lport delta page : Nat)
  | ptPad (lport pad : Nat)
  -- words of every stream (06)
  | phaseMark (st : StreamId) (advance bp : Nat)
  | idleWord (st : StreamId) (delta : Nat)
  -- vector unit (08)
  | vuLd (cl : Nat) (w : Wd) (vd : Nat) (src : LdSrc) (nl : Nat) (tag : Option (BitVec 6))
  | vuSt (cl : Nat) (w : Wd) (va line nl : Nat)
  | vuAdd (cl : Nat) (w : Wd) (ty : FTy) (vd va vb : Nat)
  | vuSub (cl : Nat) (w : Wd) (ty : FTy) (vd va vb : Nat)
  | vuMul (cl : Nat) (w : Wd) (ty : FTy) (vd va vb : Nat)
  | vuFma (cl : Nat) (w : Wd) (ty : FTy) (vd va vb vc : Nat)
  | vuMin (cl : Nat) (w : Wd) (ty : VTy) (vd va vb : Nat)
  | vuMax (cl : Nat) (w : Wd) (ty : VTy) (vd va vb : Nat)
  | vuCmp (cl : Nat) (w : Wd) (ty : VTy) (cond : Cond) (vd va vb : Nat)
  | vuSel (cl : Nat) (w : Wd) (vd va vb vc : Nat)
  | vuIadd (cl : Nat) (w : Wd) (vd va : Nat) (b : Opnd) (li neg : Bool)
  | vuAnd (cl : Nat) (w : Wd) (vd va : Nat) (b : Opnd)
  | vuOr (cl : Nat) (w : Wd) (vd va : Nat) (b : Opnd)
  | vuXor (cl : Nat) (w : Wd) (vd va : Nat) (b : Opnd)
  | vuShl (cl : Nat) (w : Wd) (vd va : Nat) (b : ShOp)
  | vuShr (cl : Nat) (w : Wd) (vd va : Nat) (b : ShOp) (arith : Bool)
  | vuCvt (cl : Nat) (w : Wd) (vd va vb mode : Nat) (h : Bool) (t : Int) (pos : Nat)
  | vuQmx (cl : Nat) (w : Wd) (vd va ve : Nat) (fmt : Fmt) (sb : Nat)
  | vuExp2 (cl : Nat) (w : Wd) (ty : FTy) (vd va : Nat)
  | vuLog2 (cl : Nat) (w : Wd) (ty : FTy) (vd va : Nat)
  | vuRcp (cl : Nat) (w : Wd) (ty : FTy) (vd va : Nat)
  | vuRsq (cl : Nat) (w : Wd) (ty : FTy) (vd va : Nat)
  | vuTanh (cl : Nat) (w : Wd) (ty : FTy) (vd va : Nat)
  | vuSin (cl : Nat) (w : Wd) (ty : FTy) (vd va : Nat)
  | vuCos (cl : Nat) (w : Wd) (ty : FTy) (vd va : Nat)
  | vuXsum (cl : Nat) (w : Wd) (ty : VTy) (vd va seg : Nat) (wcode : BitVec 6) (acc : Bool)
  | vuTopk (cl : Nat) (w : Wd) (s32 : Bool) (vd va vb : Nat) (two : Bool) (k : Nat)
  | vuRng (cl : Nat) (w : Wd) (vd va : Nat) (uni : Bool) (ofs : Nat)
  | vuPerm (cl : Nat) (w : Wd) (vd va vb vc : Nat)
  -- memory commands (09)
  | act (st delta pclo pcn bank row : Nat)
  | pre (st delta pclo pcn bank : Nat) (all : Bool)
  | rd (st delta pclo pcn bank col dspan q entry ph : Nat)
  | wr (st delta pclo pcn bank col q entry : Nat)
  | refa (st delta pclo pcn : Nat)
  | refb (st delta pclo pcn bank : Nat)
  -- ticks, spans and crossings (03)
  | phaseEdge (upsets : List Upset)
  | planEndReached (span leftPs : Nat)
  | keystoneTick
  | droopTrip (span : Nat) (level2 : Bool) (cyc : Nat)
  | droopClear (span cyc : Nat)
  | stretchHoldEnd (span cyc : Nat)
  | crossingWriteLand (i : Nat)
  -- machine time (02); times are in units of 2^-16 ns
  | beaconSend (tx : List (Nat × Nat))
  | beaconReceive (port : Nat) (bytes : List Byte) (rx : Nat)
  | timeWindowEnd
  | announceIncrement
  | rootLoss
  | parentLoss
  | holdoverExpiry
  | followerSteer (err : Int)
  | ppsOutEdge
  | ppsInEdge (quarterNs : Nat)
  | ppsInTimeout
  | ethFrameTransmit (frame : List Byte) (tag : BitVec 16) (one : OneStep) (err : EthErr)
  | ethFrameReceive (frame : List Byte) (tag : BitVec 16) (err : EthErr) (ptpOffset : Option Int)
  | mgmtLaneTrain (fec : FecMode)
  -- host writes of machine time, ticks and units
  | timStep (v : Reg)
  | timCtlWrite (v : Reg)
  | timEthLatWrite (v : Reg)
  | timClear (v : Reg)
  | tikKeyArm
  | tikKeyDisarm
  | tikStepSetWrite (fw : Bool) (v : Reg)
  | tikClear (v : Reg)
  | spnClear (span : Nat) (v : Reg)
  | cluClear (cl : Nat) (v : Reg)
  | msqClear (st : Nat) (v : Reg)
  | msqScrub (st : Nat) (v : Reg)
  | msqScrubDone (st : Nat)
  | cxlClear (v : Reg)
  | olfRetrainCmd (p : Nat)
  | olfDownCmd (p : Nat)
  | olfCtlWrite (p : Nat) (v : Reg)
  | olfClear (p : Nat) (v : Reg)
  | cwyClear (p : Nat) (v : Reg)
  | svcCtlWrite (v : Reg)
  | svcClear (v : Reg)
  | plcClear (v : Reg)
  | hstCtlWrite (v : Reg)
  | hstClear (v : Reg)
  | fltClear (v : Reg)
  | cfgPersist
  | cfgForget
  | cfgCompact
  | cfgClear (v : Reg)
  | cfgGrpRefWrite (fw : Bool) (g : Nat) (v : Reg)
  | cfgAszTRefWrite (v : Reg)
  | shadowWrite (fw : Bool) (r : Nat) (v : Reg)
  | pwrClear (v : Reg)
  | secDbgChallenge
  | secDbgUnlock
  | secClear (v : Reg)
  | registerWrite (r : Nat) (v : Reg)
  -- host interface (14)
  | diagWindowAccess (write : Bool) (ofs size : Nat) (v : Reg)
  | transferAreaAccess (write : Bool) (ofs len : Nat) (data : List Byte)
  | controlRequestTimeout (i : Nat)
  | identify (h : Hdr)
  | bufReg (h : Hdr) (hbuf : Nat) (mask : BitVec 2) (addr len : Nat)
  | bufFree (h : Hdr) (hbuf : Nat)
  | load (h : Hdr) (hbuf ofs len : Nat) (res : HostRes)
  | unload (h : Hdr)
  | place (h : Hdr)
  | switchGet (h : Hdr) (req page : Nat)
  | switchDone (h : Hdr) (req : Nat)
  | arm (h : Hdr)
  | start (h : Hdr) (first : Reg)
  | stop (h : Hdr) (last : Reg)
  | abort (h : Hdr)
  | release (h : Hdr)
  | dma (h : Hdr) (hbuf : Nat) (toHost : Bool) (bufOfs loc len : Nat)
  | regRead (h : Hdr) (r count : Nat)
  | regWrite (h : Hdr) (r count : Nat) (vals : List Reg)
  | dump (h : Hdr) (hbuf : Nat) (force : Bool) (ofs space : Nat)
  | reset (h : Hdr)
  | attest (h : Hdr) (hbuf ofs : Nat) (nonce : List Byte)
  | fwUpdate (h : Hdr) (hbuf ofs len : Nat)
  | hostDmaComplete (ref : DmaRef) (res : HostRes)
  | commandRingDoorbell (ring1 : Bool) (v : Reg)
  | completionDoorbell (v : Reg)
  | eventDoorbell (v : Reg)
  | completionWrite
  | eventsLost
  | mailboxDoorbell (v : Reg)
  | interruptCoalesceEnd (vector : Nat)
  | pcieReset (kind : PcieResetKind)
  -- links (11), by physical port
  | frameSend (p : Nat)
  | linkWordReceive (p : Nat) (bytes : List Byte)
  | cellReceive (p slot : Nat) (bytes : List Byte) (fec : FecObs)
  | routerSlot
  | detectRetest (p : Nat) (peer : Bool) (lanes : List (BitVec 3))
  | equaliseDone (p : Nat)
  | alignDone (p : Nat) (lanes : List LaneObs) (skewPs : Nat)
  | identReceive (p : Nat) (bytes : List Byte)
  | measureDone (p : Nat)
  | trainingTimeout (p : Nat)
  | auditSend (p : Nat)
  | auditReceive (p : Nat) (bytes : List Byte)
  | runchkSend
  | runchkReceive (p : Nat) (bytes : List Byte)
  | runchkMissing (p : Nat)
  | lockLoss (p : Nat)
  | lockLossTimeout (p : Nat)
  | lockRegain (p : Nat)
  | laneLockLoss (p lane : Nat)
  | retrainReceive (p : Nat) (width : BitVec 2)
  | widthReceive (p : Nat) (width : BitVec 2)
  | downHoldExpiry (p : Nat)
  -- service class (12)
  | serviceRequestSend (r : SvcReq)
  | serviceRequestReceive (p : Nat) (c : Cell)
  | serviceResponseReceive (p : Nat) (c : Cell)
  | serviceCellForward (p : Nat) (c : Cell)
  | serviceMessageReceive (p : Nat) (c : Cell)
  | serviceRequestTimeout (slot : Nat)
  -- faults, aborts and the end of a job (15)
  | faultRecord
  | foldMillisecondEnd
  | stepAbort
  | abortCellReceive (p : Nat) (c : Cell)
  | abortStop
  | jobStop
  | stopRequestReceive (last cause : Nat)
  | stopStepReceive (s : Nat)
  | stepDigestHandover
  | stepDonePost
  -- placement and start (13); `p` is the physical port of arrival
  | claimSend
  | claimReceive (p hall depth : Nat) (digest8 : List Byte)
  | electionClose
  | healthReceive (p : Nat) (r : Health) (digest8 : List Byte)
  | mapCompute
  | switchRegather
  | mapReceive (p : Nat) (m : List MapEntry) (digest : List Byte)
  | releaseReceive
  | excludeReceive (x : Exclusion)
  | proposeReceive (x : Proposer) (epoch : Nat)
  | readyReceive (p count : Nat)
  | refuseReceive (p hall : Nat) (code : BitVec 16)
  | goReceive (digest8 : List Byte) (epoch : Nat)
  | cancelReceive (digest8 : List Byte) (epoch : Nat)
  | readyDeadline
  | goDeadline
  | stepdigReceive (p step : Nat) (digest : BitVec 64)
  | confirmReceive (step : Nat) (agree : Bool)
  | pairTimeout (step : Nat)
  | placeTimeout
  -- staging engine and CXL (10)
  | stagingIssue (desc : Nat)
  | stagingLineArrive (desc step line : Nat) (data : List Byte)
  | stagingDeadline (desc : Nat)
  | stagingDelivery (desc : Nat)
  | stagingCapture (desc : Nat)
  | stagingExternalWrite (desc step : Nat)
  | stagingWriteAck (desc step line : Nat)
  | cxlAccessError (desc step line : Nat) (kind : CxlErr)
  | cxlLinkTrain (width speed devices : Nat) (hdm : List HdmDecoder)
  | cxlHotAdd (devices : Nat) (hdm : List HdmDecoder)
  -- HBM upkeep (09)
  | refreshDebtIncrease (st : Nat)
  | forcedRefresh (st pc bank : Nat)
  | msqAutoRefresh (st : Nat)
  | msqRecoveryPrecharge (st : Nat)
  | hbmTempRead (st temp die : Nat)
  -- upkeep, journal and watchdogs (04, 15, 16)
  | storeScrubPass
  | assizePass
  | journalAppend (ty : BitVec 16) (payload : List Byte)
  | compactionComplete
  | oldBankErased
  | tollhousePoll
  | tollhousePollTimeout
  | spanPoll
  | stopCheck
  | ucieTrainFail (m : Bool)
  | ucieDownTimeout
  | watchdogFeed
  | watchdogExpiry
  | autoResetTimer
  -- the reset sequence (15, 18)
  | drainEnd
  | resetHoldExpiry
  | resetBegin
  | selfRefreshTimeout (st : Nat)
  | tollhouseRelease
  | firmwareStart (straps opens : BitVec 16)
  | computeDieRelease (tact : List (List Reg))
  | selfTestDone (failed : List (Nat × Nat))
  -- power (17)
  | inputGood (feedA feedB : Bool)
  | railGood (r : Rail)
  | railStartTimeout (r : Rail)
  | undervoltage
  | powerDown
  | overvoltage
  | overvoltageClear
  | overcurrent
  | railWindowFault (r : Rail)
  | feedReversed (f : Feed) (otherGood : Bool)
  | railSettled
  | powerPolicyEval (x : Sensors)
  | thermalTrip (hbm : Bool)
  | coolantFault
  -- pins (19)
  | resetNAssert
  | resetNRelease
  | pwrEnNAssert
  | pwrEnNRelease
  | flashOwnRise
  | flashOwnFall
  | i3cStatus
  | i3cSensors
  | i3cIdent
  | i3cReset (second : Byte)
  | i3cAddressAssign (addr : BitVec 7)
  | debugPortAccess (a : DbgAccess)
  -- rows the table lists last
  | ucieModuleDown (m : Bool)
  | ucieModuleReturn (m : Bool)
  | feedLoss (f : Feed)
  | feedReturn (f : Feed)
  | cxlLinkDown
  | controlAcknowledgement (i : Nat)
  | droopLevel2Clear (span cyc : Nat)
  | coresHeldInReset
  deriving DecidableEq, Repr

end Sys2Proof
end

