-- ==== Sys2Proof/Machine/Bits.lean ====
section
/-! DEFINITION. Bit fields, byte order, sparse tables, checksums: the helpers every other file of the machine uses. Bit ranges
are written [high:low] with bit 0 least significant, and multi-byte fields are little-endian (00_scope, Conventions). -/

namespace Sys2Proof.Machine

/-- The mask of `len` bits from bit `lo` of a register. -/
def fmask (lo len : Nat) : Reg := BitVec.ofNat 64 (2 ^ len - 1) <<< lo

/-- The value of the `len` bits of `w` from bit `lo`. -/
def field (w : Reg) (lo len : Nat) : Nat := (w.toNat / 2 ^ lo) % 2 ^ len

/-- `w` with the `len` bits from bit `lo` set to `v`. -/
def setField (w : Reg) (lo len v : Nat) : Reg :=
  (w &&& ~~~ fmask lo len) ||| ((BitVec.ofNat 64 v <<< lo) &&& fmask lo len)

/-- A saturating counter field raised by `k` (access code CN, R17). -/
def satInc (w : Reg) (lo len k : Nat) : Reg :=
  setField w lo len (min (field w lo len + k) (2 ^ len - 1))

/-- Bit `i` of a register. -/
def bit (w : Reg) (i : Nat) : Bool := w.getLsbD i

/-- A truth value as a bit at position `i`. -/
def flag (b : Bool) (i : Nat) : Reg := if b then BitVec.ofNat 64 (2 ^ i) else 0

/-- A number placed at bit `lo`, cut to `len` bits. -/
def at_ (v lo len : Nat) : Reg := BitVec.ofNat 64 ((v % 2 ^ len) * 2 ^ lo)

/-- A two's complement number placed at bit `lo`, cut to `len` bits. -/
def atInt (v : Int) (lo len : Nat) : Reg := at_ (v % (2 ^ len : Int)).toNat lo len

/-- The signed value of the `len` bits `n`. -/
def signed (n len : Nat) : Int := if n < 2 ^ (len - 1) then (n : Int) else (n : Int) - 2 ^ len

/-- The `or` of a list of register parts. -/
def orAll (l : List Reg) : Reg := l.foldl (· ||| ·) 0

/-! ### Bytes -/

/-- The number a little-endian byte string holds. -/
def leNat : List Byte → Nat
  | [] => 0
  | b :: r => b.toNat + 256 * leNat r

/-- `n` as `k` little-endian bytes. -/
def leBytes (n : Nat) : Nat → List Byte
  | 0 => []
  | k + 1 => BitVec.ofNat 8 n :: leBytes (n / 256) k

/-- `n` as `k` big-endian bytes. -/
def beBytes (n k : Nat) : List Byte := (leBytes n k).reverse

/-- The number a big-endian byte string holds. -/
def beNat (l : List Byte) : Nat := leNat l.reverse

/-- `n` bytes of `l` from offset `ofs`. -/
def slice (l : List Byte) (ofs n : Nat) : List Byte := (l.drop ofs).take n

/-- The little-endian number in bytes `ofs` to `ofs + n - 1`. -/
def leAt (l : List Byte) (ofs n : Nat) : Nat := leNat (slice l ofs n)

/-- `n` zero bytes. -/
def zeros (n : Nat) : List Byte := List.replicate n 0

/-- `l` cut or padded with zeros to `n` bytes. -/
def padTo (l : List Byte) (n : Nat) : List Byte := l.take n ++ zeros (n - l.length)

/-- Element `i` of a list, `d` beyond its end. -/
def nth {α : Type} (d : α) (l : List α) (i : Nat) : α := l.getD i d

/-- The numbers `lo`, `lo + 1`, … (`n` of them). -/
def range' (lo n : Nat) : List Nat := (List.range n).map (lo + ·)

/-- Rounding up to a multiple of `k`. -/
def roundUp (n k : Nat) : Nat := (n + k - 1) / k * k

/-! ### Sparse tables -/

/-- A table from numbers to values; a key that is not listed holds the default its reader names. Keys rise. -/
abbrev Tbl (α : Type) := List (Nat × α)

/-- The value at key `k`. -/
def Tbl.get {α : Type} (d : α) : Tbl α → Nat → α
  | [], _ => d
  | (k', v) :: r, k => if k = k' then v else Tbl.get d r k

/-- The table with `v` at key `k`. -/
def Tbl.set {α : Type} : Tbl α → Nat → α → Tbl α
  | [], k, v => [(k, v)]
  | (k', v') :: r, k, v =>
    if k < k' then (k, v) :: (k', v') :: r
    else if k = k' then (k, v) :: r
    else (k', v') :: Tbl.set r k v

/-- The table without key `k`. -/
def Tbl.del {α : Type} (t : Tbl α) (k : Nat) : Tbl α := t.filter (fun p => p.1 ≠ k)

/-- The table with the values of consecutive keys from `k` replaced. -/
def Tbl.setMany {α : Type} (t : Tbl α) (k : Nat) : List α → Tbl α
  | [] => t
  | v :: r => Tbl.setMany (Tbl.set t k v) (k + 1) r

/-- The table with the value at `k` changed by `f`. -/
def Tbl.upd {α : Type} (d : α) (t : Tbl α) (k : Nat) (f : α → α) : Tbl α := Tbl.set t k (f (Tbl.get d t k))

/-! ### Checksums -/

/-- One byte of the reflected CRC-32 of IEEE 802.3. -/
def crc32Bits (c : BitVec 32) : Nat → BitVec 32
  | 0 => c
  | k + 1 => crc32Bits (if c.getLsbD 0 then (c >>> 1) ^^^ 0xEDB88320#32 else c >>> 1) k

/-- CRC-32 of IEEE 802.3 (R40, R414, R462); the polynomial, reflection and final inversion are the standard's (log 9). -/
def crc32 (l : List Byte) : BitVec 32 :=
  ~~~ (l.foldl (fun c b => crc32Bits (c ^^^ b.setWidth 32) 8) 0xFFFFFFFF#32)

/-- One byte of CRC-64 (R213). -/
def crc64Bits (d : BitVec 64) : Nat → BitVec 64
  | 0 => d
  | k + 1 => crc64Bits (if d.getLsbD 63 then (d <<< 1) ^^^ 0x42F0E1EBA9EA3693#64 else d <<< 1) k

/-- CRC-64 of ECMA-182, not reflected, no final XOR (R213). -/
def crc64 (d : BitVec 64) (l : List Byte) : BitVec 64 :=
  l.foldl (fun d b => crc64Bits (d ^^^ ((b.setWidth 64 : BitVec 64) <<< (56 : Nat))) 8) d

/-- One byte of the CRC-16 of cells and control blocks (R304). -/
def crc16Bits (d : BitVec 16) : Nat → BitVec 16
  | 0 => d
  | k + 1 => crc16Bits (if d.getLsbD 15 then (d <<< 1) ^^^ 0x8BB7#16 else d <<< 1) k

/-- The CRC-16 of cells and control blocks: polynomial 0x8BB7, initial value 0, most significant bit first (R304). -/
def crc16 (l : List Byte) : BitVec 16 :=
  l.foldl (fun d b => crc16Bits (d ^^^ ((b.setWidth 16 : BitVec 16) <<< (8 : Nat))) 8) 0

/-! ### SHA-256 (FIPS 180-4, named by chapter 18; log 9)

The constants are computed from their definition, and the eight working variables are held as what they are: the last four
values of two sequences, one from which Maj is formed and one from which Ch is formed. -/

/-- The largest `r` of at most `b` further bits with `r ^ k ≤ n`, from `r` on. -/
def rootBits (k n : Nat) : Nat → Nat → Nat
  | 0, r => r
  | b + 1, r => rootBits k n b (if (r + 2 ^ b) ^ k ≤ n then r + 2 ^ b else r)

/-- The first 32 bits of the fraction of the `k`-th root of `p`. -/
def rootFrac (k p : Nat) : BitVec 32 := BitVec.ofNat 32 (rootBits k (p * 2 ^ (32 * k)) 40 0)

/-- The primes up to 311: there are 64. -/
def smallPrimes : List Nat := (List.range 312).filter (fun p => 2 ≤ p && (range' 2 16).all (fun d => p ≤ d || p % d ≠ 0))

/-- A word XORed with itself turned right by each of the counts; the last count shifts where `cut` is set. -/
def turned (cut : Bool) (r1 r2 r3 : Nat) (x : BitVec 32) : BitVec 32 :=
  (if cut then x >>> r3 else x.rotateRight r3) ^^^ x.rotateRight r1 ^^^ x.rotateRight r2

/-- The sixteen words of a block moved on by one: the oldest leaves, the word sixteen places after it comes in. -/
def shaSlide (win : List (BitVec 32)) : List (BitVec 32) :=
  win.drop 1 ++ [turned true 17 19 10 (nth 0 win 14) + nth 0 win 9 + turned true 7 18 3 (nth 0 win 1) + nth 0 win 0]

/-- The rounds: the round constants still to come, the sliding words of the block, and the two sequences, newest first. -/
def shaWalk : List (BitVec 32) → List (BitVec 32) → List (BitVec 32) → List (BitVec 32) → List (BitVec 32)
  | [], _, maj, ch => maj.take 4 ++ ch.take 4
  | k :: ks, win, maj, ch =>
    let pick := nth 0 ch 2 ^^^ (nth 0 ch 0 &&& (nth 0 ch 1 ^^^ nth 0 ch 2))
    let most := (nth 0 maj 0 &&& (nth 0 maj 1 ||| nth 0 maj 2)) ||| (nth 0 maj 1 &&& nth 0 maj 2)
    let grow := k + nth 0 win 0 + nth 0 ch 3 + turned false 6 11 25 (nth 0 ch 0) + pick
    shaWalk ks (shaSlide win) ((grow + turned false 2 13 22 (nth 0 maj 0) + most) :: maj) ((nth 0 maj 3 + grow) :: ch)

/-- The chaining value after one 64-byte block. -/
def shaBlock (h : List (BitVec 32)) (blk : List Byte) : List (BitVec 32) :=
  let words := (range' 0 16).map (fun i => BitVec.ofNat 32 (beNat (slice blk (4 * i) 4)))
  (shaWalk (smallPrimes.map (rootFrac 3)) words (h.take 4) (h.drop 4)).zipWith (· + ·) h

/-- A message with its closing bit and its length, to whole blocks. -/
def shaPadded (msg : List Byte) : List Byte :=
  padTo (msg ++ [0x80]) (roundUp (msg.length + 9) 64 - 8) ++ beBytes (msg.length * 8) 8

/-- SHA-256 of a byte string. -/
def sha256 (msg : List Byte) : List Byte :=
  let p := shaPadded msg
  let start := (smallPrimes.take 8).map (rootFrac 2)
  ((List.range (p.length / 64)).foldl (fun h b => shaBlock h (slice p (64 * b) 64)) start).flatMap (fun w => beBytes w.toNat 4)

/-- HMAC-SHA-256 (R491), for keys of at most 64 bytes. -/
def hmac256 (key msg : List Byte) : List Byte :=
  let k := padTo key 64
  sha256 (k.map (· ^^^ 0x5c) ++ sha256 (k.map (· ^^^ 0x36) ++ msg))

end Sys2Proof.Machine
end

