-- ==== Sys2Proof/Machine/Fp.lean ====
section
/-! DEFINITION. Element formats, decoding, rounding and the lane-wise floating-point operations (05: R124 to R128, R136 to R143). -/

namespace Sys2Proof.Machine

/-- What a decoded operand is (R130). -/
inductive Kind where
  | fin | inf | nan
  deriving DecidableEq, Repr

/-- A decoded operand: a finite one is (−1)^s × m × 2^e (R130). -/
structure Dec where
  kind : Kind
  s    : Bool
  m    : Nat
  e    : Int
  deriving DecidableEq, Repr

/-- The value 1 in the form product_floor takes (R240). -/
def Dec.one : Dec := ⟨.fin, false, 1, 0⟩

/-- A NaN operand. -/
def Dec.qnan : Dec := ⟨.nan, false, 0, 0⟩

/-- The operand times 2^t (R127, R128). -/
def Dec.scale (d : Dec) (t : Int) : Dec := { d with e := d.e + t }

/-- How a format spends its highest exponent (R124). -/
inductive Top where
  | ieee | e4m3 | none
  deriving DecidableEq, Repr

/-- A floating-point format: its field widths and bias, its use of the top exponent, and the row of the rounding table of R136
(`emin` the exponent of the smallest normal, MAXV = maxM × 2^maxE, overflow to infinity or saturation). -/
structure FF where
  eb   : Nat
  mb   : Nat
  bias : Int
  top  : Top
  emin : Int
  maxM : Nat
  maxE : Int
  inf  : Bool
  deriving DecidableEq, Repr

/-- FP32 (R124, R136). -/
def FF.fp32 : FF := ⟨8, 23, 127, .ieee, -126, 2 ^ 24 - 1, 104, true⟩
/-- BF16 (R124, R136). -/
def FF.bf16 : FF := ⟨8, 7, 127, .ieee, -126, 255, 120, true⟩
/-- FP8 E4M3: 448 = 14 × 2^5 (R124, R136). -/
def FF.e4m3 : FF := ⟨4, 3, 7, .e4m3, -6, 14, 5, false⟩
/-- FP8 E5M2: 57,344 = 7 × 2^13 (R124, R136). -/
def FF.e5m2 : FF := ⟨5, 2, 15, .ieee, -14, 7, 13, false⟩
/-- FP6 E3M2: 28 = 7 × 2^2 (R124, R136). -/
def FF.e3m2 : FF := ⟨3, 2, 3, .none, -2, 7, 2, false⟩
/-- FP6 E2M3: 7.5 = 15 × 2^-1 (R124, R136). -/
def FF.e2m3 : FF := ⟨2, 3, 1, .none, 0, 15, -1, false⟩
/-- FP4 E2M1: 6 = 3 × 2^1 (R124, R136). -/
def FF.e2m1 : FF := ⟨2, 1, 1, .none, 0, 3, 1, false⟩

/-- Width of a code in bits. -/
def FF.width (f : FF) : Nat := 1 + f.eb + f.mb

/-- The sign bit of a code. -/
def FF.sign (f : FF) (c : Nat) : Bool := c / 2 ^ (f.eb + f.mb) % 2 = 1

/-- Decoding of a code (R124, R125). -/
def FF.decode (f : FF) (c : Nat) : Dec :=
  let s := f.sign c
  let E := c / 2 ^ f.mb % 2 ^ f.eb
  let M := c % 2 ^ f.mb
  let emax := 2 ^ f.eb - 1
  let fin : Dec :=
    if E = 0 then ⟨.fin, s, M, 1 - f.bias - f.mb⟩
    else ⟨.fin, s, M + 2 ^ f.mb, (E : Int) - f.bias - f.mb⟩
  match f.top with
  | .none => fin
  | .e4m3 => if E = 15 ∧ M = 7 then ⟨.nan, s, 0, 0⟩ else fin
  | .ieee => if E = emax then (if M = 0 then ⟨.inf, s, 0, 0⟩ else ⟨.nan, s, 0, 0⟩) else fin

/-- The zero of sign `s`. -/
def FF.zero (f : FF) (s : Bool) : Nat := if s then 2 ^ (f.eb + f.mb) else 0

/-- The infinity of sign `s`; for E4M3, which has none, ±448 (R138). -/
def FF.infinity (f : FF) (s : Bool) : Nat :=
  f.zero s + (if f.top = .ieee then (2 ^ f.eb - 1) * 2 ^ f.mb else 0x7E)

/-- The canonical NaN (R138): 0x7F for both FP8 formats. -/
def FF.nan (f : FF) : Nat :=
  if f.width = 8 then 0x7F else (2 ^ f.eb - 1) * 2 ^ f.mb + 2 ^ (f.mb - 1)

/-- Number of bits of `n` (bitlen of the pseudocode). -/
def bitlen (n : Nat) : Nat := if n = 0 then 0 else Nat.log2 n + 1

/-- Is n × 2^q greater than m × 2^e? -/
def gtScaled (n : Nat) (q : Int) (m : Nat) (e : Int) : Bool :=
  if q ≥ e then n * 2 ^ (q - e).toNat > m else n > m * 2 ^ (e - q).toNat

/-- floor(n × 2^k). -/
def shiftNat (n : Nat) (k : Int) : Nat := if k ≥ 0 then n * 2 ^ k.toNat else n / 2 ^ (-k).toNat

/-- The code of (−1)^s × M × 2^q, for a significand M of at most P + 1 bits whose last place is q. -/
def FF.encode (f : FF) (s : Bool) (M : Nat) (q : Int) : Nat :=
  let P := f.mb + 1
  let (M, q) := if M ≥ 2 ^ P then (M / 2, q + 1) else (M, q)
  if M < 2 ^ f.mb then f.zero s + M
  else f.zero s + (q + f.mb + f.bias).toNat * 2 ^ f.mb + (M - 2 ^ f.mb)

/-- fmt_round (R136): to nearest, ties to even, of (−1)^s × (N + d) × 2^e with `sticky` true exactly when d > 0. -/
def fmtRound (f : FF) (s : Bool) (N : Nat) (e : Int) (sticky : Bool) : Nat :=
  if N = 0 then f.zero s
  else
    let q := max ((bitlen N : Int) - 1 + e) f.emin - f.mb
    let k := q - e
    let M :=
      if k ≤ 0 then N * 2 ^ (-k).toNat
      else
        let d := 2 ^ k.toNat
        let M := N / d
        let rem := N - M * d
        let half := 2 ^ (k.toNat - 1)
        if rem > half ∨ (rem = half ∧ (sticky ∨ M % 2 = 1)) then M + 1 else M
    if gtScaled M q f.maxM f.maxE then
      (if f.inf then f.infinity s else f.encode s f.maxM f.maxE)
    else f.encode s M q

/-- fp_ratio (R136): (−1)^s × (num ÷ den) × 2^e. -/
def fpRatio (f : FF) (s : Bool) (num den : Nat) (e : Int) : Nat :=
  let k := 26 + bitlen den - bitlen num
  let Q := num * 2 ^ k / den
  fmtRound f s Q (e - k) ((num * 2 ^ k) % den ≠ 0)

/-- Rounding of a decoded value into a format (R138 to R140): canonical NaN, infinity under R138, else fmt_round. -/
def FF.ofDec (f : FF) (d : Dec) : Nat :=
  match d.kind with
  | .nan => f.nan
  | .inf => f.infinity d.s
  | .fin => fmtRound f d.s d.m d.e false

/-- The nearest integer to n × 2^e, ties to even (R139). -/
def nearestNat (n : Nat) (e : Int) : Nat :=
  if e ≥ 0 then n * 2 ^ e.toNat
  else
    let d := 2 ^ (-e).toNat
    let M := n / d
    let rem := n - M * d
    if 2 * rem > d ∨ (2 * rem = d ∧ M % 2 = 1) then M + 1 else M

/-- Saturation of an integer to `len` two's complement bits. -/
def satInt (len : Nat) (v : Int) : Int := max (-(2 ^ (len - 1))) (min v (2 ^ (len - 1) - 1))

/-- Conversion into a `len`-bit integer format (R138, R139): ties to even, saturating; NaN gives 0. -/
def intOfDec (len : Nat) (d : Dec) : Int :=
  match d.kind with
  | .nan => 0
  | .inf => if d.s then -(2 ^ (len - 1)) else 2 ^ (len - 1) - 1
  | .fin =>
    let n := nearestNat d.m d.e
    satInt len (if d.s then -(n : Int) else n)

/-- An integer as a decoded operand with exponent 0 (R126, R240). -/
def decInt (v : Int) : Dec := ⟨.fin, v < 0, v.natAbs, 0⟩

/-! ### Lane-wise arithmetic (R140 to R142) -/

/-- The integer significand of a finite value at exponent `e`, which is at most its own. -/
def Dec.sig (d : Dec) (e : Int) : Int :=
  let n : Int := d.m * 2 ^ (d.e - e).toNat
  if d.s then -n else n

/-- The exact sum of two decoded values, as IEEE 754 gives its special cases and zero signs under round to nearest (R140). -/
def Dec.add (a b : Dec) : Dec :=
  match a.kind, b.kind with
  | .nan, _ => Dec.qnan
  | _, .nan => Dec.qnan
  | .inf, .inf => if a.s = b.s then a else Dec.qnan
  | .inf, .fin => a
  | .fin, .inf => b
  | .fin, .fin =>
    let e := min a.e b.e
    let v := a.sig e + b.sig e
    if v = 0 then ⟨.fin, a.s && b.s, 0, e⟩ else ⟨.fin, v < 0, v.natAbs, e⟩

/-- The negation of a decoded value. -/
def Dec.neg (a : Dec) : Dec := { a with s := !a.s }

/-- The exact product of two decoded values (R140). -/
def Dec.mul (a b : Dec) : Dec :=
  match a.kind, b.kind with
  | .nan, _ => Dec.qnan
  | _, .nan => Dec.qnan
  | .fin, .fin => ⟨.fin, a.s != b.s, a.m * b.m, a.e + b.e⟩
  | .inf, .inf => ⟨.inf, a.s != b.s, 0, 0⟩
  | .inf, .fin => if b.m = 0 then Dec.qnan else ⟨.inf, a.s != b.s, 0, 0⟩
  | .fin, .inf => if a.m = 0 then Dec.qnan else ⟨.inf, a.s != b.s, 0, 0⟩

/-- The order of two decoded values that are not NaN: −Infinity, finite values, +Infinity; −0 equals +0. -/
def Dec.lt (a b : Dec) : Bool :=
  match a.kind, b.kind with
  | .inf, .inf => a.s && !b.s
  | .inf, _ => a.s
  | _, .inf => !b.s
  | _, _ => let e := min a.e b.e; a.sig e < b.sig e

/-- Is a decoded value a NaN? -/
def Dec.isNan (a : Dec) : Bool := a.kind = .nan

/-- Element operation of two operands rounded once into the format of the operands (R140, R231). -/
def FF.op2 (f : FF) (g : Dec → Dec → Dec) (a b : Nat) : Nat := f.ofDec (g (f.decode a) (f.decode b))

/-- VU.FMA of one element: a × b + c with one rounding (R140, R231). -/
def FF.fma (f : FF) (a b c : Nat) : Nat :=
  f.ofDec (Dec.add (Dec.mul (f.decode a) (f.decode b)) (f.decode c))

/-- VU.MIN or VU.MAX of one element: IEEE 754-2019 minimum and maximum, −0 below +0, canonical NaN (R141). -/
def FF.minmax (f : FF) (isMax : Bool) (a b : Nat) : Nat :=
  let x := f.decode a
  let y := f.decode b
  if x.isNan || y.isNan then f.nan
  else
    let aBelow := if x.lt y then true else if y.lt x then false else x.s
    if aBelow != isMax then a else b

/-- VU.CMP of one floating-point element (R232). -/
def FF.cmp (f : FF) (c : Cond) (a b : Nat) : Bool :=
  let x := f.decode a
  let y := f.decode b
  let un := x.isNan || y.isNan
  match c with
  | .un => un
  | .ne => un || x.lt y || y.lt x
  | .eq => !un && !x.lt y && !y.lt x
  | .lt => !un && x.lt y
  | .le => !un && !y.lt x
  | .gt => !un && y.lt x
  | .ge => !un && !x.lt y

/-- VU.CMP of one signed lane; UN never holds (R232). -/
def cmpInt (c : Cond) (a b : Int) : Bool :=
  match c with
  | .eq => a = b
  | .ne => a ≠ b
  | .lt => a < b
  | .le => a ≤ b
  | .gt => a > b
  | .ge => a ≥ b
  | .un => false

/-! ### MX quantisation (R143) -/

/-- EMAXE: the exponent of the element format's largest normal (R143). -/
def mxEmax : Fmt → Int
  | .mxE4m3 => 8
  | .mxE5m2 => 15
  | .mxE3m2 => 4
  | .mxE2m3 => 2
  | .mxE2m1 => 2
  | _ => 0

/-- The floating-point format of a format's elements, where it has one. -/
def elemFF : Fmt → Option FF
  | .e4m3 | .mxE4m3 => some FF.e4m3
  | .e5m2 | .mxE5m2 => some FF.e5m2
  | .mxE3m2 => some FF.e3m2
  | .mxE2m3 => some FF.e2m3
  | .mxE2m1 => some FF.e2m1
  | .bf16 => some FF.bf16
  | .fp32 => some FF.fp32
  | .int8 | .int4 | .mxInt8 => none

/-- floor(log2) of a positive finite value. -/
def log2Dec (d : Dec) : Int := (bitlen d.m : Int) - 1 + d.e

/-- qmx_block (R143): the scale code and the element codes of a block of FP32 codes. -/
def qmxBlock (fmt : Fmt) (vs : List Nat) : Nat × List Nat :=
  let ds := vs.map FF.fp32.decode
  if ds.any (fun d => d.kind ≠ .fin) then (0xFF, vs.map (fun _ => 0))
  else
    let nz := ds.filter (fun d => d.m ≠ 0)
    match nz with
    | [] => (127, vs.map (fun _ => 0))
    | d0 :: r =>
      let lg := r.foldl (fun a d => max a (log2Dec d)) (log2Dec d0)
      let x := max (-127) (min (lg - mxEmax fmt) 127)
      let code := fun d : Dec =>
        match elemFF fmt with
        | some f => f.ofDec (d.scale (-x))
        | none => (intOfDec 8 (d.scale (6 - x)) % 256).toNat
      ((x + 127).toNat, ds.map code)

end Sys2Proof.Machine
end

