-- ==== Sys2Proof/Machine/Fw.lean ====
section
/-! DEFINITION. Products and the FW128 accumulator (05: R130 to R137), and the element formats' decoding into products (R126 to
R129, R187). -/

namespace Sys2Proof.Machine

/-- FW_NAN (R130, R131). -/
def fwNan : Fw := BitVec.ofNat 128 (2 ^ 127)

/-- LIM = 2^127 − 1 (R133). -/
def fwLim : Int := 2 ^ 127 - 1

/-- The window base of a window code (R132). -/
def winBase (wcode : BitVec 6) : Int := 8 * (wcode.toNat : Int) - 280

/-- product_floor (R130): `none` is FW_NAN. -/
def productFloor (a b : Dec) (W : Int) : Option Int :=
  match a.kind, b.kind with
  | .fin, .fin =>
    let v : Int := if a.s != b.s then -((a.m * b.m : Nat) : Int) else ((a.m * b.m : Nat) : Int)
    let sh := a.e + b.e - W
    if sh ≥ 0 then some (v * 2 ^ sh.toNat) else some (v / 2 ^ (-sh).toNat)
  | _, _ => none

/-- fw_add (R133): the sum, and whether 0x1005 is raised. The term is an unbounded integer or FW_NAN; a floored term equal to −2^127 is
FW_NAN's value (R130, R131), which the function tests first. -/
def fwAdd (acc : Fw) (t : Option Int) : Fw × Bool :=
  match t with
  | none => (fwNan, false)
  | some t =>
    if acc = fwNan ∨ t = -(2 ^ 127) then (fwNan, false)
    else if t < -fwLim ∨ t > fwLim then (fwNan, true)
    else
      let r := acc.toInt + t
      if r < -fwLim ∨ r > fwLim then (fwNan, true) else (BitVec.ofInt 128 r, false)

/-- An FW128 code as the term of an addition. -/
def fwTerm (x : Fw) : Option Int := if x = fwNan then none else some x.toInt

/-- fw_add of two FW128 codes. -/
def fwAdd2 (a b : Fw) : Fw × Bool := fwAdd a (fwTerm b)

/-- The sum of a list of terms from `acc`, and whether any addition raised 0x1005. -/
def fwSum (acc : Fw) (ts : List (Option Int)) : Fw × Bool :=
  ts.foldl (fun p t => let q := fwAdd p.1 t; (q.1, p.2 || q.2)) (acc, false)

/-- An FW128 value as a decoded operand at window base `W`, divided by 2^t (R137). -/
def fwDec (x : Fw) (W t : Int) : Dec :=
  if x = fwNan then Dec.qnan else ⟨.fin, x.toInt < 0, x.toInt.natAbs, W - t⟩

/-- Conversion of an FW128 value into a floating-point format (R137, R138): zero gives +0. -/
def fwToFF (f : FF) (x : Fw) (W t : Int) : Nat := f.ofDec (fwDec x W t)

end Sys2Proof.Machine

/-! ### Element formats (R187) -/

/-- Is it an MX format? -/
def Sys2Proof.Fmt.isMx : Fmt → Bool
  | .mxE4m3 | .mxE5m2 | .mxE3m2 | .mxE2m3 | .mxE2m1 | .mxInt8 => true
  | _ => false

/-- Bits of one element. -/
def Sys2Proof.Fmt.bits : Fmt → Nat
  | .mxE3m2 | .mxE2m3 => 6
  | .mxE2m1 | .int4 => 4
  | .bf16 => 16
  | .fp32 => 32
  | _ => 8

/-- KW: inputs in one tile row (R187); it is also the class. -/
def Sys2Proof.Fmt.kw : Fmt → Nat
  | .mxE2m1 | .int4 => 128
  | _ => 64

/-- RB: bytes in one tile row (R187). -/
def Sys2Proof.Fmt.rb (f : Fmt) : Nat := f.kw * f.bits / 8

/-- Chunk: inputs per weight row in one streaming fetch (R187). -/
def Sys2Proof.Fmt.chunk : Fmt → Nat
  | .mxE2m1 | .int4 => 64
  | .bf16 => 16
  | _ => 32

namespace Sys2Proof.Machine

/-- Element `j` of a packed array: its code (R129). -/
def elemCode (bits : Nat) (bs : List Byte) (j : Nat) : Nat :=
  let b := j * bits
  leAt bs (b / 8) 4 / 2 ^ (b % 8) % 2 ^ bits

/-- dec(fmt, code, x) of R187: `x` is the block's E8M0 code for an MX format, the per-tensor exponent for FP8, INT8 and
INT4, and ignored for BF16. -/
def decElem (f : Fmt) (code : Nat) (x : Int) : Dec :=
  if f.isMx then
    if x = 255 then Dec.qnan
    else
      match elemFF f with
      | some g => (g.decode code).scale (x - 127)
      | none => (decInt (signed code 8)).scale (x - 127 - 6)
  else
    match f with
    | .int8 => (decInt (signed code 8)).scale x
    | .int4 => (decInt (signed code 4)).scale x
    | .bf16 => FF.bf16.decode code
    | .fp32 => FF.fp32.decode code
    | .e5m2 => (FF.e5m2.decode code).scale x
    | _ => (FF.e4m3.decode code).scale x

/-- An accumulator entry as the code of an output format, with output scale exponent `t` (R199). -/
def roundOut (f : Fmt) (x : Fw) (W t : Int) : Nat :=
  match f with
  | .int8 => (intOfDec 8 (fwDec x W t) % 256).toNat
  | .int4 => (intOfDec 4 (fwDec x W t) % 16).toNat
  | .bf16 => fwToFF FF.bf16 x W 0
  | .fp32 => fwToFF FF.fp32 x W 0
  | .e5m2 => fwToFF FF.e5m2 x W t
  | _ => fwToFF FF.e4m3 x W t

/-- Packing of codes of `bits` bits into bytes, lowest element first (R129). -/
def packCodes (bits : Nat) (cs : List Nat) : List Byte :=
  leBytes (cs.foldr (fun c acc => c % 2 ^ bits + 2 ^ bits * acc) 0) (cs.length * bits / 8)

end Sys2Proof.Machine
end

