-- ==== Sys2Proof/Config.lean ====
section
/-! DEFINITION. The free values: what the spec leaves open and a command still needs. None has a body, so that nothing can be proved
about a value of theirs (log 8). -/

namespace Sys2Proof

/-- Byte number `i` of the module's random source: challenges (R493) and signature nonces (R491, R492). -/
opaque Config.freeByte (i : Nat) : Byte

/-- The scalar of the device identity key that the key engine derives from the device secret (R490); the spec gives no derivation. -/
opaque Config.idScalar (secret : List Byte) : Nat

/-- The DER certificate that the key engine issues for the attestation key `pub`, with the measurement in an extension and signed with the
identity key `scalar` (R491). -/
opaque Config.akCert (scalar : Nat) (pub measure : List Byte) : List Byte

/-- The DER certificate of the identity key `pub`, whose subject serialNumber is `serial` (R490), in the certificate area of the flash. -/
opaque Config.idCert (pub serial : List Byte) : List Byte

/-- The DER certificate of the manufacturing CA (R490), in the certificate area of the flash. -/
opaque Config.caCert : List Byte

/-- How many bytes of a record the flash has taken when power goes while it is written (R462, R489); `i` counts free values. -/
opaque Config.cutAt (i : Nat) : Nat

/-- What the board controller has written while it held the flash (R504), by flash offset, oldest first; an erased byte is written as 0xFF. -/
opaque Config.flashWrites (i : Nat) : List (Nat × List Byte)

/-- Parity symbol `i` of the codeword that carries these 514 data symbols. The spec takes the code RS(544,514) from IEEE 802.3 (R287). -/
opaque Config.fecParity (data : List Nat) (i : Nat) : Nat

/-- Is the buffer in which firmware takes messages full when message number `i` comes (R345)? The spec does not give its size. -/
opaque Config.bufferFull (i : Nat) : Bool

/-- Which of the thirteen checks of R179 reports a staging list that breaks R275 or R280; the spec names none. -/
opaque Config.stagingCheck : Fin 13

/-- The number of branch points in the agreed branch table of an image (R174). The spec gives the table no byte layout. -/
opaque Config.branchCount (image : List Byte) : Nat
/-- The decision tick T_d of branch point `bp` (R174). -/
opaque Config.decisionTick (image : List Byte) (bp : Nat) : Nat
/-- The take tick T_t of branch point `bp` (R174). -/
opaque Config.takeTick (image : List Byte) (bp : Nat) : Nat

/-- The arm offset that the agreed branch table of an image gives stream `stream` of the module with chip number `chip` for branch point
`bp` and value `value` (R174, R176, R281): in words, and in descriptors for the staging list. The spec gives the table no byte layout.
Streams are numbered 0 to 3199 for cluster units, 3200 to 3205 for ports, 3206 to 3209 for stacks and 3210 for the staging list. -/
opaque Config.armOffset (image : List Byte) (chip stream bp value : Nat) : Nat

/-- What the corrector makes of a word in which three or more bits have flipped, `data` and `check` being the flips (R109, R264): none where
it finds an uncorrectable error, no bit where it finds no error, and otherwise the bit that it takes for a single flip (0 to 63 data, 64 to 71
check). The spec gives what the code corrects and detects, and not the code. -/
opaque Config.manyFlips (data : BitVec 64) (check : BitVec 8) : Option (Option (Fin 72))

/-- Byte `i` of the CXL region as its devices hold it when DMA reads it for the `n`-th time (R285): the devices lie outside the module. -/
opaque Config.deviceByte (n i : Nat) : Byte

end Sys2Proof
end

