-- ==== Sys2Proof/Machine/StateDie.lean ====
section
/-! DEFINITION. The state of machine time, ticks, spans, clusters, crossings and memory sequencers (chapters 02 to 09). Each field's
default value is its value at State.reset; where the spec gives none it is zero or empty (log 4). -/

namespace Sys2Proof.Machine

/-! ### Machine time (02) -/

/-- What the last accepted beacon of a peer advertises (R40). Times are in units of 2^-16 ns. -/
structure Advert where
  good     : Bool
  holdover : Bool
  tai      : Bool
  root     : Bool
  rootId   : BitVec 64
  prio     : BitVec 8
  depth    : Nat
  announce : BitVec 16
  residual : Int
  deriving DecidableEq, Repr

/-- Beacon state of one port (R38 to R43). Times are in units of 2^-16 ns. -/
structure BeaconPort where
  /-- SEQ of the next beacon (R40). -/
  txSeq  : BitVec 16 := 0
  /-- The beacons sent, newest first: SEQ and transmit timestamp, the last 8 (R41). -/
  sent   : List (BitVec 16 × Nat) := []
  /-- SEQ and receive timestamp of the last beacon received (R40: ECHO_SEQ, ECHO_RX). -/
  lastRx : Option (BitVec 16 × Nat) := none
  /-- The same of the last beacon that was not discarded: t4 of the next exchange (R41, R42). -/
  lastOk : Option (BitVec 16 × Nat) := none
  /-- The last advertisement (R45, R47), with the machine time at which it came. -/
  adv    : Option (Advert × Nat) := none
  /-- phi and d of the exchanges of the running window, each twice its value, in units of 2^-16 ns ÷ 125 (R42, R43). -/
  exch   : List (Int × Int) := []
  /-- phi of the last window, in units of 2^-16 ns ÷ 180,180,000; none when the window gave no result (R43). -/
  phi    : Option Int := none
  deriving DecidableEq, Repr

/-- Stages of acquisition (R60). -/
inductive Acq where
  | waiting
  | measuring (windows : Nat) (phi0 : Int)
  | qualifying (count : Nat)
  | settled
  deriving DecidableEq, Repr

/-- Machine time, steering and the TIM_ registers (02). -/
structure Tim where
  /-- Machine time in units of 2^-48 ns: 64 bits of nanoseconds above 48 of fraction (R33). -/
  now         : BitVec 112 := 0
  /-- The increment of one oscillator cycle, in units of 2^-48 ns (R33). -/
  inc         : BitVec 64 := 0x0006666666666666
  /-- TIM_NOW_FRAC: the latched fraction. -/
  fracLatch   : BitVec 32 := 0
  ctl         : Reg := 0
  /-- TIME_GOOD (R57). -/
  good        : Bool := false
  /-- The code with which the module last left time-good, 0 for none (R57, R399). -/
  leftBy      : BitVec 16 := 0
  holdover    : Bool := false
  isRoot      : Bool := false
  tai         : Bool := false
  depthLimit  : Bool := false
  freqLimit   : Bool := false
  ptpLock     : Bool := false
  followerOk  : Bool := false
  /-- When each periodic work was last due, in units of 2^-48 ns (log 97); the numbers stand in Ops. -/
  beats       : Tbl Nat := []
  offsetWide  : Bool := false
  /-- The frequency estimate F, in the units of `ppb` (R52). -/
  freq        : Int := 0
  /-- The phase term P, in the units of `ppb` (R52). -/
  slew        : Int := 0
  rateSet     : Reg := 0
  /-- TIM_RATE_SET was written in manual mode and takes effect at the next window boundary (R53, R56). -/
  rateDue     : Bool := false
  /-- θ, in units of 2^-16 ns ÷ 180,180,000 (R52). -/
  theta       : Int := 0
  rootId      : BitVec 64 := 0
  parent      : Nat := 7
  depth       : Nat := 255
  curPrio     : BitVec 8 := 0
  announce    : BitVec 16 := 0
  /-- TIM_ROOT_PRIO. -/
  prio        : Reg := 0
  /-- TIM_EPOCH, live (R36). -/
  epoch       : Reg := 0
  /-- TIM_PORT_DELAY, TIM_PORT_ASYM and TIM_PORT_NBR by port. -/
  delay       : Tbl Reg := []
  asym        : Tbl Reg := []
  nbr         : Tbl Reg := []
  /-- TIM_ETH_LAT: 25.6 ns and 32.0 ns at reset (R62). -/
  ethLat      : Reg := 0x01400100
  cnt         : Reg := 0
  /-- Beacon state by port. -/
  ports       : Tbl BeaconPort := []
  acq         : Acq := .waiting
  /-- The number of windows with |θ| at most 0.5 ns is in `acq`; this holds the time at which holdover began (R57). -/
  holdSince   : Nat := 0
  /-- When the parent's last valid beacon came (R50). -/
  parentSeen  : Nat := 0
  /-- When the root's count last rose (R46). -/
  announceAt  : Nat := 0
  /-- Roots whose advertisements are discarded (R46), with the count at which each was lost. -/
  dead        : List (BitVec 64 × BitVec 16) := []
  /-- The follower's error against the counter, in units of 2^-16 ns (R37). -/
  folErr      : Int := 0
  /-- Machine time of the last edge captured on 1PPS in, in units of 2^-16 ns (R66, R503). -/
  ppsIn       : Option Nat := none
  /-- The sub-second phase 1PPS in gave last (R66), in units of 2^-16 ns. -/
  ppsPhase    : Int := 0
  /-- The last PTP offset firmware estimated, in units of 2^-16 ns (R65). -/
  ptpOfs      : Option Int := none
  deriving DecidableEq, Repr

/-- The management Ethernet (02). -/
structure Eth where
  /-- FEC mode that the lane reached (R62). -/
  fec  : Option FecMode := none
  /-- Write-backs of transmit and receive descriptors, oldest first (R64). -/
  txWb : List (List Byte) := []
  rxWb : List (List Byte) := []
  /-- Frames sent to the lane, oldest first. -/
  out  : List (List Byte) := []
  deriving DecidableEq, Repr

/-! ### The tick sequencer (03) -/

/-- Tick sequencer: TIK_ registers and what they report (03). -/
structure Tik where
  /-- TIK_CTL, live: K 16, KP 10, RATED 0 (R99). -/
  ctl      : Reg := 0x00000A10
  running  : Bool := false
  /-- Phases since the epoch: 8 × tick + phase (R68). -/
  phaseNo  : Nat := 0
  /-- The next slot since the epoch (R69). -/
  slotNo   : Nat := 0
  keyTick  : Reg := 0
  keyAct   : Reg := 0
  keyArmed : Bool := false
  /-- Tick and actions of the armed keystone, taken at the arm (R81). -/
  armTick  : Nat := 0
  armAct   : Reg := 0
  stepSet  : Reg := 0
  /-- The current step index (STEP_NOW). -/
  stepNow  : Nat := 0
  cnt      : Reg := 0
  /-- A value below the rated step is held (R77). -/
  held     : Bool := false
  /-- The held value's stop has been requested (R77: once). -/
  heldAsked : Bool := false
  /-- A cancelled step change waits for the next standing keystone (R83). -/
  carry    : Bool := false
  /-- Agreement values delivered, by branch point (R175, R341). -/
  agree    : Tbl (BitVec 2) := []
  deriving DecidableEq, Repr

/-- How a compute span's cycles last (R85). -/
inductive Stretch where
  | nominal | l1 | l2 | hold
  deriving DecidableEq, Repr

/-- One span controller (03: R100). -/
structure Spn where
  running  : Bool := false
  stopped  : Bool := true
  l1       : Bool := false
  l2       : Bool := false
  /-- An overrun holds the span (R89). -/
  overrun  : Bool := false
  xqFault  : Bool := false
  droopThr : Reg := 0x371E
  slackMin : Reg := 0xFFFF
  cnt      : Reg := 0
  ovrLog   : Reg := 0
  xqLog    : Reg := 0
  /-- The next cycle of the current phase: every cycle below it has been carried out. -/
  cycle    : Nat := 0
  /-- PLAN_END of the phase has been reached (R90). -/
  planDone : Bool := false
  /-- Running cycle count at which the last trip cleared (R86). -/
  clearAt  : Option Nat := none
  /-- How the span's cycles last now, and the running cycle count from which they do (R85). -/
  mode     : Stretch := .nominal
  modeFrom : Nat := 0
  /-- Machine time at which that cycle begins, in units of 2^-48 ns, and how many cycles of this mode an SPN_CLEAR has cleared (R86, R100). -/
  modeAt   : Nat := 0
  cleared  : Nat := 0
  /-- The span controller answers no control request (R27, R425). -/
  silent   : Bool := false
  deriving DecidableEq, Repr

/-! ### Crossings (03, 06, 07) -/

/-- One entry of a landing frame: two halves, their written and empty marks, write tag and staging descriptor
(R92 to R96, R169, R204). -/
structure LandEntry where
  h0   : List Byte := zeros 64
  h1   : List Byte := zeros 64
  w0   : Bool := false
  w1   : Bool := false
  e0   : Bool := false
  e1   : Bool := false
  tag  : Option (BitVec 12) := none
  desc : Option Nat := none
  deriving DecidableEq, Repr

/-- A crossing write on its way over the die mesh: where to, which halves, and the phase of the write (R93, R94, R97). -/
structure MeshWrite where
  span  : Nat
  q     : Nat
  entry : Nat
  half0 : Bool
  half1 : Bool
  data  : List Byte
  empty : Bool
  tag   : Option (BitVec 12)
  desc  : Option Nat
  phase : Nat
  deriving DecidableEq, Repr

/-! ### Streams (06) -/

/-- Where a stream stands: its window (cluster units), its next word, its time base and its last issue cycle (R161 to R163). -/
structure Stream where
  win   : Nat := 0
  wlen  : Nat := 0
  /-- Words of the step body; 0 when no image gave the stream. -/
  len   : Nat := 0
  /-- The next word of the step body. -/
  pos   : Nat := 0
  /-- The time base: phases since the epoch (R159). -/
  base  : Nat := 0
  /-- Issue cycle of the last word. -/
  last  : Nat := 0
  /-- The next word is the first after a phase mark or the step start (R161). -/
  first : Bool := true
  /-- Second arms that lie ahead and are not taken, newest first: where each begins, and the word after it (R171, R210). -/
  hop   : List (Nat × Nat) := []
  /-- The stream issues nothing more in this step (R166), or nothing more in this job's step (R257). -/
  dead  : Bool := false
  deriving DecidableEq, Repr

/-- One line of instruction memory: 16 words and the stream line number it holds (R163). -/
structure ImemLine where
  words : List Byte := zeros 128
  sln   : Nat := 0
  deriving DecidableEq, Repr

/-! ### Clusters (04, 05, 07, 08) -/

/-- The state of one accumulator buffer besides its entries (R188), with the values of the latest ME.WIN issued for it
(R190). -/
structure MeBuf where
  wcode  : BitVec 6 := 35
  ta     : Int := 0
  tw     : Int := 0
  dirty  : Bool := false
  iWcode : BitVec 6 := 35
  iTa    : Int := 0
  iTw    : Int := 0
  deriving DecidableEq, Repr

/-- A tile slot: raw tile bytes and raw block scales (R188). Bytes beyond the list's end are 0. -/
structure Tile where
  raw    : List Byte := []
  scales : List Byte := []
  deriving DecidableEq, Repr

/-- The matrix engine (R188). Accumulator rows are keyed 64 × buffer + row; an unlisted row is 64 zeros. -/
structure Me where
  t0    : Tile := {}
  t1    : Tile := {}
  acc   : Tbl (List Fw) := []
  b0    : MeBuf := {}
  b1    : MeBuf := {}
  /-- Streaming activation register: elements and block scales. -/
  sAct  : List Byte := []
  sActX : List Byte := []
  /-- Streaming scale buffer. -/
  sWX   : List Byte := []
  deriving DecidableEq, Repr

/-- A vector register: 128 lanes (unlisted lanes are 0) and its window tag (R218). -/
structure Vreg where
  lanes : List Lane := []
  tag   : Option (BitVec 6) := none
  deriving DecidableEq, Repr

/-- What one micro-operation does in its cycle: a bank access, a landing read, a use of a spoke, or work on private state.
`idx` numbers the lines and the pieces of work of one instruction. -/
inductive Micro where
  /-- Read of store line `line` (R105, R106). -/
  | rd (idx line : Nat)
  /-- Landing read of entry `entry` of queue `q` (R115). -/
  | land (idx q entry : Nat)
  /-- Write of store line `line` (R105). -/
  | wr (idx line : Nat)
  /-- A line enters the inbound spoke, from the cluster at position `src` (R113, R114). -/
  | arrive (idx src line : Nat) (data : List Byte) (keep : Bool)
  /-- The span arrival's write (R105, R114). -/
  | arrWr (line : Nat) (data : List Byte) (keep : Bool)
  /-- A landing line enters the inbound spoke (R113, R115). -/
  | spokeIn (idx : Nat)
  /-- A line is placed on the outbound spoke (R113). -/
  | spokeOut (idx : Nat)
  /-- Work at the end of a cycle on registers, tiles, accumulators, flags or instruction memory. -/
  | work (idx : Nat)
  deriving DecidableEq, Repr

/-- A micro-operation that waits for its cycle of the current phase. -/
structure Op where
  cyc  : Nat
  unit : Unit4
  iid  : Nat
  act  : Micro
  deriving DecidableEq, Repr

/-- An instruction in flight: the word, whether its predicate lets it write, the phase of its issue, what it has read and
computed so far, and the codes it has raised (R515: each once). -/
structure Fly where
  ins    : Instr
  on     : Bool
  phase  : Nat
  /-- Lines read, by index. -/
  lines  : Tbl (List Byte) := []
  /-- Landing lines' state by index: written in its phase, and empty. -/
  marks  : Tbl (Bool × Bool) := []
  /-- Register values the instruction will write: register, lanes, tag. -/
  res    : List (Nat × Vreg) := []
  /-- Source lanes taken at issue. -/
  src    : List Lane := []
  /-- Row sums formed and not yet added, by row, with the mark of a window fault (R194, R195). -/
  sums   : Tbl (List Fw × Bool) := []
  /-- Window code and exponents assigned at issue (R190). -/
  win    : BitVec 6 × Int × Int := (35, 0, 0)
  raised : List (BitVec 16) := []
  deriving DecidableEq, Repr

/-- One logical cluster. -/
structure Cluster where
  bankLog  : Reg := 0
  eccCnt   : Reg := 0
  eccLog   : Reg := 0
  collided : Bool := false
  eccUe    : Bool := false
  me       : Me := {}
  vregs    : Tbl Vreg := []
  /-- Predicate bits: all 1 at the start of a step (R167). -/
  p        : BitVec 8 := 0xFF
  /-- Flag stage register (R211). -/
  fs       : BitVec 8 := 0
  sMe      : Stream := {}
  sVu      : Stream := {}
  sMv      : Stream := {}
  sSq      : Stream := {}
  imem     : Tbl ImemLine := []
  /-- Micro-operations that wait, and instructions in flight by number (R184). -/
  ops      : List Op := []
  fly      : Tbl Fly := []
  nextIid  : Nat := 0
  /-- The fixed-length branches in force: arm lengths, first arm taken, phases p + 1 and p + n + 1 (R171, R210). -/
  br       : List (ArmLens × ArmLens × Bool × Nat × Nat) := []
  deriving DecidableEq, Repr

/-- One row's repair state (R118, R119, R123): column 33 means none. -/
structure Repair where
  fused     : Nat := 33
  active    : Nat := 33
  pending   : Nat := 33
  exhausted : Bool := false
  deriving DecidableEq, Repr

/-! ### Memory sequencers (09) -/

/-- One bank of a pseudo-channel: its open row, the memory cycles of its last commands, its activation count and its share
of the refresh debt (R250, R256, R259, R260). Cycles are counted from the epoch (R246). -/
structure Bank where
  row   : Option Nat := none
  act   : Option Int := none
  pre   : Option Int := none
  rd    : Option Int := none
  wr    : Option Int := none
  refb  : Option Int := none
  acts  : Nat := 0
  /-- Minus the credited refreshes (R260). -/
  debt  : Int := 0
  deriving DecidableEq, Repr

/-- One pseudo-channel: recent ACT cycles and the cycles of the last RD, WR, REFA and REFB (R256). -/
structure Pc where
  acts : List Int := []
  rd   : Option Int := none
  wr   : Option Int := none
  refa : Option Int := none
  /-- The cycle in which a forced refresh suppresses the stream's command (R261). -/
  forced : Option Int := none
  deriving DecidableEq, Repr

/-- One memory sequencer (R270). -/
structure Msq where
  /-- MSQ_TTAB0 to 4, live: the nominal table (R256). -/
  ttab     : List Reg := [0x0074005000240024, 0x0008001E000A0005, 0x00240030000A0030, 0x01800348000E0039, 0x0000000000400014]
  /-- MSQ_TACT0 to 4 (R258). -/
  tact     : List Reg := [0, 0, 0, 0, 0]
  cnt      : Reg := 0
  fltLog   : Reg := 0
  eccCnt   : Reg := 0
  eccLog   : Reg := 0
  refMax   : Reg := 0x18
  temp     : Reg := 0
  running  : Bool := false
  auto     : Bool := false
  selfRef  : Bool := false
  hot      : Bool := false
  faulted  : Bool := false
  scrubbing : Bool := false
  kept     : Bool := false
  tactOver : Bool := false
  str      : Stream := {}
  /-- The stream is stopped by R257 until the step's end, by a word of this memory cycle. -/
  halted   : Bool := false
  haltAt   : Int := 0
  /-- Machine time of the last refresh in autonomous mode, or of the mode's beginning (R263). -/
  autoAt   : Nat := 0
  /-- Interface training in use, as the journal's record gives it (R268). -/
  train    : List Byte := []
  /-- Debt increases since the start keystone: a bank's debt is this plus its own `debt` (R260). -/
  incs     : Int := 0
  /-- Banks by 48 × pseudo-channel + bank; pseudo-channels. -/
  banks    : Tbl Bank := []
  pcs      : Tbl Pc := []
  /-- Forced refreshes that the timing table has not permitted yet: the bank by 48 × pseudo-channel + bank, and the cycle in which its debt
  reached 9 (R261). -/
  owed     : List (Nat × Int) := []
  /-- Mode registers of the stacks: TRL and TWL as programmed at the last commit (R258). -/
  modeRegs : Nat × Nat := (48, 10)
  deriving DecidableEq, Repr

end Sys2Proof.Machine
end

