-- ==== Sys2Proof/Machine/StateFab.lean ====
section
/-! DEFINITION. The state of the CXL port and staging engine, the Olfin links, the routers, the service agent and placement
(chapters 10 to 13). Default values as in StateDie. -/

namespace Sys2Proof.Machine

/-! ### Staging and CXL (10) -/

/-- A run of a staging descriptor in one step (R276 to R279). -/
structure StgRun where
  desc    : Nat
  /-- The step of its issue or capture. -/
  step    : Nat
  inbound : Bool
  /-- The external range is a host buffer (EXT 1). -/
  host    : Bool
  /-- The external accesses have begun (R276, R278). -/
  issued  : Bool := false
  /-- Lines in the staging buffer (inbound) or acknowledged (outbound). -/
  done    : List Nat := []
  /-- Lines captured with data, that go to the external range (R278). -/
  toWrite : List Nat := []
  /-- An access of one of its lines has failed (R282). -/
  failed  : Bool := false
  /-- Lines acknowledged too late for the deadline (R277). -/
  late    : List Nat := []
  /-- Complete at its deadline, or failed there (R277). -/
  checked : Option Bool := none
  deriving DecidableEq, Repr

/-- A line the staging engine sent outside: to the CXL region or to a host buffer (R278). -/
structure ExtWrite where
  host : Bool
  addr : Nat
  data : List Byte
  deriving DecidableEq, Repr

/-- The CXL port and the staging engine (R286). -/
structure Cxl where
  linkUp  : Bool := false
  width   : Nat := 0
  speed   : Nat := 0
  devices : Nat := 0
  staging : Bool := false
  faulted : Bool := false
  hdm     : List Reg := [0, 0, 0, 0]
  stgCnt  : Reg := 0
  stgLog  : Reg := 0
  errLog  : Reg := 0
  /-- Staging buffer lines by number (R274); an unlisted line is 128 zero bytes. -/
  sbuf    : Tbl (List Byte) := []
  runs    : List StgRun := []
  /-- The arms that the staging list has taken in this step, the latest last: branch point and first descriptor (R281). -/
  arms    : Tbl Nat := []
  /-- A step abort stops new accesses (R283). -/
  aborted : Bool := false
  /-- What went outside, oldest first. -/
  out     : List ExtWrite := []
  deriving DecidableEq, Repr

/-! ### Olfin links (11) -/

/-- A cell in the replay buffer: whether it has been sent since it was formed or since the last NAK, and the slot in which it
was formed (R309, R310). -/
structure TxCell where
  cell  : Cell
  sent  : Bool
  slot  : Nat
  /-- Never sent yet: its sequence number is still to come (R306). -/
  fresh : Bool := false
  deriving DecidableEq, Repr

/-- A scheduled cell in the receive hold, with the slot in which it was checked (R312, R313). -/
structure RxCell where
  cell : Cell
  at_  : Nat
  deriving DecidableEq, Repr

/-- A link message waiting for a control block: MSG code and bytes (R300, R301). -/
structure LinkMsg where
  msg   : Nat
  bytes : List Byte
  deriving DecidableEq, Repr

/-- One Olfin port (R327). -/
structure Olf where
  ctl      : Reg := 1
  /-- Training state code (R295). -/
  st       : Nat := 0
  /-- When the training state began. -/
  stAt     : Nat := 0
  sched    : Bool := false
  svcOnly  : Bool := false
  lock     : Bool := false
  miswired : Bool := false
  revDown  : Bool := false
  tollOver : Bool := false
  leader   : Bool := false
  epoch    : BitVec 4 := 0
  width    : Nat := 0
  peerId   : BitVec 64 := 0
  peer     : Reg := 0
  lane     : Reg := 0
  toll     : Reg := 0
  cnt      : Reg := 0
  cnt2     : Reg := 0
  log      : Reg := 0
  /-- Job digest of the peer at its last IDENT or RUNCHK (R298, R318, R357). -/
  peerDig  : List Byte := zeros 32
  /-- Service only since the digests differed at the last exchange (R298). -/
  digOnly  : Bool := false
  /-- A map taken since the last IDENT names the peer: it holds this module's job digest (R374; DEDUCED, log 90). -/
  named    : Bool := false
  /-- MEASURE: valid beacon windows counted (R295). -/
  windows  : Nat := 0
  /-- EXCHANGE: the peer's IDENT has come, with GOT set, with FINAL set (R297). -/
  gotPeer  : Bool := false
  gotGot   : Bool := false
  gotFinal : Bool := false
  /-- The peer's current epoch as its first IDENT gave it (R325). -/
  peerEpoch : BitVec 4 := 0
  peerWidth : Nat := 0
  /-- This training is a retrain (R295, R320), and the width this end proposes (R323). -/
  retrain  : Bool := false
  propose  : Nat := 3
  /-- B + H fixed at admission (R326). -/
  admitted : Option Nat := none
  /-- Machine times, in units of 2^-48 ns, of the retrains of the last second, and of the last down (R320, R324). -/
  retrains : List Nat := []
  downAt   : Nat := 0
  lossAt   : Option Nat := none
  /-- OLF_LANE as it stood when lock was lost on all lanes (R319). -/
  keptLane : Reg := 0
  /-- Sender: next sequence number, replay buffer, NAKs that named one number (R306, R310, R311). -/
  txSeq    : Nat := 0
  replay   : List TxCell := []
  nakSeq   : Nat := 0
  nakCount : Nat := 0
  /-- Machine time, in units of 2^-48 ns, of the last NAK acted on (R309). -/
  nakAt    : Nat := 0
  /-- A scheduled cell was dropped in this step (R310). -/
  dropped  : Bool := false
  /-- Queues of the footway and service classes (R344). -/
  qAbort   : List Cell := []
  qFoot    : List Cell := []
  qSvc     : List Cell := []
  /-- Credits and cells first sent, by class (R316). -/
  credSvc  : Nat := 0
  credFoot : Nat := 0
  sentSvc  : Nat := 0
  sentFoot : Nat := 0
  /-- Kinds of the footway cells whose entries are not known to be free, oldest first: true a step abort (R346). -/
  footOut  : List Bool := []
  /-- Credits freed here and not yet returned in a header, and the running totals (R316). -/
  retSvc   : Nat := 0
  retFoot  : Nat := 0
  cumSvc   : Nat := 0
  cumFoot  : Nat := 0
  /-- Link messages that wait for control blocks (R300). -/
  msgs     : List LinkMsg := []
  /-- Fragments still to send of the message in progress. -/
  frags    : List (Nat × Nat × Nat × List Byte) := []
  /-- Receiver: next number expected, NAK standing (R308). -/
  rxSeq    : Nat := 0
  nak      : Bool := false
  /-- The receive hold, and the slots missed whose cells have not come (R313, R314). -/
  hold     : List RxCell := []
  matched  : Nat := 0
  /-- Occupancy of the 56 service and 8 footway entries (R316): cells that wait for the router. -/
  rxSvc    : List Cell := []
  rxFoot   : List Cell := []
  /-- Message fragments collected (R300): message code and bytes. -/
  rxMsg    : Option (Nat × Nat × List Byte) := none
  /-- Leaks found in the last audit, by class (R317). -/
  leakSvc  : Bool := false
  leakFoot : Bool := false
  /-- The last RUNCHK tick received, and RUNCHKs that did not come (R318). -/
  runTick  : Option Nat := none
  runMiss  : Nat := 0
  /-- Frames sent, oldest first, without their FEC parity (R289). -/
  frames   : List (List Byte) := []
  deriving DecidableEq, Repr

/-- One physical port's router (R360). -/
structure Cwy where
  /-- The header of the page set and its pages (R329). -/
  hdr     : List Byte := []
  pages   : List Byte := []
  active  : Nat := 0
  next    : Option Nat := none
  /-- The pages made active in this job, latest first, each with its first phase (R216, R333). -/
  turned  : List (Nat × Nat) := []
  loaded  : Bool := false
  running : Bool := false
  lport   : Nat := 0
  mapped  : Bool := false
  cnt     : Reg := 0
  cnt2    : Reg := 0
  log     : Reg := 0
  /-- The pad placed by PT.PAD, and the pad in effect (R217). -/
  padNew  : Nat := 0
  pad     : Nat := 0
  deriving DecidableEq, Repr

/-! ### Service agent (12) -/

/-- An outstanding request (R350). -/
structure SvcOut where
  rtag     : BitVec 16
  port     : Nat
  epoch    : BitVec 4
  /-- Deadline in units of 2^-48 ns. -/
  deadline : Nat
  nbr      : Bool
  chip     : Nat
  deriving DecidableEq, Repr

/-- An answer to a request, or a message, for the firmware of this module: RTAG (or the port of arrival), STATUS and data. -/
structure SvcAnswer where
  rtag   : BitVec 16
  status : Nat
  data   : List Byte
  deriving DecidableEq, Repr

/-- The service agent (R361). -/
structure Svc where
  ctl      : Reg := 0x6400
  cnt      : Reg := 0
  cnt2     : Reg := 0
  abortLog : Reg := 0
  /-- Generation table (R355). -/
  gen      : Tbl Nat := []
  /-- Outstanding requests by slot, and each slot's use count (R350). -/
  out      : Tbl SvcOut := []
  use      : Tbl Nat := []
  waiting  : List SvcReq := []
  answers  : List SvcAnswer := []
  /-- Messages consumed for the firmware, oldest first: physical port of arrival and payload (R347). -/
  inbox    : List (Nat × List Byte) := []
  /-- Requests accepted before FENCE was set and not yet answered (R356). -/
  accepted : Nat := 0
  abortSeen : Bool := false
  /-- Messages dropped because the firmware's buffer was full (R345). -/
  msgDrop   : Nat := 0
  deriving DecidableEq, Repr

/-! ### Placement (13) -/

/-- A proposal received (R375). -/
structure Proposal where
  epoch  : Nat
  /-- Its JOB_DIGEST is this module's (R365, R376). -/
  mine   : Bool := false
  /-- The module itself is ready; modules ready below each child, by physical port; READY has gone up. -/
  own    : Bool := false
  kids   : Tbl Nat := []
  sentUp : Bool := false
  go     : Bool := false
  deriving DecidableEq, Repr

/-- Placement (R384). -/
structure Plc where
  ctl       : Reg := 0x0000003C200A07D0
  decl      : Tbl Reg := []
  /-- Straps as sensed and open pins: in the table's order (R362); module at block 0, position 0 (log 6). -/
  straps    : Reg := 0x8000
  /-- The hall number (R363). -/
  hall      : Nat := 0
  st        : Nat := 0
  leader    : Bool := false
  paired    : Bool := false
  replica   : Nat := 0
  strapFault : Bool := false
  duplicate : Bool := false
  chip      : Nat := 0
  placed    : Bool := false
  depth     : Nat := 0
  /-- Physical port to the parent of the election tree; 7 none. -/
  parent    : Nat := 7
  leadHall  : Nat := 0
  leadValid : Bool := false
  jobHall   : Nat := 0
  jobDigest : List Byte := zeros 32
  mapDigest : List Byte := zeros 32
  confirmed : Reg := 0
  /-- Steps confirmed in this job and not yet reported (R381). -/
  agreed    : List Nat := []
  pairLog   : Reg := 0
  cnt       : Reg := 0
  /-- The claim held: hall number, depth; when it last changed (R366, R367). -/
  claim     : Nat × Nat := (0, 0)
  claimAt   : Nat := 0
  /-- Health records gathered (R367). -/
  health    : List Health := []
  /-- Ports from which claims, and health records, have come in this election (R366, R367). -/
  heard     : List Nat := []
  kidPorts  : List Nat := []
  /-- The canonical map (R373), in order of replica and chip number. -/
  map       : List MapEntry := []
  /-- Modules excluded for a duplicate hall number (R364). -/
  excluded  : List Nat := []
  /-- The open switch request: number, round, ports to join and to part (R370). -/
  switch    : Option (Nat × List (Nat × Nat × Nat × Nat)) := none
  rounds    : Nat := 0
  /-- When the last switch request was reported done, in units of 2^-48 ns (R370). -/
  switchAt  : Nat := 0
  /-- The map and its digest that this leader has distributed and not yet taken itself (R374). -/
  given     : Option (List MapEntry × List Byte) := none
  placeAt   : Nat := 0
  proposal  : Option Proposal := none
  /-- Step digests of a paired run: by step, this module's own and its children's (R380). -/
  digs      : Tbl (List (BitVec 64)) := []
  own       : Tbl (BitVec 64) := []
  twin      : Tbl (BitVec 64) := []
  deriving DecidableEq, Repr

end Sys2Proof.Machine
end

