-- ==== Sys2Proof/Machine/StateCtl.lean ====
section
/-! DEFINITION. The state of the job, the host interface, faults and dumps, configuration and the journal, power, security, the
reset sequence and the pins (chapters 06, 14 to 19). Default values as in StateDie. -/

namespace Sys2Proof.Machine

/-! ### The job (06, 13, 15) -/

/-- An agreed branch of the image as its table gives it (R174): decision tick, take tick, and the four arm offsets of each
stream, in the order of the section. -/
structure BranchPoint where
  td   : Nat
  tt   : Nat
  arms : List (Nat × List Nat)
  deriving DecidableEq, Repr

/-- The loaded image and the job that runs it. Step numbers count from FIRST_STEP (R403). -/
structure Job where
  /-- The loaded image, as read; empty when none is loaded (R400). -/
  img       : List Byte := []
  loaded    : Bool := false
  /-- The values check 11 used for the timing tables, by stack (R449). -/
  checked   : List (List Reg) := []
  /-- ARM has loaded the job (R402). -/
  armed     : Bool := false
  /-- START has been accepted, and its FIRST_STEP (R403). -/
  accepted  : Bool := false
  firstStep : Nat := 0
  running   : Bool := false
  /-- The tick of the last RUNCHK sent (R318). -/
  runchk    : Option Nat := none
  /-- Steps begun since tick 0: the current step is firstStep + stepNo. -/
  stepNo    : Nat := 0
  /-- SQ.END has issued in this step (R214). -/
  ended     : Bool := false
  /-- Stop requests held by the job leader: LAST_STEP, cause, time of receipt (R404). -/
  requests  : List (Nat × Nat × Nat) := []
  /-- This module has requested a stop of the job (R77, R78, R404). -/
  stopAsked : Bool := false
  /-- The last step, S, and the cause of the stop (R404, R409). -/
  stopAfter : Option Nat := none
  stopCause : Nat := 0
  /-- Aborts known: step, code, origin (chip and replica) (R420, R421). -/
  aborts    : List (Nat × BitVec 16 × Nat) := []
  /-- Steps for which this module has sent abort cells (R357). -/
  abortSent : List Nat := []
  /-- Step digests formed and not yet handed over (R213), and those handed over. -/
  digests   : List (Nat × BitVec 64) := []
  /-- Boundaries passed: step and machine time in units of 2^-48 ns (R422). -/
  ends      : List (Nat × Nat) := []
  /-- The last completed step, and whether there is one (R420, R421). -/
  lastStep  : Option Nat := none
  /-- Steps that qualified under R410 and R422: one more than the highest such step, counted from firstStep. -/
  qualified : Nat := 0
  /-- Steps covered by STEP_DONE events posted so far. -/
  posted    : Nat := 0
  /-- The boundary at which the job stopped has been passed, at this time; JOB_STOP or ABORT_STOP follows. -/
  boundary  : Option Nat := none
  /-- Abort or withdrawal of a start under R405: 0 none, 1 withdrawn before PROPOSE, 2 refused after PROPOSE. -/
  withdrawn : Nat := 0
  /-- The values that agreed branches have taken in this step, by branch point (R175, R176). -/
  taken     : Tbl Nat := []
  deriving DecidableEq, Repr

/-! ### Host interface (14) -/

/-- A registered host buffer (R391). -/
structure HostBuf where
  addr : Nat
  len  : Nat
  mask : BitVec 2
  deriving DecidableEq, Repr

/-- A command that runs or waits: the command, its ring index (R396), and for a transfer its bytes still to move. -/
structure RunCmd where
  cmd : Instr
  idx : Nat
  deriving DecidableEq, Repr

/-- A completion formed and not yet written (R396). -/
structure Cpl where
  via    : Via
  tag    : BitVec 32
  irq    : Bool
  opcode : BitVec 16
  status : Nat
  fault  : BitVec 16
  idx    : Nat
  detail : Nat
  result : List Byte
  deriving DecidableEq, Repr

/-- The host interface (R413). -/
structure Hst where
  st       : Nat := 0
  ready    : Bool := false
  ctl      : Reg := 0x100
  cring0   : Reg := 4
  cring1   : Reg := 4
  comp     : Reg := 4
  evt      : Reg := 4
  /-- Heads and tails (R393, R394, R413). -/
  cr0Head  : Nat := 0
  cr0Tail  : Nat := 0
  cr1Head  : Nat := 0
  cr1Tail  : Nat := 0
  compTail : Nat := 0
  compRead : Nat := 0
  evtTail  : Nat := 0
  evtRead  : Nat := 0
  compPhase : Bool := true
  evtPhase : Bool := true
  err0     : Bool := false
  err1     : Bool := false
  aborted  : Bool := false
  mboxBusy : Bool := false
  cnt      : Reg := 0
  diagBase : Reg := 0
  diagLog  : Reg := 0
  doneStep : Reg := 0
  mboxCmd  : Tbl Reg := []
  mboxCpl  : Tbl Reg := []
  /-- Registered buffers by HBUF (R391). -/
  bufs     : Tbl HostBuf := []
  /-- Commands that run, and commands consumed or next in their ring that wait (R397). -/
  running  : List RunCmd := []
  waiting  : List RunCmd := []
  /-- Completions formed, oldest first (R396). -/
  done     : List Cpl := []
  /-- Completions are discarded for commands consumed before the last PCIe reset (R387): those that still run. -/
  orphans  : List RunCmd := []
  /-- The two rings the module writes, by entry (R394). -/
  compRing : Tbl (List Byte) := []
  evtRing  : Tbl (List Byte) := []
  evtSeq   : Nat := 0
  evtLost  : Nat := 0
  /-- Vectors signalled, oldest first (R412), and the coalescing intervals that run. -/
  vectors  : List Nat := []
  coal0    : Bool := false
  coal1    : Bool := false
  /-- When the vectors 0 and 1 were last signalled. -/
  coalAt0  : Nat := 0
  coalAt1  : Nat := 0
  owed0    : Bool := false
  owed1    : Bool := false
  /-- Data written to host buffers by commands, oldest first: HBUF, offset, bytes. -/
  out      : List (Nat × Nat × List Byte) := []
  /-- The answer of the last diagnostic read (R389), and of the last transfer-area read (R390). -/
  diagAns  : Option Reg := none
  xferAns  : List Byte := []
  /-- A FW_UPDATE has written the slot (R489). -/
  fwSlot   : Nat := 0
  /-- RESET_DONE waits for the rings to be enabled (R406). -/
  resetDone : Bool := false
  deriving DecidableEq, Repr

/-- A control-network request that waits for its acknowledgement (R27, R28): the requester it answers and the span asked. -/
inductive CtlReq where
  /-- A poll of a span controller (R425). -/
  | poll (span : Nat)
  /-- A read or write of a register through the diagnostic window. -/
  | diag (write : Bool) (r : Nat) (v : Reg)
  /-- A write of a register by a row of its own. -/
  | reg (r : Nat) (v : Reg)
  /-- A register read or write command, with the index of the register at which it waits (R514). -/
  | cmd (run : RunCmd) (i : Nat) (got : List Reg)
  /-- A service request, with the physical port of arrival and the cell. -/
  | svc (port : Nat) (cell : Cell)
  deriving DecidableEq, Repr

/-! ### Faults and dumps (15) -/

/-- A fault raised and not yet recorded (R414). -/
structure Raised where
  code   : BitVec 16
  source : Nat
  agent  : Nat
  tick   : Nat
  step   : Nat
  addr   : Option Nat
  detail : Reg
  aux    : Nat
  origin : Option Nat
  remote : Bool
  late   : Bool
  /-- Raised in a step already aborted (R414, R420). -/
  sec    : Bool := false
  /-- Raised while a job ran, on which the severity of some codes depends (R416). -/
  run    : Bool := false
  deriving DecidableEq, Repr

/-- Fold state of one code within the running millisecond (R417). -/
structure Fold where
  formed : Nat
  seq    : Nat
  folded : Nat
  deriving DecidableEq, Repr

/-- The fault log and recovery (R440). -/
structure Flt where
  ctl      : Reg := 0
  wedged   : Bool := false
  draining : Bool := false
  unplanned : Bool := false
  gen      : BitVec 4 := 1
  cnt      : Reg := 0
  cnt2     : Reg := 0
  first    : Reg := 0
  nextSeq  : Nat := 0
  lost     : Nat := 0
  abortWin : Reg := 0
  /-- The fault log by SEQ (R418). -/
  log      : Tbl (List Byte) := []
  /-- Records of the compute die that wait for a UCIe module (R19), oldest first. -/
  parked    : List Raised := []
  raised   : List Raised := []
  folds    : Tbl Fold := []
  /-- The millisecond of machine time in which `folds` counts (R417). -/
  foldMs   : Nat := 0
  /-- Step aborts asked for and not yet issued: step, code, origin (R419). -/
  asked    : List (Nat × BitVec 16 × Nat) := []
  /-- Lines already recorded in this job under 0x3001 and 0x3003 (R110, R265): area and line. -/
  eccSeen  : List (Nat × Nat) := []
  /-- Lines with a UE_LINE record: row, physical column, line (R112, R119). -/
  ueLines  : List (Nat × Nat × Nat) := []
  /-- A record of severity MODULE has been formed since the last reset, and its code (R499, R505). -/
  modCode  : Option (BitVec 16) := none
  /-- Records that wait to be appended to the journal (R418). -/
  toJournal : List Nat := []
  /-- Units that firmware found hung: machine time of 0x9001 (R426). -/
  hangAt   : Option Nat := none
  deriving DecidableEq, Repr

/-- The crash dump (R441). -/
structure Dmp where
  ctl     : Reg := 0
  running : Bool := false
  stage   : Nat := 0
  noAns   : Nat := 0
  records : Nat := 0
  lines   : Nat := 0
  last    : Reg := 0
  /-- HST_STATUS.STATE when the dump started (R438). -/
  startSt : Nat := 0
  /-- Machine time of the first read, in ns (R438), and the records written so far. -/
  start   : Nat := 0
  body    : List Byte := []
  /-- Unit agents found without an answer, by source and agent (R437). -/
  deaf    : List (Nat × Nat) := []
  deriving DecidableEq, Repr

/-! ### Configuration and the journal (16) -/

/-- What an area of the flash holds since it was last erased (R484): bytes programmed, each run with its offset in the area, oldest first. A
byte that none of them gives reads 0xFF. -/
abbrev FlashArea := List (Nat × List Byte)

/-- A journal record (R462). -/
structure JRec where
  ty      : BitVec 16
  payload : List Byte
  seq     : Nat
  time    : Nat
  gen     : BitVec 4
  deriving DecidableEq, Repr

/-- A journal bank (R461): what the flash holds there, and what firmware has found or written in it (R464): its bank count, and the append
point in bytes from its start. -/
structure JBank where
  cells  : FlashArea := []
  count  : Nat := 0
  append : Nat := 0
  deriving DecidableEq, Repr

/-- Configuration, the assize checker and the journal (R468). Group g's shadow is the list of its registers' SH fields, in
increasing r (R449). -/
structure Cfg where
  shadow   : Tbl (List Reg) := []
  stage    : Tbl (List Reg) := []
  grpRef   : Tbl Reg := []
  stageRef : Tbl Reg := []
  grpLive  : Tbl Reg := []
  dirty    : List Nat := []
  captured : List Nat := []
  last     : Tbl Nat := []
  capturing : Bool := false
  /-- Registers written in the shadow since the capture (R453). -/
  written  : List (Nat × Nat) := []
  commit   : Reg := 0
  commitNo : Nat := 0
  /-- The commit number that the last acknowledgement of a shadow write carried (R28). -/
  ackNo    : Nat := 0
  persistOfs : Reg := 0
  cnt      : Reg := 0
  aszLog   : Reg := 0
  violLog  : Reg := 0
  clampLog : Reg := 0
  tRef     : Reg := 0
  jRef     : Reg := 0
  tStale   : Bool := true
  /-- Regions whose last checked pass mismatched (R460). -/
  bad      : List Nat := []
  pass     : Nat := 0
  compacting : Bool := false
  /-- A compaction is due and waits until the spare bank is erased (R465). -/
  compactDue : Bool := false
  /-- The SEQ at which the running compaction began (R465). -/
  compactSeq : Nat := 0
  /-- When the journal was last written, in units of 2^-48 ns (R462). -/
  appAt      : Option Nat := none
  /-- The chip number whose sections ARM loaded last (R459). -/
  jChip      : Nat := 0
  /-- The values of region 7's portions as firmware computed them at ARM (R459, R460). -/
  jParts     : Tbl Reg := []
  /-- Region 7 is checked: from ARM to RELEASE, UNLOAD or reset (R456). -/
  jLoaded    : Bool := false
  spareReady : Bool := false
  full     : Bool := false
  bankA    : JBank := {}
  bankB    : JBank := {}
  /-- The active bank: false A, true B. -/
  active   : Bool := false
  nextSeq  : Nat := 1
  deriving DecidableEq, Repr

/-! ### Power (17) -/

/-- Power and thermal state (R483), for grade A: top step 10. -/
structure Pwr where
  ctl       : Reg := 0x50A
  limits    : Reg := 0x000009605C58645F
  feedA     : Bool := false
  feedB     : Bool := false
  feedRevA  : Bool := false
  feedRevB  : Bool := false
  hot       : Bool := false
  stopReq   : Bool := false
  settling  : Bool := false
  coolant   : Bool := false
  computeOff : Bool := false
  /-- A of R478. -/
  allowed   : Int := 10
  nCool     : Nat := 0
  nOver     : Nat := 0
  input     : Reg := 0
  /-- PWR_CORE: SET_MV 620 (R483); the step whose rail has settled (R476). -/
  core      : Reg := 620
  railStep  : Nat := 0
  settledAt : Nat := 0
  /-- How far the rail was from its set point, at 2 mV per µs in units of machine time, and when that was (R475). -/
  lag       : Int := 0
  lagAt     : Nat := 0
  /-- Input power at the last ten evaluations, newest first, in units of 0.1 mW (R478). -/
  powers    : List Nat := []
  temp      : Reg := 0
  cool      : Reg := 0
  cnt       : Reg := 0
  log       : Reg := 0
  /-- When the rail that starts last in the power-up sequence started (R473). -/
  railAt    : Nat := 0
  /-- Rails within their windows (R472). -/
  rails     : List Rail := [.tollCore, .tollIo, .tollMem, .tollFlash, .hbmVpp, .hbmVdd, .hbmVddq, .fixed, .serdesAnalog, .serdesHigh, .core]
  /-- A tollhouse rail has left its window since it was good last (R472, R499). -/
  tollBad   : Bool := false
  /-- 0x5003 has been raised: the module is unusable until a module reset (R471). -/
  dead      : Bool := false
  /-- The input stages are open (R471); the input is good. -/
  open_     : Bool := false
  good      : Bool := true
  deriving DecidableEq, Repr

/-! ### Security (18) -/

/-- A boot record (R487). -/
structure BootRec where
  slot  : Nat
  trial : Bool
  tries : Nat
  deriving DecidableEq, Repr

/-- The fuses (R485). -/
structure Fuses where
  physId  : BitVec 64
  gradeB  : Bool
  secret  : List Byte
  keys    : List (List Byte)
  revoked : BitVec 4
  dbgKey  : List Byte
  svn     : Nat
  dbgMax  : Nat
  deriving DecidableEq, Repr

/-- Security state (R494). -/
structure Sec where
  slot    : Nat := 0
  trial   : Bool := false
  debug   : Nat := 0
  akValid : Bool := false
  fails   : Nat := 0
  chal    : List Byte := zeros 32
  /-- A challenge stands that no attempt has used (R493). -/
  fresh   : Bool := false
  token   : Tbl Reg := []
  level   : Reg := 0
  cnt     : Reg := 0
  fuses   : Fuses := ⟨1, false, zeros 32, [], 0, zeros 32, 0, 0⟩
  /-- The boot record area, when it was last written, and the firmware slots (R484, R487). -/
  boot    : FlashArea := []
  bootAt  : Option Nat := none
  slotA   : List Byte := []
  slotB   : List Byte := []
  /-- The certificate that the key engine issued for the attestation key at this boot, after which it refuses every use of the identity key (R491). -/
  akCert  : List Byte := []
  idLocked : Bool := false
  measure : List Byte := zeros 32
  version : BitVec 32 := 0
  /-- The Olfin fabric revision that the module runs (R365, log 6). -/
  fabric  : Nat := 1
  fwSvn   : Nat := 0
  /-- Neither firmware slot verifies (R488). -/
  noFw    : Bool := false
  /-- The tollhouse cores are halted through the debug port (R493). -/
  halted  : Bool := false
  /-- Accesses that the debug port carried out, oldest first (R493). -/
  dbgDone : List DbgAccess := []
  deriving DecidableEq, Repr

/-! ### Reset and pins (15, 19) -/

/-- Stages of the reset sequence (R430). -/
inductive RstStage where
  /-- Power is off, or the input is not good (R471). -/
  | off
  /-- Running: no reset in progress. -/
  | none
  /-- Preparation of a planned reset: the drain runs. -/
  | draining
  /-- Held until 100 ms after the previous reset began. -/
  | held
  /-- S has come. -/
  | begun
  /-- S + 10 µs: die and cores held in reset. -/
  | inReset
  /-- The tollhouse cores run the boot ROM. -/
  | bootRom
  /-- Firmware runs. -/
  | firmware
  /-- The compute die is released. -/
  | die
  deriving DecidableEq, Repr

/-- The reset sequence. -/
structure Rst where
  stage   : RstStage := .inReset
  planned : Bool := false
  /-- Cause as the RESET record gives it: 0 command, 1 automatic, 2 watchdog, 3 board, 4 power (log 6). -/
  cause   : Nat := 4
  /-- Machine time, in units of 2^-48 ns, at which the last reset began: machine time is 0 at S + 10 µs (log 5). -/
  last    : Int := -10000 * 2 ^ 48
  /-- When the drain of a planned reset began (R428). -/
  drainAt : Nat := 0
  /-- Firmware has reached IDLE since the last reset (R499). -/
  idle    : Bool := false
  /-- An automatic reset waits for a dump (R426). -/
  autoDue : Bool := false
  /-- An unplanned reset, by its cause, that waits for 100 ms after the begin of the reset that is in progress (R430, R500). -/
  again   : Option Nat := none
  /-- The compute die has been released since the reset began (R430). -/
  dieUp   : Bool := false
  deriving DecidableEq, Repr

/-- The pins of J2 and what the I3C target holds (19). -/
structure Pins where
  resetN   : Bool := true
  /-- The levels of the 16 strap pins, and which of them are open (R498). -/
  straps   : BitVec 16 := 0x8000
  opens    : BitVec 16 := 0
  /-- The I3C address has been assigned since the reset (R505). -/
  i3cDyn   : Bool := false
  pwrEnN   : Bool := false
  flashOwn : Bool := false
  /-- The board controller holds the flash (R504). -/
  flashOut : Bool := false
  /-- When the last pulse on 1PPS out rose, in units of 2^-48 ns (R66). -/
  ppsRise  : Option Nat := none
  /-- CXL_PERST_N and the transmitters (R508, R430). -/
  perstN   : Bool := true
  i3cAddr  : BitVec 7 := 0x30
  i3cAns   : Option (List Byte) := none
  /-- In-band interrupts sent (R505). -/
  ibi      : Nat := 0
  /-- The levels that the last in-band interrupt reported: FAULT_N and PWR_STATUS [7:0]. -/
  seen     : Bool × Nat := (false, 0)
  deriving DecidableEq, Repr

/-- UCIe and the watchdogs (R19, R20, R425). -/
structure Ucie where
  up0    : Bool := false
  up1    : Bool := false
  narrow : Bool := false
  /-- When both modules went down. -/
  downAt : Option Nat := none
  fedAt  : Nat := 0
  /-- When the tollhouse's poll of the die manager that may still be unanswered was sent (R425). -/
  pollAt : Option Nat := none
  deriving DecidableEq, Repr

end Sys2Proof.Machine
end

