-- ==== Sys2Proof/Machine/State.lean ====
section
/-! DEFINITION. The state of the module, what stops a command, and the state right after a module reset. -/

namespace Sys2Proof.Machine

/-- What stops the block with a fault: nothing. Every fault of the spec is raised, recorded and acted on in the state (R414 to R426), and a
command that names a unit the module lacks is an event that does not occur in it, with no effect (log 3). -/
inductive Fault where
  deriving DecidableEq, Repr

/-- What the block refuses. -/
inductive Refusal where
  /-- A command without a meaning yet. Raised by a refused arm of `exec` only; safe. -/
  | notModelled (mnemonic : String)
  /-- A word that breaks the word checks: the image that carries it is refused at load, so that no unit ever issues it
  (R179, R183, R185, R225, R249); or a word of a unit that no image has a stream for (R22, R215, R245). Raised by the meanings of words; safe. -/
  | wordRefused
  deriving DecidableEq, Repr

/-- The state of one K8 module, the block. -/
structure State where
  /-- Commands that wait, first in first out. -/
  pending  : List Instr := []
  /-- MODEL'S OWN: how many free values have been taken (log 8). -/
  freeCtr  : Nat := 0
  /-- Store windows and HBM by 48-bit local offset: rising addresses, no entry that reads as an unlisted one does (log 7). -/
  mem      : List Host.Cell := []
  /-- The transfer area in the tollhouse's LPDDR5X (R390), in the same form. -/
  xfer     : List Host.Cell := []
  /-- Bit errors that stand in protected lines (R109, R115, R264). -/
  upsets   : List Upset := []
  /-- Landing entries by span, queue, frame and entry (R92, R93). -/
  landing  : Tbl LandEntry := []
  /-- Crossing writes on the die mesh, oldest first (R97). -/
  mesh     : List MeshWrite := []
  tim      : Tim := {}
  eth      : Eth := {}
  tik      : Tik := {}
  /-- Span controllers by span number (R29). -/
  spans    : Tbl Spn := []
  /-- Clusters by logical index (R22). -/
  clusters : Tbl Cluster := []
  /-- Digest states D by cluster; an unlisted one holds its start value (R213). -/
  digs     : Tbl (BitVec 64) := []
  /-- Repair state by row (R123). -/
  rows     : Tbl Repair := []
  /-- Spoke pads are set and the tiles are tested (R122). -/
  padsSet  : Bool := false
  /-- Memory sequencers by stack (R270). -/
  msq      : Tbl Msq := []
  cxl      : Cxl := {}
  /-- Port streams by logical port (R215). -/
  pts      : Tbl Stream := []
  /-- Olfin ports and their routers by physical port. -/
  olf      : Tbl Olf := []
  cwy      : Tbl Cwy := []
  svc      : Svc := {}
  plc      : Plc := {}
  job      : Job := {}
  hst      : Hst := {}
  /-- Control-network requests without an acknowledgement yet, oldest first, each with the machine time of its request in units of
  2^-48 ns (R27). -/
  ctl      : List (CtlReq × Nat) := []
  flt      : Flt := {}
  dmp      : Dmp := {}
  cfg      : Cfg := {}
  pwr      : Pwr := {}
  sec      : Sec := {}
  rst      : Rst := {}
  pins     : Pins := {}
  ucie     : Ucie := {}
  deriving DecidableEq, Repr

/-- The module right after a module reset, at S + 10 µs of the reset sequence (R430): RESETTING, every register at its reset
value, nothing listed in memory (log 5). Values the spec leaves open are those of logs 4 and 6. -/
def State.reset : State := {}

end Sys2Proof.Machine
end

