-- ==== Sys2Proof/Machine/Ops.lean ====
section
/-! DEFINITION. The named operations over the state: memories, tables of units, machine time, faults raised, interrupts. -/

namespace Sys2Proof.Machine

/-! ### Memory: a canonical list of cells (R23, R103, R245, R390; log 7) -/

/-- What an unlisted address reads as: R112 and R269 write store and HBM to zero. -/
def memDefault : Byte := 0

/-- The canonical form: addresses rise, and no cell holds what an unlisted address reads as. -/
def memWf : List Host.Cell → Bool
  | [] => true
  | [c] => c.2 != memDefault
  | c :: d :: r => c.2 != memDefault && decide (c.1 < d.1) && memWf (d :: r)

/-- The byte at address `a`. -/
def memGet : List Host.Cell → Nat → Byte
  | [], _ => memDefault
  | c :: r, a => if a = c.1 then c.2 else if a < c.1 then memDefault else memGet r a

/-- The memory with byte `v` at address `a`. -/
def memSet : List Host.Cell → Nat → Byte → List Host.Cell
  | [], a, v => if v = memDefault then [] else [(a, v)]
  | c :: r, a, v =>
    if a < c.1 then (if v = memDefault then c :: r else (a, v) :: c :: r)
    else if a = c.1 then (if v = memDefault then r else (a, v) :: r)
    else c :: memSet r a v

/-- `n` bytes from address `a`. -/
def memRead (m : List Host.Cell) (a : Nat) : Nat → List Byte
  | 0 => []
  | n + 1 => memGet m a :: memRead m (a + 1) n

/-- The memory with the bytes `bs` from address `a`. -/
def memWrite (m : List Host.Cell) (a : Nat) : List Byte → List Host.Cell
  | [] => m
  | b :: r => memWrite (memSet m a b) (a + 1) r

/-- The memory with `n` bytes from `a` set to zero. -/
def memZero (m : List Host.Cell) (a n : Nat) : List Host.Cell := m.filter (fun c => c.1 < a || a + n ≤ c.1)

/-- First local offset of the HBM region (R245). -/
def hbmBase : Nat := 0x008000000000
/-- Lines of one stack (09). -/
def stackLines : Nat := 805306368
/-- First local offset past the HBM region. -/
def hbmEnd : Nat := hbmBase + 4 * stackLines * 128
/-- First local offset of the CXL region and of its end (R272). -/
def cxlBase : Nat := 0x010000000000
/-- The end of the CXL region (R272). -/
def cxlEnd : Nat := 0x050000000000
/-- First local offset of the register region (R442). -/
def regBase : Nat := 0xFFF000000000
/-- The local offset of a store line (R23, R103). -/
def storeAddr (cl line : Nat) : Nat := cl * 0x100000 + line * 128
/-- Is local offset `a` in a populated store window (R23)? -/
def inStore (a : Nat) : Bool := a / 0x100000 < 800 && a % 0x100000 < 0xC0000
/-- Is local offset `a` in the HBM region? -/
def inHbm (a : Nat) : Bool := hbmBase ≤ a && a < hbmEnd

/-! ### Units -/

/-- Cluster `c`. -/
def State.clu (s : State) (c : Nat) : Cluster := Tbl.get {} s.clusters c
/-- The state with cluster `c` replaced. -/
def State.setClu (s : State) (c : Nat) (k : Cluster) : State := { s with clusters := Tbl.set s.clusters c k }
/-- The state with cluster `c` changed by `f`. -/
def State.updClu (s : State) (c : Nat) (f : Cluster → Cluster) : State := s.setClu c (f (s.clu c))
/-- Span controller `p`. -/
def State.spn (s : State) (p : Nat) : Spn := Tbl.get {} s.spans p
/-- The state with span controller `p` replaced. -/
def State.setSpn (s : State) (p : Nat) (k : Spn) : State := { s with spans := Tbl.set s.spans p k }
/-- The state with span controller `p` changed by `f`. -/
def State.updSpn (s : State) (p : Nat) (f : Spn → Spn) : State := s.setSpn p (f (s.spn p))
/-- Memory sequencer of stack `st`. -/
def State.ms (s : State) (st : Nat) : Msq := Tbl.get {} s.msq st
/-- The state with a memory sequencer replaced. -/
def State.setMs (s : State) (st : Nat) (k : Msq) : State := { s with msq := Tbl.set s.msq st k }
/-- The state with a memory sequencer changed by `f`. -/
def State.updMs (s : State) (st : Nat) (f : Msq → Msq) : State := s.setMs st (f (s.ms st))
/-- Physical Olfin port `p`. -/
def State.port (s : State) (p : Nat) : Olf := Tbl.get {} s.olf p
/-- The state with an Olfin port replaced. -/
def State.setPort (s : State) (p : Nat) (k : Olf) : State := { s with olf := Tbl.set s.olf p k }
/-- The state with an Olfin port changed by `f`. -/
def State.updPort (s : State) (p : Nat) (f : Olf → Olf) : State := s.setPort p (f (s.port p))
/-- The router of physical port `p`. -/
def State.rtr (s : State) (p : Nat) : Cwy := Tbl.get {} s.cwy p
/-- The state with a router replaced. -/
def State.setRtr (s : State) (p : Nat) (k : Cwy) : State := { s with cwy := Tbl.set s.cwy p k }
/-- The state with a router changed by `f`. -/
def State.updRtr (s : State) (p : Nat) (f : Cwy → Cwy) : State := s.setRtr p (f (s.rtr p))
/-- The stream of logical port `p`. -/
def State.pt (s : State) (p : Nat) : Stream := Tbl.get {} s.pts p
/-- The state with a port stream replaced. -/
def State.setPt (s : State) (p : Nat) (k : Stream) : State := { s with pts := Tbl.set s.pts p k }
/-- Beacon state of physical port `p`. -/
def State.bcn (s : State) (p : Nat) : BeaconPort := Tbl.get {} s.tim.ports p
/-- Repair state of row `r`. -/
def State.row (s : State) (r : Nat) : Repair := Tbl.get {} s.rows r
/-- The state with machine-time fields changed. -/
def State.updTim (s : State) (f : Tim → Tim) : State := { s with tim := f s.tim }
/-- The state with host-interface fields changed. -/
def State.updHst (s : State) (f : Hst → Hst) : State := { s with hst := f s.hst }
/-- The state with fault-log fields changed. -/
def State.updFlt (s : State) (f : Flt → Flt) : State := { s with flt := f s.flt }
/-- The state with placement fields changed. -/
def State.updPlc (s : State) (f : Plc → Plc) : State := { s with plc := f s.plc }
/-- The state with service-agent fields changed. -/
def State.updSvc (s : State) (f : Svc → Svc) : State := { s with svc := f s.svc }
/-- The state with configuration fields changed. -/
def State.updCfg (s : State) (f : Cfg → Cfg) : State := { s with cfg := f s.cfg }
/-- The state with power fields changed. -/
def State.updPwr (s : State) (f : Pwr → Pwr) : State := { s with pwr := f s.pwr }
/-- The state with job fields changed. -/
def State.updJob (s : State) (f : Job → Job) : State := { s with job := f s.job }
/-- The state with tick-sequencer fields changed. -/
def State.updTik (s : State) (f : Tik → Tik) : State := { s with tik := f s.tik }
/-- The state with staging fields changed. -/
def State.updCxl (s : State) (f : Cxl → Cxl) : State := { s with cxl := f s.cxl }

/-- A fold over a list of numbers: `f` applied to the state for each. -/
def forEach (s : State) (l : List Nat) (f : State → Nat → State) : State := l.foldl f s

/-! ### Geometry -/

/-- The span of a logical cluster (R29, R31). -/
def spanOf (cl : Nat) : Nat := cl / 32 * 4 + cl % 32 / 8
/-- The position of a logical cluster in its span (R202). -/
def posOf (cl : Nat) : Nat := cl % 8
/-- The logical cluster at a position of a compute span (R31). -/
def cluAt (span pos : Nat) : Nat := span / 4 * 32 + span % 4 * 8 + pos
/-- phys_col (R118). -/
def physCol (l f : Nat) : Nat := if l < f then l else l + 1
/-- First physical column of quarter `q` in a row whose failed column is `f` (R30). -/
def groupStart (q f : Nat) : Nat := if q ≠ 0 ∧ f < 8 * q then 8 * q + 1 else 8 * q
/-- Number of inbound queues of a span (R92). -/
def queuesOf (span : Nat) : Nat :=
  if span < 100 then 2 else if span < 104 then 4 else if span < 110 then 4 else if span = 110 then 2 else 0

/-- The physical column of a logical cluster (R118). -/
def State.physColOf (s : State) (cl : Nat) : Nat := physCol (cl % 32) (s.row (cl / 32)).active
/-- The agent number of a part of a cluster: 0 ME, 1 VU, 2 MV, 3 SQ, 4 store (R513). -/
def State.agentOf (s : State) (cl part : Nat) : Nat :=
  5 * (s.physColOf cl - groupStart (cl % 32 / 8) (s.row (cl / 32)).active) + part

/-! ### Time and the schedule -/

/-- One nanosecond in the units of machine time. -/
def ns : Nat := 2 ^ 48

/-- Machine time in whole nanoseconds. -/
def State.nowNs (s : State) : Nat := s.tim.now.toNat / ns
/-- Machine time in units of 2^-16 ns. -/
def State.now16 (s : State) : Nat := s.tim.now.toNat / 2 ^ 32
/-- Machine time moved on to instant `t`, in units of 2^-48 ns, when that lies ahead (log 2). -/
def State.advance (s : State) (t : Nat) : State :=
  if s.tim.now.toNat < t then { s with tim := { s.tim with now := BitVec.ofNat 112 t } } else s

/-- Numbers of the works that come at a fixed interval: ANNOUNCE, the follower, the polls, the policy, CLAIM, the assize, the pulse, beacons,
windows; then tests of a port in DETECT, its audits, its frames, and temperatures of a stack. -/
def beatAnnounce : Nat := 0
/-- The follower's exchange (R37). -/
def beatFollower : Nat := 1
/-- The tollhouse's poll of the die manager (R425). -/
def beatPoll : Nat := 2
/-- The die manager's polls (R425). -/
def beatSpans : Nat := 3
/-- The policy (R478). -/
def beatPolicy : Nat := 4
/-- CLAIM (R366). -/
def beatClaim : Nat := 5
/-- Passes of the assize (R457). -/
def beatAssize : Nat := 6
/-- 1PPS out (R66). -/
def beatPulse : Nat := 7
/-- Beacons (R38). -/
def beatBeacon : Nat := 14
/-- Windows (R43). -/
def beatWindow : Nat := 15
/-- Lane tests of a port (R293). -/
def beatDetect (p : Nat) : Nat := 8 + p
/-- Audits of a port (R317). -/
def beatAudit (p : Nat) : Nat := 16 + p
/-- Frames of a port that no job governs (R289). -/
def beatFrame (p : Nat) : Nat := 24 + p
/-- The temperature of a stack (R270). -/
def beatTemp (st : Nat) : Nat := 32 + st

/-- Machine time moved on to the moment at which periodic work `n` is next due: `period` after it was last due, and at once the first time
(DESIGN CHOICE, log 97). -/
def State.beat (s : State) (n period : Nat) : State :=
  let s := match s.tim.beats.find? (fun b => b.1 == n) with
    | some b => s.advance (b.2 + period)
    | none => s
  { s with tim := { s.tim with beats := Tbl.set s.tim.beats n s.tim.now.toNat } }

/-- Machine time moved on to the next multiple of `period` at which work `n`, which comes at the multiples, has not come yet. -/
def State.alignedBeat (s : State) (n period : Nat) : State :=
  let t := roundUp s.tim.now.toNat period
  let s := s.advance (if s.tim.beats.contains (n, t) then t + period else t)
  { s with tim := { s.tim with beats := Tbl.set s.tim.beats n s.tim.now.toNat } }

/-- K of TIK_CTL (R67). -/
def State.k (s : State) : Nat := field s.tik.ctl 0 7
/-- KP of TIK_CTL (R80). -/
def State.kp (s : State) : Nat := field s.tik.ctl 8 5
/-- RATED of TIK_CTL (R75). -/
def State.rated (s : State) : Nat := field s.tik.ctl 16 4
/-- Is a range of the CXL region mapped: does an enabled decoder cover each of its offsets (R272)? Decoders cover units of 256 MiB. -/
def State.mapped (s : State) (a len : Nat) : Bool :=
  decide (cxlBase ≤ a) && decide (a + len ≤ cxlEnd) && (range' (a / 2 ^ 28) ((a + len - 1) / 2 ^ 28 + 1 - a / 2 ^ 28)).all (fun u =>
    s.cxl.hdm.any (fun d => bit d 31 && decide (field d 0 14 ≤ u - 4096) && decide (u - 4096 < field d 0 14 + field d 16 15)))
/-- The current tick (R68). -/
def State.tick (s : State) : Nat := s.tik.phaseNo / 8
/-- The current phase of the tick. -/
def State.phase (s : State) : Nat := s.tik.phaseNo % 8
/-- The current slot since the epoch: the first of the phase, or the last whose router work is done (R69, R99). -/
def State.slotNow (s : State) : Nat := max (s.tik.phaseNo * 32 * s.k) (s.tik.slotNo - 1)
/-- Machine time of the edge of phase `P` since the epoch, in units of 2^-48 ns (R68). -/
def State.phaseTime (s : State) (P : Nat) : Nat := (s.tim.epoch.toNat + P * s.k * 12) * ns
/-- Machine time of slot `j` since the epoch (R69): 0.375 ns each. -/
def State.slotTime (s : State) (j : Nat) : Nat := s.tim.epoch.toNat * ns + j * (3 * 2 ^ 45)
/-- C(f) for step index `i` (R71, R74). -/
def cyclesPerPhase (k i : Nat) : Nat := k * 12 * (12 + i) / 10
/-- The plan ceiling (R71). -/
def planCeiling (k i : Nat) : Nat := cyclesPerPhase k i * 92 / 100
/-- One period of the current step, in units of 2^-48 ns (R74). -/
def State.period (s : State) : Nat := ns * 10 / (12 + s.tik.stepNow)
/-- Stretched cycles of a span's current mode that have run by machine time (R85, R86; log 35): a hold lasts eight. -/
def State.stretched (s : State) (k : Spn) : Nat :=
  let n := fun (q : Nat) => (s.tim.now.toNat - k.modeAt) * 4 / (q * max 1 s.period)
  match k.mode with
  | .nominal => 0
  | .l1 => n 5
  | .l2 => n 6
  | .hold => min (n 5) 8
/-- A span's clock stopped (R76, R178): the stretched cycles that have run are counted, and none follows (R86). A trip that stands shows on. -/
def State.clockOff (s : State) (k : Spn) : Spn :=
  { k with running := false, stopped := true, cnt := satInc k.cnt 16 32 (s.stretched k - k.cleared), mode := .nominal, modeFrom := 0, cleared := 0 }
/-- A span's clock set going at ARM (R76): its running cycles count from here (R86, log 35), stretched from the first while a trip stands
(R85). -/
def State.clockOn (s : State) (k : Spn) : Spn :=
  { k with stopped := false, clearAt := none, mode := if k.l2 then .l2 else if k.l1 then .l1 else .nominal, modeFrom := 0, modeAt := s.tim.now.toNat,
           cleared := 0 }
/-- The clocks of the compute spans whose controllers answer stopped (R76, R178). -/
def State.stopClocks (s : State) : State :=
  forEach s (List.range 100) (fun s p => if (s.spn p).silent then s else s.updSpn p s.clockOff)
/-- The module's top step (R74). -/
def State.topStep (s : State) : Nat := if s.sec.fuses.gradeB then 7 else 10
/-- The number of the current step (R403). -/
def State.step (s : State) : Nat := s.job.firstStep + s.job.stepNo
/-- Is a job armed or running? -/
def State.busy (s : State) : Bool := s.job.armed || s.job.running
/-- Has firmware come up since the reset began? -/
def State.fwStage (s : State) : Bool :=
  match s.rst.stage with
  | .firmware | .die | .none | .draining | .held => true
  | _ => false
/-- Does firmware run: it has come up, and the cores are not halted through the debug port (R493)? -/
def State.fwUp (s : State) : Bool :=
  s.fwStage && !s.sec.halted
/-- Are both UCIe modules down, so that nothing crosses between the dies (R19, R20)? -/
def State.ucieCut (s : State) : Bool := s.ucie.downAt.isSome
/-- Does span controller `p` give the tollhouse no answer: it is silent, or no UCIe module is up (R19, R27)? -/
def State.mute (s : State) (p : Nat) : Bool := (s.spn p).silent || s.ucieCut
/-- Is the module wedged, or unusable after 0x5003, until a module reset (R415, R426, R471)? -/
def State.unusable (s : State) : Bool := s.flt.wedged || s.pwr.dead
/-- A control-network request that has no acknowledgement yet (R27). -/
def State.ask (s : State) (q : CtlReq) : State := { s with ctl := s.ctl ++ [(q, s.tim.now.toNat)] }
/-- This module's chip number as fault records and refusals give it. -/
def State.chipOr0 (s : State) : Nat := if s.plc.placed then s.plc.chip else 0

/-- Bytes of the loaded image. -/
def State.imgAt (s : State) (ofs n : Nat) : Nat := leAt s.job.img ofs n
/-- The rated step of the job that is armed or runs: of an armed one as its header gives it, since TIK_CTL takes it at the start (R75). -/
def State.jobRated (s : State) : Nat := if s.job.running then s.rated else s.imgAt 10 1 % 16
/-- STEP_TICKS of the loaded image (R154). -/
def State.stepTicks (s : State) : Nat := s.imgAt 16 4

/-- One cycle of the 156.25 MHz oscillator: the counter advances by the increment (R33). -/
def oscillatorCycle (s : State) : State :=
  { s with tim := { s.tim with now := s.tim.now + (s.tim.inc.setWidth 112) } }

/-! ### Faults, events and interrupts -/

/-- Does a fault of the step of `r`, raised now, fall in a step already aborted (R414, R420)? -/
def State.secondary (s : State) (r : Raised) : Bool := s.job.running && s.job.aborts.any (fun a => a.1 ≤ r.step)

/-- A fault raised (R414): it waits for FAULT_RECORD. 0x9001 wedges the module at once and starts the automatic-reset interval
(R426). -/
def State.raiseFull (s : State) (r : Raised) : State :=
  let f := { s.flt with raised := s.flt.raised ++ [{ r with sec := s.secondary r, run := s.job.running }] }
  { s with flt := if r.code = 0x9001 then
      { f with wedged := true, hangAt := some (f.hangAt.getD s.tim.now.toNat), cnt2 := satInc f.cnt2 32 16 1 } else f }

/-- A fault with the usual fields: code, SOURCE, AGENT, DETAIL, and a local offset of this module. -/
def State.raise (s : State) (code : BitVec 16) (src agent : Nat) (detail : Reg := 0) (addr : Option Nat := none)
    (aux : Nat := 0) : State :=
  s.raiseFull { code, source := src, agent, tick := if s.job.running then s.tick else 0,
                step := if s.job.running then s.step else 0, addr := addr.map (· + s.chipOr0 * 2 ^ 48), detail, aux,
                origin := none, remote := false, late := false }

/-- A fault detected at a tick edge belongs to the tick that ends there, and to that tick's step (R419). -/
def State.raiseEdge (s : State) (code : BitVec 16) (src agent : Nat) (detail : Reg) : State :=
  s.raiseFull { code, source := src, agent, tick := s.tick - 1, step := s.job.firstStep + (s.tick - 1) / max 1 s.stepTicks, addr := none, detail,
                aux := 0, origin := none, remote := false, late := false }

/-- SOURCE of the tollhouse and of the regulator stage (R414). -/
def srcToll : Nat := 0x100
/-- SOURCE of the regulator stage (R414). -/
def srcReg : Nat := 0x101

/-- MSI-X vector `v` signalled (R412). Vectors 0 and 1 are held back while their coalescing interval runs. -/
def State.signal (s : State) (v : Nat) : State :=
  let h := s.hst
  let coal := field h.ctl 16 10 ≠ 0
  let t := s.tim.now.toNat
  { s with hst :=
      if v = 0 then (if h.coal0 then { h with owed0 := true } else { h with vectors := h.vectors ++ [0], coal0 := coal, coalAt0 := t })
      else if v = 1 then (if h.coal1 then { h with owed1 := true } else { h with vectors := h.vectors ++ [1], coal1 := coal, coalAt1 := t })
      else { h with vectors := h.vectors ++ [v] } }

/-- Entries of a ring (R392). -/
def ringSize (r : Reg) : Nat := 2 ^ field r 0 4
/-- Is the event ring full (R394)? -/
def State.evtFull (s : State) : Bool := (s.hst.evtTail + 1) % ringSize s.hst.evt == s.hst.evtRead
/-- Is the completion ring full (R394)? -/
def State.compFull (s : State) : Bool := (s.hst.compTail + 1) % ringSize s.hst.comp == s.hst.compRead

/-- EVENT_POST (R394, R409): an event entry of type `ty` with bytes 16 to 63 `body`, written at the event ring's tail; discarded and
counted when the ring is full or disabled. -/
def State.event (s : State) (ty : Nat) (body : List Byte) : State :=
  let h := s.hst
  let seq := (h.evtSeq + 1) % 2 ^ 32
  if !bit h.ctl 0 then { s with hst := { h with evtSeq := seq } }
  else if s.evtFull then
    { s with hst := { h with evtSeq := seq, evtLost := h.evtLost + 1, cnt := satInc h.cnt 40 16 1 } }
  else
    let e := leBytes ty 2 ++ [if h.evtPhase then 1 else 0, 0] ++ leBytes h.evtSeq 4 ++ leBytes s.nowNs 8 ++ padTo body 48
    let t := (h.evtTail + 1) % ringSize h.evt
    State.signal { s with hst := { h with evtSeq := seq, evtRing := Tbl.set h.evtRing h.evtTail e, evtTail := t,
                                          evtPhase := if t = 0 then !h.evtPhase else h.evtPhase } } 1

/-- A TIME event (R58, R409). -/
def timStatus (t : Tim) : Reg :=
  orAll [flag t.good 0, flag t.holdover 1, flag t.isRoot 2, flag t.tai 3, flag t.depthLimit 4, flag t.freqLimit 5,
    flag t.ptpLock 6, flag t.followerOk 7, flag t.offsetWide 8]

/-- A step abort asked for (R419): STEP_ABORT issues it. -/
def State.askAbort (s : State) (step : Nat) (code : BitVec 16) : State :=
  s.updFlt (fun f => { f with asked := f.asked ++ [(step, code, s.chipOr0 + 32768 * s.plc.replica)] })

/-- A free byte string (log 8). -/
def State.freeBytes (s : State) (n : Nat) : List Byte × State :=
  ((range' s.freeCtr n).map Config.freeByte, { s with freeCtr := s.freeCtr + n })

end Sys2Proof.Machine
end

