-- ==== Sys2Proof/Machine/Flash.lean ====
section
/-! DEFINITION. The flash: what an area holds, and the scan of its records (16: R461, R462, R464; 18: R484, R487). -/

namespace Sys2Proof.Machine

/-- The byte at an offset of an area: what was programmed there last, 0xFF where nothing was since the area's last erasure (R462, R464). -/
def areaByte (a : FlashArea) (o : Nat) : Byte :=
  a.foldl (fun b c => if c.1 ≤ o ∧ o < c.1 + c.2.length then nth 0xFF c.2 (o - c.1) else b) 0xFF

/-- `n` bytes of an area. -/
def areaRead (a : FlashArea) (o n : Nat) : List Byte := (range' o n).map (areaByte a)

/-- How the records of an area are laid out: where SEQ stands, and how many bytes the CRC covers; none where the first 32 bytes give no length
that a record may have. -/
structure RecForm where
  seqAt   : Nat
  covered : List Byte → Option Nat

/-- A record with its CRC and its COMMIT, which is written last (R462, R487). -/
def sealed (body : List Byte) : List Byte := body ++ leBytes (crc32 body).toNat 4 ++ zeros 4

/-- Does a record of which the CRC covers `n` bytes stand after one with SEQ `last` (R464)? -/
def recStands (b : List Byte) (n seqAt : Nat) (last : Option Nat) : Bool :=
  leAt b (n + 4) 4 == 0 && leAt b n 4 == (crc32 (b.take n)).toNat && last.all (fun q => decide (q < leAt b seqAt 8))

/-- The scan of an area of `size` bytes from offset `o` (R464): the records that stand, in order, and the append point. A record that does not
stand is discarded up to the next 4 KiB boundary. -/
def scanArea (f : RecForm) (a : FlashArea) (size : Nat) : Nat → Nat → Option Nat → List (List Byte) × Nat
  | 0, o, _ => ([], o)
  | fuel + 1, o, last =>
    let h := areaRead a o 32
    if size ≤ o || h.all (· == 0xFF) then ([], o)
    else
      match f.covered h with
      | none => scanArea f a size fuel ((o / 4096 + 1) * 4096) last
      | some n =>
        let b := areaRead a o (n + 8)
        if o % 4096 + n + 8 ≤ 4096 && recStands b n f.seqAt last then
          let r := scanArea f a size fuel (o + roundUp (n + 8) 32) (some (leAt b f.seqAt 8))
          (b :: r.1, r.2)
        else scanArea f a size fuel ((o / 4096 + 1) * 4096) last

/-- Only the first `n` bytes of the record programmed last have reached an area. -/
def cutLast (a : FlashArea) (n : Nat) : FlashArea := a.dropLast ++ (a.getLast?.toList.map (fun c => (c.1, c.2.take n)))

/-- The part of a write at flash offset `w.1` that falls into the `n` bytes from `base`, by offset in them. -/
def clipWrite (base n : Nat) (w : Nat × List Byte) : Nat × List Byte :=
  (w.1 - base, (w.2.drop (base - w.1)).take (base + n - max w.1 base))

/-- What an area holds after these writes, by flash offset, oldest first. -/
def areaWrites (a : FlashArea) (base n : Nat) (ws : List (Nat × List Byte)) : FlashArea :=
  a ++ (ws.map (clipWrite base n)).filter (fun c => !c.2.isEmpty)

/-! ### Boot records (R484, R487) -/

/-- Bytes of the boot record area (R484). -/
def bootBytes : Nat := 0x20000
/-- Bytes of a firmware slot (R484). -/
def slotBytes : Nat := 112 * 2 ^ 20

/-- The layout of boot records: 24 bytes under the CRC, SEQ first (DESIGN CHOICE, log 61). -/
def bootForm : RecForm := { seqAt := 0, covered := fun _ => some 24 }

/-- The bytes of a boot record (R487; their order: log 61). -/
def BootRec.bytes (r : BootRec) (seq : Nat) : List Byte :=
  sealed (leBytes seq 8 ++ leBytes r.slot 1 ++ [if r.trial then 1 else 0] ++ leBytes r.tries 1 ++ zeros 13)

/-- The boot record in these bytes. -/
def bootRecOf (b : List Byte) : BootRec := ⟨leAt b 8 1 % 2, leAt b 9 1 ≠ 0, leAt b 10 1 % 4⟩

/-- The boot records that stand, and the append point (R464, R487). -/
def Sec.bootScan (x : Sec) : List (List Byte) × Nat := scanArea bootForm x.boot bootBytes 4097 0 none

/-- SEQ of the newest boot record that stands, 0 where none does. -/
def Sec.bootSeq (x : Sec) : Nat := (x.bootScan.1.getLast?.map (fun b => leAt b 0 8)).getD 0

/-- The record that the boot ROM starts from: the newest that stands; without one, slot A, not in trial (R488: 1). -/
def Sec.newest (x : Sec) : BootRec := (x.bootScan.1.getLast?.map bootRecOf).getD ⟨0, false, 0⟩

/-- A boot record appended at the append point with the next SEQ; a full area is erased and takes the current record first (R487; log 61). -/
def Sec.bootAppend (x : Sec) (r : BootRec) : Sec :=
  let q := x.bootSeq
  let o := x.bootScan.2
  { x with boot := if o < bootBytes then x.boot ++ [(o, r.bytes (q + 1))] else [(0, x.newest.bytes q), (32, r.bytes (q + 1))] }

/-- A boot record appended now. -/
def State.bootAppend (s : State) (r : BootRec) : State :=
  { s with sec := { s.sec.bootAppend r with bootAt := some s.tim.now.toNat } }

/-- The image in a firmware slot, 0 for A and 1 for B (R484, R487). -/
def Sec.slotImage (x : Sec) (slot : Nat) : List Byte := if slot = 0 then x.slotA else x.slotB
/-- A firmware slot with another image in it, as far as the slot reaches (R484). -/
def Sec.putSlot (x : Sec) (slot : Nat) (img : List Byte) : Sec :=
  if slot = 0 then { x with slotA := img.take slotBytes } else { x with slotB := img.take slotBytes }

/-- A slot image after writes in the flash. -/
def slotWrites (img : List Byte) (base : Nat) (ws : List (Nat × List Byte)) : List Byte :=
  ws.foldl (fun img w =>
    let c := clipWrite base slotBytes w
    if c.2.isEmpty then img
    else img.take c.1 ++ List.replicate (c.1 - img.length) 0xFF ++ c.2 ++ img.drop (c.1 + c.2.length)) img

end Sys2Proof.Machine
end

