-- ==== Sys2Proof/Machine/Journal.lean ====
section
/-! DEFINITION. Appending to the flash journal (16: R461 to R466) and marking tiles failed (04: R119). -/

namespace Sys2Proof.Machine

/-- Journal record types (R463). -/
def jrGeneration : BitVec 16 := 0x0010
/-- RESET records (R463). -/
def jrReset : BitVec 16 := 0x0011
/-- FREQ records (R463). -/
def jrFreq : BitVec 16 := 0x0012
/-- FAULT records (R463). -/
def jrFault : BitVec 16 := 0x0013
/-- REPAIR records (R463). -/
def jrRepair : BitVec 16 := 0x0020
/-- UE_LINE records (R463). -/
def jrUeLine : BitVec 16 := 0x0021
/-- REGISTER records (R463). -/
def jrRegister : BitVec 16 := 0x0030
/-- FORGET records (R463). -/
def jrForget : BitVec 16 := 0x0031
/-- Security records: debug unlocks (R463, R493). -/
def jrSecurity : BitVec 16 := 0x0100

/-- Bytes of a bank (R461), and of its part for GENERATION, RESET and REPAIR only (R466). -/
def bankBytes : Nat := 32 * 2 ^ 20
/-- Start of the reserved part of a bank (R466). -/
def bankReserve : Nat := bankBytes - 256 * 2 ^ 10
/-- Fill at which compaction starts (R465). -/
def bankCompact : Nat := 24 * 2 ^ 20

/-- The length of a record (R462). -/
def recLen (payload : Nat) : Nat := roundUp (32 + roundUp payload 8) 32

/-- Where a record of length `n` starts when the append point is `a` (R461). -/
def recStart (a n : Nat) : Nat := if a % 4096 + n > 4096 then roundUp a 4096 else a

/-- The active bank. -/
def Cfg.bank (c : Cfg) : JBank := if c.active then c.bankB else c.bankA
/-- The active bank replaced. -/
def Cfg.setBank (c : Cfg) (b : JBank) : Cfg := if c.active then { c with bankB := b } else { c with bankA := b }
/-- The other bank. -/
def Cfg.spare (c : Cfg) : JBank := if c.active then c.bankA else c.bankB
/-- The other bank replaced. -/
def Cfg.setSpare (c : Cfg) (b : JBank) : Cfg := if c.active then { c with bankA := b } else { c with bankB := b }

/-! ### Records (R461, R462) -/

/-- The bytes of a record (R462): header, payload padded to a multiple of 8, CRC-32 over both, COMMIT. -/
def JRec.bytes (r : JRec) : List Byte :=
  sealed (leBytes r.ty.toNat 2 ++ leBytes r.payload.length 2 ++ leBytes r.seq 8 ++ leBytes r.time 8 ++ leBytes r.gen.toNat 1 ++ zeros 3 ++
    padTo r.payload (roundUp r.payload.length 8))

/-- The record in these bytes. -/
def jrecOf (b : List Byte) : JRec :=
  { ty := BitVec.ofNat 16 (leAt b 0 2), payload := slice b 24 (leAt b 2 2), seq := leAt b 4 8, time := leAt b 12 8, gen := BitVec.ofNat 4 (leAt b 20 1) }

/-- The layout of journal records: LEN gives how many bytes the CRC covers (R462). -/
def journalForm : RecForm := { seqAt := 4, covered := fun h => if leAt h 2 2 ≤ 4064 then some (24 + roundUp (leAt h 2 2) 8) else none }

/-- The scan of a bank (R464): the records that stand, and the append point. -/
def JBank.scan (b : JBank) : List JRec × Nat :=
  let r := scanArea journalForm b.cells bankBytes 1048577 0 none
  (r.1.map jrecOf, r.2)

/-- The records of a bank that stand. -/
def JBank.recs (b : JBank) : List JRec := b.scan.1

/-- A bank with one more record. Where the record starts at the next 4 KiB boundary, zeros are written up to there, so that a scan goes on
(DESIGN CHOICE, log 112). -/
def JBank.add (b : JBank) (r : JRec) : JBank :=
  let o := recStart b.append (recLen r.payload.length)
  let gap := if o = b.append then [] else [(b.append, zeros (o - b.append))]
  { b with cells := b.cells ++ gap ++ [(o, r.bytes)], append := o + recLen r.payload.length }

/-- May a record of this type and payload length still go into the active bank (R466): it starts below the last 256 KiB, or its type may
start there, and it fits? -/
def Cfg.takes (c : Cfg) (ty : BitVec 16) (len : Nat) : Bool :=
  let o := recStart c.bank.append (recLen len)
  (decide (o < bankReserve) || ty == jrGeneration || ty == jrReset || ty == jrRepair) && decide (o + recLen len ≤ bankBytes)

/-- A record formed now (R462). -/
def State.jrec (s : State) (ty : BitVec 16) (payload : List Byte) (seq : Nat) : JRec :=
  { ty, payload, seq, time := if s.tim.good then s.nowNs else 0, gen := s.flt.gen }

/-! ### Banks and compaction (R463, R465) -/

/-- BANK and SEAL records (R463). -/
def jrBank : BitVec 16 := 0x0001
/-- SEAL records (R463). -/
def jrSeal : BitVec 16 := 0x0002
/-- HBM_TRAIN records (R463). -/
def jrTrain : BitVec 16 := 0x0022

/-- Is record `r` the latest of its kind in `l`: of those that share its type and the first `n` payload bytes? -/
def latest (l : List JRec) (n : Nat) (r : JRec) : Bool := !l.any (fun x => x.ty == r.ty && x.payload.take n == r.payload.take n && decide (r.seq < x.seq))

/-- Is a record kept at compaction (R463)? -/
def keeps (l : List JRec) (r : JRec) : Bool :=
  if r.ty = jrBank || r.ty = jrSeal || r.ty = jrForget then false
  else if r.ty = jrGeneration || r.ty = jrReset || r.ty = jrFreq then latest l 0 r
  else if r.ty = jrFault then decide ((l.filter (fun x => x.ty == jrFault && decide (r.seq < x.seq))).length < 1024)
  else if r.ty = jrUeLine then !l.any (fun x => x.ty == jrRepair && x.payload.take 2 == r.payload.take 2)
  else if r.ty = jrTrain then latest l 1 r
  else if r.ty = jrRegister then
    latest l 8 r && !l.any (fun x => x.ty == jrForget && x.payload.take 8 == r.payload.take 8 && decide (r.seq < x.seq))
  else true

/-- An erased bank with BANK at its start (log 21: its SEQ is 0, below every record carried over). -/
def State.openBank (s : State) (count : Nat) : JBank := JBank.add { count := count } (s.jrec jrBank (leBytes count 8) 0)

/-- A bank sealed after the records carried (R463, R465). -/
def State.sealBank (s : State) (b : JBank) (recs : List JRec) : JBank :=
  (recs.foldl JBank.add b).add (s.jrec jrSeal (leBytes ((recs.getLast?.map (·.seq)).getD 0) 8) s.cfg.nextSeq)

/-- A compaction begins with BANK at the start of the spare bank, or waits until that bank is erased (R465: 1, 2). -/
def State.startCompact (s : State) : State :=
  if s.cfg.compacting then s
  else if s.cfg.spareReady then
    s.updCfg (fun c => { (c.setSpare (s.openBank (c.bank.count + 1))) with
                         compacting := true, compactDue := false, spareReady := false, compactSeq := c.nextSeq })
  else s.updCfg (fun c => { c with compactDue := true })

/-- The records that a compaction carries (R465: 3, 4): of those that stood when it began the ones kept, then every record appended since. -/
def Cfg.carried (c : Cfg) : List JRec :=
  let l := c.bank.recs
  let old := l.filter (fun r => decide (r.seq < c.compactSeq))
  old.filter (keeps old) ++ l.filter (fun r => decide (c.compactSeq ≤ r.seq) && r.ty != jrBank)

/-- JOURNAL_APPEND (R462, R463, R465, R466): one record appended whole, or dropped with JRNL_FULL. Compaction starts when the
append point reaches 24 MiB and the spare bank is erased. -/
def State.journal (s : State) (ty : BitVec 16) (payload : List Byte) : State :=
  let c := s.cfg
  if c.takes ty payload.length then
    let b := c.bank.add (s.jrec ty payload c.nextSeq)
    let s := { s with cfg := { c.setBank b with nextSeq := c.nextSeq + 1, full := c.full || decide (bankReserve ≤ b.append)
                                                appAt := some s.tim.now.toNat } }
    if bankCompact ≤ b.append then s.startCompact else s
  else { s with cfg := { c with full := true } }

/-- Was the flash written at this very moment: by the journal, or with a boot record? -/
def State.writesNow (s : State) (t : Option Nat) : Bool := t == some s.tim.now.toNat

/-- Power goes, `s` being the state until then and `b` what lasts: a record written at this very moment reaches the flash in part (R462, R489).
How much of it does is a free value (log 8); a record cut short has no COMMIT and does not stand. -/
def State.cutAppend (b s : State) : State :=
  let n := Config.cutAt b.freeCtr
  let cut := fun (k : JBank) => { k with cells := cutLast k.cells n }
  let jnl := s.writesNow s.cfg.appAt
  let boot := s.writesNow s.sec.bootAt
  if jnl || boot then
    { b with
      freeCtr := b.freeCtr + 1
      cfg := if jnl then (if s.cfg.active then { b.cfg with bankB := cut b.cfg.bankB } else { b.cfg with bankA := cut b.cfg.bankA }) else b.cfg
      sec := if boot then { b.sec with boot := cutLast b.sec.boot n } else b.sec }
  else b

/-- A tile marked failed from source `src` of R119: pending until the next reset, or the row's spare is exhausted (R32, R120). A tile that is
marked already is marked once; a second failed column of a row leaves PENDING as it is (DESIGN CHOICE, log 83). -/
def State.tileFail (s : State) (row col src : Nat) : State :=
  let r := s.row row
  if r.pending = col then s
  else
    let used := r.active ≠ 33 && r.active ≠ col || r.pending ≠ 33
    let r := if used then { r with exhausted := true } else if r.active = col then r else { r with pending := col }
    State.journal { s with rows := Tbl.set s.rows row r } jrRepair (leBytes row 1 ++ leBytes col 1 ++ leBytes src 1 ++ [0])

/-- A UE_LINE record for a line of the store, which counts where the journal takes it, or an in-service tile failure when the line already has one (R111, R112, R119). -/
def State.ueLine (s : State) (cl line : Nat) : State :=
  let key := (cl / 32, s.physColOf cl, line)
  if s.flt.ueLines.contains key then s.tileFail key.1 key.2.1 3
  else
    State.journal (if s.cfg.takes jrUeLine 8 then { s with flt := { s.flt with ueLines := s.flt.ueLines ++ [key] } } else s) jrUeLine
      (leBytes key.1 1 ++ leBytes key.2.1 1 ++ leBytes 0 2 ++ leBytes (line * 128) 4)

end Sys2Proof.Machine
end

