-- ==== Sys2Proof/Machine/Operands.lean ====
section
/-! DEFINITION. Reading and writing lines: error correction (04: R109 to R111; 09: R264 to R266), store lines, landing entries and
crossing faults (03: R93 to R96). -/

namespace Sys2Proof.Machine

/-! ### Error correction -/

/-- Number of set bits of `n` among its lowest `k`. -/
def popcount (n : Nat) : Nat → Nat
  | 0 => 0
  | k + 1 => n % 2 + popcount (n / 2) k

/-- What a protected read delivers: the line, the corrected words and the uncorrectable words (R110, R111). -/
structure EccRead where
  data : List Byte
  corr : List Nat
  bad  : List Nat
  deriving DecidableEq, Repr

/-- The flips that stand in word `w` of a line. -/
def flips (us : List Upset) (area : Area) (line w : Nat) : BitVec 64 × BitVec 8 :=
  us.foldl (fun p u => if u.area = area ∧ u.line = line ∧ u.word = w then (p.1 ^^^ u.data, p.2 ^^^ u.check) else p) (0, 0)

/-- What the corrector finds in a word with the flips `f` (R109 to R111): none, an uncorrectable error; otherwise the data bits that it flips
back where it finds a single-bit error. Two flips are detected; what more look like is a free value (log 29). -/
def eccWord (f : BitVec 64 × BitVec 8) : Option (Option (BitVec 64)) :=
  match popcount f.1.toNat 64 + popcount f.2.toNat 8 with
  | 0 => some none
  | 1 => some (some f.1)
  | 2 => none
  | _ => (Config.manyFlips f.1 f.2).map (fun x => x.map (fun i => if i.val < 64 then BitVec.ofNat 64 (2 ^ i.val) else 0))

/-- A read of a protected line that was written as `raw`: single flips are corrected, and a line with an uncorrectable word is delivered
as read, every word of it (R110, R111, R265, R266). -/
def eccRead (us : List Upset) (area : Area) (line : Nat) (raw : List Byte) : EccRead :=
  if us.all (fun u => !(u.area = area ∧ u.line = line)) then ⟨raw, [], []⟩
  else
    let f := (List.range 16).map (fun w => (w, flips us area line w))
    let f := f.map (fun p => (p.1, p.2.1, eccWord p.2))
    let bad := f.filter (fun p => p.2.2 = none)
    ⟨(f.map (fun p =>
        let w := BitVec.ofNat 64 (leNat (slice raw (8 * p.1) 8)) ^^^ p.2.1
        leBytes (if bad.isEmpty then w ^^^ (p.2.2.getD none).getD 0 else w).toNat 8)).flatten,
      (f.filter (fun p => match p.2.2 with
        | some (some _) => true
        | _ => false)).map (·.1), bad.map (·.1)⟩

/-- Upsets that a write of the words `ws` of a line clears. -/
def State.scrubWords (s : State) (area : Area) (line : Nat) (ws : List Nat) : State :=
  { s with upsets := s.upsets.filter (fun u => !(u.area = area ∧ u.line = line ∧ ws.contains u.word)) }

/-- The log of a block that keeps the first uncorrectable error since clear, or else the first corrected one: bit `un` is
UNCORR and bit `valid` VALID. -/
def eccLogNext (old new : Reg) (un valid : Nat) : Reg :=
  if !bit old valid then new else if bit new un && !bit old un then new else old

/-- Reports a corrected read under `code`, at most one record per line per job (R110, R265), reads after a job counting with it (DESIGN
CHOICE, log 107). -/
def State.reportCorr (s : State) (code : BitVec 16) (area line src agent : Nat) (log : Reg) (addr : Nat) : State :=
  if s.flt.eccSeen.contains (area, line) then s
  else
    State.raise { s with flt := { s.flt with eccSeen := s.flt.eccSeen ++ [(area, line)] } } code src agent log (some addr)

/-- The key of a store line among upsets: local offset div 128. -/
def storeKey (cl line : Nat) : Nat := cl * 8192 + line

/-- A store read of one line by a unit of the cluster: corrected data, counts, log and faults (R109 to R111). -/
def State.readLine (s : State) (cl line : Nat) : List Byte × State :=
  let a := storeAddr cl line
  let e := eccRead s.upsets .store (storeKey cl line) (memRead s.mem a 128)
  if e.corr.isEmpty && e.bad.isEmpty then (e.data, s)
  else
    let ue := !e.bad.isEmpty
    let w := if ue then e.bad.headD 0 else e.corr.headD 0
    let k := s.clu cl
    let log := eccLogNext k.eccLog (orAll [at_ (line * 128) 0 20, at_ w 20 4, flag ue 24, flag true 28]) 24 28
    let cnt := if ue then satInc k.eccCnt 32 16 1 else satInc k.eccCnt 0 32 1
    let s := s.setClu cl { k with eccLog := log, eccCnt := cnt, eccUe := k.eccUe || ue }
    let ag := s.agentOf cl 4
    (e.data, if ue then (s.raise 0x3002 (spanOf cl) ag log (some a)).ueLine cl line
             else s.reportCorr 0x3001 0 (storeKey cl line) (spanOf cl) ag log a)

/-- A store write of one line under word enables: `ws` lists the words written (R104). -/
def State.writeWords (s : State) (cl line : Nat) (data : List Byte) (ws : List Nat) : State :=
  let a := storeAddr cl line
  let m := ws.foldl (fun m w => memWrite m (a + 8 * w) (padTo (slice data (8 * w) 8) 8)) s.mem
  State.scrubWords { s with mem := m } .store (storeKey cl line) ws

/-- A store write of a whole line. -/
def State.writeLine (s : State) (cl line : Nat) (data : List Byte) : State :=
  s.writeWords cl line data (List.range 16)

/-! ### Landing buffers and crossing faults -/

/-- The key of a landing entry. -/
def landKey (span q frame entry : Nat) : Nat := ((span * 4 + q) * 3 + frame) * 512 + entry

/-- The landing entry of a frame. -/
def State.landAt (s : State) (span q frame entry : Nat) : LandEntry := Tbl.get {} s.landing (landKey span q frame entry)

/-- The frame readable in phase `P`: the one written in phase P − 2 (R93). -/
def readFrame (P : Nat) : Nat := (P + 1) % 3

/-- FRAME_RELEASE (R93): at the edge of phase `P` the frame that receives its writes is cleared, in every queue. -/
def State.clearFrame (s : State) (P : Nat) : State :=
  { s with landing := s.landing.filter (fun e => e.1 / 512 % 3 ≠ P % 3),
           upsets := s.upsets.filter (fun u => !(u.area = .landing ∧ u.line / 512 % 3 = P % 3)) }

/-- A crossing fault of a span (R95, R96) counted, and logged while none is. `ph` is the phase of the write's frame. -/
def State.xqNote (s : State) (span q entry half kind ph : Nat) : State :=
  let k := s.spn span
  let log := if k.xqFault then k.xqLog else
    orAll [at_ q 0 2, at_ entry 2 9, at_ half 11 1, at_ kind 12 2, at_ (ph % 8) 14 3, at_ (ph / 8) 17 47]
  s.setSpn span { k with xqLog := log, xqFault := true, cnt := satInc k.cnt 56 8 1 }

/-- A crossing fault of a span raised. -/
def State.xqFault (s : State) (code : BitVec 16) (span agent q entry half kind ph : Nat) : State :=
  let s := s.xqNote span q entry half kind ph
  s.raise code span agent (s.spn span).xqLog

/-- The half that a read of an entry finds unwritten: the second when the first is written, else 0 (R100: HALF). -/
def LandEntry.badHalf (e : LandEntry) : Nat := if e.w0 then 1 else 0

/-- A read of a landing entry in phase `P` by a unit with agent number `agent`: 128 bytes with zeros for an unwritten half, and
whether every half was written. 0x1003 is raised for an unwritten half (R96), unless the reader has raised it (R515: `quiet`). -/
def State.readEntry (s : State) (span agent q entry P : Nat) (quiet : Bool) : LandEntry × State :=
  let e := s.landAt span q (readFrame P) entry
  if e.w0 && e.w1 || quiet then (e, s) else (e, s.xqFault 0x1003 span agent q entry e.badHalf 1 (P - 2))

/-- The 128 bytes of an entry as a read delivers them. -/
def LandEntry.bytes (e : LandEntry) : List Byte :=
  (if e.w0 then padTo e.h0 64 else zeros 64) ++ (if e.w1 then padTo e.h1 64 else zeros 64)

/-- What the corrector finds in a landing entry that is read at a cluster (R115): counts, log and faults as of R110 and R111. -/
def State.landFlaw (s : State) (cl span q entry key : Nat) : State :=
  let e := eccRead s.upsets .landing key (Tbl.get {} s.landing key : LandEntry).bytes
  if e.corr.isEmpty && e.bad.isEmpty then s
  else
    let ue := !e.bad.isEmpty
    let w := if ue then e.bad.headD 0 else e.corr.headD 0
    let k := s.clu cl
    let log := eccLogNext k.eccLog
      (orAll [at_ (entry * 128) 0 20, at_ w 20 4, flag ue 24, flag true 25, at_ q 26 2, flag true 28]) 24 28
    let cnt := if ue then satInc k.eccCnt 32 16 1 else satInc k.eccCnt 48 16 1
    let s := s.setClu cl { k with eccLog := log, eccCnt := cnt, eccUe := k.eccUe || ue }
    let ag := s.agentOf cl 4
    if ue then s.raise 0x3002 span ag log (some (storeAddr cl entry))
    else s.reportCorr 0x3001 1 key span ag log (storeAddr cl entry)

/-- A landing read by a unit of a compute cluster, through the corrector (R115). -/
def State.readLanding (s : State) (cl agent q entry P : Nat) (quiet : Bool) : LandEntry × List Byte × State :=
  let span := spanOf cl
  let (l, s) := s.readEntry span agent q entry P quiet
  let key := landKey span q (readFrame P) entry
  (l, (eccRead s.upsets .landing key l.bytes).data, s.landFlaw cl span q entry key)

/-- The physical port to which the map assigns logical port `lp` (R328). -/
def State.mappedPort (s : State) (lp : Nat) : Option Nat := (List.range 6).find? (fun p => (s.rtr p).mapped && (s.rtr p).lport == lp)

/-- The physical port of logical port `lp` for the service class and placement messages; 7 without a link (R373). -/
def State.linkPort (s : State) (lp : Nat) : Nat := (s.mappedPort lp).getD 7

/-- The physical port that carries logical port `lp` (R328, R511). The logical ports without a link stand on the ports that the map leaves,
in rising order (DESIGN CHOICE, log 69). -/
def State.physPort (s : State) (lp : Nat) : Nat :=
  match s.mappedPort lp with
  | some p => p
  | none =>
    let left := (List.range 6).filter (fun p => !(s.rtr p).mapped)
    let without := (List.range 6).filter (fun l => (s.mappedPort l).isNone)
    nth lp left (without.idxOf lp)

/-- The logical port that stands on physical port `p` (R328): without a map its own number. -/
def State.nport (s : State) (p : Nat) : Nat := ((List.range 6).find? (fun l => s.physPort l == p)).getD p

/-- The span that a program's span number names (R511). -/
def State.destSpan (s : State) (span : Nat) : Nat :=
  if 104 ≤ span && span < 110 then 104 + s.physPort (span - 104) else span

/-- A write of an entry put on the die mesh (R93, R94): `P` is the phase of the write. -/
def State.put (s : State) (span q entry : Nat) (half0 half1 : Bool) (data : List Byte) (empty : Bool)
    (tag : Option (BitVec 12)) (desc : Option Nat) (P : Nat) : State :=
  { s with mesh := s.mesh ++ [{ span, q, entry, half0, half1, data := padTo data 128, empty, tag, desc, phase := P }] }

/-- A crossing write (R93, R94): an empty one carries zeros (R168). -/
def State.cross (s : State) (span q entry : Nat) (half0 half1 : Bool) (data : List Byte) (empty : Bool)
    (tag : Option (BitVec 12)) (desc : Option Nat) (P : Nat) : State :=
  s.put span q entry half0 half1 (if empty then zeros 128 else data) empty tag desc P

/-! ### Instructions in flight -/

/-- Instruction `iid` of a cluster. -/
def State.flyOf (s : State) (cl iid : Nat) : Option Fly := Tbl.get none ((s.clu cl).fly.map (fun p => (p.1, some p.2))) iid
/-- The instruction's record changed by `g`. -/
def State.updFly (s : State) (cl iid : Nat) (g : Fly → Fly) : State :=
  match s.flyOf cl iid with
  | some f => s.updClu cl (fun k => { k with fly := Tbl.set k.fly iid (g f) })
  | none => s

/-- A code raised by an instruction: once for each instruction (R515). `part` is the unit's agent within the tile. -/
def State.unitRaise (s : State) (cl iid part : Nat) (code : BitVec 16) (detail : Reg := 0) : State :=
  match s.flyOf cl iid with
  | some f =>
    if f.raised.contains code then s
    else State.raise (s.updFly cl iid (fun f => { f with raised := f.raised ++ [code] })) code (spanOf cl) (s.agentOf cl part) detail
  | none => s

end Sys2Proof.Machine
end

