-- ==== Sys2Proof/Machine/Matrix.lean ====
section
/-! DEFINITION. What the matrix engine's instructions do (07: R188 to R200): the micro-operations each takes, and the work of each. -/

namespace Sys2Proof.Machine

/-! ### Buffers, rows and tiles -/

/-- Buffer B0 or B1. -/
def Me.buf (m : Me) (b : Bool) : MeBuf := if b then m.b1 else m.b0
/-- Buffer B0 or B1 replaced. -/
def Me.setBuf (m : Me) (b : Bool) (x : MeBuf) : Me := if b then { m with b1 := x } else { m with b0 := x }
/-- Tile slot T0 or T1. -/
def Me.tile (m : Me) (t : Bool) : Tile := if t then m.t1 else m.t0
/-- Tile slot T0 or T1 replaced. -/
def Me.setTile (m : Me) (t : Bool) (x : Tile) : Me := if t then { m with t1 := x } else { m with t0 := x }
/-- The key of an accumulator row. -/
def accKey (b : Bool) (row : Nat) : Nat := (if b then 64 else 0) + row
/-- A row of 64 zero entries. -/
def accZero : List Fw := List.replicate 64 0
/-- Row `row` of buffer `b`. -/
def Me.row (m : Me) (b : Bool) (row : Nat) : List Fw := Tbl.get accZero m.acc (accKey b row)
/-- Row `row` of buffer `b` replaced. -/
def Me.setRow (m : Me) (b : Bool) (row : Nat) (r : List Fw) : Me := { m with acc := Tbl.set m.acc (accKey b row) r }
/-- Entry (r, j) of buffer `b` (R188). -/
def Me.entry (m : Me) (b : Bool) (row j : Nat) : Fw := nth 0 (m.row b row) j
/-- Every entry of buffer `b` set to zero. -/
def Me.zeroBuf (m : Me) (b : Bool) : Me :=
  { m with acc := m.acc.filter (fun p => if b then p.1 < 64 else 64 ≤ p.1) }
/-- Every entry of buffer `b` set to FW_NAN (R196). -/
def Me.nanBuf (m : Me) (b : Bool) : Me :=
  (List.range 64).foldl (fun m r => m.setRow b r (List.replicate 64 fwNan)) m

/-- The matrix engine of a cluster changed. -/
def State.updMe (s : State) (cl : Nat) (g : Me → Me) : State := s.updClu cl (fun k => { k with me := g k.me })

/-- Lines of a tile of a format (R193): rows, then block scales. -/
def tileLines (f : Fmt) : Nat := (64 * f.rb + (if f.isMx then 64 * f.kw / 32 else 0) + 127) / 128
/-- G: load cycles of a tile (R193). -/
def tileCycles (f : Fmt) : Nat := (tileLines f + 15) / 16

/-- The lines that hold `n` bytes from byte `o` of the store lines from `line`. -/
def linesFor (line o n : Nat) : List Nat := range' (line + o / 128) ((o % 128 + n + 127) / 128)

/-- Cycles per activation row (R194). -/
def rowCycles (a w : Fmt) : Nat := if a = .bf16 ∨ w = .bf16 then 2 else 1

/-- First line of ME.MACS's activation block scales (R194). -/
def macScaleLine (a : Fmt) (aline m : Nat) : Nat := aline + (m * a.rb + 127) / 128

/-- AL: activation lines of ME.MACV (R195). -/
def macvAL (f : Fmt) (ic : Nat) : Nat := (ic * (if f.bits = 6 then 24 else 32) + 127) / 128
/-- nb: scale bytes per row and fetch (R195). -/
def macvNb (f : Fmt) : Nat := if f = .mxE2m1 then 2 else 1
/-- SG: groups of weight scales (R195). -/
def macvSG (f : Fmt) (n : Nat) : Nat := if f.isMx then (n * macvNb f + 31) / 32 else 0

/-- L: lines of ME.ROUND's output, and bytes of one output row (R199). -/
def roundBytes : Fmt → Nat
  | .int4 => 32
  | .bf16 => 128
  | .fp32 => 256
  | _ => 64
/-- L of R199. -/
def roundLines (f : Fmt) (r : Nat) : Nat := (r * roundBytes f + 127) / 128

/-- Micro-operations of a matrix instruction issued in cycle `c`: cycle and action (R189, timing table). -/
def meOps (i : Instr) (c : Nat) : List (Nat × Micro) :=
  match i with
  | .meWin .. | .meClear .. => [(c + 11, .work 0)]
  | .meLoadw _ _ _ f line =>
    (List.range (tileLines f)).map (fun j => (c + j / 16, .rd j (line + j))) ++ [(c + tileCycles f + 3, .work 0)]
  | .meMac _ _ _ _ a w line m _ =>
    (List.range m).flatMap (fun r =>
      let d := c + r * rowCycles a w
      (linesFor line (r * a.rb) a.rb).mapIdx (fun j l => (d, .rd (2 * r + j) l)) ++ [(d + 4, .work (2 * r)), (d + 11, .work (2 * r + 1))])
  | .meMacs _ _ _ _ a _ line m _ =>
    (linesFor (macScaleLine a line m) 0 (m * (a.kw / 32))).mapIdx (fun j l => (c, .rd (1000 + j) l)) ++
    (List.range m).flatMap (fun r =>
      let d := c + 1 + r
      (linesFor line (r * a.rb) a.rb).mapIdx (fun j l => (d, .rd (2 * r + j) l)) ++ [(d + 4, .work (2 * r)), (d + 11, .work (2 * r + 1))])
  | .meMacv _ _ _ f wg ag ic g _ =>
    let n := ic * g
    let sg := macvSG f n
    let p := 1 + sg
    (List.range (macvAL f ic + (if f.isMx then 1 else 0))).map (fun j => (c, .rd j (16 * ag + j))) ++
    (List.range sg).flatMap (fun q => (List.range 16).map (fun j => (c + 1 + q, .rd (100 + 16 * q + j) (16 * (wg + n + q) + j)))) ++
    [(c + p + 3, .work 0)] ++
    (List.range n).flatMap (fun k =>
      (List.range 16).map (fun j => (c + p + k, .rd (10000 + 16 * k + j) (16 * (wg + k) + j))) ++ [(c + p + k + 11, .work (1 + k))])
  | .meAddx _ _ _ _ line r _ =>
    (List.range r).flatMap (fun q =>
      (List.range 8).map (fun j => (c + q, .rd (8 * q + j) (line + 8 * q + j))) ++ [(c + q + 11, .work q)])
  | .meRound _ _ _ f _ line r _ => (List.range (roundLines f r)).map (fun j => (c + 2 + j, .wr j (line + j)))
  | .meDrain _ _ _ line r _ => (List.range (8 * r)).map (fun j => (c + 2 + j, .wr j (line + j)))
  | _ => []

/-! ### Arithmetic -/

/-- The elements of a packed row as decoded operands; `xs` gives each block's scale, or the one exponent. -/
def decRow (f : Fmt) (row : List Byte) (x : Nat → Int) : List Dec :=
  (List.range f.kw).map (fun i => decElem f (elemCode f.bits row i) (x (i / 32)))

/-- One dot product (R194): the floored products summed, and whether an addition left the window. -/
def dot (a w : List Dec) (W : Int) : Fw × Bool := fwSum 0 (List.zipWith (fun x y => productFloor x y W) a w)

/-- The 64 dot products of one activation row with a tile (R194). -/
def tileDots (t : Tile) (wf : Fmt) (scaled : Bool) (tw : Int) (a : List Dec) (W : Int) : List (Fw × Bool) :=
  (List.range 64).map (fun j =>
    let x := fun b => if scaled then ((nth 0 t.scales (j * (wf.kw / 32) + b)).toNat : Int) else tw
    dot a (decRow wf (slice t.raw (j * wf.rb) wf.rb) x) W)

/-- Row sums added into an accumulator row: the row, and whether any addition left the window. -/
def addRow (r : List Fw) (t : List Fw) : List Fw × Bool :=
  let p := List.zipWith fwAdd2 r t
  (p.map (·.1), p.any (·.2))

/-- An accumulator row with `t` added into it, and DIRTY set (R188, R194). `out` tells a window fault found already. -/
def State.accAdd (s : State) (cl iid : Nat) (b : Bool) (row : Nat) (t : List Fw) (out : Bool) : State :=
  let m := (s.clu cl).me
  let p := addRow (m.row b row) t
  let s := s.updMe cl (fun m => (m.setRow b row p.1).setBuf b { m.buf b with dirty := true })
  if out || p.2 then s.unitRaise cl iid 0 0x1005 else s

/-- Lines read by an instruction in flight, `n` from index `i`, joined. -/
def Fly.bytes (f : Fly) (i n : Nat) : List Byte := (range' i n).flatMap (fun j => Tbl.get (zeros 128) f.lines j)

/-- The bytes of activation row `r` of ME.MAC and ME.MACS as read. -/
def Fly.actRow (f : Fly) (a : Fmt) (r : Nat) : List Byte := slice (f.bytes (2 * r) 2) (r * a.rb % 128) a.rb

/-- Work of ME.MAC and ME.MACS (R194): even pieces form a row's sums with the tile as it stands, odd ones add them. -/
def workMac (s : State) (cl iid : Nat) (f : Fly) (b t : Bool) (a w : Fmt) (row : Nat) (scaled : Bool) (m idx : Nat) : State :=
  let r := idx / 2
  if idx % 2 = 0 then
    let x := fun k => if scaled then ((nth 0 (f.bytes 1000 ((m * (a.kw / 32) + 127) / 128)) (r * (a.kw / 32) + k)).toNat : Int)
                      else f.win.2.1
    let d := tileDots ((s.clu cl).me.tile t) w scaled f.win.2.2 (decRow a (f.actRow a r) x) (winBase f.win.1)
    s.updFly cl iid (fun f => { f with sums := Tbl.set f.sums r (d.map (·.1), d.any (·.2)) })
  else if f.on then
    let p := Tbl.get ([], false) f.sums r
    s.accAdd cl iid b (row + r) p.1 p.2
  else s

/-- Work of ME.MACV (R195): piece 0 fills the streaming registers, piece 1 + k adds fetch k. -/
def workMacv (s : State) (cl iid : Nat) (f : Fly) (b : Bool) (fmt : Fmt) (ic g row idx : Nat) : State :=
  let al := macvAL fmt ic
  let n := ic * g
  let sg := macvSG fmt n
  let act := f.bytes 0 al
  let actX := if fmt.isMx then f.bytes al 1 else []
  let wX := f.bytes 100 (16 * sg)
  if idx = 0 then
    if f.on then s.updMe cl (fun m => { m with sAct := act, sActX := actX, sWX := wX }) else s
  else if !f.on then s
  else
    let k := idx - 1
    let q := k % ic
    let cs := fmt.chunk
    let rb := if fmt.bits = 6 then 24 else 32
    let wts := f.bytes (10000 + 16 * k) 16
    let a := (List.range cs).map (fun i =>
      let e := q * cs + i
      decElem fmt (elemCode fmt.bits act e) (if fmt.isMx then ((nth 0 actX (e / 32)).toNat : Int) else f.win.2.1))
    let d := (List.range 64).map (fun r =>
      let wrow := slice wts (r * rb) rb
      let w := (List.range cs).map (fun i =>
        decElem fmt (elemCode fmt.bits wrow i)
          (if fmt.isMx then ((nth 0 wX ((64 * k + r) * macvNb fmt + i / 32)).toNat : Int) else f.win.2.2))
      dot a w (winBase f.win.1))
    s.accAdd cl iid b (row + k / ic) (d.map (·.1)) (d.any (·.2))

/-- The s128 values of a line or of several, 16 bytes each. -/
def fwsOf (bs : List Byte) (n : Nat) : List Fw := (List.range n).map (fun j => BitVec.ofNat 128 (leAt bs (16 * j) 16))

/-- Work of a matrix instruction (R193 to R198). -/
def workMe (s : State) (cl iid : Nat) (f : Fly) (idx : Nat) : State :=
  match f.ins with
  | .meWin _ _ b wcode ta tw =>
    if f.on then
      let dirty := ((s.clu cl).me.buf b).dirty
      let s := if dirty then (s.updMe cl (fun m => m.nanBuf b)).unitRaise cl iid 0 0x100D else s
      s.updMe cl (fun m => m.setBuf b { m.buf b with wcode := wcode, ta := ta, tw := tw })
    else s
  | .meClear _ _ b => if f.on then s.updMe cl (fun m => (m.zeroBuf b).setBuf b { m.buf b with dirty := false }) else s
  | .meLoadw _ _ t fmt _ =>
    if f.on then
      let all := f.bytes 0 (tileLines fmt)
      s.updMe cl (fun m => m.setTile t
        ⟨all.take (64 * fmt.rb), if fmt.isMx then slice all (64 * fmt.rb) (64 * fmt.kw / 32) else (m.tile t).scales⟩)
    else s
  | .meMac _ _ b t a w _ m row => workMac s cl iid f b t a w row false m idx
  | .meMacs _ _ b t a w _ m row => workMac s cl iid f b t a w row true m idx
  | .meMacv _ _ b fmt _ _ ic g row => workMacv s cl iid f b fmt ic g row idx
  | .meAddx _ _ b wcode _ _ row =>
    if !f.on then s
    else if wcode ≠ f.win.1 then
      State.unitRaise (s.updMe cl (fun m => (m.setRow b (row + idx) (List.replicate 64 fwNan)).setBuf b
        { m.buf b with dirty := true })) cl iid 0 0x100D
    else s.accAdd cl iid b (row + idx) (fwsOf (f.bytes (8 * idx) 8) 64) false
  | _ => s

/-- What a store write of ME.ROUND or ME.DRAIN carries: line `idx` of the output and the words enabled (R199, R200). -/
def meLineOut (m : Me) (f : Fly) (idx : Nat) : List Byte × List Nat :=
  match f.ins with
  | .meRound _ _ b fmt t _ r row =>
    let ob := roundBytes fmt
    let o := idx * 128
    let n := min 128 (r * ob - o)
    let es := (List.range (n * 64 / ob)).map (fun e =>
      let g := o * 64 / ob + e
      roundOut fmt (m.entry b (row + g / 64) (g % 64)) (winBase f.win.1) t)
    (packCodes (if fmt = .int4 then 4 else if fmt = .bf16 then 16 else if fmt = .fp32 then 32 else 8) es,
      List.range (n / 8))
  | .meDrain _ _ b _ _ row =>
    ((List.range 8).flatMap (fun j => leBytes (m.entry b (row + idx / 8) (8 * (idx % 8) + j)).toNat 16), List.range 16)
  | _ => ([], [])

end Sys2Proof.Machine
end

