-- ==== Sys2Proof/Machine/Special.lean ====
section
/-! DEFINITION. The special functions (05: R146 to R153) and the counter generator (R144, R145). -/

namespace Sys2Proof.Machine

/-- EXP_T[i] = nearest(2^(i/64) × 2^30) (R146). -/
def EXP_T : List Nat :=
  [0x40000000, 0x40B268FA, 0x4166C34C, 0x421D1462, 0x42D561B4, 0x438FB0CB, 0x444C0740, 0x450A6ABB] ++
  [0x45CAE0F2, 0x468D6FAE, 0x47521CC6, 0x4818EE22, 0x48E1E9BA, 0x49AD1598, 0x4A7A77D4, 0x4B4A169C] ++
  [0x4C1BF829, 0x4CF022CA, 0x4DC69CDD, 0x4E9F6CD4, 0x4F7A9930, 0x50582888, 0x51382182, 0x521A8AD7] ++
  [0x52FF6B55, 0x53E6C9DA, 0x54D0AD5A, 0x55BD1CDB, 0x56AC1F75, 0x579DBC57, 0x5891FAC1, 0x5988E209] ++
  [0x5A82799A, 0x5B7EC8F2, 0x5C7DD7A4, 0x5D7FAD59, 0x5E8451D0, 0x5F8BCCDB, 0x60962665, 0x61A3666D] ++
  [0x62B39509, 0x63C6BA64, 0x64DCDEC3, 0x65F60A7F, 0x6712460B, 0x683199ED, 0x69540EC9, 0x6A79AD56] ++
  [0x6BA27E65, 0x6CCE8AE1, 0x6DFDDBCC, 0x6F307A41, 0x70666F76, 0x719FC4B9, 0x72DC8374, 0x741CB528] ++
  [0x75606374, 0x76A7980F, 0x77F25CCE, 0x7940BB9E, 0x7A92BE8B, 0x7BE86FBA, 0x7D41D96E, 0x7E9F0606]

/-- LOG_RT[i] = nearest(2^30 ÷ (1 + i/64)) (R146). -/
def LOG_RT : List Nat :=
  [0x40000000, 0x3F03F03F, 0x3E0F83E1, 0x3D226358, 0x3C3C3C3C, 0x3B5CC0ED, 0x3A83A83B, 0x39B0AD12] ++
  [0x38E38E39, 0x381C0E07, 0x3759F22A, 0x369D036A, 0x35E50D79, 0x3531DEC1, 0x34834835, 0x33D91D2A] ++
  [0x33333333, 0x329161FA, 0x31F3831F, 0x3159721F, 0x30C30C31, 0x30303030, 0x2FA0BE83, 0x2F149903] ++
  [0x2E8BA2E9, 0x2E05C0B8, 0x2D82D82E, 0x2D02D02D, 0x2C8590B2, 0x2C0B02C1, 0x2B931057, 0x2B1DA461] ++
  [0x2AAAAAAB, 0x2A3A0FD6, 0x29CBC14E, 0x295FAD41, 0x28F5C28F, 0x288DF0CB, 0x28282828, 0x27C4597A] ++
  [0x27627627, 0x27027027, 0x26A439F6, 0x2647C694, 0x25ED097B, 0x2593F69B, 0x253C8254, 0x24E6A171] ++
  [0x24924925, 0x243F6F02, 0x23EE08FC, 0x239E0D5B, 0x234F72C2, 0x23023023, 0x22B63CBF, 0x226B9022] ++
  [0x22222222, 0x21D9EAD8, 0x2192E29F, 0x214D0215, 0x21084211, 0x20C49BA6, 0x20820821, 0x20408102]

/-- LOG_L[i] = nearest(log2(1 + i/64) × 2^30) (R146). -/
def LOG_L : List Nat :=
  [0x0, 0x16E7968, 0x2D75A6F, 0x43ACE28, 0x598FDBF, 0x6F21090, 0x8462C46, 0x99574F1] ++
  [0xAE00D1D, 0xC2615E8, 0xD67AF17, 0xEA4F726, 0xFDE0B5D, 0x111307DB, 0x124407AB, 0x137124CF] ++
  [0x149A784C, 0x15C01A3A, 0x16E221CE, 0x1800A563, 0x191BBA89, 0x1A33760A, 0x1B47EBF7, 0x1C592FAD] ++
  [0x1D6753E0, 0x1E726AA2, 0x1F7A8569, 0x207FB517, 0x21820A02, 0x228193F5, 0x237E623D, 0x247883A8] ++
  [0x2570068E, 0x2664F8D5, 0x275767F5, 0x284760FD, 0x2934F098, 0x2A20230E, 0x2B09044D, 0x2BEF9FE8] ++
  [0x2CD4011D, 0x2DB632D5, 0x2E963FAD, 0x2F7431F2, 0x305013AB, 0x3129EE96, 0x3201CC2C, 0x32D7B5A5] ++
  [0x33ABB3FB, 0x347DCFE7, 0x354E11EB, 0x361C824D, 0x36E9291F, 0x37B40E3A, 0x387D3946, 0x3944B1B9] ++
  [0x3A0A7EDA, 0x3ACEA7C0, 0x3B913356, 0x3C52285C, 0x3D118D67, 0x3DCF68E3, 0x3E8BC118, 0x3F469C23]

/-- C1 of R146. -/
def C1 : Nat := 0xB17217F8
/-- C2 of R146. -/
def C2 : Nat := 0x3D7F7BFF
/-- C3 of R146. -/
def C3 : Nat := 0xE35846C
/-- D1 of R146. -/
def D1 : Nat := 0x171547653
/-- D2 of R146. -/
def D2 : Nat := 0xB8AA3B29
/-- D3 of R146. -/
def D3 : Nat := 0x7B1C2771
/-- D4 of R146. -/
def D4 : Nat := 0x5C551D95
/-- K2E = nearest(2 × log2(e) × 2^30) (R146). -/
def K2E : Nat := 0xB8AA3B29
/-- INV2PI = nearest(2^192 ÷ 2π) (R146). -/
def INV2PI : Nat := 0x28BE60DB9391054A7F09D5F47D4D377036D8A5664F10E410
/-- TWOPI40 = nearest(2π × 2^40) (R146). -/
def TWOPI40 : Nat := 0x6487ED5110B

/-- The canonical FP32 NaN. -/
def fpNan : Nat := 0x7FC00000
/-- +Infinity of FP32. -/
def fpInf : Nat := 0x7F800000
/-- −Infinity of FP32. -/
def fpNegInf : Nat := 0xFF800000
/-- FP32 one. -/
def fpOne : Nat := 0x3F800000
/-- FP32 minus one. -/
def fpNegOne : Nat := 0xBF800000
/-- FP32 minus zero. -/
def fpNegZero : Nat := 0x80000000

/-- "(m, e) = a": the significand with 2^23 ≤ m < 2^24 of a positive finite value, subnormals normalised. -/
def splitPos (d : Dec) : Nat × Int :=
  let k := 24 - bitlen d.m
  (d.m * 2 ^ k, d.e - k)

/-- exp2_core (R148): 2^(X × 2^-24) is about M × 2^(n − 30). -/
def exp2Core (X : Int) : Nat × Int :=
  let n := X / 2 ^ 24
  let f := (X - n * 2 ^ 24).toNat
  let i := f / 2 ^ 18
  let r := f % 2 ^ 18
  let Q := 2 ^ 30 + C1 * r / 2 ^ 26 + C2 * r ^ 2 / 2 ^ 50 + C3 * r ^ 3 / 2 ^ 74
  (nth 0 EXP_T i * Q / 2 ^ 30, n)

/-- VU.EXP2 for an input that the table of R147 does not list (R148). -/
def exp2Fin (d : Dec) : Nat :=
  if !d.s && !gtScaled 128 0 d.m d.e then fpInf
  else if d.s && gtScaled d.m d.e 151 0 then 0
  else
    let n := nearestNat d.m (d.e + 24)
    let X : Int := if d.s then -(n : Int) else n
    let (M, n) := exp2Core X
    fmtRound FF.fp32 false M (n - 30) false

/-- VU.LOG2 for positive finite x (R149). -/
def log2Fin (d : Dec) : Nat :=
  let (m, e0) := splitPos d
  let e := e0 + 23
  let frac := m - 2 ^ 23
  let i := frac / 2 ^ 17
  let dd := frac % 2 ^ 17
  let U := dd * nth 0 LOG_RT i / 2 ^ 23
  let F : Int := (nth 0 LOG_L i : Int) + (D1 * U / 2 ^ 32 : Nat) - (D2 * U ^ 2 / 2 ^ 62 : Nat)
    + (D3 * U ^ 3 / 2 ^ 92 : Nat) - (D4 * U ^ 4 / 2 ^ 122 : Nat)
  let Z := e * 2 ^ 30 + F
  fmtRound FF.fp32 (Z < 0) Z.natAbs (-30) false

/-- VU.RCP for finite, non-zero x (R150). -/
def rcpFin (d : Dec) : Nat :=
  let (m, e) := splitPos d
  fpRatio FF.fp32 d.s 1 m (-e)

/-- VU.RSQ for positive finite x (R150). -/
def rsqFin (d : Dec) : Nat :=
  let (m0, e0) := splitPos d
  let (m, e) := if e0 % 2 = 0 then (m0, e0) else (2 * m0, e0 - 1)
  let Q := Nat.sqrt (2 ^ 80 / m)
  fmtRound FF.fp32 false Q (-40 - e / 2) (Q * Q * m ≠ 2 ^ 80)

/-- VU.TANH for finite x other than ±0 (R151). `x` is the operand's own code. -/
def tanhFin (x : Nat) (d : Dec) : Nat :=
  if !gtScaled d.m d.e 1 (-12) && (gtScaled 1 (-12) d.m d.e) then x
  else if !gtScaled 10 0 d.m d.e then (if d.s then fpNegOne else fpOne)
  else
    let (m, e) := splitPos d
    if gtScaled 1 (-4) d.m d.e then
      let g : Int := 2 ^ (-e).toNat
      let num : Int := m * (15 * g ^ 4 - 5 * (m : Int) ^ 2 * g ^ 2 + 2 * (m : Int) ^ 4)
      fpRatio FF.fp32 d.s num.toNat (15 * g ^ 5).toNat 0
    else
      let Y := shiftNat (K2E * m) (-(6 - e))
      let (M, n) := exp2Core (-(Y : Int))
      let D := 2 ^ (30 - n).toNat
      fpRatio FF.fp32 d.s (D - M) (D + M) 0

/-- One nested evaluation of the sine or cosine series (R152). -/
def nestPoly (A2 : Nat) (dvs : List Nat) : Int :=
  dvs.foldl (fun t dv => 2 ^ 40 - (A2 : Int) * t / (dv * 2 ^ 40)) (2 ^ 40)

/-- sincos (R152) for finite x other than ±0. -/
def sincosFin (x : Nat) (d : Dec) : Nat × Nat :=
  if gtScaled 1 (-12) d.m d.e then (x, fpOne)
  else
    let (m, e) := splitPos d
    let T : Nat := shiftNat (m * INV2PI) (e - 144) % 2 ^ 48
    let h : Nat := (T + 2 ^ 45) / 2 ^ 46
    let j : Nat := h % 4
    let f : Int := (T : Int) - (h : Int) * 2 ^ 46
    let A : Nat := f.natAbs * TWOPI40 / 2 ^ 48
    let A2 : Nat := A * A / 2 ^ 40
    let t := nestPoly A2 [110, 72, 42, 20, 6]
    let S0 : Int := (A : Int) * t / 2 ^ 40
    let S := if f < 0 then -S0 else S0
    let c := nestPoly A2 [132, 90, 56, 30, 12, 2]
    let p : Int × Int :=
      match j with
      | 0 => (S, c)
      | 1 => (c, -S)
      | 2 => (-S, -c)
      | _ => (-c, S)
    let sv := if d.s then -p.1 else p.1
    (fmtRound FF.fp32 (sv < 0) sv.natAbs (-40) false, fmtRound FF.fp32 (p.2 < 0) p.2.natAbs (-40) false)

/-- The seven special functions. -/
inductive Special where
  | exp2 | log2 | rcp | rsq | tanh | sin | cos
  deriving DecidableEq, Repr

/-- A special function of an FP32 code: the table of R147, then the pseudocode. -/
def special32 (g : Special) (x : Nat) : Nat :=
  let d := FF.fp32.decode x
  match d.kind with
  | .nan => fpNan
  | .inf =>
    match g with
    | .exp2 => if d.s then 0 else fpInf
    | .log2 => if d.s then fpNan else fpInf
    | .rcp => if d.s then fpNegZero else 0
    | .rsq => if d.s then fpNan else 0
    | .tanh => if d.s then fpNegOne else fpOne
    | .sin | .cos => fpNan
  | .fin =>
    if d.m = 0 then
      match g with
      | .exp2 | .cos => fpOne
      | .log2 => fpNegInf
      | .rcp | .rsq => if d.s then fpNegInf else fpInf
      | .tanh | .sin => x
    else
      match g with
      | .exp2 => exp2Fin d
      | .log2 => if d.s then fpNan else log2Fin d
      | .rcp => rcpFin d
      | .rsq => if d.s then fpNan else rsqFin d
      | .tanh => tanhFin x d
      | .sin => (sincosFin x d).1
      | .cos => (sincosFin x d).2

/-- A special function of a BF16 code (R153). -/
def special16 (g : Special) (x : Nat) : Nat :=
  FF.bf16.ofDec (FF.fp32.decode (special32 g (x * 2 ^ 16)))

/-! ### The counter generator (R144) -/

/-- The four words of the generator's state. -/
structure RngSt where
  x0 : BitVec 32
  x1 : BitVec 32
  x2 : BitVec 32
  x3 : BitVec 32
  deriving DecidableEq, Repr

/-- One round of rng_block (R144). -/
def rngRound (k : List (BitVec 32)) (s : RngSt) (r : Nat) : RngSt :=
  let x0 := s.x0 + s.x1
  let x3 := (s.x3 ^^^ x0).rotateLeft 13
  let x2 := s.x2 + x3
  let x1 := (s.x1 ^^^ x2).rotateLeft 9
  let x0 := x0 + x1
  let x3 := (x3 ^^^ x0).rotateLeft 21
  let x2 := x2 + x3
  let x1 := (x1 ^^^ x2).rotateLeft 5
  ⟨x0 ^^^ nth 0 k (r % 4), x1 ^^^ nth 0 k ((r + 1) % 4), x2 ^^^ nth 0 k ((r + 2) % 4),
    x3 ^^^ nth 0 k ((r + 3) % 4) ^^^ BitVec.ofNat 32 r⟩

/-- rng_block (R144): word i of the result is element i of the list. `k` holds the seed's words, low word first. -/
def rngBlock (k : List (BitVec 32)) (stream : BitVec 32) (ctr : BitVec 64) : List (BitVec 32) :=
  let s := (List.range 12).foldl (rngRound k) ⟨ctr.setWidth 32, (ctr >>> 32).setWidth 32, stream, 0x6B2A5D31#32⟩
  [s.x0, s.x1, s.x2, s.x3]

/-- The uniform FP32 value of a word: w[31:8] × 2^-24, exact (R145). -/
def uniform (w : BitVec 32) : Nat := fmtRound FF.fp32 false (w.toNat / 256) (-24) false

end Sys2Proof.Machine
end

