-- ==== Sys2Proof/Machine/Vector.lean ====
section
/-! DEFINITION. What the vector unit's instructions compute (08: R218 to R243): the registers each writes, from the registers as they
stand at its issue (R220). -/

namespace Sys2Proof.Machine

/-- Register `v` of a cluster. -/
def Cluster.vreg (k : Cluster) (v : Nat) : Vreg := Tbl.get {} k.vregs v
/-- Register `v` replaced. -/
def Cluster.setVreg (k : Cluster) (v : Nat) (r : Vreg) : Cluster := { k with vregs := Tbl.set k.vregs v r }

/-- Lane `i` of a register. -/
def Vreg.lane (v : Vreg) (i : Nat) : Lane := nth 0 v.lanes i
/-- The 128 lanes of a register as numbers. -/
def Vreg.nats (v : Vreg) : List Nat := (List.range 128).map (fun i => (v.lane i).toNat)
/-- The 256 BF16 elements of a register (R219). -/
def Vreg.halves (v : Vreg) : List Nat := v.nats.flatMap (fun n => [n % 2 ^ 16, n / 2 ^ 16])
/-- The 512 bytes of a register (R218). -/
def Vreg.bytes (v : Vreg) : List Byte := v.nats.flatMap (fun n => leBytes n 4)

/-- An untagged register with the given lanes. -/
def vregOf (l : List Nat) : Vreg := ⟨l.map (BitVec.ofNat 32), none⟩
/-- An untagged register with the given 16-bit elements. -/
def vregOfHalves (l : List Nat) : Vreg :=
  vregOf ((List.range 128).map (fun i => nth 0 l (2 * i) % 2 ^ 16 + 2 ^ 16 * (nth 0 l (2 * i + 1) % 2 ^ 16)))
/-- An untagged register with the given bytes. -/
def vregOfBytes (l : List Byte) : Vreg := vregOf ((List.range 128).map (fun i => leAt l (4 * i) 4))
/-- A byte string with the bytes from `o` replaced by `new`: the merge of R236 and R239. -/
def mergeBytes (old new : List Byte) (o : Nat) : List Byte := old.take o ++ new ++ old.drop (o + new.length)

end Sys2Proof.Machine

open Sys2Proof.Machine in
/-- The floating-point format of a type (R225). -/
def Sys2Proof.FTy.ff : FTy → FF
  | .fp32 => FF.fp32
  | .bf16 => FF.bf16

namespace Sys2Proof.Machine

/-- An elementwise operation of three sources in a floating-point type: 128 lanes or 256 elements (R231). -/
def mapFp (ty : FTy) (g : Nat → Nat → Nat → Nat) (a b c : Vreg) : Vreg :=
  match ty with
  | .fp32 => vregOf (List.zipWith (fun x yz => g x yz.1 yz.2) a.nats (List.zip b.nats c.nats))
  | .bf16 => vregOfHalves (List.zipWith (fun x yz => g x yz.1 yz.2) a.halves (List.zip b.halves c.halves))

/-- A lane-wise operation on bits. -/
def mapLanes (g : Nat → Lane → Lane → Lane → Lane) (a b c : Vreg) : Vreg :=
  ⟨(List.range 128).map (fun i => g i (a.lane i) (b.lane i) (c.lane i)), none⟩

/-- VU.MIN and VU.MAX (R231, R141). -/
def minmaxV (ty : VTy) (isMax : Bool) (a b : Vreg) : Vreg :=
  match ty with
  | .fp32 => mapFp .fp32 (fun x y _ => FF.fp32.minmax isMax x y) a b a
  | .bf16 => mapFp .bf16 (fun x y _ => FF.bf16.minmax isMax x y) a b a
  | .s32 => mapLanes (fun _ x y _ => if (x.slt y) != isMax then x else y) a b a

/-- VU.CMP (R232). -/
def cmpV (ty : VTy) (c : Cond) (a b : Vreg) : Vreg :=
  match ty with
  | .fp32 => mapFp .fp32 (fun x y _ => if FF.fp32.cmp c x y then 2 ^ 32 - 1 else 0) a b a
  | .bf16 => mapFp .bf16 (fun x y _ => if FF.bf16.cmp c x y then 2 ^ 16 - 1 else 0) a b a
  | .s32 => mapLanes (fun _ x y _ => if cmpInt c x.toInt y.toInt then BitVec.allOnes 32 else 0) a b a

/-- The second operand of an integer instruction, zero- or sign-extended (R234). -/
def opndLane (k : Cluster) (o : Opnd) (sext : Bool) (i : Nat) : Lane :=
  match o with
  | .reg v => (k.vreg v).lane i
  | .imm v => if sext then v.signExtend 32 else v.setWidth 32

/-- The shift count of an instruction (R234). -/
def shCount (k : Cluster) (o : ShOp) (i : Nat) : Nat :=
  match o with
  | .reg v => ((k.vreg v).lane i).toNat % 32
  | .imm n => n

/-- VU.PERM (R235). -/
def permV (a b c : Vreg) : Vreg :=
  ⟨(List.range 128).map (fun i =>
    let x := b.lane i
    if x.getLsbD 31 then 0 else (if x.getLsbD 7 then c else a).lane (x.toNat % 128)), none⟩

/-- FW128 value `r` of a register: lanes 4r to 4r + 3 (R219). -/
def Vreg.fw (v : Vreg) (r : Nat) : Fw := BitVec.ofNat 128 (leAt v.bytes (16 * r) 16)

/-- The four lanes of an FW128 value. -/
def fwLanes (x : Fw) : List Nat := (List.range 4).map (fun i => x.toNat / 2 ^ (32 * i) % 2 ^ 32)

/-- VU.CVT (R236, R237): the register written, and whether 0x100D is raised. `d` is the destination as it stands. -/
def cvtV (mode : Nat) (h : Bool) (t : Int) (pos : Nat) (a b d : Vreg) : Vreg × Bool :=
  let merge := fun (new : List Byte) (o : Nat) => vregOfBytes (mergeBytes d.bytes new o)
  let scaled := fun (x : Nat) => (FF.fp32.decode x).scale (-t)
  let toFp := fun (e : Dec) => FF.fp32.ofDec e
  match mode with
  | 0 => (vregOfHalves ((a.nats ++ b.nats).map (fun x => FF.bf16.ofDec (FF.fp32.decode x))), false)
  | 1 => (vregOf ((List.range 128).map (fun i =>
      toFp (FF.bf16.decode (nth 0 a.halves ((if h then 128 else 0) + i))))), false)
  | 2 => (merge (a.nats.map (fun x => BitVec.ofNat 8 (FF.e4m3.ofDec (scaled x)))) (128 * pos), false)
  | 3 => (merge (a.nats.map (fun x => BitVec.ofNat 8 (FF.e5m2.ofDec (scaled x)))) (128 * pos), false)
  | 4 => (merge (a.nats.map (fun x => BitVec.ofInt 8 (intOfDec 8 (scaled x)))) (128 * pos), false)
  | 5 => (merge (packCodes 4 (a.nats.map (fun x => (intOfDec 4 (scaled x) % 16).toNat))) (64 * pos), false)
  | 6 => (vregOf ((List.range 128).map (fun i =>
      toFp ((FF.e4m3.decode (leAt a.bytes (128 * pos + i) 1)).scale t))), false)
  | 7 => (vregOf ((List.range 128).map (fun i =>
      toFp ((FF.e5m2.decode (leAt a.bytes (128 * pos + i) 1)).scale t))), false)
  | 8 => (vregOf ((List.range 128).map (fun i =>
      toFp ((decInt (signed (leAt a.bytes (128 * pos + i) 1) 8)).scale t))), false)
  | 9 => (vregOf ((List.range 128).map (fun i =>
      toFp ((decInt (signed (elemCode 4 (slice a.bytes (64 * pos) 64) i) 4)).scale t))), false)
  | 10 => (vregOf (a.nats.map (fun x => (intOfDec 32 (FF.fp32.decode x) % 2 ^ 32).toNat)), false)
  | 11 => (vregOf (a.nats.map (fun x => toFp (decInt (signed x 32)))), false)
  | _ =>
    let g := fun (f : FF) (r : Nat) =>
      match a.tag with
      | none => f.nan
      | some w => fwToFF f (a.fw r) (winBase w) t
    let rs := List.range 32
    (if mode = 12 then merge (rs.flatMap (fun r => leBytes (g FF.fp32 r) 4)) (128 * pos)
     else merge (rs.flatMap (fun r => leBytes (g FF.bf16 r) 2)) (64 * pos), a.tag.isNone)

/-- VU.QMX (R239): the data register and the scale register. -/
def qmxV (fmt : Fmt) (sb : Nat) (src : List Vreg) (e : Vreg) : Vreg × Vreg :=
  let vals := src.flatMap Vreg.nats
  let blocks := (List.range 16).map (fun b => qmxBlock fmt ((vals.drop (32 * b)).take 32))
  (vregOfBytes (blocks.flatMap (fun p => packCodes fmt.bits p.2)),
    vregOfBytes (mergeBytes e.bytes (blocks.map (fun p => BitVec.ofNat 8 p.1)) (16 * sb)))

/-- A special function on a register (R238, R153). -/
def specialV (ty : FTy) (g : Special) (a : Vreg) : Vreg :=
  match ty with
  | .fp32 => vregOf (a.nats.map (special32 g))
  | .bf16 => vregOfHalves (a.halves.map (special16 g))

/-- VU.XSUM (R240): the register, whether 0x100D and whether 0x1005 is raised. -/
def xsumV (ty : VTy) (seg : Nat) (wcode : BitVec 6) (acc : Bool) (a d : Vreg) : Vreg × Bool × Bool :=
  let W := winBase wcode
  let es : List Dec :=
    match ty with
    | .fp32 => a.nats.map FF.fp32.decode
    | .bf16 => a.halves.map FF.bf16.decode
    | .s32 => a.nats.map (fun x => decInt (signed x 32))
  let S := 2 ^ (seg + 4)
  let mis := acc && d.tag ≠ some wcode
  let rs := (List.range (es.length / S)).map (fun r =>
    let a0 : Fw := if mis then fwNan else if acc then d.fw r else 0
    fwSum a0 (((es.drop (r * S)).take S).map (fun e => productFloor e Dec.one W)))
  (⟨(rs.flatMap (fun p => fwLanes p.1)).map (BitVec.ofNat 32), some wcode⟩, mis, rs.any (·.2))

/-- Ranking keys of VU.TOPK (R242): `none` is NAN_KEY. -/
def topKey (s32 : Bool) (v : Nat) : Option Dec :=
  if s32 then some (decInt (signed v 32))
  else let d := FF.fp32.decode v; if d.isNan then none else some d

/-- Does candidate `a` rank before candidate `b`? Candidates are value, index, position (R242). -/
def ranksBefore (s32 : Bool) (a b : Nat × Nat × Nat) : Bool :=
  let ka := topKey s32 a.1
  let kb := topKey s32 b.1
  let gt := match ka, kb with
    | some x, some y => y.lt x
    | some _, none => true
    | none, _ => false
  let lt := match ka, kb with
    | some x, some y => x.lt y
    | none, some _ => true
    | _, none => false
  if gt then true else if lt then false
  else if a.2.1 ≠ b.2.1 then a.2.1 < b.2.1 else a.2.2 < b.2.2

/-- A candidate put into a list that is ranked. -/
def rankInsert (s32 : Bool) (c : Nat × Nat × Nat) : List (Nat × Nat × Nat) → List (Nat × Nat × Nat)
  | [] => [c]
  | d :: r => if ranksBefore s32 c d then c :: d :: r else d :: rankInsert s32 c r

/-- VU.TOPK (R242): the value and the index register. -/
def topkV (s32 : Bool) (k : Nat) (cands : List (Nat × Nat × Nat)) : Vreg × Vreg :=
  let ranked := (cands.foldl (fun l c => rankInsert s32 c l) []).take k
  let val := fun v => if !s32 && (FF.fp32.decode v).isNan then fpNan else v
  (vregOf (ranked.map (fun c => val c.1) ++ List.replicate (128 - k) (if s32 then 0x80000000 else fpNan)),
    vregOf (ranked.map (·.2.1) ++ List.replicate (128 - k) 0xFFFFFFFF))

/-- Candidates of one pair of registers, from position `p`. -/
def cands (v i : Vreg) (p : Nat) : List (Nat × Nat × Nat) :=
  (List.range 128).map (fun j => ((v.lane j).toNat, (i.lane j).toNat, p + j))

/-- VU.RNG (R243). -/
def rngV (key : Vreg) (uni : Bool) (ofs : Nat) : Vreg :=
  let seed := (List.range 4).map key.lane
  let ctr := BitVec.ofNat 64 ((key.lane 4).toNat + 2 ^ 32 * (key.lane 5).toNat)
  let ws := (List.range 32).flatMap (fun b => rngBlock seed (key.lane 6) (ctr + BitVec.ofNat 64 (32 * ofs + b)))
  vregOf (ws.map (fun w => if uni then uniform w else w.toNat))

/-- The registers an instruction writes, and the codes it raises, from the cluster as it stands at its issue. Loads and stores
write none here. -/
def vuRes (k : Cluster) (i : Instr) : List (Nat × Vreg) × List (BitVec 16) :=
  let v := k.vreg
  let one := fun (d : Nat) (r : Vreg) => ([(d, r)], ([] : List (BitVec 16)))
  match i with
  | .vuAdd _ _ ty d a b => one d (mapFp ty (fun x y _ => ty.ff.op2 Dec.add x y) (v a) (v b) (v a))
  | .vuSub _ _ ty d a b => one d (mapFp ty (fun x y _ => ty.ff.op2 (fun p q => Dec.add p (Dec.neg q)) x y) (v a) (v b) (v a))
  | .vuMul _ _ ty d a b => one d (mapFp ty (fun x y _ => ty.ff.op2 Dec.mul x y) (v a) (v b) (v a))
  | .vuFma _ _ ty d a b c => one d (mapFp ty ty.ff.fma (v a) (v b) (v c))
  | .vuMin _ _ ty d a b => one d (minmaxV ty false (v a) (v b))
  | .vuMax _ _ ty d a b => one d (minmaxV ty true (v a) (v b))
  | .vuCmp _ _ ty c d a b => one d (cmpV ty c (v a) (v b))
  | .vuSel _ _ d a b c => one d (mapLanes (fun _ x y z => (x &&& z) ||| (y &&& ~~~ z)) (v a) (v b) (v c))
  | .vuIadd _ _ d a b li neg => one d (mapLanes (fun i x _ _ =>
      let y := opndLane k b true i
      (if neg then x - y else x + y) + (if li then BitVec.ofNat 32 i else 0)) (v a) (v a) (v a))
  | .vuAnd _ _ d a b => one d (mapLanes (fun i x _ _ => x &&& opndLane k b false i) (v a) (v a) (v a))
  | .vuOr _ _ d a b => one d (mapLanes (fun i x _ _ => x ||| opndLane k b false i) (v a) (v a) (v a))
  | .vuXor _ _ d a b => one d (mapLanes (fun i x _ _ => x ^^^ opndLane k b false i) (v a) (v a) (v a))
  | .vuShl _ _ d a b => one d (mapLanes (fun i x _ _ => x <<< shCount k b i) (v a) (v a) (v a))
  | .vuShr _ _ d a b ar => one d (mapLanes (fun i x _ _ =>
      if ar then x.sshiftRight (shCount k b i) else x >>> shCount k b i) (v a) (v a) (v a))
  | .vuCvt _ _ d a b mode h t pos =>
    let r := cvtV mode h t pos (v a) (v b) (v d)
    ([(d, r.1)], if r.2 then [0x100D] else [])
  | .vuQmx _ _ d a e fmt sb =>
    let r := qmxV fmt sb [v a, v (a + 1), v (a + 2), v (a + 3)] (v e)
    ([(d, r.1), (e, r.2)], [])
  | .vuExp2 _ _ ty d a => one d (specialV ty .exp2 (v a))
  | .vuLog2 _ _ ty d a => one d (specialV ty .log2 (v a))
  | .vuRcp _ _ ty d a => one d (specialV ty .rcp (v a))
  | .vuRsq _ _ ty d a => one d (specialV ty .rsq (v a))
  | .vuTanh _ _ ty d a => one d (specialV ty .tanh (v a))
  | .vuSin _ _ ty d a => one d (specialV ty .sin (v a))
  | .vuCos _ _ ty d a => one d (specialV ty .cos (v a))
  | .vuXsum _ _ ty d a seg w acc =>
    let r := xsumV ty seg w acc (v a) (v d)
    ([(d, r.1)], (if r.2.1 then [0x100D] else []) ++ (if r.2.2 then [0x1005] else []))
  | .vuTopk _ _ s32 d a b two kk =>
    let r := topkV s32 kk (cands (v a) (v (a + 1)) 0 ++ if two then cands (v b) (v (b + 1)) 128 else [])
    ([(d, r.1), (d + 1, r.2)], [])
  | .vuRng _ _ d a uni ofs => one d (rngV (v a) uni ofs)
  | .vuPerm _ _ d a b c => one d (permV (v a) (v b) (v c))
  | _ => ([], [])

/-- P: path cycles of a special function (R226). -/
def specialP (ty : FTy) (long : Bool) : Nat := (if ty = .bf16 then 2 else 1) * (if long then 4 else 2)

/-- The cycle, counted from the issue, at whose end an instruction's registers are written (R226). -/
def vuLatency (i : Instr) : Nat :=
  match i with
  | .vuAdd .. | .vuSub .. | .vuMul .. | .vuFma .. => 4
  | .vuCvt _ _ _ _ _ mode _ _ _ => if mode ≥ 12 then 6 else 4
  | .vuQmx .. => 8
  | .vuExp2 _ _ ty _ _ | .vuLog2 _ _ ty _ _ | .vuRcp _ _ ty _ _ | .vuRsq _ _ ty _ _ => specialP ty false + 12
  | .vuTanh _ _ ty _ _ | .vuSin _ _ ty _ _ | .vuCos _ _ ty _ _ => specialP ty true + 20
  | .vuXsum _ _ ty _ _ _ _ _ => (if ty = .bf16 then 2 else 1) + 8
  | .vuTopk _ _ _ _ _ _ two _ => (if two then 16 else 8) + 16
  | .vuRng .. => 14
  | _ => 2

/-- Micro-operations of a vector instruction issued in cycle `c` (R226 to R228). -/
def vuOps (i : Instr) (c : Nat) : List (Nat × Micro) :=
  match i with
  | .vuLd _ _ _ (.store line) nl _ => (List.range nl).map (fun j => (c, .rd j (line + j))) ++ [(c + 4, .work 0)]
  | .vuLd _ _ _ (.landing q e) nl _ =>
    (List.range nl).flatMap (fun j => [(c + j, .land j q (e + j)), (c + j + 3, .spokeIn j), (c + j + 6, .work j)])
  | .vuSt _ _ _ line nl => (List.range nl).map (fun j => (c + 1, .wr j (line + j)))
  | i => [(c + vuLatency i, .work 0)]

/-- The lanes of one line. -/
def lanesOf (bs : List Byte) : List Lane := (List.range 32).map (fun i => BitVec.ofNat 32 (leAt bs (4 * i) 4))

/-- Work of a vector instruction: the register writes, suppressed by a false predicate (R227, R230). -/
def workVu (s : State) (cl _iid : Nat) (f : Fly) (idx : Nat) : State :=
  if !f.on then s
  else
    match f.ins with
    | .vuLd _ _ d (.store _) nl tag =>
      s.updClu cl (fun k => k.setVreg d
        ⟨(List.range nl).flatMap (fun j => lanesOf (Tbl.get (zeros 128) f.lines j)) ++ List.replicate (128 - 32 * nl) 0, tag⟩)
    | .vuLd _ _ d (.landing _ _) nl tag =>
      s.updClu cl (fun k =>
        let old := (k.vreg d).lanes
        let base := (List.range 128).map (fun i => if 32 * nl ≤ i && idx == 0 then 0 else nth 0 old i)
        let ls := lanesOf (Tbl.get (zeros 128) f.lines idx)
        k.setVreg d ⟨base.take (32 * idx) ++ ls ++ base.drop (32 * idx + 32),
          if idx + 1 = nl then tag else if idx = 0 then none else (k.vreg d).tag⟩)
    | _ => s.updClu cl (fun k => f.res.foldl (fun k p => k.setVreg p.1 p.2) k)

end Sys2Proof.Machine
end

