-- ==== Sys2Proof/Machine/Words.lean ====
section
/-! DEFINITION. The checks on single words (checks 3 and 10 of R179): the ranges, alignments and pairings that chapters 06 to 09 give for
operands. A word that breaks one is in no image that a module takes (R183, R225, R249). -/

namespace Sys2Proof.Machine

/-- DELTA and PIDX of a cluster word (R158). -/
def wdOk (w : Wd) : Bool := w.delta < 1024 && w.pidx < 8

/-- `n` lines from store line `line` exist (R182, R104). -/
def linesOk (line n : Nat) : Bool := line + n ≤ 6144

/-- `n` entries from `entry` exist (R92). -/
def entriesOk (entry n : Nat) : Bool := 1 ≤ n && entry + n ≤ 512

/-- An s8 field. An exponent of −128, which R127 leaves out, passes and scales by 2^−128 (DESIGN CHOICE, log 85). -/
def s8Ok (t : Int) : Bool := -128 ≤ t && t ≤ 127

/-- A vector register number (R218). -/
def vOk (v : Nat) : Bool := v < 32

/-- Formats of R194's pairs: the same class. -/
def sameClass (a w : Fmt) : Bool := a.kw == w.kw

/-- A format that ME.LOADW, ME.MAC, ME.MACS and ME.MACV accept: all but FP32 (R187). -/
def meFmtOk (f : Fmt) : Bool := f ≠ .fp32

/-- The MODE and POS rules of VU.CVT (R236): POS is bounded in the modes that use it. -/
def cvtOk (mode pos : Nat) : Bool :=
  mode ≤ 13 && pos ≤ (if mode ∈ [2, 3, 4, 6, 7, 8, 12] then 3 else if mode ∈ [5, 9, 13] then 7 else 15)

/-- SEG of VU.XSUM (R240). -/
def segOk (ty : VTy) (seg : Nat) : Bool :=
  match ty with
  | .bf16 => 1 ≤ seg && seg ≤ 4
  | _ => seg ≤ 3

/-- The registers of VU.TOPK (R242): VD lies in no source pair. -/
def topkOk (vd va vb : Nat) (two : Bool) (k : Nat) : Bool :=
  let apart := fun (x : Nat) => x ≤ 30 && vd ≠ x && vd ≠ x + 1
  vd ≤ 30 && apart va && (if two then apart vb else vOk vb) && 1 ≤ k && k ≤ 128

/-- The second operand of an integer instruction. -/
def opndOk : Opnd → Bool
  | .reg v => vOk v
  | .imm _ => true

/-- The shift count of VU.SHL and VU.SHR. -/
def shOk : ShOp → Bool
  | .reg v => vOk v
  | .imm n => n < 32

/-- Arm lengths of SQ.BR (R210). -/
def armOk (l : ArmLens) : Bool := l.me < 4096 && l.vu < 4096 && l.mv < 4096 && l.sq < 4096

/-- DSPAN of MV.SEND: a span with an inbound queue `q`, other than the sender's own (R202). -/
def sendOk (cl dspan q : Nat) : Bool := q < queuesOf dspan && dspan ≠ spanOf cl

/-- The range of pseudo-channels of a memory word (R249). -/
def pcsOk (delta pclo pcn : Nat) : Bool := delta < 1024 && 1 ≤ pcn && pclo + pcn ≤ 64

/-- The store lines that a word names: first line and number (R182). -/
def wordLines (i : Instr) : List (Nat × Nat) :=
  match i with
  | .meLoadw _ _ _ f line => [(line, tileLines f)]
  | .meMac _ _ _ _ a _ line m _ => [(line, (m * a.rb + 127) / 128)]
  | .meMacs _ _ _ _ a _ line m _ => [(line, (m * a.rb + 127) / 128 + (m * (a.kw / 32) + 127) / 128)]
  | .meMacv _ _ _ f wg ag ic g _ => [(16 * ag, macvAL f ic + (if f.isMx then 1 else 0)), (16 * wg, 16 * (ic * g + macvSG f (ic * g)))]
  | .meAddx _ _ _ _ line r _ => [(line, 8 * r)]
  | .meRound _ _ _ f _ line r _ => [(line, roundLines f r)]
  | .meDrain _ _ _ line r _ => [(line, 8 * r)]
  | .mvCopy _ _ sl dl _ n => [(sl, n), (dl, n)]
  | .mvSend _ _ sl _ _ _ n | .mvHbm _ _ sl _ _ _ n _ | .mvStage _ _ sl _ _ n _ => [(sl, n)]
  | .mvRecv _ _ _ _ (.store dl) n => [(dl, n)]
  | .mvFill _ _ dl n _ => [(dl, n)]
  | .sqFlag _ _ (.loads line _) => [(line, 1)]
  | .sqDigest _ _ line n => [(line, n)]
  | .vuLd _ _ _ (.store line) nl _ => [(line, nl)]
  | .vuSt _ _ _ line nl => [(line, nl)]
  | _ => []

/-- Does every store line that a word names exist (check 10 of R179)? -/
def placeOk (i : Instr) : Bool := (wordLines i).all (fun x => linesOk x.1 x.2)

/-- The ranges, alignments and pairings of one word (check 3 of R179); true for a command that is no word. -/
def formOk (i : Instr) : Bool :=
  match i with
  | .meWin _ w _ _ ta tw => wdOk w && s8Ok ta && s8Ok tw
  | .meClear _ w _ => wdOk w
  | .meLoadw _ w _ f line => wdOk w && meFmtOk f && line < 8192 && line % 16 == 0
  | .meMac _ w _ _ a f line m row =>
    wdOk w && meFmtOk a && meFmtOk f && !a.isMx && !f.isMx && sameClass a f && 1 ≤ m && row + m ≤ 64 && line < 8192
  | .meMacs _ w _ _ a f line m row =>
    wdOk w && a.isMx && f.isMx && sameClass a f && 1 ≤ m && row + m ≤ 64 && line < 8192
  | .meMacv _ w _ f wg ag ic g row =>
    wdOk w && meFmtOk f && 1 ≤ ic && ic ≤ 64 && 1 ≤ g && row + g ≤ 64 && ic * g ≤ (if f.isMx then 128 else 384) &&
      macvAL f ic + (if f.isMx then 1 else 0) ≤ 16 && ag < 512 && wg < 512
  | .meAddx _ w _ _ line r row => wdOk w && 1 ≤ r && row + r ≤ 64 && line < 8192
  | .meRound _ w _ f t line r row =>
    wdOk w && (f ∈ [.e4m3, .e5m2, .int8, .int4, .bf16, .fp32]) && s8Ok t && 1 ≤ r && row + r ≤ 64 && line < 8192
  | .meDrain _ w _ line r row => wdOk w && 1 ≤ r && row + r ≤ 64 && line < 8192
  | .mvCopy _ w sl dl dpos n => wdOk w && dpos < 8 && 1 ≤ n && n ≤ 1024 && sl < 8192 && dl < 8192
  | .mvSend cl w sl d q e n => wdOk w && n ≤ 512 && sl < 8192 && entriesOk e n && sendOk cl d q
  | .mvRecv _ w q e (.store dl) n => wdOk w && q < 2 && n ≤ 512 && entriesOk e n && dl < 8192
  | .mvRecv _ w q e (.imem wl sln) n => wdOk w && q < 2 && n ≤ 32 && entriesOk e n && wl < 1024 && sln + n ≤ 65536
  | .mvHbm _ w sl st q e n tagb => wdOk w && st < 4 && q < 4 && n ≤ 64 && sl < 8192 && entriesOk e n && tagb < 4096
  | .mvStage _ w sl q e n desc => wdOk w && q < 2 && n ≤ 512 && sl < 8192 && entriesOk e n && desc < 1024
  | .mvFill _ w dl n _ => wdOk w && 1 ≤ n && n ≤ 1024 && dl < 8192
  | .sqWait _ d q => d < 1024 && 1 ≤ q && q ≤ 4096
  | .sqBr _ d sel n l0 l1 => d < 1024 && sel < 8 && 1 ≤ n && n ≤ 256 && armOk l0 && armOk l1
  | .sqFlag _ d (.set _ _) => d < 1024
  | .sqFlag _ d (.loads line byte) => d < 1024 && line < 8192 && byte < 128
  | .sqFlag _ d (.loade q e _ db) => d < 1024 && q < 2 && e < 512 && db < 8
  | .sqFlag _ d (.imm _ _) => d < 1024
  | .sqAgree _ d p q e bp _ _ p1 p0 => d < 1024 && p < 6 && q < 4 && e < 512 && bp ≤ 255 && p1 < 8 && p0 < 8
  | .sqDigest _ d line n => d < 1024 && 1 ≤ n && n ≤ 1024 && line < 8192
  | .sqEnd _ d => d < 1024
  | .ptPage _ d page => d < 1024 && page < 1024
  | .ptPad _ pad => pad < 4096
  | .phaseMark _ adv bp => 1 ≤ adv && adv ≤ 65535 && bp ≤ 255
  | .idleWord _ d => d < 1024
  | .vuLd _ w vd (.store line) nl _ => wdOk w && vOk vd && 1 ≤ nl && nl ≤ 4 && line < 8192
  | .vuLd _ w vd (.landing q e) nl _ => wdOk w && vOk vd && q < 2 && nl ≤ 4 && entriesOk e nl
  | .vuSt _ w va line nl => wdOk w && vOk va && 1 ≤ nl && nl ≤ 4 && line < 8192
  | .vuAdd _ w _ d a b | .vuSub _ w _ d a b | .vuMul _ w _ d a b => wdOk w && vOk d && vOk a && vOk b
  | .vuFma _ w _ d a b c => wdOk w && vOk d && vOk a && vOk b && vOk c
  | .vuMin _ w _ d a b | .vuMax _ w _ d a b | .vuCmp _ w _ _ d a b => wdOk w && vOk d && vOk a && vOk b
  | .vuSel _ w d a b c | .vuPerm _ w d a b c => wdOk w && vOk d && vOk a && vOk b && vOk c
  | .vuIadd _ w d a o _ _ => wdOk w && vOk d && vOk a && opndOk o
  | .vuAnd _ w d a o | .vuOr _ w d a o | .vuXor _ w d a o => wdOk w && vOk d && vOk a && opndOk o
  | .vuShl _ w d a o | .vuShr _ w d a o _ => wdOk w && vOk d && vOk a && shOk o
  | .vuCvt _ w d a b mode _ t pos => wdOk w && vOk d && vOk a && vOk b && cvtOk mode pos && s8Ok t
  | .vuQmx _ w d a e f sb => wdOk w && vOk d && a ≤ 28 && vOk e && e ≠ d && f.isMx && sb < 32
  | .vuExp2 _ w _ d a | .vuLog2 _ w _ d a | .vuRcp _ w _ d a | .vuRsq _ w _ d a | .vuTanh _ w _ d a | .vuSin _ w _ d a
  | .vuCos _ w _ d a => wdOk w && vOk d && vOk a
  | .vuXsum _ w ty d a seg _ _ => wdOk w && vOk d && vOk a && segOk ty seg
  | .vuTopk _ w _ d a b two k => wdOk w && topkOk d a b two k
  | .vuRng _ w d a _ ofs => wdOk w && vOk d && vOk a && ofs < 65536
  | .act _ d lo n bank row => pcsOk d lo n && bank < 48 && row < 32768
  | .pre _ d lo n bank _ => pcsOk d lo n && bank < 48
  | .rd _ d lo n bank col dspan q e ph =>
    pcsOk d lo n && bank < 48 && col < 8 && q < queuesOf dspan && !(100 ≤ dspan && dspan < 104) && entriesOk e n && ph < 4
  | .wr _ d lo n bank col q e => pcsOk d lo n && bank < 48 && col < 8 && q < 4 && entriesOk e n
  | .refa _ d lo n => pcsOk d lo n
  | .refb _ d lo n bank => pcsOk d lo n && bank < 48
  | _ => true

/-- Does a refill stay in the instruction memory (R163, R205)? -/
def refillOk (i : Instr) : Bool :=
  match i with
  | .mvRecv _ _ _ _ (.imem wl _) n => wl + n ≤ 768
  | _ => true

/-- Cluster, unit and common fields of a cluster unit word. -/
def unitOf (i : Instr) : Option (Nat × Unit4 × Wd) :=
  let w0 := fun (d : Nat) => Wd.mk d false 0
  match i with
  | .meWin c w _ _ _ _ | .meClear c w _ | .meLoadw c w _ _ _ | .meMac c w _ _ _ _ _ _ _ | .meMacs c w _ _ _ _ _ _ _
  | .meMacv c w _ _ _ _ _ _ _ | .meAddx c w _ _ _ _ _ | .meRound c w _ _ _ _ _ _ | .meDrain c w _ _ _ _ => some (c, .me, w)
  | .mvCopy c w _ _ _ _ | .mvSend c w _ _ _ _ _ | .mvRecv c w _ _ _ _ | .mvHbm c w _ _ _ _ _ _ | .mvStage c w _ _ _ _ _
  | .mvFill c w _ _ _ => some (c, .mv, w)
  | .sqWait c d _ | .sqBr c d _ _ _ _ | .sqFlag c d _ | .sqAgree c d _ _ _ _ _ _ _ _ | .sqDigest c d _ _ | .sqEnd c d =>
    some (c, .sq, w0 d)
  | .vuLd c w _ _ _ _ | .vuSt c w _ _ _ | .vuAdd c w _ _ _ _ | .vuSub c w _ _ _ _ | .vuMul c w _ _ _ _ | .vuFma c w _ _ _ _ _
  | .vuMin c w _ _ _ _ | .vuMax c w _ _ _ _ | .vuCmp c w _ _ _ _ _ | .vuSel c w _ _ _ _ | .vuIadd c w _ _ _ _ _
  | .vuAnd c w _ _ _ | .vuOr c w _ _ _ | .vuXor c w _ _ _ | .vuShl c w _ _ _ | .vuShr c w _ _ _ _ | .vuCvt c w _ _ _ _ _ _ _
  | .vuQmx c w _ _ _ _ _ | .vuExp2 c w _ _ _ | .vuLog2 c w _ _ _ | .vuRcp c w _ _ _ | .vuRsq c w _ _ _ | .vuTanh c w _ _ _
  | .vuSin c w _ _ _ | .vuCos c w _ _ _ | .vuXsum c w _ _ _ _ _ _ | .vuTopk c w _ _ _ _ _ _ | .vuRng c w _ _ _ _
  | .vuPerm c w _ _ _ _ => some (c, .vu, w)
  | _ => none

/-- The stream exists (R22, R215, R245). -/
def streamOk : StreamId → Bool
  | .unit c _ => c < 800
  | .port p => p < 6
  | .mem st => st < 4

/-- The unit that issues a word exists; true for a command that is no word. -/
def unitExists (i : Instr) : Bool :=
  match i with
  | .phaseMark st _ _ | .idleWord st _ => streamOk st
  | .act st .. | .pre st .. | .rd st .. | .wr st .. | .refa st .. | .refb st .. => streamOk (.mem st)
  | .ptPage p .. | .ptPad p _ => streamOk (.port p)
  | i => ((unitOf i).map (fun x => streamOk (.unit x.1 x.2.1))).getD true

/-- The word checks on one word that decide whether a unit can issue it; true for a command that is no word. A store line that does not exist
(check 10) is no such one: the access raises 0x100E (R23, R180). -/
def wordOk (i : Instr) : Bool := unitExists i && formOk i && refillOk i

/-! ### Issue: the cluster, unit, delta and predicate of a word -/

/-- The agent of a unit within its tile (R513). -/
def unitPart : Unit4 → Nat
  | .me => 0
  | .vu => 1
  | .mv => 2
  | .sq => 3

end Sys2Proof.Machine
end

