-- ==== Sys2Proof/Machine/Pipe.lean ====
section
/-! DEFINITION. The cycles of a compute span: accesses that meet in a bank, a landing bank or a spoke, and what instructions in flight do
in each cycle (04: R105 to R115; 06: R158 to R168; 07 and 08: timing tables). -/

namespace Sys2Proof.Machine

/-! ### Data mover and sequencer instructions: micro-operations -/

/-- Micro-operations of a data mover instruction issued in cycle `c` by the cluster at position `pos` (R202). -/
def mvOps (i : Instr) (c pos : Nat) : List (Nat × Micro) :=
  match i with
  | .mvCopy _ _ sl dl dpos n =>
    (List.range n).flatMap (fun j =>
      [(c + j, .rd j (sl + j)), if dpos = pos then (c + j + 4, .wr j (dl + j)) else (c + j + 4, .spokeOut j)])
  | .mvSend _ _ sl _ _ _ n | .mvHbm _ _ sl _ _ _ n _ | .mvStage _ _ sl _ _ n _ =>
    (List.range n).flatMap (fun j => [(c + j, .rd j (sl + j)), (c + j + 4, .spokeOut j)])
  | .mvRecv _ _ q e dst n =>
    (List.range n).flatMap (fun j =>
      [(c + j, .land j q (e + j)), (c + j + 3, .spokeIn j),
       match dst with
       | .store dl => (c + j + 6, .wr j (dl + j))
       | .imem _ _ => (c + j + 6, .work j)])
  | .mvFill _ _ dl n _ => (List.range n).map (fun j => (c + j, .wr j (dl + j)))
  | _ => []

/-- Micro-operations of a cluster sequencer instruction issued in cycle `c` (R208 to R213). -/
def sqOps (i : Instr) (c : Nat) : List (Nat × Micro) :=
  match i with
  | .sqFlag _ _ (.set _ _) | .sqFlag _ _ (.imm _ _) => [(c + 1, .work 0)]
  | .sqFlag _ _ (.loads line _) => [(c, .rd 0 line), (c + 4, .work 0)]
  | .sqFlag _ _ (.loade _ _ _ _) => [(c + 6, .work 0)]
  | .sqAgree .. => [(c + 4, .spokeOut 0)]
  | .sqDigest _ _ line n => (List.range n).flatMap (fun j => [(c + j, .rd j (line + j)), (c + j + 4, .work j)])
  | _ => []

/-- Micro-operations of any unit's instruction. -/
def opsOf (i : Instr) (u : Unit4) (c pos : Nat) : List (Nat × Micro) :=
  match u with
  | .me => meOps i c
  | .vu => vuOps i c
  | .mv => mvOps i c pos
  | .sq => sqOps i c

/-! ### Arbitration -/

/-- The resource a micro-operation takes: code of CLU_BANK_LOG, key within the span, index (R105, R113, R115). -/
def resourceOf (cl : Nat) : Micro → Option (Nat × Nat × Nat)
  | .rd _ line | .wr _ line | .arrWr line _ _ => some (0, 16 * cl + line % 16, line % 16)
  | .land _ q entry => some (1, 4 * q + entry % 4, entry % 4)
  | .arrive .. | .spokeIn _ => some (2, cl, 0)
  | .spokeOut _ => some (3, cl, 0)
  | .work _ => none

/-- Precedence of a unit (R108). -/
def unitRank : Unit4 → Nat
  | .me => 1
  | .vu => 2
  | .mv => 3
  | .sq => 4

/-- Rank of an access: class, then the source position of an arrival (R113) or the issue order of the instruction (R186), which decides
between two lines on an outbound spoke too (DESIGN CHOICE, log 10). -/
def opRank (o : Op) : Nat × Nat :=
  match o.act with
  | .arrive _ src _ _ _ => (0, src)
  | .arrWr .. => (0, 0)
  | _ => (unitRank o.unit, o.iid)

/-- Is access `a` served before access `b`? Each is a cluster, its place in the cycle's list, and the operation. Landing banks are
shared by the clusters of a span: between equal ranks the lower cluster is served (DESIGN CHOICE, log 10). -/
def before (a b : Nat × Nat × Op) : Bool :=
  let x := opRank a.2.2
  let y := opRank b.2.2
  if x.1 ≠ y.1 then x.1 < y.1
  else if a.1 ≠ b.1 then a.1 < b.1
  else if x.2 ≠ y.2 then x.2 < y.2
  else a.2.1 < b.2.1

/-- Do two accesses take the same resource? -/
def sameRes (a b : Nat × Nat × Op) : Bool :=
  match resourceOf a.1 a.2.2.act, resourceOf b.1 b.2.2.act with
  | some x, some y => x.1 = y.1 && x.2.1 = y.2.1
  | _, _ => false

/-- Is `a` served among the accesses of a cycle? -/
def served (l : List (Nat × Nat × Op)) (a : Nat × Nat × Op) : Bool :=
  l.all (fun b => !(sameRes a b) || b.2.1 == a.2.1 && b.1 == a.1 || before a b)

/-- Bits of SUPPRESSED in CLU_BANK_LOG for one suppressed access. -/
def suppressBits (o : Op) : Reg :=
  let u : Reg := match o.unit with
    | .me => 0x40
    | .vu => 0x80
    | .mv => 0x100
    | .sq => 0x200
  match o.act with
  | .arrive .. | .arrWr .. => 0x800
  | .land .. | .spokeIn _ => u ||| 0x400
  | _ => u

/-- The collision of a cluster in a cycle: log and 0x1001, once (R108, R123, R515). `sup` are its suppressed accesses. -/
def State.collide (s : State) (cl cyc : Nat) (sup : List Op) : State :=
  match sup.filterMap (fun o => resourceOf cl o.act) with
  | [] => s
  | r :: rs =>
    let low := rs.foldl (fun m x => if x.1 < m.1 || x.1 == m.1 && x.2.2 < m.2.2 then x else m) r
    let on := sup.filter (fun o =>
      match resourceOf cl o.act with
      | some x => x.1 == low.1 && x.2.2 == low.2.2
      | none => false)
    let k := s.clu cl
    let log := if k.collided then k.bankLog else
      orAll ([at_ low.2.2 0 4, at_ low.1 4 2, at_ s.phase 12 3, at_ cyc 15 11, at_ s.tick 26 38] ++ on.map suppressBits)
    State.raise (s.setClu cl { k with bankLog := log, collided := true }) 0x1001 (spanOf cl) (s.agentOf cl 4) log

/-! ### What served and suppressed accesses do -/

/-- Faults that `t` has raised beyond `s` are kept once for each code and instruction (R515); a line whose corrected read gets no record
for that reason may have one later (R110). -/
def State.onceFor (t s : State) (cl iid : Nat) : State :=
  let n := s.flt.raised.length
  let new := t.flt.raised.drop n
  if new.isEmpty then t
  else
    let had := match s.flyOf cl iid with
      | some f => f.raised
      | none => []
    let keep := new.filter (fun r => !had.contains r.code)
    State.updFly (t.updFlt (fun f => { f with raised := f.raised.take n ++ keep,
                                              eccSeen := if keep.length = new.length then f.eccSeen else s.flt.eccSeen })) cl iid
      (fun f => { f with raised := f.raised ++ keep.map (·.code) })

/-- A line that an instruction has read. -/
def State.gotLine (s : State) (cl iid idx : Nat) (d : List Byte) : State :=
  s.updFly cl iid (fun f => { f with lines := Tbl.set f.lines idx d })

/-- A read in its cycle (R106, R108, R115). A line of the unpopulated part of the window delivers free bytes (R23, log 84). A landing read suppressed at its bank brings no line to the inbound spoke (DEDUCED, log 67). -/
def readOp (s : State) (cl : Nat) (o : Op) (ok : Bool) : State :=
  match o.act with
  | .rd idx line =>
    if 6144 ≤ line then let r := s.freeBytes 128; r.2.gotLine cl o.iid idx r.1
    else if ok then
      let r := s.readLine cl line
      (r.2.onceFor s cl o.iid).gotLine cl o.iid idx r.1
    else s.gotLine cl o.iid idx (zeros 128)
  | .land idx q entry =>
    if ok then
      let had := match s.flyOf cl o.iid with
        | some f => f.raised.contains 0x1003
        | none => false
      let r := s.readLanding cl (s.agentOf cl (unitPart o.unit)) q entry s.tik.phaseNo had
      ((r.2.2.onceFor s cl o.iid).gotLine cl o.iid idx r.2.1).updFly cl o.iid
        (fun f => { f with marks := Tbl.set f.marks idx (r.1.w0 && r.1.w1, r.1.e0 || r.1.e1) })
    else
      ((s.gotLine cl o.iid idx (zeros 128)).updFly cl o.iid (fun f => { f with marks := Tbl.set f.marks idx (true, false) })).updClu cl
        (fun k => { k with ops := k.ops.filter (fun x => !(x.iid == o.iid && x.act == .spokeIn idx)) })
  | .spokeIn idx => if ok then s else s.gotLine cl o.iid idx (zeros 128)
  | _ => s

/-- An operation added to a cluster. -/
def State.addOp (s : State) (cl : Nat) (o : Op) : State := s.updClu cl (fun k => { k with ops := k.ops ++ [o] })

/-- The line that SQ.AGREE sends (R212): `src` holds the value taken at issue. -/
def agreeLine (bp v step : Nat) : List Byte :=
  padTo ([BitVec.ofNat 8 v, BitVec.ofNat 8 bp] ++ leBytes (step % 2 ^ 32) 4) 128

/-- A line on the outbound spoke (R202 to R204, R212): an intra-span transfer, or a crossing write of the phase of its issue. -/
def spokeOutOp (s : State) (cl : Nat) (o : Op) (idx : Nat) : State :=
  match s.flyOf cl o.iid with
  | none => s
  | some f =>
    let d := Tbl.get (zeros 128) f.lines idx
    match f.ins with
    | .mvCopy _ _ _ dl dpos _ =>
      s.addOp (cluAt (spanOf cl) dpos) ⟨o.cyc + 4, .mv, o.iid, .arrive idx (posOf cl) (dl + idx) d f.on⟩
    | .mvSend _ _ _ sp q e _ => s.cross (s.destSpan sp) q (e + idx) true true d (!f.on) none none f.phase
    | .mvHbm _ _ _ st q e _ tagb =>
      s.cross (100 + st) q (e + idx) true true d (!f.on) (some (BitVec.ofNat 12 (tagb + idx))) none f.phase
    | .mvStage _ _ _ q e _ desc => s.cross 110 q (e + idx) true true d (!f.on) none (some desc) f.phase
    | .sqAgree _ _ p q e bp _ _ _ _ =>
      s.cross (s.destSpan (104 + p)) q e true true (agreeLine bp (nth 0 f.src 0).toNat s.step) false none none f.phase
    | _ => s

/-- Is the operation a write to the unpopulated part of a store window (R23)? -/
def Micro.toHole : Micro → Bool
  | .wr _ line | .arrWr line _ _ => decide (6144 ≤ line)
  | _ => false

/-- A write in its cycle (R105, R106), and the traffic of the spokes. The unpopulated part of a window stores nothing (R23, log 84). -/
def writeOp (s : State) (cl : Nat) (o : Op) (ok : Bool) : State :=
  if !ok || o.act.toHole then s
  else
    match o.act with
    | .wr idx line =>
      match s.flyOf cl o.iid with
      | none => s
      | some f =>
        if !f.on then s
        else
          match f.ins with
          | .vuSt .. => s.writeLine cl line ((List.range 32).flatMap (fun i => leBytes (nth 0 f.src (32 * idx + i)).toNat 4))
          | .mvFill _ _ _ _ pat => s.writeLine cl line ((List.replicate 64 (leBytes pat.toNat 2)).flatten)
          | .mvCopy .. | .mvRecv .. => s.writeLine cl line (Tbl.get (zeros 128) f.lines idx)
          | _ =>
            let p := meLineOut (s.clu cl).me f idx
            s.writeWords cl line p.1 p.2
    | .arrWr line d keep => if keep then s.writeLine cl line d else s
    | .arrive _ _ line d keep => s.addOp cl { o with cyc := o.cyc + 3, act := .arrWr line d keep }
    | .spokeOut idx => spokeOutOp s cl o idx
    | _ => s

/-- Work of a data mover instruction: a refilled line of instruction memory (R205, R206). -/
def workMv (s : State) (cl : Nat) (f : Fly) (idx : Nat) : State :=
  match f.ins with
  | .mvRecv _ _ _ _ (.imem wl sln) _ =>
    let m := Tbl.get (false, false) f.marks idx
    if f.on && m.1 && !m.2 then
      s.updClu cl (fun k => { k with imem := Tbl.set k.imem (wl + idx) ⟨Tbl.get (zeros 128) f.lines idx, (sln + idx) % 65536⟩ })
    else s
  | _ => s

/-- P and FS after SQ.FLAG SET (R211). -/
def flagSet (p fs mask : BitVec 8) (inv : Bool) : BitVec 8 :=
  (p &&& ~~~mask) ||| ((fs ^^^ (if inv then 0xFF else 0)) &&& mask)

/-- P after SQ.FLAG IMM (R211). -/
def flagImm (p mask value : BitVec 8) : BitVec 8 := (p &&& ~~~mask) ||| (value &&& mask)

/-- FS with bit `i` set to `b`. -/
def setFlagBit (fs : BitVec 8) (i : Nat) (b : Bool) : BitVec 8 :=
  if b then fs ||| (BitVec.ofNat 8 (2 ^ i)) else fs &&& ~~~(BitVec.ofNat 8 (2 ^ i))

/-- Digest D of a cluster (R213): an unlisted one holds its start value. -/
def digStart (cl : Nat) : BitVec 64 := crc64 0 (leBytes cl 2)
/-- Digest D of a cluster. -/
def State.dig (s : State) (cl : Nat) : BitVec 64 := Tbl.get (digStart cl) s.digs cl

/-- Work of a cluster sequencer instruction (R211, R213). LOADE of a half that was not written reads as no data: FS[DBIT] is 0 (R96; DEDUCED,
log 68). -/
def workSq (s : State) (cl iid : Nat) (f : Fly) (idx : Nat) : State :=
  match f.ins with
  | .sqFlag _ _ (.set mask inv) => s.updClu cl (fun k => { k with p := flagSet k.p k.fs mask inv })
  | .sqFlag _ _ (.imm mask value) => s.updClu cl (fun k => { k with p := flagImm k.p mask value })
  | .sqFlag _ _ (.loads _ byte) => s.updClu cl (fun k => { k with fs := nth 0 (Tbl.get (zeros 128) f.lines 0) byte })
  | .sqFlag _ _ (.loade q entry half dbit) =>
    let e := s.landAt (spanOf cl) q (readFrame s.tik.phaseNo) entry
    let unw := match half with
      | .first => !e.w0
      | .second => !e.w1
      | .both => !(e.w0 && e.w1)
    let mark := match half with
      | .first => e.e0
      | .second => e.e1
      | .both => e.e0 || e.e1
    let h := match half with
      | .first => 0
      | .second => 1
      | .both => e.badHalf
    let s := if unw then s.xqFault 0x1003 (spanOf cl) (s.agentOf cl 3) q entry h 1 (s.tik.phaseNo - 2) else s
    s.updClu cl (fun k => { k with fs := setFlagBit k.fs dbit (!mark && !unw) })
  | .sqDigest .. =>
    { s with digs := Tbl.set s.digs cl (crc64 (s.dig cl) (Tbl.get (zeros 128) f.lines idx)) }
  | _ => let _ := iid; s

/-- Work at the end of a cycle. -/
def workOp (s : State) (cl : Nat) (o : Op) : State :=
  match o.act with
  | .work idx =>
    match s.flyOf cl o.iid with
    | none => s
    | some f =>
      match o.unit with
      | .me => workMe s cl o.iid f idx
      | .vu => workVu s cl o.iid f idx
      | .mv => workMv s cl f idx
      | .sq => workSq s cl o.iid f idx
  | _ => s

/-! ### Cycles -/

/-- The clusters of a compute span. -/
def clustersOf (span : Nat) : List Nat := (List.range 8).map (cluAt span)

/-- Has a span no operation that waits? -/
def State.spanIdle (s : State) (span : Nat) : Bool := (clustersOf span).all (fun c => (s.clu c).ops.isEmpty)

/-- Instructions whose operations are all done leave the cluster. -/
def Cluster.retire (k : Cluster) : Cluster :=
  { k with fly := k.fly.filter (fun p => k.ops.any (fun o => o.iid == p.1)) }

/-- One cycle of a compute span: every operation due in it is served or suppressed. -/
def runCycle (s : State) (span : Nat) : State :=
  let m := (s.spn span).cycle
  let cs := clustersOf span
  let due := cs.flatMap (fun c => ((s.clu c).ops.filter (fun o => o.cyc ≤ m)).mapIdx (fun j o => (c, j, o)))
  let marked := due.map (fun a => (a, served due a))
  let s := forEach s cs (fun s c => s.updClu c (fun k => { k with ops := k.ops.filter (fun o => !(o.cyc ≤ m)) }))
  let s := marked.foldl (fun s p => readOp s p.1.1 { p.1.2.2 with cyc := m } p.2) s
  let s := marked.foldl (fun s p => writeOp s p.1.1 { p.1.2.2 with cyc := m } p.2) s
  let s := forEach s cs (fun s c =>
    s.collide c m (marked.filterMap (fun p => if p.1.1 = c && !p.2 then some p.1.2.2 else none)))
  let s := marked.foldl (fun s p => workOp s p.1.1 p.1.2.2) s
  let s := forEach s cs (fun s c => if (s.clu c).fly.isEmpty then s else s.updClu c Cluster.retire)
  s.updSpn span (fun k => { k with cycle := m + 1 })

/-- The span's cycles up to cycle `c`, at most `n` of them one by one. -/
def runTo (s : State) (span c : Nat) : Nat → State
  | 0 => s
  | n + 1 =>
    if s.spanIdle span then s.updSpn span (fun k => { k with cycle := max k.cycle c })
    else if (s.spn span).cycle < c then runTo (runCycle s span) span c n
    else s

/-- Every cycle of the span below `c` carried out. -/
def advanceSpan (s : State) (span c : Nat) : State := runTo s span c (c - (s.spn span).cycle + 1)

/-- The last cycle for which an operation of the span waits; an operation on a spoke may add one up to 7 cycles later. -/
def State.lastOp (s : State) (span : Nat) : Nat :=
  (clustersOf span).foldl (fun m c => (s.clu c).ops.foldl (fun m o => max m o.cyc) m) 0

/-- Every operation of the span that waits carried out (the phase ends). -/
def drainSpan (s : State) (span : Nat) : State :=
  if s.spanIdle span then s else advanceSpan s span (s.lastOp span + 16)

/-! ### Issue -/

/-- A unit's stream. -/
def Cluster.stream (k : Cluster) : Unit4 → Stream
  | .me => k.sMe
  | .vu => k.sVu
  | .mv => k.sMv
  | .sq => k.sSq
/-- A unit's stream replaced. -/
def Cluster.setStream (k : Cluster) (u : Unit4) (t : Stream) : Cluster :=
  match u with
  | .me => { k with sMe := t }
  | .vu => { k with sVu := t }
  | .mv => { k with sMv := t }
  | .sq => { k with sSq := t }

/-- The issue cycle of a word (R161). -/
def Stream.issue (t : Stream) (delta : Nat) : Nat := if t.first then delta else t.last + delta

/-- The window line that a stream's next word lies in (R163). -/
def Stream.line (t : Stream) : Nat := t.win + t.pos / 16 % t.wlen

/-- The check of R166 on the stream's next word: the stream line expected and the one found, when they differ. A stream without a window is
not checked (log 11). -/
def Cluster.stale (k : Cluster) (t : Stream) : Option (Nat × Nat) :=
  if t.wlen = 0 then none
  else
    let have_ := (Tbl.get {} k.imem t.line).sln
    if have_ = t.pos / 16 then none else some (t.pos / 16, have_)

/-- The stream at the `i`-th word from the next. -/
def Stream.ahead (t : Stream) (i : Nat) : Stream := { t with pos := t.pos + i }

/-- The first of the next `n` words that fails the check of R166, with the lines expected and found. -/
def Cluster.staleIn (k : Cluster) (t : Stream) (n : Nat) : Option (Nat × Nat × Nat) :=
  (List.range n).findSome? (fun i => (k.stale (t.ahead i)).map (fun x => (i, x)))

/-- DETAIL of 0x100C (R166). -/
def staleDetail (u : Unit4) (line want have_ : Nat) : Reg :=
  orAll [at_ (unitPart u) 0 2, at_ line 2 10, at_ want 12 16, at_ have_ 28 16]

/-- The predicate of a word lets it write (R167, R168). -/
def Cluster.enabled (k : Cluster) (w : Wd) : Bool := !w.pred || k.p.getLsbD w.pidx

/-- What a word takes from its cluster at its issue: source lanes, register results, and the codes raised (R220, R237, R240). -/
def atIssue (k : Cluster) (i : Instr) : List Lane × List (Nat × Vreg) × List (BitVec 16) :=
  match i with
  | .vuSt _ _ va _ _ => ((k.vreg va).lanes, [], [])
  | .sqAgree _ _ _ _ _ _ vs val p1 p0 =>
    ([if vs then (if k.p.getLsbD p1 then 2 else 0) + (if k.p.getLsbD p0 then 1 else 0) else val.setWidth 32], [], [])
  | _ => let r := vuRes k i; ([], r.1, r.2)

/-- The window of the buffer that a matrix word names, as assigned at issue (R190). -/
def Me.issueWin (m : Me) (i : Instr) : BitVec 6 × Int × Int :=
  let g := fun (b : Bool) => let x := m.buf b; (x.iWcode, x.iTa, x.iTw)
  match i with
  | .meMac _ _ b _ _ _ _ _ _ | .meMacs _ _ b _ _ _ _ _ _ | .meMacv _ _ b _ _ _ _ _ _ | .meAddx _ _ b _ _ _ _
  | .meRound _ _ b _ _ _ _ _ | .meDrain _ _ b _ _ _ => g b
  | _ => (35, 0, 0)

/-- What an issue changes at once besides the pipeline: the window that later words are assigned (R190). -/
def Me.noteIssue (m : Me) (i : Instr) : Me :=
  match i with
  | .meWin _ _ b wcode ta tw => m.setBuf b { m.buf b with iWcode := wcode, iTa := ta, iTw := tw }
  | _ => m

/-- The first line of an unpopulated part of a store window that a word names, as a local offset (R23): of the cluster's own window, but for
the destination of an intra-span transfer. -/
def holeAddr (cl : Nat) (i : Instr) : Option Nat :=
  let first := fun (x : Nat × Nat) => if linesOk x.1 x.2 then none else some (max 6144 x.1)
  match i with
  | .mvCopy _ _ sl dl dpos n =>
    match first (sl, n) with
    | some l => some (storeAddr cl l)
    | none => (first (dl, n)).map (storeAddr (cluAt (spanOf cl) dpos))
  | i => ((wordLines i).findSome? first).map (storeAddr cl)

/-- A word enters its unit: an instruction in flight with its operations. One that names a line of the unpopulated part of a window raises
0x100E (R23, R180); no loaded image holds one (R183). -/
def State.launch (s : State) (cl : Nat) (u : Unit4) (w : Wd) (i : Instr) (c : Nat) : State :=
  let s := match holeAddr cl i with
    | some a => s.raise 0x100E (spanOf cl) (s.agentOf cl (unitPart u)) 0 (some a)
    | none => s
  let k := s.clu cl
  let on := k.enabled w
  let iid := k.nextIid
  let a := atIssue k i
  let f : Fly := { ins := i, on, phase := s.tik.phaseNo, src := a.1, res := a.2.1, win := k.me.issueWin i }
  let ops := (opsOf i u c (posOf cl)).map (fun p => Op.mk p.1 (match i with | .sqAgree .. => .mv | _ => u) iid p.2)
  let k := { k with nextIid := iid + 1, me := if on then k.me.noteIssue i else k.me }
  let k := if ops.isEmpty then k else { k with fly := Tbl.set k.fly iid f, ops := k.ops ++ ops }
  let s := s.setClu cl k
  if on then a.2.2.foldl (fun s code => s.unitRaise cl iid (unitPart u) code) s else s

/-- May a unit of the cluster issue: the span is not held by an overrun and the stream has not stopped (R89, R166). -/
def State.mayIssue (s : State) (cl : Nat) (u : Unit4) : Bool :=
  !(s.spn (spanOf cl)).overrun && !((s.clu cl).stream u).dead

/-- The word at which a stream goes on where the one before it leads to `q`: the word after a second arm that is not taken (R171, R210). -/
def hopOver (hop : List (Nat × Nat)) (q : Nat) : Nat := hop.foldl (fun q h => if q = h.1 then h.2 else q) q

/-- The stream of a unit after the issue of `n` words, the last in cycle `c`. -/
def Stream.issued (t : Stream) (n c : Nat) : Stream := { t with pos := hopOver t.hop (t.pos + n), last := c, first := false }

/-- A word at its issue: the check of R166, then `go` with the issue cycle. The cycles before it have been carried out. -/
def issueAt (s : State) (cl : Nat) (u : Unit4) (delta words : Nat) (go : State → Nat → State) : State :=
  if !s.mayIssue cl u then s
  else
    let c := ((s.clu cl).stream u).issue delta
    let s := advanceSpan s (spanOf cl) c
    let k := s.clu cl
    let t := k.stream u
    match k.staleIn t words with
    | some (i, want, have_) =>
      State.raise (s.setClu cl (k.setStream u { t with dead := true })) 0x100C (spanOf cl) (s.agentOf cl (unitPart u))
        (staleDetail u (t.ahead i).line want have_)
    | none => go (s.setClu cl (k.setStream u (t.issued words (c + words - 1)))) c

/-- The answer of a cluster unit word: refused when it breaks the word checks, and otherwise the word's issue. -/
def issueWith (i : Instr) (s : State) (words : Nat) (go : Nat → Unit4 → Wd → State → Nat → State) :
    Host.Outcome State Fault Refusal :=
  if !wordOk i then .refused .wordRefused
  else
    match unitOf i with
    | none => .refused .wordRefused
    | some (cl, u, w) => .next (issueAt s cl u w.delta words (go cl u w))

/-- A word whose work is all in the pipeline. -/
def issueWord (i : Instr) (s : State) : Host.Outcome State Fault Refusal :=
  issueWith i s 1 (fun cl u w s c => s.launch cl u w i c)

end Sys2Proof.Machine
end

