-- ==== Sys2Proof/Machine/Hbm.lean ====
section
/-! DEFINITION. The memory sequencer (09): timing table, bank states, the commands of its stream, refresh debt, upkeep. Memory cycles
are counted from the epoch (R246). -/

namespace Sys2Proof.Machine

/-! ### Tables -/

/-- Entries `lo` to `lo + n − 1` of a table changed by `f`; the others stay. -/
def Tbl.updRange {α : Type} (d : α) (t : Tbl α) (lo n : Nat) (f : α → α) : Tbl α := (range' lo n).foldl (fun t k => Tbl.upd d t k f) t

/-- A bank of a pseudo-channel. -/
def Msq.bank (m : Msq) (pc b : Nat) : Bank := Tbl.get {} m.banks (48 * pc + b)
/-- A bank replaced. -/
def Msq.setBank (m : Msq) (pc b : Nat) (x : Bank) : Msq := { m with banks := Tbl.set m.banks (48 * pc + b) x }
/-- A pseudo-channel. -/
def Msq.pc (m : Msq) (pc : Nat) : Pc := Tbl.get {} m.pcs pc
/-- A pseudo-channel replaced. -/
def Msq.setPc (m : Msq) (pc : Nat) (x : Pc) : Msq := { m with pcs := Tbl.set m.pcs pc x }
/-- The banks of a pseudo-channel. -/
def Msq.banksOf (m : Msq) (pc : Nat) : List Bank := (List.range 48).map (m.bank pc)

/-- Field `n` (0 to 17) of the timing table (R256). -/
def ttabField (t : List Reg) (n : Nat) : Nat :=
  if n = 17 then field (nth 0 t 4) 16 8 else field (nth 0 t (n / 4)) (16 * (n % 4)) 16
/-- Field `n` of a sequencer's table. -/
def Msq.tt (m : Msq) (n : Nat) : Nat := ttabField m.ttab n

/-! ### Cycles (R246) -/

/-- Cycle 0 of phase `P` since the epoch. -/
def State.memEdge (s : State) (P : Nat) : Nat := (P * s.k * 144 + 4) / 5
/-- The phase in which a memory cycle falls. -/
def State.memPhase (s : State) (j : Nat) : Nat := 5 * j / (144 * s.k)
/-- The first memory cycle at or after the present machine time. -/
def State.memNow (s : State) : Nat :=
  ((s.tim.now.toNat - s.tim.epoch.toNat * ns) * 12 + (5 * ns - 1)) / (5 * ns)

/-- Debt increases due at or before memory cycle `j` from the start keystone (R260): one every 1,953.125 ns. -/
def increasesBy (j : Nat) : Nat := 2 * j / 9375
/-- The memory cycle at which increase `n` is counted (R260). -/
def increaseCycle (n : Nat) : Nat := (9375 * n + 1) / 2
/-- 1,953.125 ns (R260, R263). -/
def refreshTime : Nat := 15625 * 2 ^ 45

/-! ### Checks (R250, R256, R257, R259) -/

/-- Commands as the checks tell them apart. -/
inductive MemCmd where
  | act | pre | rd | wr | refa | refb
  deriving DecidableEq, Repr

/-- A spacing: the timing field and the cycle from which it counts. -/
abbrev Spacing := Nat × Option Int

/-- The spacings that bear on a command to bank `b` of pseudo-channel `pc` (R256): REFA and REFB hold back every command, a PRE of a
closed bank included (DEDUCED, log 12). -/
def Msq.spacings (m : Msq) (c : MemCmd) (pc b : Nat) : List Spacing :=
  let x := m.bank pc b
  let p := m.pc pc
  let others := (List.range 48).filter (· ≠ b)
  let own : List Spacing := [(14, p.refa), (15, x.refb)]
  match c with
  | .act => own ++ [(1, x.pre), (3, x.act)] ++
      others.map (fun o => (if o / 4 = b / 4 then 5 else 4, (m.bank pc o).act)) ++
      others.map (fun o => (16, (m.bank pc o).refb)) ++
      (match p.acts with
       | [_, _, _, d] => [(6, some d)]
       | _ => [])
  | .rd => own ++ [(0, x.act), (7, p.rd), (11, p.wr)]
  | .wr => own ++ [(0, x.act), (7, p.wr), (10, p.rd)]
  | .pre => own ++ (if x.row.isSome then [(2, x.act), (12, x.wr), (13, x.rd)] else [])
  | .refb => own ++ [(1, x.pre)] ++ others.map (fun o => (16, (m.bank pc o).refb))
  | .refa => (14, p.refa) :: (m.banksOf pc).flatMap (fun y => [(15, y.refb), (1, y.pre)])

/-- The earliest cycle that a spacing permits. -/
def Msq.from_ (m : Msq) (x : Spacing) : Option Int := x.2.map (fun c => c + (m.tt x.1 : Int))

/-- The earliest cycle not before `j` that the table permits a command. -/
def Msq.earliest (m : Msq) (c : MemCmd) (pc b : Nat) (j : Int) : Int :=
  (m.spacings c pc b).foldl (fun e x => match m.from_ x with
    | some f => max e f
    | none => e) j

/-- What is wrong with a command at cycle `j` on one bank: KIND and PARAM of MSQ_FLT_LOG. The bank state is tested before the spacings
and the lowest broken field is named (DESIGN CHOICE, log 12). -/
def Msq.wrong (m : Msq) (c : MemCmd) (pc b : Nat) (j : Int) : Option (Nat × Nat) :=
  let open_ := (m.bank pc b).row.isSome
  let state := match c with
    | .act | .refb => open_
    | .rd | .wr => !open_
    | .refa => (m.banksOf pc).any (fun y => y.row.isSome)
    | .pre => false
  if state then some (2, 0)
  else
    let broken := (m.spacings c pc b).filter (fun x => match m.from_ x with
      | some f => decide (j < f)
      | none => false)
    match broken with
    | [] => if c = .act && m.tt 17 ≤ (m.bank pc b).acts then some (3, 0) else none
    | x :: r => some (1, r.foldl (fun n y => min n y.1) x.1)

/-- What is wrong with PRE of every bank on one of them: a bank that it would not close holds it back only through a REFA (R257). -/
def Msq.wrongAll (m : Msq) (pc b : Nat) (j : Int) : Option (Nat × Nat) :=
  if (m.bank pc b).row.isSome then m.wrong .pre pc b j
  else if (m.from_ (14, (m.pc pc).refa)).any (fun f => decide (j < f)) then some (1, 14) else none

/-! ### What a command does to a pseudo-channel -/

/-- A refresh of a bank by whose cycle `incs` increases are due (R259, R260): not credited at −8. -/
def Bank.refresh (x : Bank) (incs : Int) : Bank := { x with acts := 0, debt := max (-8 - incs) (x.debt - 1) }

/-- The increases that count before a refresh at cycle `j`: an increase at its edge comes first (R260). -/
def Msq.due (m : Msq) (j : Int) : Int := if m.running then (increasesBy j.toNat : Nat) else m.incs

/-- A bank closed at cycle `j`; a closed one stays as it is. -/
def Bank.close (x : Bank) (j : Int) : Bank := if x.row.isSome then { x with row := none, pre := some j } else x

/-- A command carried out on bank `b` of a pseudo-channel. -/
def Msq.apply (m : Msq) (c : MemCmd) (pc b row : Nat) (j : Int) : Msq :=
  let x := m.bank pc b
  let p := m.pc pc
  match c with
  | .act => (m.setBank pc b { x with row := some row, act := some j, acts := x.acts + 1 }).setPc pc
      { p with acts := (j :: p.acts).take 4 }
  | .pre => m.setBank pc b (x.close j)
  | .rd => (m.setBank pc b { x with rd := some j }).setPc pc { p with rd := some j }
  | .wr => (m.setBank pc b { x with wr := some j }).setPc pc { p with wr := some j }
  | .refb => m.setBank pc b { x.refresh (m.due j) with refb := some j }
  | .refa => Msq.setPc { m with banks := Tbl.updRange {} m.banks (48 * pc) 48 (fun y => y.refresh (m.due j)) } pc
      { p with refa := some j }

/-! ### Log and faults -/

/-- MSQ_FLT_LOG with a new record, unless it holds one (R270). -/
def State.memLog (s : State) (st kind pc bank param j : Nat) : State :=
  let m := s.ms st
  if m.faulted then s
  else
    let P := s.memPhase j
    s.setMs st { m with faulted := true, fltLog := orAll [at_ kind 0 4, at_ pc 4 6, at_ bank 10 6, at_ param 16 5, at_ (P % 8) 21 3,
      at_ (j - s.memEdge P) 24 11, at_ (P / 8) 35 29] }

/-- A fault of a memory span with its log (R257, R261, R252, R254): the sequencer is the agent (R513). -/
def State.memFault (s : State) (st : Nat) (code : BitVec 16) : State := s.raise code (100 + st) 0 (s.ms st).fltLog

/-- A counter field of MSQ_CNT raised. -/
def State.memCount (s : State) (st lo : Nat) : State := s.updMs st (fun m => { m with cnt := satInc m.cnt lo 16 1 })

/-- The next command of the forced refresh of bank `x.1` that began in cycle `x.2`, PRE while the bank is open and then REFB, and the earliest cycle
that the table permits it (R261). -/
def Msq.nextForced (m : Msq) (x : Nat × Int) : MemCmd × Int :=
  let c := if (m.bank (x.1 / 48) (x.1 % 48)).row.isSome then MemCmd.pre else .refb
  (c, m.earliest c (x.1 / 48) (x.1 % 48) x.2)

/-- The forced refresh whose next command comes first: of two in one cycle, the one that began first. -/
def Msq.firstForced (m : Msq) : Option (Nat × Int) :=
  m.owed.foldl (fun a x => match a with
    | some y => if (m.nextForced x).2 < (m.nextForced y).2 then some x else a
    | none => some x) none

/-- At most `n` commands of forced refreshes carried out, those whose cycles have come by cycle `j` (R261). -/
def Msq.payUntil : Nat → Int → Msq → Msq
  | 0, _, m => m
  | n + 1, j, m =>
    match m.firstForced with
    | none => m
    | some x =>
      let r := m.nextForced x
      if j < r.2 then m
      else
        let m := m.apply r.1 (x.1 / 48) (x.1 % 48) 0 r.2
        Msq.payUntil n j (if r.1 = .refb then { m with owed := m.owed.erase x } else m)

/-- The sequencer with what its forced refreshes have done by cycle `j`: each takes a PRE at most, and a REFB. -/
def Msq.paid (m : Msq) (j : Int) : Msq := m.payUntil (2 * m.owed.length) j

/-- One word of the stream on its pseudo-channels: the state with the commands carried out, the pseudo-channels that carried it
out, and the first that is wrong with KIND, PARAM and bank; suppressions by a forced refresh do not count as wrong (R257, R261). -/
def memWord (m : Msq) (c : MemCmd) (pclo pcn bank row : Nat) (all : Bool) (j : Nat) :
    Msq × List Nat × Option (Nat × Nat × Nat × Nat) × Bool :=
  (range' pclo pcn).foldl (fun a pc =>
    let m := a.1
    if (m.pc pc).forced = some (j : Int) then (m, a.2.1, a.2.2.1, true)
    else
      let banks := if all then List.range 48 else [bank]
      let bad := banks.filterMap (fun b => (if all then m.wrongAll pc b j else m.wrong c pc b j).map (fun w => (w.1, w.2, pc, b)))
      match bad with
      | w :: _ => (m, a.2.1, some (a.2.2.1.getD w), true)
      | [] => (banks.foldl (fun m b => m.apply c pc b row j) m, a.2.1 ++ [pc], a.2.2.1, a.2.2.2)) (m, [], none, false)

/-- A word of a memory stream at its issue (R248, R250, R257): `go` moves the data on the pseudo-channels that carried it out, from the
cycle of the issue. Forced refreshes whose cycles have come go first (R261). Suppressed commands are counted once for a word (R515, log 12). -/
def memIssue (i : Instr) (st delta : Nat) (c : MemCmd) (pclo pcn bank row : Nat) (all : Bool)
    (go : State → Nat → List Nat → State) (s : State) : Host.Outcome State Fault Refusal :=
  if !wordOk i then .refused .wordRefused
  else
    let m := s.ms st
    if m.halted then .next s
    else
      let cyc := m.str.issue delta
      let j := s.memEdge s.tik.phaseNo + cyc
      let r := memWord (m.paid j) c pclo pcn bank row all j
      let s := s.setMs st { r.1 with str := m.str.issued 1 cyc }
      let s := go s j r.2.1
      let s := if r.2.2.2 then s.memCount st 0 else s
      match r.2.2.1 with
      | some (kind, param, pc, b) => .next (((s.memLog st kind pc b param j).updMs st (fun m => { m with halted := true, haltAt := j })).memFault st 0x1009)
      | none => .next s

/-- ACT (R249, R250, R259). -/
def execAct (st delta pclo pcn bank row : Nat) (s : State) : Host.Outcome State Fault Refusal :=
  memIssue (.act st delta pclo pcn bank row) st delta .act pclo pcn bank row false (fun s _ _ => s) s

/-- PRE (R249, R257). -/
def execPre (st delta pclo pcn bank : Nat) (all : Bool) (s : State) : Host.Outcome State Fault Refusal :=
  memIssue (.pre st delta pclo pcn bank all) st delta .pre pclo pcn bank 0 all (fun s _ _ => s) s

/-- REFA (R249, R260). -/
def execRefa (st delta pclo pcn : Nat) (s : State) : Host.Outcome State Fault Refusal :=
  memIssue (.refa st delta pclo pcn) st delta .refa pclo pcn 0 0 false (fun s _ _ => s) s

/-- REFB (R249, R260). -/
def execRefb (st delta pclo pcn bank : Nat) (s : State) : Host.Outcome State Fault Refusal :=
  memIssue (.refb st delta pclo pcn bank) st delta .refb pclo pcn bank 0 false (fun s _ _ => s) s

/-! ### Reads and writes -/

/-- Ls of a line (R245). -/
def hbmLs (pc col bank row : Nat) : Nat := row * 24576 + bank * 512 + col * 64 + pc
/-- The number of an HBM line over all stacks. -/
def hbmKey (st ls : Nat) : Nat := st * stackLines + ls
/-- Local offset of a line of the HBM region. -/
def hbmAddr (key : Nat) : Nat := hbmBase + key * 128

/-- A read of an HBM line through the corrector (R264 to R266): the line, and the codes it raises. `told` are the codes that the word has
raised (R515). -/
def readHbm (s : State) (st ls : Nat) (told : List (BitVec 16)) : List Byte × List (BitVec 16) × State :=
  let key := hbmKey st ls
  let e := eccRead s.upsets .hbm key (memRead s.mem (hbmAddr key) 128)
  if e.corr.isEmpty && e.bad.isEmpty then (e.data, told, s)
  else
    let ue := !e.bad.isEmpty
    let w := if ue then e.bad.headD 0 else e.corr.headD 0
    let m := s.ms st
    let log := eccLogNext m.eccLog (orAll [at_ ls 0 30, at_ w 30 4, flag ue 34, flag true 35]) 34 35
    let s := s.setMs st { m with eccLog := log, eccCnt := if ue then satInc m.eccCnt 32 16 1 else satInc m.eccCnt 0 32 1 }
    let code : BitVec 16 := if ue then 0x3004 else 0x3003
    if told.contains code then (e.data, told, s)
    else if ue then (e.data, told ++ [code], s.raise code (100 + st) 0 log (some (hbmAddr key)))
    else (e.data, told ++ [code], s.reportCorr code 2 key (100 + st) 0 log (hbmAddr key))

/-- The reads of RD on the pseudo-channels that carried it out (R251, R252): each line crosses with the frame of phase p + PH. -/
def rdLines (s : State) (st pclo bank col dspan q entry ph j : Nat) (pcs : List Nat) : State :=
  let P := s.tik.phaseNo + ph
  let trl := (s.ms st).tt 8
  (pcs.foldl (fun (a : List (BitVec 16) × State) pc =>
    let s := a.2
    let i := pc - pclo
    let row := (((s.ms st).bank pc bank).row).getD 0
    let r := readHbm s st (hbmLs pc col bank row) a.1
    let s := r.2.2
    let done := j + trl + 12 + i / 8
    if s.memPhase done = P || s.memPhase done = P + 1 then
      (r.2.1, s.cross (s.destSpan dspan) q (entry + i) true true r.1 false none none P)
    else if r.2.1.contains 0x1003 then (r.2.1, s)
    else (r.2.1 ++ [0x1003], ((s.memLog st 5 pc bank 0 done).memCount st 48).memFault st 0x1003)) ([], s)).2

/-- The writes of WR on the pseudo-channels that carried it out (R253 to R255). -/
def wrLines (s : State) (st pclo bank col q entry j : Nat) (pcs : List Nat) : State :=
  (pcs.foldl (fun (a : List (BitVec 16) × State) pc =>
    let s := a.2
    let i := pc - pclo
    let row := (((s.ms st).bank pc bank).row).getD 0
    let ls := hbmLs pc col bank row
    let r := s.readEntry (100 + st) 0 q (entry + i) s.tik.phaseNo (a.1.contains 0x1003)
    let e := r.1
    if !(e.w0 && e.w1) then (a.1 ++ [0x1003], r.2)
    else
      let bad := match e.tag with
        | some t => t.toNat != ls % 4096
        | none => false
      if bad then
        if a.1.contains 0x1007 then (a.1, s)
        else (a.1 ++ [0x1007], ((s.memLog st 6 pc bank 0 (j + i / 8)).memCount st 32).memFault st 0x1007)
      else if e.e0 || e.e1 then (a.1, s)
      else
        let key := hbmKey st ls
        (a.1, State.scrubWords { s with mem := memWrite s.mem (hbmAddr key) e.bytes } .hbm key (List.range 16))) ([], s)).2

/-- RD (R249, R251, R252). -/
def execRd (st delta pclo pcn bank col dspan q entry ph : Nat) (s : State) : Host.Outcome State Fault Refusal :=
  memIssue (.rd st delta pclo pcn bank col dspan q entry ph) st delta .rd pclo pcn bank 0 false
    (fun s j pcs => rdLines s st pclo bank col dspan q entry ph j pcs) s

/-- WR (R249, R253 to R255). -/
def execWr (st delta pclo pcn bank col q entry : Nat) (s : State) : Host.Outcome State Fault Refusal :=
  memIssue (.wr st delta pclo pcn bank col q entry) st delta .wr pclo pcn bank 0 false
    (fun s j pcs => wrLines s st pclo bank col q entry j pcs) s

/-! ### Refresh and upkeep -/

/-- The debt of a bank (R260). -/
def Msq.debtOf (m : Msq) (pc b : Nat) : Int := m.incs + (m.bank pc b).debt

/-- The first key from `k` that a table does not list. -/
def Tbl.firstFree {α : Type} : Tbl α → Nat → Nat
  | [], k => k
  | (k', _) :: r, k => if k' = k then Tbl.firstFree r (k + 1) else k

/-- The highest debt of any bank and where it is reached first: pseudo-channel and bank. Banks that are not listed hold `incs`. -/
def Msq.worst (m : Msq) : Int × Nat :=
  let k := Tbl.firstFree m.banks 0
  let l := m.banks.map (fun p => (m.incs + p.2.debt, p.1))
  match (if k < 3072 then [(m.incs, k)] else []) ++ l with
  | [] => (m.incs, 0)
  | x :: r => r.foldl (fun a y => if a.1 < y.1 || a.1 == y.1 && y.2 < a.2 then y else a) x

/-- MSQ_REF after the debts have changed: the highest since clear (R270). -/
def Msq.noteDebt (m : Msq) : Msq :=
  let w := m.worst
  if signed (field m.refMax 0 5) 5 < w.1 then
    { m with refMax := orAll [atInt w.1 0 5, at_ (w.2 / 48) 5 6, at_ (w.2 % 48) 11 6] }
  else m

/-- The machine time of increase `n` (R260). -/
def State.increaseTime (s : State) (n : Nat) : Nat := s.tim.epoch.toNat * ns + n * refreshTime

/-- REFRESH_DEBT_INCREASE (R260): at start keystone + n × 1,953.125 ns every bank's debt rises by 1 while the sequencer plays a job's
stream. Forced refreshes of the cycles before it count before it. -/
def execRefreshDebtIncrease (st : Nat) (s : State) : Host.Outcome State Fault Refusal :=
  if st < 4 then
    if (s.ms st).running then
      .next ((s.advance (s.increaseTime ((s.ms st).incs + 1).toNat)).updMs st (fun m =>
        Msq.noteDebt { m.paid (increaseCycle (m.incs + 1).toNat - 1) with incs := m.incs + 1 }))
    else .next s
  else .next s

/-- A bank closed if it is open, and refreshed, each at the earliest cycle from `j` that the table permits (R263). -/
def Msq.payBank (m : Msq) (pc b : Nat) (j : Int) : Msq :=
  let m := if (m.bank pc b).row.isSome then m.apply .pre pc b 0 (m.earliest .pre pc b j) else m
  m.apply .refb pc b 0 (m.earliest .refb pc b j)

/-- FORCED_REFRESH (R261): a bank whose debt has reached 9 is precharged when open and refreshed, at the earliest cycles that the table
permits from the edge of the increase; 0x100A. What the table does not permit yet waits for its cycle, in which the words of the stream find it. -/
def execForcedRefresh (st pc bank : Nat) (s : State) : Host.Outcome State Fault Refusal :=
  if st < 4 && pc < 64 && bank < 48 then
    let m := s.ms st
    if !m.running || m.debtOf pc bank < 9 || m.owed.any (fun x => x.1 == 48 * pc + bank) then .next s
    else
      let j := increaseCycle m.incs.toNat
      let m := Msq.paid { m with owed := m.owed ++ [(48 * pc + bank, (j : Int))] } j
      let m := m.setPc pc { m.pc pc with forced := some j }
      .next ((((s.setMs st m).memLog st 4 pc bank 0 j).memCount st 16).memFault st 0x100A)
  else .next s

/-- REFA on every pseudo-channel outside a job, where no debt stands: from cycle `j` on, when the table permits it. -/
def Msq.refreshAll (m : Msq) (j : Int) : Msq :=
  { m with banks := m.banks.map (fun p => (p.1, { p.2 with acts := 0, debt := 0 })), incs := 0,
           pcs := (List.range 64).foldl (fun t p => Tbl.set t p { m.pc p with refa := some (m.earliest .refa p 0 j) }) m.pcs }

/-- Every open bank precharged, each at the earliest cycle from `j` that the table permits. -/
def Msq.closeAll (m : Msq) (j : Int) : Msq :=
  m.banks.foldl (fun m p =>
    if p.2.row.isSome then m.apply .pre (p.1 / 48) (p.1 % 48) 0 (m.earliest .pre (p.1 / 48) (p.1 % 48) j) else m) m

/-- Time between two refreshes in autonomous mode (R263): 1,953.125 ns in a hot stack, and in the 100 µs before a start keystone. -/
def State.autoTime (s : State) (m : Msq) : Nat :=
  let soon := s.plc.proposal.any (fun p => p.go && decide (p.epoch * ns ≤ m.autoAt + refreshTime + 100000 * ns))
  if m.hot || soon then refreshTime else 2 * refreshTime

/-- MSQ_AUTO_REFRESH (R263): in autonomous mode the sequencer refreshes every pseudo-channel, the due time after the refresh before; no debt
stands there. -/
def execMsqAutoRefresh (st : Nat) (s : State) : Host.Outcome State Fault Refusal :=
  if 4 ≤ st then .next s
  else if !(s.ms st).auto then .next s
  else
    let s := s.advance ((s.ms st).autoAt + s.autoTime (s.ms st))
    .next (s.updMs st (fun m => { (m.closeAll s.memNow).refreshAll s.memNow with autoAt := s.tim.now.toNat }))

/-- MSQ_RECOVERY_PRECHARGE (R257): after a suppression every open bank is precharged at the earliest cycle after it that the table
permits. -/
def execMsqRecoveryPrecharge (st : Nat) (s : State) : Host.Outcome State Fault Refusal :=
  if st < 4 then .next (s.updMs st (fun m => if m.halted then m.closeAll (m.haltAt + 1) else m)) else .next s

/-- HBM_TEMP_READ (R270, R260): the hottest die of a stack. -/
def execHbmTempRead (st temp die : Nat) (s : State) : Host.Outcome State Fault Refusal :=
  if st < 4 then
    .next ((s.beat (beatTemp st) (1000000 * ns)).updMs st (fun m => { m with temp := orAll [at_ temp 0 8, at_ die 8 4, flag true 12], hot := decide (85 ≤ temp) }))
  else .next s

/-- One line of a scrub pass (R265 to R267): read through the corrector, and rewritten where it needed correction. -/
def State.scrubHbm (s : State) (st key : Nat) : State :=
  let e := eccRead s.upsets .hbm key (memRead s.mem (hbmAddr key) 128)
  let r := (readHbm s st (key % stackLines) []).2.2
  if !e.bad.isEmpty || e.corr.isEmpty then r
  else
    let s := r.updMs st (fun m => { m with eccCnt := satInc m.eccCnt 48 16 1 })
    State.scrubWords { s with mem := e.corr.foldl (fun m w => memWrite m (hbmAddr key + 8 * w) (slice e.data (8 * w) 8)) s.mem } .hbm key e.corr

/-- The scrub of a stack is over: the lines in which a bit error stands have been read, no other changes (R267). -/
def State.scrubDone (s : State) (st : Nat) : State :=
  if !(s.ms st).scrubbing then s
  else
    let lines := (((s.upsets.filter (fun u => u.area = .hbm && u.line / stackLines = st)).map (·.line)).dedup).insertionSort (· ≤ ·)
    (forEach s lines (fun s l => s.scrubHbm st l)).updMs st (fun m => { m with scrubbing := false })

end Sys2Proof.Machine
end

