-- ==== Sys2Proof/Machine/Ecc.lean ====
section
/-! DEFINITION. ECDSA over P-256 (FIPS 186-5, named by chapter 18; log 9): keys, signatures, and the keys that a signature fits. -/

namespace Sys2Proof.Machine

/-- The field prime of P-256. -/
def p256 : Nat := 2 ^ 256 - 2 ^ 224 + 2 ^ 192 + 2 ^ 96 - 1
/-- The group order of P-256. -/
def n256 : Nat := 0xFFFFFFFF00000000FFFFFFFFFFFFFFFFBCE6FAADA7179E84F3B9CAC2FC632551
/-- The constant b of the curve. -/
def b256 : Nat := 0x5AC635D8AA3A93E7B3EBBD55769886BC651D06B0CC53B0F63BCE3C3E27D2604B

/-- A point of the curve; none is the point at infinity. -/
abbrev Pt := Option (Nat × Nat)

/-- The base point. -/
def g256 : Pt := some (0x6B17D1F2E12C4247F8BCE6E563A440F277037D812DEB33A0F4A13945D898C296,
  0x4FE342E2FE1A7F9B8EE7EB4A7C0F9E162BCE33576B315ECECBB6406837BF51F5)

/-- b^e mod m over the lowest `k` bits of e. -/
def powMod (b e m : Nat) : Nat → Nat
  | 0 => 1 % m
  | k + 1 => let h := powMod (b * b % m) (e / 2) m k
             if e % 2 = 1 then h * b % m else h

/-- The inverse modulo a prime. -/
def invMod (a m : Nat) : Nat := powMod (a % m) (m - 2) m 256

/-- a − b modulo m. -/
def subMod (a b m : Nat) : Nat := (a % m + m - b % m) % m

/-- A point in Jacobian coordinates: (X / Z², Y / Z³), at infinity when Z is 0. -/
structure Jac where
  x : Nat
  y : Nat
  z : Nat

/-- Twice a point, on a curve with a = −3. -/
def Jac.dbl (a : Jac) : Jac :=
  let c := a.y * a.y % p256
  let b := a.x * c % p256
  let d := a.z * a.z % p256
  let l := 3 * subMod a.x d p256 * (a.x + d) % p256
  let x := subMod (l * l) (8 * b) p256
  ⟨x, subMod (l * subMod (4 * b) x p256) (8 * c * c) p256, 2 * a.y * a.z % p256⟩

/-- The sum of two points. -/
def Jac.add (a b : Jac) : Jac :=
  if a.z = 0 then b
  else if b.z = 0 then a
  else
    let c := a.z * a.z % p256
    let d := b.z * b.z % p256
    let u := a.x * d % p256
    let v := a.y * (d * b.z % p256) % p256
    let h := subMod (b.x * c) u p256
    let r := subMod (b.y * (c * a.z % p256)) v p256
    if h = 0 then (if r = 0 then a.dbl else ⟨1, 1, 0⟩)
    else
      let e := h * h % p256
      let g := e * h % p256
      let w := u * e % p256
      let x := subMod (r * r) (g + 2 * w) p256
      ⟨x, subMod (r * subMod w x p256) (v * g) p256, a.z * b.z * h % p256⟩

/-- A point of the curve in Jacobian coordinates, and back. -/
def Jac.of (a : Pt) : Jac :=
  match a with
  | some (x, y) => ⟨x, y, 1⟩
  | none => ⟨1, 1, 0⟩

def Jac.toPt (a : Jac) : Pt :=
  if a.z = 0 then none
  else
    let i := invMod a.z p256
    some (a.x * (i * i % p256) % p256, a.y * (i * i % p256 * i % p256) % p256)

/-- k · a over the lowest `n` bits of k. -/
def Jac.mul (a : Jac) (k : Nat) : Nat → Jac
  | 0 => ⟨1, 1, 0⟩
  | n + 1 =>
    if k = 0 then ⟨1, 1, 0⟩
    else
      let h := Jac.mul a.dbl (k / 2) n
      if k % 2 = 1 then h.add a else h

/-- k · a + l · b. -/
def ptComb (a : Pt) (k : Nat) (b : Pt) (l : Nat) : Pt := ((Jac.mul (.of a) k 256).add (Jac.mul (.of b) l 256)).toPt

/-- The 64 bytes of a public key: X then Y, big-endian (R486). -/
def ptBytes (a : Pt) : List Byte :=
  match a with
  | some (x, y) => beBytes x 32 ++ beBytes y 32
  | none => zeros 64

/-- The point that 64 bytes give, when it lies on the curve. -/
def ptOf (l : List Byte) : Option (Nat × Nat) :=
  let x := beNat (slice l 0 32)
  let y := beNat (slice l 32 32)
  if x < p256 && y < p256 && (y * y) % p256 == (x * x * x + (p256 - 3) * x + b256) % p256 then some (x, y) else none

/-- ECDSA verification of the signature (r, s) over the hash `z`. -/
def ecdsaOk (q : Pt) (z r s : Nat) : Bool :=
  if r = 0 || n256 ≤ r || s = 0 || n256 ≤ s || q.isNone then false
  else
    let w := invMod s n256
    match ptComb g256 (z * w % n256) q (r * w % n256) with
    | some (x, _) => x % n256 == r
    | none => false

/-- ECDSA signature over the hash `z` with the key `d` and the nonce `k`. -/
def ecdsaSign (d z k : Nat) : Nat × Nat :=
  match ptComb g256 k none 0 with
  | none => (0, 0)
  | some (x, _) => (x % n256, invMod k n256 * ((z + x % n256 * d) % n256) % n256)

/-- The public keys under which (r, s) is a signature over `z`: at most four. -/
def ecdsaKeys (z r s : Nat) : List Pt :=
  if r = 0 || n256 ≤ r || s = 0 || n256 ≤ s then []
  else
    let pts := ([r, r + n256].filter (· < p256)).flatMap (fun x =>
      let c := (x * x * x + (p256 - 3) * x + b256) % p256
      let y := powMod c ((p256 + 1) / 4) p256 256
      if y * y % p256 = c then [(x, y), (x, p256 - y)] else [])
    let w := invMod r n256
    pts.map (fun pt => ptComb (some pt) (s * w % n256) g256 (subMod 0 (z * w) n256))

end Sys2Proof.Machine
end

