-- ==== Sys2Proof/Machine/HostCore.lean ====
section
/-! DEFINITION. What every host command shares (14): descriptors, states, completions; and refusals of register accesses (16: R446,
R447). -/

namespace Sys2Proof.Machine

/-! ### The PCIe function (R385, R386) -/

/-- A base address register pair: its bytes, and whether it is prefetchable. All are 64-bit. -/
structure PcieBar where
  bytes    : Nat
  prefetch : Bool
  deriving DecidableEq, Repr

/-- What the one physical function, with a type 0 header, presents to the host. -/
structure PcieFn where
  vendor      : BitVec 16
  device      : BitVec 16
  classCode   : BitVec 24
  bar0        : PcieBar
  bar2        : PcieBar
  bar4        : PcieBar
  /-- MSI-X vectors, and where their table and the pending-bit array lie in BAR 0. -/
  vectors     : Nat
  msixTable   : Nat
  msixPending : Nat
  maxPayload  : Nat
  maxRead     : Nat
  tagBits     : Nat
  deriving DecidableEq, Repr

/-- The function of a module of grade A or B (R386). -/
def pcieFn (gradeB : Bool) : PcieFn :=
  { vendor := 0x1F7C, device := if gradeB then 0x0802 else 0x0801, classCode := 0x120000,
    bar0 := ⟨0x10000, false⟩, bar2 := ⟨0x400000, false⟩, bar4 := ⟨0x40000000, true⟩,
    vectors := 64, msixTable := 0x1000, msixPending := 0x2000, maxPayload := 512, maxRead := 4096, tagBits := 14 }

/-! ### Refusals and clamps -/

/-- What a register access answers: a value, a refusal with its code (R446, R514), or nothing (R27). -/
inductive RegAns where
  | ok (v : Reg)
  | refused (code : BitVec 16)
  | silent
  deriving DecidableEq, Repr

/-- A violation at local offset `ofs` by the requester with chip number `chip` (R446): 0x7002, and the first since clear is logged. -/
def State.violation (s : State) (ofs chip : Nat) : State :=
  let a := ofs % 2 ^ 48 + chip % 2 ^ 15 * 2 ^ 48
  let log := if bit s.cfg.violLog 63 then s.cfg.violLog else BitVec.ofNat 64 (a + 2 ^ 63)
  State.raiseFull (s.updCfg (fun c => { c with violLog := log }))
    { code := 0x7002, source := srcToll, agent := 0, tick := if s.job.running then s.tick else 0,
      step := if s.job.running then s.step else 0, addr := some a, detail := log, aux := 0, origin := none,
      remote := false, late := false }

/-- A violation at register `r` by this module's own host. -/
def State.regViolation (s : State) (r : Nat) : State := s.violation (regBase + r) s.chipOr0

/-- One field clamped (R447): 0x6001, count and log. -/
def State.clamped (s : State) (r lsb : Nat) (code : Bool) : State :=
  let c := s.cfg
  let log := if bit c.clampLog 43 then c.clampLog else orAll [at_ r 0 36, at_ lsb 36 6, flag code 42, flag true 43]
  State.raise { s with cfg := { c with clampLog := log, cnt := satInc c.cnt 32 16 1 } } 0x6001 srcToll 0 log (some (regBase + r))

/-- A write whose reserved bits held a 1 (R448). -/
def State.rsvdWrite (s : State) : State := s.updCfg (fun c => { c with cnt := satInc c.cnt 56 8 1 })

/-! ### Descriptors (R395, R398) -/

/-- The common fields of a host command. -/
def hdrOf (i : Instr) : Option Hdr :=
  match i with
  | .identify h | .bufReg h _ _ _ _ | .bufFree h _ | .load h _ _ _ _ | .unload h | .place h | .switchGet h _ _ | .switchDone h _
  | .arm h | .start h _ | .stop h _ | .abort h | .release h | .dma h _ _ _ _ _ | .regRead h _ _ | .regWrite h _ _ _
  | .dump h _ _ _ _ | .reset h | .attest h _ _ _ | .fwUpdate h _ _ _ => some h
  | _ => none

/-- OPCODE of a host command (R398). -/
def opcodeOf (i : Instr) : BitVec 16 :=
  match i with
  | .identify _ => 0x0001
  | .bufReg .. => 0x0002
  | .bufFree .. => 0x0003
  | .load .. => 0x0010
  | .unload _ => 0x0011
  | .place _ => 0x0020
  | .switchGet .. => 0x0021
  | .switchDone .. => 0x0022
  | .arm _ => 0x0030
  | .start .. => 0x0031
  | .stop .. => 0x0032
  | .abort _ => 0x0033
  | .release _ => 0x0034
  | .dma .. => 0x0040
  | .regRead .. => 0x0041
  | .regWrite .. => 0x0042
  | .dump .. => 0x0050
  | .reset _ => 0x0051
  | .attest .. => 0x0060
  | .fwUpdate .. => 0x0061
  | _ => 0

/-- Does R398 list an OPCODE? -/
def listedOpcode (o : BitVec 16) : Bool :=
  o.toNat ∈ [0x0001, 0x0002, 0x0003, 0x0010, 0x0011, 0x0020, 0x0021, 0x0022, 0x0030, 0x0031, 0x0032, 0x0033, 0x0034, 0x0040, 0x0041, 0x0042, 0x0050,
    0x0051, 0x0060, 0x0061]

/-- The OPCODE of a descriptor that R398 does not list. -/
def rawOpcode (h : Hdr) : Option (BitVec 16) := h.raw.filter (fun o => !listedOpcode o)

/-- Host-visible states (14). -/
def stResetting : Nat := 0
/-- IDLE. -/
def stIdle : Nat := 1
/-- LOADED. -/
def stLoaded : Nat := 2
/-- PLACING. -/
def stPlacing : Nat := 3
/-- PLACED. -/
def stPlaced : Nat := 4
/-- ARMED. -/
def stArmed : Nat := 5
/-- STARTING. -/
def stStarting : Nat := 6
/-- RUNNING. -/
def stRunning : Nat := 7
/-- STOPPED. -/
def stStopped : Nat := 8

/-- The states in which a command is accepted (R398). -/
def acceptedIn (i : Instr) (st : Nat) : Bool :=
  match i with
  | .load .. => st ∈ [1, 2]
  | .unload _ => st == 2
  | .place _ => st ∈ [2, 4, 8]
  | .switchGet .. | .switchDone .. => st == 3
  | .arm _ => st == 4
  | .start .. => st == 5
  | .stop .. | .abort _ => st ∈ [6, 7]
  | .release _ => st ∈ [4, 5, 8]
  | .dma .. => st ∈ [1, 2, 3, 4, 8]
  | .dump _ _ force _ _ => force || st ∈ [1, 2, 4, 8]
  | .fwUpdate .. => st ∈ [1, 2]
  | _ => true

/-- The state commands (R397). -/
def isStateCmd (i : Instr) : Bool :=
  match i with
  | .load .. | .unload _ | .place _ | .arm _ | .start .. | .release _ => true
  | _ => false

/-- The transfer commands (R397). -/
def isTransfer (i : Instr) : Bool :=
  match i with
  | .dma .. | .dump .. | .attest .. | .fwUpdate .. => true
  | _ => false

/-- The opcodes that ring 1 accepts (R397). -/
def ring1Takes (i : Instr) : Bool :=
  match i with
  | .identify _ | .stop .. | .abort _ | .switchGet .. | .switchDone .. | .regRead .. | .regWrite .. | .dump .. | .reset _ => true
  | _ => false

/-- The opcodes that the mailbox accepts (R411). -/
def mailboxTakes (i : Instr) : Bool :=
  match i with
  | .identify _ | .regRead .. | .regWrite .. | .dump .. | .reset _ => true
  | _ => false

/-- Does a descriptor complete BAD_OPCODE (R397, R399, R411): its OPCODE is not listed, or its ring or the mailbox does not accept it? -/
def opcodeBad (i : Instr) : Bool :=
  match hdrOf i with
  | none => false
  | some h => (rawOpcode h).isSome || h.via == .ring1 && !ring1Takes i || h.via == .mbox && !mailboxTakes i

/-- The opcodes that a wedged module accepts (R426). -/
def wedgedTakes (i : Instr) : Bool := mailboxTakes i

/-! ### Status codes (R399) -/

/-- STATUS 0. -/
def sOk : Nat := 0
/-- STATUS 1. -/
def sBadOpcode : Nat := 1
/-- STATUS 2. -/
def sBadParam : Nat := 2
/-- STATUS 3. -/
def sWrongState : Nat := 3
/-- STATUS 4. -/
def sImageRefused : Nat := 4
/-- STATUS 5. -/
def sNotAdmissible : Nat := 5
/-- STATUS 6. -/
def sNotUsed : Nat := 6
/-- STATUS 7. -/
def sNoFit : Nat := 7
/-- STATUS 8. -/
def sPlaceFailed : Nat := 8
/-- STATUS 9. -/
def sCancelled : Nat := 9
/-- STATUS 10. -/
def sAborted : Nat := 10
/-- STATUS 11. -/
def sPartial : Nat := 11
/-- STATUS 12. -/
def sNoAnswer : Nat := 12
/-- STATUS 13. -/
def sAccess : Nat := 13
/-- STATUS 14. -/
def sHostDma : Nat := 14
/-- STATUS 15. -/
def sSuperseded : Nat := 15
/-- STATUS 16. -/
def sSignature : Nat := 16

/-! ### Completions (R396) -/

/-- The 64 bytes of a completion (R396). -/
def Cpl.bytes (c : Cpl) (phase : Bool) : List Byte :=
  leBytes c.tag.toNat 4 ++ leBytes c.opcode.toNat 2 ++ leBytes c.status 1 ++
    leBytes ((if phase then 1 else 0) + (if c.via = .ring1 then 2 else 0)) 1 ++ leBytes c.fault.toNat 2 ++ leBytes c.idx 2 ++
    leBytes c.detail 4 ++ padTo c.result 48

/-- A list of registers from the bytes of a 64-byte block. -/
def regsOf (l : List Byte) : List Reg := (List.range 8).map (fun n => BitVec.ofNat 64 (leAt l (8 * n) 8))

/-- A command finishes (R396, R411): its completion is formed, or discarded when the interface was reset since it was consumed (R387). -/
def State.finish (s : State) (r : RunCmd) (status : Nat) (fault : BitVec 16) (detail : Nat) (result : List Byte) : State :=
  match hdrOf r.cmd with
  | none => s
  | some h =>
    let c : Cpl := { via := h.via, tag := h.tag, irq := h.irq, opcode := (rawOpcode h).getD (opcodeOf r.cmd), status, fault, idx := r.idx, detail, result }
    let orphan := s.hst.orphans.contains r
    let s := s.updHst (fun x => { x with running := x.running.erase r, orphans := x.orphans.erase r })
    if orphan then s
    else if h.via = .mbox then
      State.signal (s.updHst (fun x => { x with mboxBusy := false, mboxCpl := Tbl.setMany x.mboxCpl 0 (regsOf (c.bytes true)) })) 2
    else s.updHst (fun x => { x with done := x.done ++ [c] })

/-- A command finishes with a host command fault (R399): 0x8001 to 0x8003 is raised. -/
def State.reject (s : State) (r : RunCmd) (status : Nat) (code : BitVec 16) (detail : Nat) : State :=
  (s.raise code srcToll 0).finish r status code detail []

/-- BAD_PARAM, with the byte offset of the first bad parameter (R399). -/
def State.badParam (s : State) (r : RunCmd) (ofs : Nat) : State := s.reject r sBadParam 0x8002 ofs

/-- WRONG_STATE (R398, R399). -/
def State.wrongState (s : State) (r : RunCmd) : State := s.reject r sWrongState 0x8003 s.hst.st

/-- A command becomes a running one. -/
def State.runs (s : State) (r : RunCmd) : State := s.updHst (fun x => { x with running := x.running ++ [r] })

/-- Every running command that `p` picks finishes alike. -/
def State.finishAll (s : State) (p : Instr → Bool) (status : Nat) (fault : BitVec 16) (detail : Nat) (result : List Byte) : State :=
  (s.hst.running.filter (fun r => p r.cmd)).foldl (fun s r => s.finish r status fault detail result) s

/-- A START command. -/
def isStart : Instr → Bool
  | .start .. => true
  | _ => false
/-- A STOP command. -/
def isStop : Instr → Bool
  | .stop .. => true
  | _ => false
/-- A PLACE command. -/
def isPlace : Instr → Bool
  | .place _ => true
  | _ => false
/-- An ARM command. -/
def isArm : Instr → Bool
  | .arm _ => true
  | _ => false

/-- Every STOP that waits for RUNNING ends with WRONG_STATE when START does not reach tick 0 (R399, R408). -/
def State.refuseStops (s : State) : State :=
  (s.hst.running.filter (fun r => isStop r.cmd)).foldl (fun s r => s.wrongState r) s

/-- The module's host-visible state set. -/
def State.setSt (s : State) (st : Nat) : State := s.updHst (fun x => { x with st := st })

end Sys2Proof.Machine
end

