-- ==== Sys2Proof/Machine/Commit.lean ====
section
/-! DEFINITION. Shadow groups, capture and commit (16: R449 to R455). -/

namespace Sys2Proof.Machine

/-- The SH bits of the registers of a group, in increasing r (R449, R451). -/
def shMasks (g : Nat) : List Reg :=
  if g = 0 then [0x000F1F7F] else if g = 1 then [BitVec.allOnes 64]
  else List.replicate 4 (BitVec.allOnes 64) ++ [0x0000000000FFFFFF]

/-- Offset in the register region of register `i` of a group (R442). -/
def groupReg (g i : Nat) : Nat :=
  if g = 0 then 0x20000 else if g = 1 then 0x10060 else 0x40000 + (g - 2) * 0x1000 + 8 + 8 * i

/-- The group and position of a register that holds SH fields. -/
def groupOf (r : Nat) : Option (Nat × Nat) :=
  if r = 0x20000 then some (0, 0) else if r = 0x10060 then some (1, 0)
  else if 0x40000 ≤ r ∧ r < 0x44000 ∧ 8 ≤ r % 0x1000 ∧ r % 0x1000 < 0x30 ∧ r % 8 = 0 then
    some (2 + (r - 0x40000) / 0x1000, (r % 0x1000 - 8) / 8)
  else none

/-- The reset values of a group. -/
def groupReset (g : Nat) : List Reg :=
  if g = 0 then [({} : Tik).ctl] else if g = 1 then [({} : Tim).epoch] else ({} : Msq).ttab

/-- The live values of a group. -/
def State.groupLive (s : State) (g : Nat) : List Reg :=
  if g = 0 then [s.tik.ctl] else if g = 1 then [s.tim.epoch] else (s.ms (g - 2)).ttab

/-- The shadow values of a group. -/
def State.groupShadow (s : State) (g : Nat) : List Reg := Tbl.get (groupReset g) s.cfg.shadow g

/-- The image of a group (R451). -/
def groupImage (g : Nat) (regs : List Reg) : List Byte :=
  [BitVec.ofNat 8 g, 0] ++ (List.zipWith (· &&& ·) regs (shMasks g)).flatMap (fun v => leBytes v.toNat 8)

/-- A group's reference (R451). -/
def groupRef (g : Nat) (regs : List Reg) : Reg := crc64 0 (groupImage g regs)

/-- CFG_GRP_LIVE: at reset the reference of the group's reset values (R454). -/
def State.grpLive (s : State) (g : Nat) : Reg := Tbl.get (groupRef g (groupReset g)) s.cfg.grpLive g

/-- A group is dirty from the first write to its shadow or its reference (R451). -/
def Cfg.dirtied (c : Cfg) (g : Nat) : Cfg := { c with dirty := if c.dirty.contains g then c.dirty else c.dirty ++ [g] }

/-- The number of the commit at which a shadow write made now takes effect: the one captured is past (R28, R453, R455). -/
def Cfg.nextCommit (c : Cfg) : Nat := c.commitNo + (if c.capturing then 2 else 1)

/-- The shadow of register `i` of group `g` written (R444, R453); its acknowledgement carries the number of its commit (R28). -/
def State.writeShadow (s : State) (g i : Nat) (v : Reg) : State :=
  let v := v &&& nth 0 (shMasks g) i
  let l := (s.groupShadow g).set i v
  s.updCfg (fun c => Cfg.dirtied { c with shadow := Tbl.set c.shadow g l, written := c.written ++ [(g, i)], ackNo := c.nextCommit } g)

/-- CFG_GRP_REF written (R451). -/
def State.writeGrpRef (s : State) (g : Nat) (v : Reg) : State :=
  s.updCfg (fun c => Cfg.dirtied { c with grpRef := Tbl.set c.grpRef g v } g)

/-! ### Validation (R449) -/

/-- A field that fails: lowest bit, and register position in the group. -/
abbrev BadField := Nat × Nat

/-- A field of a timing table as register position and lowest bit. -/
def ttabPlace (n : Nat) : BadField := if n = 17 then (16, 4) else (16 * (n % 4), n / 4)

/-- A field of a timing table. -/
def ttabGet (t : List Reg) (n : Nat) : Nat :=
  if n = 17 then field (nth 0 t 4) 16 8 else field (nth 0 t (n / 4)) (16 * (n % 4)) 16

/-- The first field of a timing table that fails the checks of groups 2 to 5, by register and bit. -/
def ttabBad (t act chk : List Reg) : Option BadField :=
  let bad := fun (n : Nat) =>
    let v := ttabGet t n
    let c := ttabGet chk n
    if v < ttabGet act n then true
    else if n = 8 || n = 9 then v ≠ c
    else if n = 17 then v < c
    else c < v || n = 2 && v < ttabGet t 0 || n = 3 && v < ttabGet t 2 + ttabGet t 1
  ((List.range 18).find? bad).map ttabPlace

/-- The first field of a captured group that fails (R449). `now` is the machine time of the capture in ns, rounded up. -/
def State.groupBad (s : State) (g now : Nat) (regs : List Reg) : Option BadField :=
  let v := nth 0 regs 0
  if g = 0 then
    let k := field v 0 7
    let kp := field v 8 5
    if k < 2 || 64 < k then some (0, 0) else if kp < 10 || 20 < kp then some (8, 0)
    else if s.topStep < field v 16 4 then some (16, 0) else none
  else if g = 1 then
    if v.toNat % 96 ≠ 0 || v.toNat < now + 1000000 then some (0, 0) else none
  else ttabBad regs (s.ms (g - 2)).tact (nth ({} : Msq).ttab s.job.checked (g - 2))

/-- Why a capture fails: REASON, group, field. -/
structure CapFail where
  reason : Nat
  group  : Nat
  lsb    : Nat
  word   : Nat
  deriving DecidableEq, Repr

/-- Block base of a group's registers. -/
def groupBase (g : Nat) : Nat := if g = 0 then 0x20000 else if g = 1 then 0x10000 else 0x40000

/-- The first failing group of a capture: range before reference within a group. -/
def State.capBad (s : State) : Option CapFail :=
  let one := fun (g : Nat) =>
    let regs := Tbl.get [] s.cfg.stage g
    match s.groupBad g ((s.tim.now.toNat + ns - 1) / ns) regs with
    | some p => some (⟨1, g, p.1, (groupReg g p.2 - groupBase g) / 8⟩ : CapFail)
    | none => if groupRef g regs = Tbl.get 0 s.cfg.stageRef g then none else some ⟨2, g, 0, 0⟩
  ((List.range 6).filter s.cfg.captured.contains).findSome? one

/-! ### Outcomes (R453 to R455) -/

/-- CFG_COMMIT after an outcome, and its counts. -/
def Cfg.outcome (c : Cfg) (out reason group lsb word : Nat) : Cfg :=
  let n := c.commitNo + 1
  let groups := orAll (c.captured.map (fun g => flag true g))
  { c with commitNo := n, captured := [], capturing := false,
           commit := orAll [at_ n 0 16, groups <<< (16 : Nat), at_ out 22 2, at_ reason 24 3, at_ group 27 3, at_ lsb 30 6, at_ word 36 16],
           cnt := if out = 1 then satInc c.cnt 0 16 1 else if out = 2 || out = 3 then satInc c.cnt 16 16 1 else c.cnt }

/-- SHADOW_CAPTURE (R453): the shadow of every dirty group is copied to its stage. -/
def State.capture (s : State) : State :=
  let gs := (List.range 6).filter s.cfg.dirty.contains
  s.updCfg (fun c => { c with capturing := true, captured := gs, dirty := [], written := [],
                              stage := gs.map (fun g => (g, s.groupShadow g)),
                              stageRef := gs.map (fun g => (g, Tbl.get 0 c.grpRef g)) })

/-- The captured values go back to their shadows, but for registers written since, and their groups are dirty again (R453). -/
def State.uncapture (s : State) (out reason group lsb word : Nat) : State :=
  let c := s.cfg
  let back := fun (g : Nat) => (Tbl.get [] c.stage g).mapIdx (fun i v =>
    if c.written.contains (g, i) then nth 0 (s.groupShadow g) i else v)
  let sh := c.captured.foldl (fun t g => Tbl.set t g (back g)) c.shadow
  let dirty := c.captured.foldl (fun d g => if d.contains g then d else d ++ [g]) c.dirty
  { s with cfg := Cfg.outcome { c with shadow := sh, dirty, stage := [], stageRef := [] } out reason group lsb word }

/-- A refused commit raises 0x6002 (R453). -/
def State.refuseCommit (s : State) (f : CapFail) : State :=
  (s.uncapture 2 f.reason f.group f.lsb f.word).raise 0x6002 srcToll 0

/-- The live values of a group set (R454); TRL and TWL go to the stacks' mode registers (R258). -/
def State.setLive (s : State) (g : Nat) (regs : List Reg) : State :=
  if g = 0 then s.updTik (fun t => { t with ctl := nth 0 regs 0 })
  else if g = 1 then s.updTim (fun t => { t with epoch := nth 0 regs 0 })
  else s.updMs (g - 2) (fun m => { m with ttab := regs, modeRegs := (ttabGet regs 8, ttabGet regs 9) })

/-- SHADOW_COMMIT (R454): every commit stage becomes live. Without a capture the commit is empty (R455). -/
def State.commit (s : State) : State :=
  let c := s.cfg
  if c.captured.isEmpty then { s with cfg := c.outcome 0 0 0 0 0 }
  else
    let n := c.commitNo + 1
    let s := c.captured.foldl (fun s g => s.setLive g (Tbl.get [] c.stage g)) s
    let live := c.captured.foldl (fun t g => Tbl.set t g (Tbl.get 0 c.stageRef g)) c.grpLive
    let last := c.captured.foldl (fun t g => Tbl.set t g n) c.last
    { s with cfg := Cfg.outcome { c with grpLive := live, last, stage := [], stageRef := [] } 1 0 0 0 0 }

end Sys2Proof.Machine
end

