-- ==== Sys2Proof/Machine/Flags.lean ====
section
/-! DEFINITION. Status the module shows outside: PWR_STATUS, the level of FAULT_N, and the in-band interrupts of the I3C target
(17: R483; 19: R499, R505). -/

namespace Sys2Proof.Machine

/-- RAIL_SETTLING (R476, R483): the core rail moves, or has reached the set point of a higher step that is not applied yet. -/
def State.railSettling (s : State) : Bool := s.pwr.settling || decide (s.tik.stepNow < s.tik.stepSet.toNat)

/-- PWR_STATUS (R483). -/
def State.pwrStatus (s : State) : Reg :=
  let p := s.pwr
  orAll [flag p.feedA 0, flag p.feedB 1, flag (p.feedRevA || p.feedRevB) 2, flag p.hot 3, flag p.stopReq 4, flag s.railSettling 5,
    flag p.coolant 6, flag p.computeOff 7, at_ (p.allowed % 16).toNat 8 4]

/-- The rails of the tollhouse die and its memories (R472). -/
def tollRails : List Rail := [.tollCore, .tollIo, .tollMem, .tollFlash]

/-- Do the tollhouse rails stand (R472, R499)? -/
def State.tollPowered (s : State) : Bool := tollRails.all s.pwr.rails.contains

/-- Is FAULT_N released (R499)? It is driven low without the tollhouse rails, from the start of a reset until firmware reaches IDLE,
without firmware, and once a record of severity MODULE is formed. -/
def State.faultN (s : State) : Bool := s.tollPowered && !s.pwr.tollBad && s.hst.st ≠ 0 && s.rst.idle && !s.sec.noFw && s.flt.modCode.isNone

/-- The in-band interrupt of the I3C target when FAULT_N or PWR_STATUS [7:0] has changed (R505). -/
def State.ibi (s : State) : State :=
  let x := (s.faultN, field s.pwrStatus 0 8)
  if s.pins.seen = x || !s.tollPowered then s else { s with pins := { s.pins with seen := x, ibi := s.pins.ibi + 1 } }

end Sys2Proof.Machine
end

