-- ==== Sys2Proof/Machine/Fault.lean ====
section
/-! DEFINITION. Fault records and step aborts (15: R414 to R423; 12: R357, R358). -/

namespace Sys2Proof.Machine

/-! ### Severities (R415, R416) -/

/-- The AUX of a 0x2006 of kind run state (R327). -/
def kindRunState : Nat := 3

/-- The severity of a code (R416); `run` tells whether a job ran when the fault was raised, `aux` the kind of a 0x2006. -/
def severity (code : BitVec 16) (run : Bool) (aux : Nat) : Nat :=
  let c := code.toNat
  if 0x1001 ≤ c ∧ c ≤ 0x100E then 3
  else if c = 0x100F then 1
  else if c = 0x2006 then (if aux = kindRunState then 3 else 2)
  else if c = 0x2007 ∨ c = 0x2008 then 0
  else if c / 256 = 0x20 then 2
  else if c = 0x3001 ∨ c = 0x3003 then 0
  else if c / 256 = 0x30 then 3
  else if c = 0x4001 ∨ c = 0x4004 ∨ c = 0x6003 then (if run then 3 else 2)
  else if c / 256 = 0x40 then 2
  else if c = 0x5001 then 0
  else if c = 0x5002 then 4
  else if c = 0x5004 ∨ c = 0x5006 then 2
  else if c / 256 = 0x50 then 5
  else if c = 0x6001 then 0
  else if c = 0x6004 then 5
  else if c = 0x9001 then 5
  else if c = 0x9002 then 3
  else if c = 0x9003 then 0
  else 1

/-! ### Records (R414, R417, R418) -/

/-- Entries of the fault log (R418). -/
def faultLogSize : Nat := 65536

/-- The first 60 bytes of a record and its CRC (R414). -/
def sealRecord (body : List Byte) : List Byte := body ++ leBytes (crc32 body).toNat 4

/-- A fault record (R414). -/
def State.recordBytes (s : State) (r : Raised) (sev : Nat) (secondary : Bool) : List Byte :=
  let org := match r.origin with
    | some o => o % 2 ^ 15 + 2 ^ 15
    | none => if s.plc.placed then s.plc.chip % 2 ^ 15 + 2 ^ 15 else 0
  let fl := (if r.addr.isSome then 1 else 0) + (if secondary then 2 else 0) + (if r.remote then 4 else 0) + (if r.late then 8 else 0)
  sealRecord (leBytes r.code.toNat 2 ++ leBytes sev 1 ++ leBytes fl 1 ++ leBytes s.flt.nextSeq 4 ++ leBytes s.nowNs 8 ++
    leBytes r.tick 8 ++ leBytes r.step 8 ++ leBytes r.source 2 ++ leBytes r.agent 1 ++ leBytes s.flt.gen.toNat 1 ++ leBytes org 2 ++
    leBytes 1 2 ++ leBytes (r.addr.getD 0) 8 ++ leBytes r.detail.toNat 8 ++ leBytes r.aux 4)

/-- A FAULT event for a record (R409), with its FLAGS as formed: before it was journaled. -/
def State.faultEvent (s : State) (b : List Byte) (upd : Bool) : State :=
  s.event 4 (slice b 0 2 ++ slice b 2 1 ++ [nth 0 b 3 &&& 0xEF] ++ slice b 38 2 ++ [if upd then 1 else 0] ++ zeros 1 ++ slice b 40 8 ++
    slice b 4 4)

/-- FLT_CNT and FLT_CNT2 after a record (R440). -/
def Flt.count (f : Flt) (sev : Nat) : Flt :=
  if sev = 0 then { f with cnt := satInc f.cnt 0 16 1 }
  else if sev = 1 then { f with cnt2 := satInc f.cnt2 56 8 1 }
  else if sev = 2 then { f with cnt := satInc f.cnt 16 16 1 }
  else { f with cnt := satInc f.cnt 32 16 1 }

/-- The step abort that follows from a fault on the die (R419). -/
def State.abortOn (s : State) (r : Raised) (sev : Nat) (sec : Bool) : State :=
  if s.job.running && (sev = 3 || sev = 5) && !sec && r.code != 0x9002 then s.askAbort r.step r.code else s

/-- A record of severity `sev` entered in the log (R414, R415, R418), with its event. -/
def State.enterRecord (s : State) (r : Raised) (sev : Nat) : State :=
  let bytes := s.recordBytes r sev r.sec
  let f := s.flt.count sev
  let seq := f.nextSeq
  let first := if 3 ≤ sev && !bit f.first 19 then
      orAll [at_ r.code.toNat 0 16, at_ sev 16 3, flag true 19, at_ (r.origin.getD s.chipOr0) 20 15, at_ r.step 35 29]
    else f.first
  let f := { f with nextSeq := seq + 1, log := Tbl.set f.log (seq % faultLogSize) bytes, first := first,
                    lost := if seq < faultLogSize then f.lost else min (f.lost + 1) 65535,
                    modCode := if sev = 5 then some r.code else f.modCode,
                    toJournal := if sev = 5 then f.toJournal ++ [seq] else f.toJournal }
  (State.faultEvent { s with flt := f } bytes false).ibi

/-- A record formed, and the abort that follows from it (R414, R415, R418, R419). -/
def State.formRecord (s : State) (r : Raised) : State :=
  let sev := severity r.code r.run r.aux
  (s.enterRecord r sev).abortOn r sev (s.secondary r)

/-- A record with a new COUNT (R417). -/
def recount (b : List Byte) (n : Nat) : List Byte := sealRecord (b.take 38 ++ leBytes (min n 65535) 2 ++ slice b 40 20)

/-- The millisecond of machine time (R417). -/
def State.msNow (s : State) : Nat := s.nowNs / 1000000

/-- A millisecond ends (R417): each record into which occurrences were folded has its COUNT and CRC brought up to date, with one further event. -/
def State.closeFolds (s : State) : State :=
  let one := fun (s : State) (x : Fold) =>
    if x.folded = 0 then s
    else
      let k := x.seq % faultLogSize
      let bytes := recount (Tbl.get (zeros 64) s.flt.log k) (1 + x.folded)
      (s.updFlt (fun f => { f with log := Tbl.set f.log k bytes })).faultEvent bytes true
  (s.flt.folds.foldl (fun s p => one s p.2) s).updFlt (fun f => { f with folds := [] })

/-- A record formed or folded (R417): the 65th of a code in one millisecond of machine time, and those after it, are folded into the 64th. -/
def State.foldRecord (s : State) (r : Raised) : State :=
  let s := if s.flt.foldMs = s.msNow then s else s.closeFolds.updFlt (fun f => { f with foldMs := s.msNow })
  let c := r.code.toNat
  let x := Tbl.get ⟨0, 0, 0⟩ s.flt.folds c
  if x.formed < 64 then State.formRecord (s.updFlt (fun f => { f with folds := Tbl.set f.folds c ⟨x.formed + 1, f.nextSeq, 0⟩ })) r
  else s.updFlt (fun f => { f with folds := Tbl.set f.folds c { x with folded := x.folded + 1 }, cnt := satInc f.cnt 48 16 1 })

/-- FAULT_RECORD: the fault raised first is recorded or folded (R417). With no UCIe module up, a record of the compute die waits there, and the
die acts on it (R19, R20). -/
def execFaultRecord (s : State) : Host.Outcome State Fault Refusal :=
  match s.flt.raised with
  | [] => .next s
  | r :: rest =>
    let s := s.updFlt (fun f => { f with raised := rest })
    if r.code = 0x2008 || r.code = 0x5001 then .next s
    else if s.ucieCut && decide (r.source < 114) then
      .next (State.abortOn (s.updFlt (fun f => { f with parked := f.parked ++ [r] })) r (severity r.code r.run r.aux) (s.secondary r))
    else .next (s.foldRecord r)

/-- FOLD_MILLISECOND_END (R417): at the end of the millisecond in which occurrences were counted. -/
def execFoldMillisecondEnd (s : State) : Host.Outcome State Fault Refusal :=
  if s.flt.folds.isEmpty then .next s else .next (s.advance ((s.flt.foldMs + 1) * 1000000 * ns)).closeFolds

/-! ### Step aborts (R357, R358, R419 to R423) -/

/-- The state code of a link that is up (R295). -/
def linkUp : Nat := 6

/-- A link fault of port `p` (R327): the first since the link came up is logged, and the record's DETAIL holds the log. -/
def State.olfFault (s : State) (p : Nat) (code : BitVec 16) (kind seq : Nat) : State :=
  let tick := if s.job.running then s.tick else 0
  let old := (s.port p).log
  let log := if field old 0 16 = 0 then orAll [at_ code.toNat 0 16, at_ kind 16 3, at_ seq 19 10, at_ tick 29 35] else old
  (s.updPort p (fun o => { o with log := log })).raise code (104 + p) 0 log none kind

/-- Is the link of physical port `p` up, and did its peer report this module's job digest at its last IDENT or RUNCHK (R318, R357)? -/
def State.sharesJob (s : State) (p : Nat) : Bool := (s.port p).st == linkUp && (s.port p).peerDig == s.plc.jobDigest

/-- This module's job digest as IDENT gives it: zero when no job is armed or running (R297). -/
def State.ownDigest (s : State) : List Byte := if s.busy then s.plc.jobDigest else zeros 32

/-- Has an exchange chosen the width that a port's link runs at (R296): from MEASURE on, and all through a retrain, which keeps the width of
before until its own exchange? -/
def Olf.chosen (o : Olf) : Bool := decide (5 ≤ o.st) || o.retrain

/-- Logical lanes that carry a port's frames (R288, R323): those of the width chosen, and before it is chosen all eight (DESIGN CHOICE, log 109). -/
def Olf.lanes (o : Olf) : Nat := if o.chosen then 2 ^ o.width else 8

/-- SVC_ONLY from its causes (R298, R323): wiring, revision, digest, a width below x8, of a link whose exchange has had its outcome. -/
def Olf.settleUse (o : Olf) : Olf := { o with svcOnly := o.chosen && (o.miswired || o.revDown || o.digOnly || decide (o.width < 3)) }

/-- Footway entries are taken to come back in the order in which their cells were sent (DESIGN CHOICE, log 91: a return does not name its
share): as many stay out as credits are missing (R346). -/
def Olf.trimFoot (o : Olf) : Olf := { o with footOut := o.footOut.drop (o.footOut.length - (8 - o.credFoot)) }

/-- A digest difference ends on every port whose peer's digest is this module's now (R298). -/
def State.digestsAgree (s : State) : State :=
  forEach s (List.range 6) (fun s p => s.updPort p (fun o =>
    if o.digOnly && (o.named || o.peerDig == s.ownDigest) then { o with digOnly := false }.settleUse else o))

/-- The first 8 payload bytes of a flooded cell (R347, R358). -/
def floodDest : List Byte := leBytes (2 ^ 63 + 7 * 2 ^ 48) 8

/-- The cell of a step abort (R358). `origin` is the chip number with the replica in bit 15. -/
def State.abortCell (s : State) (step : Nat) (code : BitVec 16) (origin : Nat) : Cell :=
  { seq := 0, ack := 0, cls := 2, kind := 8, gen := s.flt.gen, credit := 0, tag := 0,
    payload := padTo (floodDest ++ leBytes origin 2 ++ leBytes (step % 2 ^ 32) 4 ++ leBytes code.toNat 2 ++ s.plc.jobDigest.take 4 ++
      leBytes (s.tick % 2 ^ 32) 4) 64 }

/-- An abort cell queued on every port of the job but `except` (R357). -/
def State.flood (s : State) (c : Cell) (except : Nat) : State :=
  forEach s (List.range 6) (fun s p =>
    if p ≠ except && s.sharesJob p then
      (s.updPort p (fun o => { o with qAbort := o.qAbort ++ [c] })).updSvc (fun v => { v with cnt2 := satInc v.cnt2 32 16 1 })
    else s)

/-- An abort known to the tick sequencer (R419, R420): no new external access is formed from here on (R283), and the first since the
job started is logged (R361). -/
def State.noteAbort (s : State) (step : Nat) (code : BitVec 16) (origin : Nat) : State :=
  let log := if bit s.svc.abortLog 63 then s.svc.abortLog else
    orAll [at_ origin 0 16, at_ code.toNat 16 16, at_ step 32 31, flag true 63]
  { s with job := { s.job with aborts := s.job.aborts ++ [(step, code, origin)] }, cxl := { s.cxl with aborted := true },
           svc := { s.svc with abortLog := log, abortSeen := true } }

/-- The record of an abort that a command or a pair failure causes (R416: 0x9002); other aborts follow from a record (R419). -/
def State.abortFault (s : State) (step : Nat) (code : BitVec 16) (detail : Reg) : State :=
  if code = 0x9002 then
    s.raiseFull { code, source := srcToll, agent := 0, tick := if s.job.running then s.tick else 0, step := if s.job.running then step else 0,
                  addr := none, detail, aux := 0, origin := none, remote := false, late := false }
  else s

/-- A step abort issued by this module (R357, R420): abort cells go out once for each step. -/
def State.issueAbort (s : State) (step : Nat) (code : BitVec 16) (origin : Nat) (detail : Reg := 0) : State :=
  let s := s.abortFault step code detail
  if s.job.abortSent.contains step then s.noteAbort step code origin
  else
    let c := s.abortCell step code origin
    let s := (s.flood c 6).noteAbort step code origin
    (s.updJob (fun j => { j with abortSent := j.abortSent ++ [step] })).updFlt (fun f => { f with cnt2 := satInc f.cnt2 0 16 1 })

/-- STEP_ABORT (R419, R420): an abort asked for first is issued; one with 0x9002 is that of a failed pair (R381), with PLC_PAIR_LOG (R414). -/
def execStepAbort (s : State) : Host.Outcome State Fault Refusal :=
  match s.flt.asked with
  | [] => .next s
  | (step, code, origin) :: rest =>
    let s := s.updFlt (fun f => { f with asked := rest })
    if s.busy then .next (s.issueAbort step code origin s.plc.pairLog) else .next s

/-- Has step `n` qualified: HST_DONE_STEP has reached it (R423)? -/
def State.doneStep (s : State) (n : Nat) : Bool := bit s.hst.doneStep 63 && decide (n ≤ field s.hst.doneStep 0 63)

/-- The generation table entry of a chip in a replica (R355). -/
def State.genOf (s : State) (replica chip : Nat) : Nat := Tbl.get 0 s.svc.gen (32768 * replica + chip)

/-- A service or footway cell dropped for a stale generation: counted under 0x2008, without a record (R355, R417). -/
def State.staleGen (s : State) : State :=
  s.updSvc (fun v => { v with cnt := satInc v.cnt 32 16 1 })

end Sys2Proof.Machine
end

