-- ==== Sys2Proof/Machine/Image.lean ====
section
/-! DEFINITION. Reading a program image (06: R154 to R157). -/

namespace Sys2Proof.Machine

/-- An entry of the section table (R155). -/
structure Section where
  ty    : Nat
  chip  : Nat
  index : Nat
  win   : Nat
  wlen  : Nat
  addr  : Nat
  ofs   : Nat
  len   : Nat
  /-- Byte offset of the entry in the image. -/
  at_   : Nat
  deriving DecidableEq, Repr

/-- The section table entry at byte `o`. -/
def sectionAt (img : List Byte) (o : Nat) : Section :=
  { ty := leAt img o 2, chip := leAt img (o + 2) 2, index := leAt img (o + 4) 2, win := leAt img (o + 6) 2 % 1024,
    wlen := leAt img (o + 8) 2, addr := leAt img (o + 12) 4, ofs := leAt img (o + 16) 8, len := leAt img (o + 24) 8 % 2 ^ 40,
    at_ := o }

/-- The section table (R154, R155). -/
def sections (img : List Byte) : List Section :=
  let o := leAt img 64 8
  (List.range (min (leAt img 20 4) (img.length / 32))).map (fun i => sectionAt img (o + 32 * i))

/-- The sections that a module with chip number `chip` takes (R516): its own, and for types other than 0x0007 and 0x0008 one for every
module where it has none of that TYPE and INDEX. -/
def sectionOf (img : List Byte) (chip ty index : Nat) : Option Section :=
  let l := (sections img).filter (fun x => x.ty = ty && x.index = index)
  match l.find? (fun x => x.chip = chip) with
  | some x => some x
  | none => l.find? (fun x => x.chip = 0xFFFF)

/-- The section of the loaded image that this module takes. -/
def State.section_ (s : State) (ty index : Nat) : Option Section := sectionOf s.job.img s.chipOr0 ty index

/-! ### The agreed branch table (R174, R281) -/

/-- The number of branch points of an image (R174). -/
def branchCount (img : List Byte) (chip : Nat) : Nat := if (sectionOf img chip 10 0).isSome then min 255 (Config.branchCount img) else 0

/-- The branch point that takes at the edge of tick `t` of a step (R174). -/
def takesAt (img : List Byte) (chip t : Nat) : Option Nat := (range' 1 (branchCount img chip)).find? (fun b => Config.takeTick img b = t)

/-- The branch point whose take is the latest at or before tick `t` of a step. -/
def takenBy (img : List Byte) (chip t : Nat) : Option Nat := ((List.range (t + 1)).reverse).findSome? (takesAt img chip)

/-- The descriptor at which the staging list goes on when branch point `bp` takes with `value` (R281). -/
def stagingArm (img : List Byte) (chip bp value : Nat) : Nat := Config.armOffset img chip 3210 bp value

/-- Does descriptor `d` lie in the stretch of the staging list that begins at descriptor `o`: in list order, and before any other arm
begins (R281; DESIGN CHOICE, log 87)? -/
def inStretch (img : List Byte) (chip o d : Nat) : Bool :=
  decide (o ≤ d) && (range' 1 (branchCount img chip)).all (fun b => (List.range 4).all (fun v =>
    let a := stagingArm img chip b v
    !(decide (o < a) && decide (a ≤ d))))

/-- The contents of a section. -/
def Section.bytes (x : Section) (img : List Byte) : List Byte := slice img x.ofs x.len

/-- PLAN_END of a span in phase `P` since the epoch (R157): 0 without a plan table. -/
def State.planEnd (s : State) (span P : Nat) : Nat :=
  match s.section_ 6 0 with
  | none => 0
  | some x =>
    let n := s.stepTicks
    if n = 0 then 0 else s.imgAt (x.ofs + 2 * ((span * n + P / 8 % n) * 8 + P % 8)) 2

/-- Does the image give this stack a memory command stream (R516, R263)? -/
def State.memStream (s : State) (st : Nat) : Bool := (s.section_ 3 st).isSome

end Sys2Proof.Machine
end

