-- ==== Sys2Proof/Machine/Msg.lean ====
section
/-! DEFINITION. Messages between modules (12: R345, R347; 13: TYPEs of placement messages), the canonical map and the job tree (R328,
R512), stop requests (R404). -/

namespace Sys2Proof.Machine

/-! ### Cells of the service class and the footway (R345, R347) -/

/-- The 64 payload bytes of a service or footway cell: destination word, SRC, RTAG, RGEN and REPOCH, LEN, STATUS, TTL 128, then bytes 16
to 63. -/
def svcPayload (dest src rtag rgen repoch len status : Nat) (rest : List Byte) : List Byte :=
  leBytes dest 8 ++ leBytes src 2 ++ leBytes rtag 2 ++ leBytes (rgen % 16 + repoch % 16 * 16) 1 ++ leBytes len 1 ++ leBytes status 1 ++
    leBytes 128 1 ++ padTo rest 48

/-- The destination word of a cell to the neighbour on logical port `p` (R347). -/
def nbrDest (p ofs : Nat) : Nat := 2 ^ 63 + p % 8 * 2 ^ 48 + ofs % 2 ^ 48
/-- The destination word of a cell to a chip (R347). -/
def chipDest (chip ofs : Nat) : Nat := chip % 2 ^ 15 * 2 ^ 48 + ofs % 2 ^ 48

/-- A cell queued on an egress port by class (R344, R345). -/
def State.queueCell (s : State) (p : Nat) (c : Cell) : State :=
  s.updPort p (fun o =>
    if c.cls = 1 then { o with qSvc := o.qSvc ++ [c] }
    else if c.kind = 8 then { o with qAbort := o.qAbort ++ [c] }
    else { o with qFoot := o.qFoot ++ [c] })

/-- A message cell (KIND 5) with the 48 bytes of bytes 16 to 63. -/
def State.msgCell (s : State) (foot : Bool) (dest : Nat) (body : List Byte) : Cell :=
  { seq := 0, ack := 0, cls := if foot then 2 else 1, kind := 5, gen := s.flt.gen, credit := 0, tag := 0,
    payload := svcPayload dest s.chipOr0 0 s.flt.gen.toNat 0 0 0 body }

/-- Bytes 0 to 7 of IMAGE_DIGEST of the loaded image. -/
def State.imgDigest8 (s : State) : List Byte := slice s.job.img 32 8

/-- Fragments of a message, 36 bytes each (13). -/
def fragments (l : List Byte) : List (List Byte) := (List.range (max 1 ((l.length + 35) / 36))).map (fun f => slice l (36 * f) 36)

/-- A placement message to the neighbour on physical port `p` (13): TYPE, fragment index, image digest, contents. STEPDIG and CONFIRM
travel on the footway. -/
def State.sendPlc (s : State) (p ty : Nat) (body : List Byte) : State :=
  ((fragments body).mapIdx (fun f b => (f, b))).foldl (fun s x =>
    s.queueCell p (s.msgCell (ty = 11 || ty = 12) (nbrDest (s.nport p) 0)
      (leBytes ty 1 ++ leBytes x.1 2 ++ [0] ++ padTo s.imgDigest8 8 ++ padTo x.2 36))) s

/-! ### Extents, chips and the canonical map (R13, R373) -/

/-- EXT_X, EXT_Y, EXT_Z of the loaded image. -/
def State.ext (s : State) : Nat × Nat × Nat := (s.imgAt 12 1, s.imgAt 13 1, s.imgAt 14 1)
/-- Modules of one replica. -/
def State.mapN (s : State) : Nat := let e := s.ext; e.1 * e.2.1 * e.2.2
/-- The chip number of the i-th module of a replica (R13, 00: {x, y, z}). -/
def State.chipNo (s : State) (i : Nat) : Nat :=
  let e := s.ext
  i / (e.2.1 * e.2.2) * 1024 + i / e.2.2 % e.2.1 * 32 + i % e.2.2
/-- The coordinates of the i-th module of a replica. -/
def State.coords (s : State) (i : Nat) : Nat × Nat × Nat :=
  let e := s.ext
  (i / (e.2.1 * e.2.2), i / e.2.2 % e.2.1, i % e.2.2)

/-- The index in the map of the neighbour of map entry `i` on a logical port (R368, R378): ports 0 to 5 are X−, X+, Y−, Y+, Z−, Z+. -/
def State.nbrIndex (s : State) (i lp : Nat) : Option Nat :=
  let e := s.ext
  let n := s.mapN
  let r := i / n
  let c := s.coords (i % n)
  let at3 := fun (x y z : Nat) => r * n + (x * e.2.1 + y) * e.2.2 + z
  match lp with
  | 0 => if 0 < c.1 then some (at3 (c.1 - 1) c.2.1 c.2.2) else none
  | 1 => if c.1 + 1 < e.1 then some (at3 (c.1 + 1) c.2.1 c.2.2)
         else if s.plc.paired then some ((1 - r) * n + i % n) else none
  | 2 => if 0 < c.2.1 then some (at3 c.1 (c.2.1 - 1) c.2.2) else none
  | 3 => if c.2.1 + 1 < e.2.1 then some (at3 c.1 (c.2.1 + 1) c.2.2) else none
  | 4 => if 0 < c.2.2 then some (at3 c.1 c.2.1 (c.2.2 - 1)) else none
  | 5 => if c.2.2 + 1 < e.2.2 then some (at3 c.1 c.2.1 (c.2.2 + 1)) else none
  | _ => none

/-- This module's index in the map. -/
def State.selfIndex (s : State) : Option Nat := s.plc.map.findIdx? (fun e => e.physId == s.sec.fuses.physId)

/-- The i-th map entry's hall number. -/
def State.hallAt (s : State) (i : Nat) : Nat := (s.plc.map.map (·.hall)).getD i 65536

/-- The index of the job leader: the mapped module with the lowest hall number (R512). -/
def State.leaderIndex (s : State) : Nat :=
  (List.range s.plc.map.length).foldl (fun b i => if s.hallAt i < s.hallAt b then i else b) 0

/-- Neighbours of a map entry, by logical port. -/
def State.nbrs (s : State) (i : Nat) : List (Nat × Nat) :=
  (List.range 6).filterMap (fun lp => (s.nbrIndex i lp).map (fun j => (lp, j)))

/-- Depths in the job tree: a breadth-first search from the leader, `n` rounds (R512). -/
def State.depths (s : State) : Nat → Nat → List Nat → Tbl Nat → Tbl Nat
  | 0, _, _, d => d
  | n + 1, k, front, d =>
    let next := (front.flatMap (fun i => (s.nbrs i).map (·.2))).dedup.filter (fun j => (d.find? (fun p => p.1 == j)).isNone)
    if next.isEmpty then d else State.depths s n (k + 1) next (next.foldl (fun d j => Tbl.set d j (k + 1)) d)

/-- The depth of every mapped module in the job tree. -/
def State.jobDepths (s : State) : Tbl Nat := s.depths s.plc.map.length 0 [s.leaderIndex] [(s.leaderIndex, 0)]

/-- The logical port to a module's parent in the job tree; none for the leader. -/
def parentPort (s : State) (d : Tbl Nat) (i : Nat) : Option (Nat × Nat) :=
  let k := Tbl.get 0 d i
  if k = 0 then none else (s.nbrs i).find? (fun p => Tbl.get 0 d p.2 + 1 == k)

/-- This module's parent in the job tree: physical port. -/
def State.jobParent (s : State) : Option Nat :=
  match s.selfIndex with
  | none => none
  | some i => (parentPort s s.jobDepths i).map (fun p => s.linkPort p.1)

/-- This module's children in the job tree: physical ports. -/
def State.jobChildren (s : State) : List Nat :=
  match s.selfIndex with
  | none => []
  | some i =>
    let d := s.jobDepths
    ((s.nbrs i).filter (fun p => match parentPort s d p.2 with
      | some q => q.2 == i
      | none => false)).map (fun p => s.linkPort p.1)

/-- Is this module the job leader (R512)? -/
def State.isJobLeader (s : State) : Bool := s.selfIndex == some s.leaderIndex

/-- A placement message to every child of the job tree. -/
def State.sendChildren (s : State) (ty : Nat) (body : List Byte) : State :=
  forEach s s.jobChildren (fun s p => s.sendPlc p ty body)
/-- A placement message to the parent in the job tree. -/
def State.sendParent (s : State) (ty : Nat) (body : List Byte) : State :=
  match s.jobParent with
  | some p => s.sendPlc p ty body
  | none => s

/-! ### Stop requests (R404) -/

/-- The length of a step in ns. -/
def State.stepNs (s : State) : Nat := s.stepTicks * s.k * 96

/-- The first step whose boundary falls at least 1 ms after the present (R404). Boundaries are whole nanoseconds. -/
def State.earliestStop (s : State) : Nat :=
  let n := max 1 s.stepNs
  let t := (s.tim.now.toNat + ns - 1) / ns + 1000000 - s.tim.epoch.toNat
  s.job.firstStep + ((t + n - 1) / n - 1)

/-- Messages of the stop protocol on the footway: 0x80 a request with LAST_STEP and cause, 0x81 S (DESIGN CHOICE: the spec gives them no
layout, log 13). -/
def stopBody (ty step cause : Nat) : List Byte := leBytes ty 1 ++ leBytes cause 1 ++ zeros 6 ++ leBytes step 8

/-- S is known here (R404): the job stops after the earlier of the steps known, and S goes down the job tree. -/
def State.stopAt (s : State) (step : Nat) : State :=
  let n := match s.job.stopAfter with
    | some m => min m step
    | none => step
  let s' := s.updJob (fun j => { j with stopAfter := some n })
  if s.job.stopAfter = some n then s'
  else forEach s' s'.jobChildren (fun s p => s.queueCell p (s.msgCell true (nbrDest (s.nport p) 0) (stopBody 0x81 n 0)))

/-- A stop request held by the job leader: S is the larger of the smallest LAST_STEP it holds and the first step whose boundary falls at
least 1 ms ahead (R404). -/
def State.takeStop (s : State) (last cause : Nat) : State :=
  let s := s.updJob (fun j => { j with requests := j.requests ++ [(last, cause, s.nowNs)],
                                       stopCause := if j.requests.isEmpty then cause else j.stopCause })
  let low := s.job.requests.foldl (fun m r => min m r.1) last
  s.stopAt (max low s.earliestStop)

/-- A stop request sent on up the job tree, neighbour by neighbour, a pair link included (R379, R404, R512). -/
def State.sendStop (s : State) (last cause : Nat) : State :=
  match s.jobParent with
  | some p => s.queueCell p (s.msgCell true (nbrDest (s.nport p) 0) (stopBody 0x80 last cause))
  | none => s

/-- A stop request sent to the job leader (R404); 2^64 − 1 asks for the earliest step. -/
def State.requestStop (s : State) (last cause : Nat) : State :=
  let last := if last = 2 ^ 64 - 1 then 0 else last
  let s := s.updJob (fun j => { j with stopAsked := true })
  if s.isJobLeader || s.plc.map.isEmpty then s.takeStop last cause
  else
    let s := s.updJob (fun j => { j with stopCause := cause })
    s.sendStop last cause

/-- A stop has been requested and the job has not stopped (TIK_STATUS.STOP_PENDING, R99). -/
def State.stopPending (s : State) : Bool := s.job.running && (s.job.stopAfter.isSome || !s.job.requests.isEmpty || s.job.stopAsked)

end Sys2Proof.Machine
end

