-- ==== Sys2Proof/Machine/Rate.lean ====
section
/-! DEFINITION. Rate steps and the core rail (03: R74 to R77; 17: R475, R476), TIME events, arming of keystones (R81). -/

namespace Sys2Proof.Machine

/-- A TIME event when TIM_STATUS differs from what it was (R58, R409). -/
def State.timeEvent (s : State) (old : Tim) : State :=
  if timStatus old = timStatus s.tim then s else s.event 6 (leBytes (timStatus s.tim).toNat 2)

/-! ### Core rail (R475, R476) -/

/-- The set point of a step index in mV (R475). -/
def railMv (i : Nat) : Nat := 620 + 23 * i

/-- How far the rail is from its set point now, at 2 mV per µs in units of machine time (R475). -/
def State.railLag (s : State) : Int :=
  let n := s.pwr.lag.natAbs - (s.tim.now.toNat - s.pwr.lagAt)
  if 0 ≤ s.pwr.lag then (n : Int) else -(n : Int)

/-- The rail moves toward the set point of step `i`, from where it is; a lower set point is one that no step above `i` has settled (R475,
R476). -/
def State.setRail (s : State) (i : Nat) : State :=
  let old := field s.pwr.core 0 12
  if old = railMv i then s
  else
    (s.updPwr (fun p => { p with core := setField p.core 0 12 (railMv i), settling := true, railStep := min p.railStep i,
                                 lag := s.railLag + ((railMv i : Int) - old) * (500 * ns : Nat), lagAt := s.tim.now.toNat })).ibi

/-- RATE_STEP_CHANGE (R76): the compute spans run at step `i`; the rail of a lower step follows the edge, and that of a higher one stands where
the latest request has brought it (R476). -/
def State.applyStep (s : State) (i : Nat) : State :=
  if i = s.tik.stepNow then s
  else
    let u := s.updTik (fun t => { t with stepNow := i, cnt := satInc t.cnt 32 16 1 })
    (if i < s.tik.stepNow then u.setRail i else u).ibi

/-- A wanted step, already clamped, reaches TIK_STEP_SET (R76, R77, R476). -/
def State.wantStep (s : State) (i : Nat) : State :=
  let held := s.job.running && decide (i < s.rated)
  let s := s.updTik (fun t => { t with stepSet := BitVec.ofNat 64 i, held := held })
  if held then s
  else if s.busy then (s.setRail (max i s.tik.stepNow)).ibi
  else if i ≤ s.tik.stepNow then ((s.applyStep i).setRail i).ibi
  else
    let s := s.setRail i
    (if i ≤ s.pwr.railStep then s.applyStep i else s).ibi

/-- With no job armed or running, the step that TIK_STEP_SET asks for waits for no keystone any more (R76, R476). -/
def State.freeStep (s : State) : State := if s.busy then s else s.wantStep s.tik.stepSet.toNat

/-- The step change of a keystone (R76, R77, R476): a held value asks for a stop of the job instead, once in a job (DESIGN CHOICE, log 79). At
the start keystone too the step is not below the job's rated step (R75, R78). -/
def State.keystoneStep (s : State) : State :=
  let i := s.tik.stepSet.toNat
  if s.job.running && s.tik.held && decide (i < s.rated) then
    if s.tik.heldAsked then s
    else (s.updTik (fun t => { t with heldAsked := true, cnt := satInc t.cnt 48 16 1 })).requestStop (2 ^ 64 - 1) 2
  else
    let i := if s.busy then max i s.rated else i
    if i < s.tik.stepNow then s.applyStep i
    else
      let j := min i s.pwr.railStep
      if s.tik.stepNow < j && decide (s.pwr.settledAt + 10000 * ns ≤ s.tim.now.toNat) then s.applyStep j else s

/-! ### TIK_ register writes -/

/-- TIK_STEP_SET written (R77, R447). -/
def State.writeStepSet (s : State) (v : Reg) : State :=
  let s := if v &&& ~~~0xF = 0 then s else s.rsvdWrite
  let i := field v 0 4
  if s.topStep < i then (s.clamped 0x20038 0 false).wantStep s.topStep else s.wantStep i

/-- Machine time of the edge of tick `n` (R68). -/
def State.tickTime (s : State) (n : Nat) : Nat := s.phaseTime (8 * n)

/-- TIK_KEY_ARM bit 0 (R81): refused with 0x6002 when the edge lies less than 100 µs ahead. -/
def State.armKeystone (s : State) : RegAns × State :=
  if s.tickTime s.tik.keyTick.toNat < s.tim.now.toNat + 100000 * ns then (.refused 0x6002, s.raise 0x6002 112 1)
  else (.ok 0, s.updTik (fun t => { t with keyArmed := true, armTick := t.keyTick.toNat, armAct := t.keyAct }))

/-- TIK_KEY_ARM bit 1: an unfired keystone is disarmed. -/
def State.disarmKeystone (s : State) : State := s.updTik (fun t => { t with keyArmed := false })

end Sys2Proof.Machine
end

