-- ==== Sys2Proof/Machine/Clock.lean ====
section
/-! DEFINITION. The time tree and steering (02: R45 to R60). θ and φ are in units of 2^-16 ns ÷ 180,180,000, rates in the units of `ppb`. -/

namespace Sys2Proof.Machine

/-- One part in 10^9, in the units in which F and P are exact multiples of θ's (R52). -/
def ppb : Int := 8192000 * 64 * 180180000
/-- One nanosecond of θ. -/
def thetaNs : Int := 65536 * 180180000
/-- The nominal increment (R33). -/
def nominalInc : Int := 0x0006666666666666

/-- A number within bounds. -/
def clampInt (lo hi x : Int) : Int := max lo (min hi x)

/-- Rounding of a quotient to the nearest, halves up (log 14). -/
def divRound (a : Int) (b : Nat) : Int := (2 * a + b) / (2 * b)

/-- The increment of a rate (R52), rounded to 2^-48 ns. -/
def incOf (rate : Int) : BitVec 64 := BitVec.ofInt 64 (nominalInc + divRound (nominalInc * rate) (ppb * 1000000000).toNat)

/-- The increment follows F and P (R52, R53). -/
def Tim.setRate (t : Tim) : Tim := { t with inc := incOf (t.freq + t.slew) }

/-- F with its bound (R52, R53). -/
def Tim.setFreq (t : Tim) (f : Int) : Tim :=
  let f := clampInt (-10000 * ppb) (10000 * ppb) f
  { t with freq := f, freqLimit := decide (f = -10000 * ppb) || decide (f = 10000 * ppb) }

/-- The steering law (R52). -/
def Tim.steer (t : Tim) (theta : Int) : Tim :=
  let dF := clampInt (-(ppb / 10)) (ppb / 10) (-256 * theta)
  let t := t.setFreq (t.freq + dF)
  Tim.setRate { t with slew := clampInt (-50 * ppb) (50 * ppb) (-1000000 * theta), theta := theta }

/-- The module leaves time-good (R57, R59): with a code that a running job's abort carries, or with none. -/
def State.leaveGood (s : State) (code : Option (BitVec 16)) : State :=
  let s := s.updTim (fun t => { t with good := false, leftBy := code.getD 0, offsetWide := false, acq := .waiting })
  match code with
  | some c => s.raise c 112 0
  | none => s

/-- Is announce count `a` later than `b` (R46)? -/
def laterCount (a b : BitVec 16) : Bool := 1 ≤ (a - b).toNat && (a - b).toNat ≤ 32767

/-- Advertisements that count (R46, R50): they came within the last eight periods, and their root is not one given up as lost. -/
def State.adverts (s : State) : List (Nat × Advert) :=
  (List.range 6).filterMap (fun p =>
    match (s.bcn p).adv with
    | none => none
    | some (a, at16) =>
      let lost := s.tim.dead.any (fun d => d.1 == a.rootId && !laterCount a.announce d.2)
      if lost || a.rootId == s.sec.fuses.physId || decide (at16 + 16384 * 65536 < s.now16) then none else some (p, a))

/-- Is root `a` better than `b`, as (priority, physical identity) (R45)? -/
def betterRoot (a b : BitVec 8 × BitVec 64) : Bool := decide (a.1.toNat < b.1.toNat) || a.1 == b.1 && decide (a.2.toNat < b.2.toNat)

/-- The root that the module follows, while no port advertises it and it is not given up as lost: it stands until its count has not come
for 8.388608 ms (R46). -/
def State.standingRoot (s : State) : List (BitVec 8 × BitVec 64) :=
  let t := s.tim
  if t.isRoot || t.rootId = 0 || t.rootId = s.sec.fuses.physId || s.adverts.any (fun x => x.2.rootId == t.rootId) ||
    t.dead.any (fun d => d.1 == t.rootId && !laterCount t.announce d.2) then [] else [(t.curPrio, t.rootId)]

/-- The best root advertised or standing here (R45); none when there is no candidate. -/
def State.bestRoot (s : State) : Option (BitVec 8 × BitVec 64) :=
  let own := BitVec.ofNat 8 (field s.tim.prio 0 8)
  let l := (if own = 0 then [] else [(own, s.sec.fuses.physId)]) ++ s.standingRoot ++
    (s.adverts.filter (fun x => x.2.prio ≠ 0)).map (fun x => (x.2.prio, x.2.rootId))
  l.foldl (fun m r => match m with
    | none => some r
    | some b => if betterRoot r b then some r else some b) none

/-- The parent under the best root (R47): a time-good neighbour of least depth, then of lower physical identity. -/
def State.bestParent (s : State) (root : BitVec 64) : Option (Nat × Advert) :=
  (s.adverts.filter (fun x => x.2.rootId == root && x.2.good)).foldl (fun m x => match m with
    | none => some x
    | some y => if x.2.depth < y.2.depth || x.2.depth == y.2.depth && decide ((s.port x.1).peerId.toNat < (s.port y.1).peerId.toNat) then some x
                else some y) none

/-- The latest count advertised for a root (R46). -/
def State.countOf (s : State) (root : BitVec 64) (dflt : BitVec 16) : BitVec 16 :=
  match s.adverts.filter (fun x => x.2.rootId == root) with
  | [] => dflt
  | x :: r => r.foldl (fun m y => if laterCount y.2.announce m then y.2.announce else m) x.2.announce

/-- No neighbour qualifies as parent (R50, R57): holdover for a module that had one, or was time-good; 0x4002. The module keeps its root, its
TIME_GOOD and its depth, and so DEPTH_LIMIT, until the root is lost (DESIGN CHOICE, log 72); agent 0 reports 0x4002 (log 102). -/
def State.noParent (s : State) : State :=
  let had := !s.tim.holdover && (decide (s.tim.parent < 6) || s.tim.good)
  let s := s.updTim (fun t => { t with parent := 7, isRoot := false })
  if had then (s.updTim (fun t => { t with holdover := true, holdSince := t.now.toNat })).raise 0x4002 112 0 else s

/-- Root election and choice of the parent (R45, R47, R48, R51). No increment is written for a change of root. A new root elsewhere brings
its own count (R46); a module that becomes root goes on from the count it last held, and is at offset 0 (DESIGN CHOICE, log 74; R58). A
root that may be root no more, with no other, keeps what it advertises (DESIGN CHOICE, log 72). -/
def State.electRoot (s : State) : State :=
  match s.bestRoot with
  | none => s.updTim (fun t => if t.isRoot then { t with isRoot := false, parent := 7, depth := 255, depthLimit := false, ptpOfs := none } else t)
  | some r =>
    if r.2 = s.sec.fuses.physId then
      s.updTim (fun t => { t with isRoot := true, parent := 7, depth := 0, curPrio := r.1, rootId := r.2, holdover := false, depthLimit := false,
                                  theta := if t.isRoot then t.theta else 0, offsetWide := t.isRoot && t.offsetWide, tai := t.ptpLock })
    else
      let s := s.updTim (fun t =>
        if t.rootId = r.2 && !t.isRoot then { t with curPrio := r.1 }
        else { t with rootId := r.2, curPrio := r.1, isRoot := false, ptpLock := false, ptpOfs := none, announceAt := t.now.toNat,
                      announce := s.countOf r.2 t.announce, depth := 255 })
      match s.bestParent r.2 with
      | none => s.noParent
      | some (p, a) =>
        let change := s.tim.parent ≠ p
        let s := s.updTim (fun t => { t with parent := p, depth := a.depth + 1, holdover := false, tai := a.tai,
                                             parentSeen := if change then t.now.toNat else t.parentSeen,
                                             announce := if change && laterCount a.announce t.announce then a.announce else t.announce,
                                             announceAt := if change && laterCount a.announce t.announce then t.now.toNat else t.announceAt,
                                             cnt := if change then satInc t.cnt 16 16 1 else t.cnt,
                                             acq := match t.acq with
                                               | .measuring .. => if change then .waiting else t.acq
                                               | _ => t.acq })
        if 64 < a.depth + 1 then
          let s := s.updTim (fun t => { t with depthLimit := true })
          if s.tim.good then s.leaveGood (some 0x4004) else s
        else s.updTim (fun t => { t with depthLimit := false })

/-- One second in units of 2^-16 ns. -/
def second16 : Nat := 1000000000 * 65536

/-- The sub-second phase of a timestamp, from −0.5 s up. -/
def subSecond (t : Int) : Int :=
  let r := t % second16
  if 2 * r < second16 then r else r - second16

/-- OFFSET_WIDE and the bound of time-good, after a new θ (R57, R58). -/
def State.judgeOffset (s : State) : State :=
  let x := s.tim.theta.natAbs
  if !s.tim.good then s
  else if 2 * thetaNs.toNat < x then
    (s.updTim (fun t => { t with cnt := satInc t.cnt 48 16 1 })).leaveGood (some 0x4001)
  else s.updTim (fun t => { t with offsetWide := decide (thetaNs.toNat < 2 * x) })

/-- An instant after an increment of `d`. -/
def later (d : Int) (t : Nat) : Nat := ((t : Int) + d).toNat

/-- The timestamps of a port, and the exchanges taken with them, after an increment of `d` in units of 2^-16 ns. -/
def BeaconPort.rebase (d : Int) (b : BeaconPort) : BeaconPort :=
  { b with sent := b.sent.map (fun x => (x.1, later d x.2)), lastRx := b.lastRx.map (fun x => (x.1, later d x.2)),
           lastOk := b.lastOk.map (fun x => (x.1, later d x.2)), adv := b.adv.map (fun x => (x.1, later d x.2)),
           exch := b.exch.map (fun x => (x.1 - 250 * d, x.2)) }

/-- The instants that machine time holds, after an increment of `d` in units of 2^-16 ns. -/
def Tim.rebase (d : Int) (t : Tim) : Tim :=
  let e := d * 2 ^ 32
  { t with beats := t.beats.map (fun x => (x.1, later e x.2)), holdSince := later e t.holdSince, parentSeen := later e t.parentSeen,
           announceAt := later e t.announceAt, ports := t.ports.map (fun x => (x.1, x.2.rebase d)), ppsIn := t.ppsIn.map (later d),
           ppsPhase := subSecond (t.ppsPhase + d), ptpOfs := none }

/-- Every instant that the state holds, after an increment of `d` in units of 2^-16 ns: the time passed since each, and the time left to each
deadline, stay as they are (DEDUCED, log 101). -/
def State.rebase (s : State) (d : Int) : State :=
  let m := later (d * 2 ^ 32)
  let s := s.updTim (Tim.rebase d)
  { s with
    ctl := s.ctl.map (fun x => (x.1, m x.2))
    spans := s.spans.map (fun x => (x.1, { x.2 with modeAt := m x.2.modeAt }))
    msq := s.msq.map (fun x => (x.1, { x.2 with autoAt := m x.2.autoAt }))
    olf := s.olf.map (fun x => (x.1, { x.2 with stAt := m x.2.stAt, downAt := m x.2.downAt, lossAt := x.2.lossAt.map m, nakAt := m x.2.nakAt }))
    svc := { s.svc with out := s.svc.out.map (fun x => (x.1, { x.2 with deadline := m x.2.deadline })) }
    plc := { s.plc with claimAt := m s.plc.claimAt, switchAt := m s.plc.switchAt, placeAt := m s.plc.placeAt }
    hst := { s.hst with coalAt0 := m s.hst.coalAt0, coalAt1 := m s.hst.coalAt1 }
    flt := { s.flt with hangAt := s.flt.hangAt.map m }
    pwr := { s.pwr with settledAt := m s.pwr.settledAt, lagAt := m s.pwr.lagAt, railAt := m s.pwr.railAt }
    rst := { s.rst with last := s.rst.last + d * 2 ^ 32, drainAt := m s.rst.drainAt }
    job := { s.job with ends := s.job.ends.map (fun x => (x.1, m x.2)) }
    pins := { s.pins with ppsRise := s.pins.ppsRise.map m }
    ucie := { s.ucie with downAt := s.ucie.downAt.map m, fedAt := m s.ucie.fedAt, pollAt := s.ucie.pollAt.map m } }

/-- An increment of `d`, in units of 2^-16 ns, written to machine time (R34, R54). -/
def State.addIncrement (s : State) (d : Int) : State :=
  (s.rebase d).updTim (fun t => { t with now := BitVec.ofInt 112 ((t.now.toNat : Int) + d * 2 ^ 32), cnt := satInc t.cnt 0 16 1 })

/-- Acquisition and steering below the root, with φ of the parent port over the window (R52, R60). While a job is armed or running no
increment may be written (R54): the law runs, and the measuring begins when no job is. The change of φ tells the rate in force, F + P,
from the parent's: F takes both and P ends (DEDUCED, log 75). -/
def State.windowFollow (s : State) (residual phi : Int) : State :=
  let theta := residual * 180180000 - phi
  match s.tim.acq with
  | .waiting => if s.busy then s.updTim (fun t => t.steer theta) else s.updTim (fun t => { t with acq := .measuring 0 0, theta := theta })
  | .measuring n phi0 =>
    if s.busy then s.updTim (fun t => { t.steer theta with acq := .waiting })
    else if n = 0 then s.updTim (fun t => { t with acq := .measuring 1 phi, theta := theta })
    else
      let s := s.updTim (fun t => ({ t.setFreq (t.freq + t.slew + (phi - phi0) * 244140625) with slew := 0 }).setRate)
      let d := divRound (-theta) 180180000
      (s.addIncrement d).updTim (fun t => { t with acq := .qualifying 0, theta := theta + d * 180180000 })
  | .qualifying n =>
    let s := s.updTim (fun t => t.steer theta)
    let ok := decide (2 * theta.natAbs ≤ thetaNs.toNat) && !s.tim.depthLimit
    if !ok then s.updTim (fun t => { t with acq := .qualifying 0 })
    else if n + 1 < 64 then s.updTim (fun t => { t with acq := .qualifying (n + 1) })
    else s.updTim (fun t => { t with acq := .settled, good := true, offsetWide := false })
  | .settled => (s.updTim (fun t => t.steer theta)).judgeOffset

/-- A window that gives no result for the parent: the two windows measured, and the 64 that qualify, follow one another (R60); a module that
qualifies goes on so under its next parent (DEDUCED, log 75). -/
def State.windowMissed (s : State) : State :=
  s.updTim (fun t => { t with acq := match t.acq with
    | .measuring .. => .measuring 0 0
    | .qualifying _ => .qualifying 0
    | a => a })

/-- Is the module in manual mode (R56)? -/
def State.manual (s : State) : Bool := field s.tim.ctl 0 2 == 1

/-- TIM_RATE_SET written (R56): the rate in manual mode from the next window boundary (R53); ignored in service mode. -/
def State.setManualRate (s : State) (v : Reg) : State := s.updTim (fun t => { t with rateSet := v, rateDue := field t.ctl 0 2 == 1 })

/-- The rate that applies from a window boundary (R53, R56): F and P in service mode; in manual mode TIM_RATE_SET when it was written, else
the last rate. -/
def State.boundaryRate (s : State) : State :=
  if !s.manual then s.updTim (fun t => { t.setRate with rateDue := false })
  else if s.tim.rateDue then s.updTim (fun t => { t with inc := incOf (signed (field t.rateSet 0 32) 32 * (ppb / 100)), rateDue := false })
  else s

end Sys2Proof.Machine
end

