-- ==== Sys2Proof/Machine/Doorbell.lean ====
section
/-! DEFINITION. Doorbells and the mailbox (14: R393, R394, R411). -/

namespace Sys2Proof.Machine

/-- Does a new tail `t` break the rule of R393 for a ring of `n` entries with this head and tail: it lies outside the ring, or it would
leave more than n − 1 unconsumed entries, which a tail that moves back past the old tail would? -/
def badTail (n head tail t : Nat) : Bool := n ≤ t || decide ((t + n - head) % n < (tail + n - head) % n)

/-- COMMAND_RING_DOORBELL (R393): the new tail, or a ring stopped with 0x8004. -/
def State.ringDoorbell (s : State) (ring1 : Bool) (v : Reg) : State :=
  let h := s.hst
  let t := field v 0 12
  if !bit h.ctl 0 then s
  else if ring1 then
    if h.err1 then s
    else if badTail (ringSize h.cring1) h.cr1Head h.cr1Tail t then
      State.raise { s with hst := { h with err1 := true, cnt := satInc h.cnt 32 8 1 } } 0x8004 srcToll 0
    else { s with hst := { h with cr1Tail := t } }
  else
    if h.err0 then s
    else if badTail (ringSize h.cring0) h.cr0Head h.cr0Tail t then
      State.raise { s with hst := { h with err0 := true, cnt := satInc h.cnt 32 8 1 } } 0x8004 srcToll 0
    else { s with hst := { h with cr0Tail := t } }

/-- COMPLETION_DOORBELL (R394): the host's next unread completion. -/
def State.compDoorbell (s : State) (v : Reg) : State :=
  if bit s.hst.ctl 0 then s.updHst (fun h => { h with compRead := field v 0 12 % ringSize h.comp }) else s

/-- EVENT_DOORBELL (R394): the host's next unread event. -/
def State.evtDoorbell (s : State) (v : Reg) : State :=
  if bit s.hst.ctl 0 then s.updHst (fun h => { h with evtRead := field v 0 12 % ringSize h.evt }) else s

/-- The 64 bytes of the mailbox descriptor. -/
def Hst.mboxBytes (h : Hst) : List Byte := (List.range 8).flatMap (fun n => leBytes (Tbl.get 0 h.mboxCmd n).toNat 8)

/-- TAG and FLAGS of a descriptor (R395). -/
def descHdr (via : Via) (b : List Byte) : Hdr :=
  let fl := leAt b 2 1
  { via := via, tag := BitVec.ofNat 32 (leAt b 4 4), irq := fl % 2 = 1, order := fl / 2 % 2 = 1 }

/-- The command that the 64 bytes of a descriptor spell (R395, R398); none for an OPCODE that the table does not list. `res` is what host
memory will answer to LOAD. -/
def descDecode (via : Via) (res : HostRes) (b : List Byte) : Option Instr :=
  let h := descHdr via b
  let q := fun o => leAt b o 8
  let hbuf := leAt b 8 2
  match leAt b 0 2 with
  | 0x0001 => some (.identify h)
  | 0x0002 => some (.bufReg h hbuf (BitVec.ofNat 2 (leAt b 10 1)) (q 16) (q 24))
  | 0x0003 => some (.bufFree h hbuf)
  | 0x0010 => some (.load h hbuf (q 16) (q 24) res)
  | 0x0011 => some (.unload h)
  | 0x0020 => some (.place h)
  | 0x0021 => some (.switchGet h (leAt b 8 4) (leAt b 12 1))
  | 0x0022 => some (.switchDone h (leAt b 8 4))
  | 0x0030 => some (.arm h)
  | 0x0031 => some (.start h (BitVec.ofNat 64 (q 8)))
  | 0x0032 => some (.stop h (BitVec.ofNat 64 (q 8)))
  | 0x0033 => some (.abort h)
  | 0x0034 => some (.release h)
  | 0x0040 => some (.dma h hbuf (leAt b 10 1 % 2 = 1) (q 16) (q 24) (q 32))
  | 0x0041 => some (.regRead h (q 8) (leAt b 16 1))
  | 0x0042 => some (.regWrite h (q 8) (leAt b 16 1) ((List.range 4).map (fun i => BitVec.ofNat 64 (q (24 + 8 * i)))))
  | 0x0050 => some (.dump h hbuf (leAt b 10 1 % 2 = 1) (q 16) (q 24))
  | 0x0051 => some (.reset h)
  | 0x0060 => some (.attest h hbuf (q 16) (slice b 24 32))
  | 0x0061 => some (.fwUpdate h hbuf (q 16) (q 24))
  | _ => none

/-- The command that a mailbox descriptor spells; none for an OPCODE that the mailbox does not accept (R411). -/
def mboxDecode (b : List Byte) : Option Instr := (descDecode .mbox .timeout b).filter mailboxTakes

/-- A mailbox completion written (R411). -/
def State.mboxComplete (s : State) (bytes : List Byte) : State :=
  State.signal (s.updHst (fun x => { x with mboxBusy := false, mboxCpl := Tbl.setMany x.mboxCpl 0 (regsOf bytes) })) 2

/-- HST_MBOX_DB bit 0 (R411): the mailbox command waits ahead of every ring command; an opcode that the mailbox does not accept completes
BAD_OPCODE. -/
def State.mboxDoorbell (s : State) (v : Reg) : State :=
  if !bit v 0 then s
  else if s.hst.mboxBusy then s.updHst (fun h => { h with cnt := satInc h.cnt 56 8 1 })
  else
    let s := s.updHst (fun h => { h with mboxBusy := true, mboxCpl := Tbl.set h.mboxCpl 0 (Tbl.get 0 h.mboxCpl 0 &&& ~~~(flag true 56)) })
    let b := s.hst.mboxBytes
    match mboxDecode b with
    | some i => s.updHst (fun h => { h with waiting := ⟨i, 0⟩ :: h.waiting })
    | none =>
      (s.raise 0x8001 srcToll 0).mboxComplete
        (slice b 4 4 ++ slice b 0 2 ++ leBytes sBadOpcode 1 ++ [1] ++ leBytes 0x8001 2 ++ zeros 54)

end Sys2Proof.Machine
end

