-- ==== Sys2Proof/Machine/Regs.lean ====
section
/-! DEFINITION. The register region (16: R442 to R448; the register tables of chapters 02 to 18): what each register reads, and what a
write by host software does. -/

namespace Sys2Proof.Machine

/-! ### Where registers lie (R442, R443) -/

/-- Where a register lies: a block, the index of its unit, and the offset within it. -/
inductive Place where
  | cfg (o : Nat)
  | tim (o : Nat)
  | tik (o : Nat)
  | spn (p o : Nat)
  | msq (st o : Nat)
  | olf (p o : Nat)
  | cwy (p o : Nat)
  | svc (o : Nat)
  | cxl (o : Nat)
  | hst (o : Nat)
  | pwr (o : Nat)
  | sec (o : Nat)
  | flt (o : Nat)
  | dmp (o : Nat)
  | plc (o : Nat)
  | clu (c o : Nat)
  | repair (row : Nat)
  | shadow (g i : Nat)
  | none
  deriving DecidableEq, Repr

/-- The unit of an offset within a block of `n` units spaced `d` apart. -/
def unitAt (o d n : Nat) (f : Nat → Nat → Place) : Place := if o / d < n then f (o / d) (o % d) else .none

/-- The place of offset `r` of the register region (R442, R444). -/
def placeOf (r : Nat) : Place :=
  if r % 8 ≠ 0 then .none
  else if 0x800000000 ≤ r then
    match groupOf (r - 0x800000000) with
    | some (g, i) => .shadow g i
    | none => .none
  else
    let o := r % 0x10000
    match r / 0x10000 with
    | 0x0 => .cfg o
    | 0x1 => .tim o
    | 0x2 => .tik o
    | 0x3 => unitAt o 0x100 114 .spn
    | 0x4 => unitAt o 0x1000 4 .msq
    | 0x5 => unitAt o 0x100 6 .olf
    | 0x6 => unitAt o 0x100 6 .cwy
    | 0x7 => .svc o
    | 0x8 => .cxl o
    | 0x9 => .hst o
    | 0xA => .pwr o
    | 0xB => .sec o
    | 0xC => .flt o
    | 0xD => .dmp o
    | 0xE => .plc o
    | _ =>
      if r < 0x100000 then .none
      else if r < 0x140000 then unitAt (r - 0x100000) 0x100 800 .clu
      else if r < 0x1400C8 then .repair ((r - 0x140000) / 8)
      else .none

/-- The span whose controller answers for a register (R25, R27); registers of the tollhouse and of the die manager have none, and CLU_REPAIR of
a row is answered by the row's first span (DESIGN CHOICE, log 103). -/
def spanOfPlace : Place → Option Nat
  | .spn p _ => some p
  | .tim _ | .tik _ => some 112
  | .msq st _ => some (100 + st)
  | .olf p _ | .cwy p _ => some (104 + p)
  | .cxl _ => some 110
  | .clu c _ => some (spanOf c)
  | .repair row => some (row * 4)
  | .shadow g _ => if g < 2 then some 112 else some (98 + g)
  | _ => none

/-- Does the span behind a register answer nothing (R19, R27)? -/
def State.silentAt (s : State) (r : Nat) : Bool :=
  match spanOfPlace (placeOf r) with
  | some p => s.mute p
  | none => false

/-! ### Reads -/

/-- A list element by word offset `o` from `base`, for `n` words of 8 bytes. -/
def wordAt (o base n : Nat) : Option Nat := if base ≤ o ∧ o < base + 8 * n then some ((o - base) / 8) else none

/-- A rate in the model's units as a register field in units of 0.01 ppb (log 14). -/
def ppb100 (x : Int) : Int := divRound (x * 100) (8192000 * 64 * 180180000)

/-- TIM_ registers (02). -/
def State.readTim (s : State) (o : Nat) : Option Reg :=
  let t := s.tim
  match o with
  | 0x00 => some t.ctl
  | 0x08 => some (timStatus t)
  | 0x10 => some (BitVec.ofNat 64 s.nowNs)
  | 0x18 => some (t.fracLatch.setWidth 64)
  | 0x20 => some 0
  | 0x28 => some (atInt (ppb100 t.freq) 0 32)
  | 0x30 => some (atInt (ppb100 t.slew) 0 16)
  | 0x38 => some t.rateSet
  | 0x40 => some (atInt (divRound t.theta 180180000) 0 32)
  | 0x48 => some t.rootId
  | 0x50 => some (orAll [at_ t.parent 0 3, at_ t.depth 8 8, at_ t.curPrio.toNat 16 8, at_ t.announce.toNat 24 16])
  | 0x58 => some t.prio
  | 0x60 => some t.epoch
  | 0x110 => some t.ethLat
  | 0x118 => some t.cnt
  | 0x120 => some 0
  | _ =>
    match wordAt o 0x80 6, wordAt o 0xB0 6, wordAt o 0xE0 6 with
    | some p, _, _ => some (Tbl.get 0 t.delay p)
    | _, some p, _ => some (Tbl.get 0 t.asym p)
    | _, _, some p => some (Tbl.get 0 t.nbr p)
    | _, _, _ => none

/-- TIK_ registers (R99). TIK_NOW and TIK_POS read 0 while no job runs (DESIGN CHOICE, log 106). -/
def State.readTik (s : State) (o : Nat) : Option Reg :=
  let t := s.tik
  match o with
  | 0x00 => some t.ctl
  | 0x08 => some (orAll [flag t.running 0, flag t.keyArmed 1, flag (t.stepSet.toNat ≠ t.stepNow) 2, flag s.stopPending 3,
      at_ t.stepNow 8 4])
  | 0x10 => some (if t.running then BitVec.ofNat 64 s.tick else 0)
  | 0x18 => some (if t.running then orAll [at_ s.phase 0 3, at_ (s.slotNow % (256 * max 1 s.k)) 16 14] else 0)
  | 0x20 => some t.keyTick
  | 0x28 => some t.keyAct
  | 0x30 => some 0
  | 0x38 => some t.stepSet
  | 0x40 => some t.cnt
  | 0x48 => some 0
  | _ => none

/-- SPN_ registers (R100). SPN_DROOP_THR exists in compute spans only. -/
def State.readSpn (s : State) (p o : Nat) : Option Reg :=
  let k := s.spn p
  match o with
  | 0x00 => some (orAll [flag k.running 0, flag k.stopped 1, flag k.l1 2, flag k.l2 3, flag k.overrun 4, flag k.xqFault 5,
      flag (100 ≤ p) 6, if p < 100 then at_ s.tik.stepNow 8 4 else 0])
  | 0x08 => if p < 100 then some k.droopThr else none
  | 0x10 => some k.slackMin
  | 0x18 => some (satInc k.cnt 16 32 (s.stretched k - k.cleared))
  | 0x20 => some 0
  | 0x28 => some k.ovrLog
  | 0x30 => some k.xqLog
  | _ => none

/-- The quarter that clocks physical column `c` of a row whose failed column is `f` (R30). -/
def quarterOf (c f : Nat) : Nat :=
  if groupStart 3 f ≤ c then 3 else if groupStart 2 f ≤ c then 2 else if groupStart 1 f ≤ c then 1 else 0

/-- Pad cycles of a spoke (R122): 3 less one raw cycle within 3 columns of the hub at column 8q + 4, or two at 4 columns. -/
def spokePad (c q : Nat) : Nat := if c + 3 < 8 * q + 4 ∨ 8 * q + 4 + 3 < c then 1 else 2

/-- CLU_PHYS of a cluster (R123). -/
def State.cluPhys (s : State) (c : Nat) : Reg :=
  let col := s.physColOf c
  let q := quarterOf col (s.row (c / 32)).active
  orAll [at_ (c / 32) 0 5, at_ col 8 6, at_ q 16 2, if s.padsSet then at_ (spokePad col q) 18 2 else 0]

/-- CLU_ registers of a cluster (R123). -/
def State.readClu (s : State) (c o : Nat) : Option Reg :=
  let k := s.clu c
  let col := s.physColOf c
  match o with
  | 0x00 => some (orAll [flag k.collided 0, flag k.eccUe 1, flag (col ≠ c % 32) 2])
  | 0x08 => some k.bankLog
  | 0x10 => some k.eccCnt
  | 0x18 => some k.eccLog
  | 0x20 => some 0
  | 0x28 => some (s.cluPhys c)
  | _ => none

/-- CLU_REPAIR (R123). -/
def State.readRepair (s : State) (row : Nat) : Reg :=
  let r := s.row row
  orAll [at_ r.fused 0 6, at_ r.active 8 6, at_ r.pending 16 6, flag r.exhausted 24]

/-- MSQ_ registers (R270). -/
def State.readMsq (s : State) (st o : Nat) : Option Reg :=
  let m := s.ms st
  match wordAt o 0x08 5, wordAt o 0x30 5 with
  | some n, _ => some (nth 0 m.ttab n)
  | _, some n => some (nth 0 m.tact n)
  | _, _ =>
    match o with
    | 0x00 => some (orAll [flag m.running 0, flag m.auto 1, flag m.selfRef 2, flag m.hot 3, flag m.faulted 4, flag m.scrubbing 5,
        flag m.kept 6, flag m.tactOver 7])
    | 0x58 => some m.cnt
    | 0x60 => some 0
    | 0x68 => some m.fltLog
    | 0x70 => some m.eccCnt
    | 0x78 => some m.eccLog
    | 0x80 => some m.refMax
    | 0x88 => some m.temp
    | 0x90 => some 0
    | _ => none

/-- A port's lag: scheduled cells formed and not yet sent (R309). -/
def Olf.lag (o : Olf) : Nat := (o.replay.filter (fun x => !x.sent && x.cell.cls == 0)).length

/-- OLF_ registers (R327). -/
def State.readOlf (s : State) (p o : Nat) : Option Reg :=
  let x := s.port p
  match o with
  | 0x00 => some x.ctl
  | 0x08 => some (orAll [at_ x.st 0 4, flag x.sched 4, flag x.svcOnly 5, flag x.lock 6, flag (x.lag ≠ 0) 7, at_ x.epoch.toNat 8 4,
      at_ x.width 12 2, flag x.leader 14, flag x.miswired 15, flag x.revDown 16, flag x.tollOver 17])
  | 0x10 => some x.peerId
  | 0x18 => some x.peer
  | 0x20 => some x.lane
  | 0x28 => some x.toll
  | 0x30 => some x.cnt
  | 0x38 => some x.cnt2
  | 0x40 => some 0
  | 0x48 => some x.log
  | 0x50 => some 0
  | _ => none

/-- The fields of a loaded page set's header as CWY_PAGESET reports them (R329, R360). -/
def Cwy.pageset (r : Cwy) : Reg :=
  orAll [at_ (leAt r.hdr 0 2) 0 11, at_ (leAt r.hdr 2 2) 11 13, at_ (leAt r.hdr 4 2) 24 13, at_ (leAt r.hdr 6 1) 37 2,
    at_ (leAt r.hdr 10 2) 39 12]

/-- CWY_ registers (R360). -/
def State.readCwy (s : State) (p o : Nat) : Option Reg :=
  let r := s.rtr p
  match o with
  | 0x00 => some (orAll [at_ r.active 0 10, flag r.loaded 10, flag r.running 11, flag (bit r.log 45) 12, at_ r.lport 13 3,
      flag r.mapped 16])
  | 0x08 => some r.cnt
  | 0x10 => some r.cnt2
  | 0x18 => some 0
  | 0x20 => some r.log
  | 0x28 => some r.pageset
  | _ => none

/-- SVC_RES of the loaded page sets: equal in all of them, 0 while none is loaded (R330, R361). -/
def State.svcRes (s : State) : Nat := ((((List.range 6).map s.rtr).find? (fun r => r.loaded)).map (fun r => leAt r.hdr 6 1)).getD 0

/-- SVC_ registers (R361). -/
def State.readSvc (s : State) (o : Nat) : Option Reg :=
  let v := s.svc
  match o with
  | 0x00 => some (v.ctl ||| at_ s.svcRes 0 2)
  | 0x08 => some (orAll [at_ v.out.length 0 7, flag (bit v.ctl 2 && v.accepted ≠ 0) 7, flag s.plc.placed 8, flag v.abortSeen 9])
  | 0x10 => some v.cnt
  | 0x18 => some v.cnt2
  | 0x20 => some 0
  | 0x28 => some v.abortLog
  | _ =>
    match wordAt o 0x1000 4096 with
    | some n => some (orAll ((List.range 16).map (fun m => at_ (Tbl.get 0 v.gen (16 * n + m)) (4 * m) 4)))
    | none => none

/-- CXL_ registers (R286). -/
def State.readCxl (s : State) (o : Nat) : Option Reg :=
  let x := s.cxl
  match o with
  | 0x00 => some (orAll [flag x.linkUp 0, at_ x.width 1 5, at_ x.speed 6 3, at_ x.devices 9 3, flag x.staging 12, flag x.faulted 13])
  | 0x28 => some x.stgCnt
  | 0x30 => some x.stgLog
  | 0x38 => some x.errLog
  | 0x40 => some 0
  | _ => (wordAt o 0x08 4).map (nth 0 x.hdm)

/-- HST_STATUS (R413). -/
def State.hstStatus (s : State) : Reg :=
  let h := s.hst
  orAll [at_ h.st 0 4, flag h.ready 4, flag (bit h.ctl 0) 5, flag (h.err0 || h.err1) 6, flag h.aborted 7, flag h.mboxBusy 8,
    flag s.compFull 9, flag s.evtFull 10]

/-- HST_ registers (R413). -/
def State.readHst (s : State) (o : Nat) : Option Reg :=
  let h := s.hst
  match o with
  | 0x000 => some (orAll [at_ 1 0 16, flag s.sec.fuses.gradeB 16])
  | 0x008 => some s.hstStatus
  | 0x010 => some h.ctl
  | 0x018 => some h.cring0
  | 0x020 => some h.cring1
  | 0x028 => some h.comp
  | 0x030 => some h.evt
  | 0x038 => some 0
  | 0x040 => some 0
  | 0x048 => some 0
  | 0x050 => some 0
  | 0x058 => some (orAll [at_ h.cr0Head 0 12, at_ h.cr1Head 16 12, at_ h.compTail 32 12, at_ h.evtTail 48 12])
  | 0x060 => some h.cnt
  | 0x068 => some 0
  | 0x070 => some h.diagBase
  | 0x078 => some h.diagLog
  | 0x080 => some h.doneStep
  | 0x180 => some 0
  | _ =>
    match wordAt o 0x100 8, wordAt o 0x140 8 with
    | some n, _ => some (Tbl.get 0 h.mboxCmd n)
    | _, some n => some (Tbl.get 0 h.mboxCpl n)
    | _, _ => none

/-- PWR_ registers (R483). -/
def State.readPwr (s : State) (o : Nat) : Option Reg :=
  let p := s.pwr
  match o with
  | 0x00 => some p.ctl
  | 0x08 => some p.limits
  | 0x10 => some s.pwrStatus
  | 0x18 => some p.input
  | 0x20 => some p.core
  | 0x28 => some p.temp
  | 0x30 => some p.cool
  | 0x38 => some p.cnt
  | 0x40 => some 0
  | 0x48 => some p.log
  | _ => none

/-- SEC_ registers (R494). -/
def State.readSec (s : State) (o : Nat) : Option Reg :=
  let x := s.sec
  match o with
  | 0x00 => some (orAll [at_ x.slot 0 1, flag x.trial 1, at_ x.debug 2 2, flag x.akValid 4, at_ x.fails 5 2])
  | 0x08 => some (orAll [at_ x.fuses.svn 0 7, at_ x.fuses.revoked.toNat 8 4, at_ x.fuses.dbgMax 12 2])
  | 0x70 => some x.level
  | 0x78 => some 0
  | 0x80 => some x.cnt
  | 0x88 => some 0
  | _ =>
    match wordAt o 0x10 4, wordAt o 0x30 8 with
    | some n, _ => some (BitVec.ofNat 64 (leAt x.chal (8 * n) 8))
    | _, some n => some (Tbl.get 0 x.token n)
    | _, _ => none

/-- The reset domain mode in effect (R16, R427): 1 fence-and-drain, 2 generation drop. -/
def State.domainMode (s : State) : Nat :=
  let m := field s.flt.ctl 0 2
  if m = 0 then (if 512 < s.plc.map.length then 2 else 1) else m

/-- Is an abort known and the job not yet stopped (FLT_STATUS.ABORT_PENDING)? -/
def State.abortPending (s : State) : Bool :=
  (s.job.running || s.hst.st == stStarting) && !s.job.aborts.isEmpty || s.busy && !s.flt.asked.isEmpty

/-- FLT_ registers (R440). -/
def State.readFlt (s : State) (o : Nat) : Option Reg :=
  let f := s.flt
  match o with
  | 0x00 => some f.ctl
  | 0x08 => some (orAll [flag f.wedged 0, flag s.abortPending 1, flag f.draining 2, flag f.unplanned 3, at_ s.domainMode 4 2,
      at_ f.gen.toNat 8 4])
  | 0x10 => some f.cnt
  | 0x18 => some f.cnt2
  | 0x20 => some 0
  | 0x28 => some f.first
  | 0x30 => some (orAll [at_ f.nextSeq 0 32, at_ f.lost 32 16])
  | 0x38 => some f.abortWin
  | _ =>
    match wordAt o 0x1000 2048 with
    | some n =>
      let seqs := (range' (f.nextSeq - 256) 256).filter (fun q => q % 256 = n / 8 && q < f.nextSeq)
      some (match seqs.getLast? with
        | some q => BitVec.ofNat 64 (leAt (Tbl.get (zeros 64) f.log (q % faultLogSize)) (n % 8 * 8) 8)
        | none => 0)
    | none => none

/-- DMP_ registers (R441). -/
def State.readDmp (s : State) (o : Nat) : Option Reg :=
  let d := s.dmp
  match o with
  | 0x00 => some d.ctl
  | 0x08 => some (orAll [flag d.running 0, at_ d.stage 1 3, at_ d.noAns 16 16])
  | 0x10 => some (orAll [at_ d.records 0 32, at_ d.lines 32 32])
  | 0x18 => some d.last
  | _ => none

/-- The row of the conditions of admission that fails first, 0 for none (R365). `proposed` tells that an armed job is the one proposed. -/
def State.admitRow (s : State) (proposed : Bool) : Nat :=
  if s.plc.strapFault || s.plc.duplicate then 1
  else if !s.tim.good then 2
  else if (List.range 25).any (fun r => (s.row r).exhausted) || (List.range 4).any (fun st => (s.ms st).tactOver) then 3
  else if s.job.loaded && s.topStep < s.imgAt 10 1 then 4
  else if s.job.running || s.job.armed && !proposed then 5
  else if !s.job.loaded || s.imgAt 6 2 ≠ s.sec.fabric then 6
  else 0

/-- Is the job of this module the one proposed at present (R365)? -/
def State.proposed (s : State) : Bool := s.plc.proposal.any (·.mine)

/-- PLC_ registers (R384). -/
def State.readPlc (s : State) (o : Nat) : Option Reg :=
  let x := s.plc
  match o with
  | 0x00 => some x.ctl
  | 0x08 => some (orAll [at_ x.st 0 4, flag x.leader 4, flag (s.admitRow s.proposed = 0) 5, flag x.paired 6, at_ x.replica 7 1,
      flag x.strapFault 8, flag x.duplicate 9])
  | 0x10 => some x.straps
  | 0x18 => some (orAll [at_ x.chip 0 15, flag x.placed 15, at_ x.replica 16 1, at_ x.depth 24 8, at_ x.parent 32 3])
  | 0x20 => some (orAll [at_ x.leadHall 0 16, flag x.leadValid 16, at_ x.jobHall 17 16, flag (!x.map.isEmpty) 33])
  | 0x78 => some x.confirmed
  | 0x80 => some x.pairLog
  | 0x88 => some x.cnt
  | 0x90 => some 0
  | _ =>
    match wordAt o 0x28 6, wordAt o 0x58 4 with
    | some p, _ => some (Tbl.get 0 x.decl p)
    | _, some n => some (BitVec.ofNat 64 (leAt x.jobDigest (8 * n) 8))
    | _, _ => none

/-- CFG_ registers (R468). -/
def State.readCfg (s : State) (o : Nat) : Option Reg :=
  let c := s.cfg
  match o with
  | 0x000 => some (orAll [orAll (c.dirty.map (fun g => flag true g)), flag c.capturing 6, flag c.tStale 7, flag (!c.bad.isEmpty) 8,
      flag c.compacting 9, flag c.spareReady 10, flag c.full 11])
  | 0x008 => some c.commit
  | 0x010 => some 0
  | 0x018 => some c.persistOfs
  | 0x020 => some c.cnt
  | 0x028 => some 0
  | 0x030 => some c.aszLog
  | 0x038 => some c.violLog
  | 0x040 => some c.clampLog
  | 0x048 => some (orAll [flag c.active 0, at_ (c.bank.append / 65536) 1 10, at_ c.bank.count 16 16, at_ c.nextSeq 32 32])
  | 0x050 => some c.tRef
  | 0x058 => some c.jRef
  | _ =>
    match wordAt o 0x100 6, wordAt o 0x140 6, wordAt o 0x180 6 with
    | some g, _, _ => some (Tbl.get 0 c.grpRef g)
    | _, some g, _ => some (s.grpLive g)
    | _, _, some g => some (orAll [flag (c.dirty.contains g) 0, flag (c.captured.contains g) 1, at_ (Tbl.get 0 c.last g) 2 16])
    | _, _, _ => none

/-- What the register at offset `r` reads; none where no register lies (R443). -/
def State.regValue (s : State) (r : Nat) : Option Reg :=
  match placeOf r with
  | .cfg o => s.readCfg o
  | .tim o => s.readTim o
  | .tik o => s.readTik o
  | .spn p o => s.readSpn p o
  | .msq st o => s.readMsq st o
  | .olf p o => s.readOlf p o
  | .cwy p o => s.readCwy p o
  | .svc o => s.readSvc o
  | .cxl o => s.readCxl o
  | .hst o => s.readHst o
  | .pwr o => s.readPwr o
  | .sec o => s.readSec o
  | .flt o => s.readFlt o
  | .dmp o => s.readDmp o
  | .plc o => s.readPlc o
  | .clu c o => s.readClu c o
  | .repair row => some (s.readRepair row)
  | .shadow g i => some (nth 0 (s.groupShadow g) i)
  | .none => none

/-- A register read by a requester with chip number `chip` (R443, R446). A read of TIM_NOW_NS latches the fraction (02). -/
def State.readReg (s : State) (r chip : Nat) : RegAns × State :=
  match s.regValue r with
  | some v =>
    (.ok v, if r = 0x10010 then s.updTim (fun t => { t with fracLatch := BitVec.ofNat 32 (t.now.toNat % ns / 2 ^ 16) }) else s)
  | none => (.refused 0x7002, s.violation (regBase + r) chip)

/-! ### Writes (R444, R447, R448) -/

/-- A register write in progress: the state so far and the value still to store. -/
structure Wr where
  s : State
  v : Reg

/-- The start of a write: reserved bits, those outside `mask`, are dropped and counted (R448). -/
def wrStart (s : State) (v mask : Reg) : Wr := ⟨if v &&& ~~~mask = 0 then s else s.rsvdWrite, v &&& mask⟩

/-- One field held to its range (R447). `code` tells a reserved code of an enumerated field. -/
def Wr.clamp (w : Wr) (r lsb len lo hi : Nat) (code : Bool) : Wr :=
  let x := field w.v lsb len
  if x < lo then ⟨w.s.clamped r lsb code, setField w.v lsb len lo⟩
  else if hi < x then ⟨w.s.clamped r lsb code, setField w.v lsb len hi⟩
  else w

/-- A write to a field of region 6 (R458). -/
def State.stale (s : State) : State := s.updCfg (fun c => { c with tStale := true })

/-- A register with no range: reserved bits dropped, the value stored by `put`. -/
def plainWrite (s : State) (v mask : Reg) (put : State → Reg → State) : RegAns × State :=
  let w := wrStart s v mask
  (.ok 0, put w.s w.v)

/-- A refused write (R446). -/
def refuseWrite (s : State) (r : Nat) : RegAns × State := (.refused 0x7002, s.regViolation r)

/-- The bits of a register that fields without write access hold (the register tables of chapters 02 to 18); the others are reserved. -/
def readBits : Place → Reg
  | .cfg o =>
    match o with
    | 0x00 => 0xFFF
    | 0x08 => 0xFFFFFFFFFFFFF
    | 0x30 => 0x7FFFFFFFFFF
    | 0x40 => 0xFFFFFFFFFFF
    | 0x48 => 0xFFFFFFFFFFFF07FF
    | _ => if 0x180 ≤ o then 0x3FFFF else allBits
  | .tim o =>
    match o with
    | 0x08 => 0x1FF
    | 0x18 | 0x28 | 0x40 => 0xFFFFFFFF
    | 0x30 => 0xFFFF
    | 0x50 => 0xFFFFFFFF07
    | _ => if 0xE0 ≤ o ∧ o < 0x110 then 0xFFFFFFFF else allBits
  | .tik o =>
    match o with
    | 0x08 => 0xF0F
    | 0x18 => 0x3FFF0007
    | _ => allBits
  | .spn _ o =>
    match o with
    | 0x00 => 0xF7F
    | 0x10 => 0xFFFF
    | _ => allBits
  | .clu _ o =>
    match o with
    | 0x00 => 7
    | 0x18 => 0x1FFFFFFF
    | 0x28 => 0xF3F1F
    | _ => allBits
  | .repair _ => 0x13F3F3F
  | .msq _ o =>
    match o with
    | 0x00 => 0xFF
    | 0x50 => 0xFFFFFF
    | 0x78 => 0xFFFFFFFFF
    | 0x80 => 0x1FFFF
    | 0x88 => 0x1FFF
    | _ => allBits
  | .cxl o =>
    match o with
    | 0x00 => 0x3FFF
    | 0x30 => 0xFFFFFFFF003FFFFF
    | 0x38 => 0x3FFFFFFFFFFFFFFF
    | _ => if 0x08 ≤ o ∧ o < 0x28 then 0x3FDFFFFF3FFF else allBits
  | .olf _ o =>
    match o with
    | 0x08 => 0x3FFFF
    | 0x18 => 0x1FFFFFFFFFFFFF7
    | 0x28 => 0xFFFFFFFFFFFFF
    | _ => allBits
  | .cwy _ o =>
    match o with
    | 0x00 => 0x1FFFF
    | 0x28 => 0x7FFFFFFFFFFFF
    | _ => allBits
  | .svc o => if o = 0x08 then 0x3FF else allBits
  | .plc o =>
    match o with
    | 0x08 => 0x3FF
    | 0x10 => 0xFFFFFFFF
    | 0x18 => 0x7FF01FFFF
    | 0x20 | 0x80 => 0x3FFFFFFFF
    | 0x78 => 0x1FFFFFFFF
    | _ => allBits
  | .hst o =>
    match o with
    | 0x000 => 0x1FFFF
    | 0x008 => 0x7FF
    | 0x058 => 0xFFF0FFF0FFF0FFF
    | 0x078 => 0xFFFFFFFFFF
    | _ => allBits
  | .flt o =>
    match o with
    | 0x08 => 0xF3F
    | 0x30 => 0xFFFFFFFFFFFF
    | 0x38 => 0x1FFFF
    | _ => allBits
  | .dmp o =>
    match o with
    | 0x08 => 0xFFFF000F
    | 0x18 => 0x7FFFF
    | _ => allBits
  | .pwr o =>
    match o with
    | 0x10 => 0xFFF
    | 0x18 => 0xFFFFFFFFFFFF
    | 0x20 => 0xFFFFFFFFF
    | 0x28 => 0xFFFFFFFFFF
    | 0x30 => 0xFFFFFF
    | _ => allBits
  | .sec o =>
    match o with
    | 0x00 => 0x7F
    | 0x08 => 0x3F7F
    | 0x80 => 0xFFFFFFFF
    | _ => allBits
  | .shadow _ _ | .none => allBits
where
  allBits : Reg := 0xFFFFFFFFFFFFFFFF

/-- A write to a register without a writable field is ignored (R17), but for a reserved bit written as 1, which is counted (R448); where no
register lies it is refused (R443). -/
def State.ignored (s : State) (r : Nat) (v : Reg) : RegAns × State :=
  if (s.regValue r).isSome then (.ok 0, (wrStart s v (readBits (placeOf r))).s) else refuseWrite s r

/-- A clear command (R17): bit 0 runs `f`. -/
def clearCmd (s : State) (v : Reg) (f : State → State) : RegAns × State :=
  let w := wrStart s v 1
  (.ok 0, if bit w.v 0 then f w.s else w.s)

/-- TIM_STEP written (R55). With ROOT_SRC free-running, the root is then qualified (Start-up). -/
def State.writeTimStep (s : State) (v : Reg) : RegAns × State :=
  if s.busy || s.tim.good && field s.tim.ctl 0 2 ≠ 1 then refuseWrite s 0x10020
  else
    let old := s.tim
    let s := s.addIncrement v.toInt
    let qual := field s.tim.ctl 0 2 = 0 && field s.tim.ctl 2 2 = 0 && s.tim.isRoot
    let s := if qual then s.updTim (fun t => { t with good := true, holdover := false, acq := .settled }) else s
    (.ok 0, s.timeEvent old)

/-- TIM_CTL written (R56, R447). Entry to manual mode clears TIME_GOOD. A change of ROOT_SRC leaves PTP_LOCK and TAI as they are (DESIGN CHOICE,
log 73). -/
def State.writeTimCtl (s : State) (v : Reg) : RegAns × State :=
  let manual := field v 0 2 ≠ 0
  let was := field s.tim.ctl 0 2 ≠ 0
  if manual && s.busy then refuseWrite s 0x10000
  else
    let w := ((wrStart s v 0x3F).clamp 0x10000 0 2 0 1 true).clamp 0x10000 2 2 0 2 true
    let old := w.s.tim
    let lat := bit old.ctl 5
    let s := w.s.updTim (fun t => { t with ctl := (w.v &&& 0x1F) ||| flag lat 5, good := t.good && (was || !manual),
                                           offsetWide := t.offsetWide && (was || !manual),
                                           acq := if manual && !was then .waiting else t.acq,
                                           ptpOfs := if manual || field w.v 2 2 = 0 then none else t.ptpOfs })
    (.ok 0, s.stale.timeEvent old)

/-- TIM_ETH_LAT written by host software or restored (R62). -/
def State.writeEthLat (s : State) (v : Reg) : RegAns × State :=
  plainWrite s v 0xFFFFFFFF (fun s v => (s.updTim (fun t => { t with ethLat := v, ctl := t.ctl ||| flag true 5 })).stale)

/-- TIM_ registers written. -/
def State.writeTim (s : State) (r o : Nat) (v : Reg) : RegAns × State :=
  match o with
  | 0x00 => s.writeTimCtl v
  | 0x20 => s.writeTimStep v
  | 0x38 => plainWrite s v 0xFFFFFFFF State.setManualRate
  | 0x58 => plainWrite s v 0xFF (fun s v => ((s.updTim (fun t => { t with prio := v })).stale.electRoot).timeEvent s.tim)
  | 0x60 => refuseWrite s r
  | 0x110 => s.writeEthLat v
  | 0x120 => clearCmd s v (fun s => s.updTim (fun t => { t with cnt := 0 }))
  | _ =>
    match wordAt o 0xB0 6 with
    | some p => plainWrite s v 0xFFFF (fun s v => (s.updTim (fun t => { t with asym := Tbl.set t.asym p v })).stale)
    | none => s.ignored r v

/-- TIK_KEY_ARM written (R81). A refused write changes nothing else. -/
def State.writeKeyArm (s : State) (v : Reg) : RegAns × State :=
  let w := wrStart s v 3
  let a := if bit w.v 0 then w.s.armKeystone else (.ok 0, w.s)
  if a.1 ≠ .ok 0 then s.armKeystone else if bit w.v 1 then (a.1, a.2.disarmKeystone) else a

/-- TIK_ registers written (R99). -/
def State.writeTik (s : State) (r o : Nat) (v : Reg) : RegAns × State :=
  match o with
  | 0x00 => refuseWrite s r
  | 0x20 => (.ok 0, s.updTik (fun t => { t with keyTick := v }))
  | 0x28 => plainWrite s v 7 (fun s v => s.updTik (fun t => { t with keyAct := v }))
  | 0x30 => s.writeKeyArm v
  | 0x38 => (.ok 0, s.writeStepSet v)
  | 0x48 => clearCmd s v (fun s => s.updTik (fun t => { t with cnt := 0 }))
  | _ => s.ignored r v

/-- SPN_DROOP_THR written (R87): the level-2 margin is held against the level-1 margin in force after clamping. -/
def State.writeDroopThr (s : State) (p : Nat) (v : Reg) : RegAns × State :=
  let r := 0x30000 + p * 0x100 + 8
  let w := (wrStart s v 0xFFFF).clamp r 0 8 15 60 false
  let w := w.clamp r 8 8 (max 30 (field w.v 0 8 + 10)) 90 false
  (.ok 0, (w.s.updSpn p (fun k => { k with droopThr := w.v })).stale)

/-- SPN_CLEAR bit 0 (R100). -/
def State.clearSpn (s : State) (p : Nat) : State :=
  s.updSpn p (fun k => { k with cnt := 0, slackMin := 0xFFFF, cleared := s.stretched k })

/-- SPN_ registers written. -/
def State.writeSpn (s : State) (r p o : Nat) (v : Reg) : RegAns × State :=
  match o with
  | 0x08 => if p < 100 then s.writeDroopThr p v else refuseWrite s r
  | 0x20 => clearCmd s v (fun s => s.clearSpn p)
  | _ => s.ignored r v

/-- CLU_CLEAR bit 0 (R123). -/
def State.clearClu (s : State) (c : Nat) : State := s.updClu c (fun k => { k with eccCnt := 0, eccLog := 0 })

/-- MSQ_CLEAR bit 0 (R270). -/
def State.clearMsq (s : State) (st : Nat) : State :=
  s.updMs st (fun m => { m with cnt := 0, eccCnt := 0, eccLog := 0, refMax := 0x18 })

/-- MSQ_SCRUB bit 0 (R267). -/
def State.writeScrub (s : State) (st : Nat) (v : Reg) : RegAns × State :=
  if s.busy then refuseWrite s (0x40090 + st * 0x1000)
  else clearCmd s v (fun s => s.updMs st (fun m => { m with scrubbing := true }))

/-- A write to a register with SH fields stores them in the shadow (R444, R450). Host software may write groups 2 to 5 only. -/
def State.writeSh (s : State) (fw : Bool) (r g i : Nat) (v : Reg) : RegAns × State :=
  if !fw && g < 2 then refuseWrite s r
  else
    let w := wrStart s v (nth 0 (shMasks g) i)
    (.ok 0, w.s.writeShadow g i w.v)

/-- MSQ_ registers written (R270). -/
def State.writeMsq (s : State) (r st o : Nat) (v : Reg) : RegAns × State :=
  match wordAt o 0x08 5 with
  | some i => s.writeSh false r (2 + st) i v
  | none =>
    match o with
    | 0x60 => clearCmd s v (fun s => s.clearMsq st)
    | 0x90 => s.writeScrub st v
    | _ => s.ignored r v

/-- SVC_CTL written (R361). -/
def State.writeSvcCtl (s : State) (v : Reg) : RegAns × State :=
  let w := (wrStart s v 0xFFFF07).clamp 0x70000 8 16 10 10000 false
  (.ok 0, (w.s.updSvc (fun x => { x with ctl := w.v &&& 0xFFFF04 })).stale)

/-- SVC_ registers written (R361). -/
def State.writeSvc (s : State) (r o : Nat) (v : Reg) : RegAns × State :=
  match o with
  | 0x00 => s.writeSvcCtl v
  | 0x20 => clearCmd s v (fun s => s.updSvc (fun x => { x with cnt := 0, cnt2 := 0 }))
  | _ => s.ignored r v

/-- CXL_CLEAR bit 0 (R286). -/
def State.clearCxl (s : State) : State := s.updCxl (fun x => { x with stgCnt := 0 })

/-- CWY_CLEAR bit 0 (R360). -/
def State.clearCwy (s : State) (p : Nat) : State := s.updRtr p (fun x => { x with cnt := 0, cnt2 := 0 })

/-- A ring register written (R392): refused while ENABLE is set. -/
def State.writeRing (s : State) (r : Nat) (v : Reg) (put : Hst → Reg → Hst) : RegAns × State :=
  if bit s.hst.ctl 0 then refuseWrite s r
  else
    let w := (wrStart s v 0xFFFFFFFFFFFFF00F).clamp r 0 4 4 12 false
    (.ok 0, w.s.updHst (fun h => put h w.v))

/-- The rings disabled (R387, R392, R430). -/
def Hst.ringsOff (h : Hst) : Hst := { h with ctl := h.ctl &&& ~~~1, err0 := false, err1 := false }

/-- The rings enabled: heads and tails 0, both phases begin again, and RESET_DONE is due (R392, R394, R406). -/
def Hst.ringsOn (h : Hst) : Hst :=
  { h with cr0Head := 0, cr0Tail := 0, cr1Head := 0, cr1Tail := 0, compTail := 0, compRead := 0, evtTail := 0, evtRead := 0,
           compPhase := true, evtPhase := true, err0 := false, err1 := false }

/-- RESET_DONE (R406, R409). -/
def State.resetDoneEvent (s : State) : State :=
  if s.hst.resetDone then
    (s.updHst (fun h => { h with resetDone := false })).event 7
      [BitVec.ofNat 8 s.flt.gen.toNat, if (List.range 4).all (fun st => (s.ms st).kept) then 1 else 0]
  else s

/-- HST_CTL written (R392, R413, R447). -/
def State.writeHstCtl (s : State) (v : Reg) : RegAns × State :=
  let w := (wrStart s v 0x3FFFF01).clamp 0x90010 16 10 0 1000 false
  let was := bit w.s.hst.ctl 0
  let s := (w.s.updHst (fun h => { h with ctl := w.v })).stale
  if bit w.v 0 && !was then (.ok 0, (s.updHst Hst.ringsOn).resetDoneEvent)
  else if !bit w.v 0 && was then (.ok 0, s.updHst Hst.ringsOff)
  else (.ok 0, s)

/-- HST_ registers written (R413). -/
def State.writeHst (s : State) (r o : Nat) (v : Reg) : RegAns × State :=
  match o with
  | 0x010 => s.writeHstCtl v
  | 0x018 => s.writeRing r v (fun h v => { h with cring0 := v })
  | 0x020 => s.writeRing r v (fun h v => { h with cring1 := v })
  | 0x028 => s.writeRing r v (fun h v => { h with comp := v })
  | 0x030 => s.writeRing r v (fun h v => { h with evt := v })
  | 0x038 => plainWrite s v 0xFFF (fun s v => s.ringDoorbell false v)
  | 0x040 => plainWrite s v 0xFFF (fun s v => s.ringDoorbell true v)
  | 0x048 => plainWrite s v 0xFFF (fun s v => s.compDoorbell v)
  | 0x050 => plainWrite s v 0xFFF (fun s v => s.evtDoorbell v)
  | 0x068 => clearCmd s v (fun s => s.updHst (fun h => { h with cnt := 0, diagLog := 0 }))
  | 0x070 => plainWrite s v 0x3FFF (fun s v => s.updHst (fun h => { h with diagBase := v }))
  | 0x180 => plainWrite s v 1 (fun s v => s.mboxDoorbell v)
  | _ =>
    match wordAt o 0x100 8 with
    | some n => (.ok 0, s.updHst (fun h => { h with mboxCmd := Tbl.set h.mboxCmd n v }))
    | none => s.ignored r v

/-- PWR_ registers written (R483). -/
def State.writePwr (s : State) (r o : Nat) (v : Reg) : RegAns × State :=
  match o with
  | 0x00 =>
    let w := ((wrStart s v 0xF0F).clamp 0xA0000 0 4 0 s.topStep false).clamp 0xA0000 8 4 2 15 false
    (.ok 0, w.s.updPwr (fun p => { p with ctl := w.v }))
  | 0x08 =>
    let w := (wrStart s v 0xFFFFFFFFFFFF).clamp 0xA0008 0 8 70 100 false
    let w := w.clamp 0xA0008 8 8 (max 75 (field w.v 0 8 + 2)) 102 false
    let w := w.clamp 0xA0008 16 8 70 92 false
    let w := (w.clamp 0xA0008 24 8 (max 75 (field w.v 16 8 + 1)) 93 false).clamp 0xA0008 32 16 1000 2400 false
    (.ok 0, w.s.updPwr (fun p => { p with limits := w.v }))
  | 0x40 => clearCmd s v (fun s => s.updPwr (fun p => { p with cnt := 0, log := 0 }))
  | _ => s.ignored r v

/-- FLT_ registers written (R440). -/
def State.writeFlt (s : State) (r o : Nat) (v : Reg) : RegAns × State :=
  match o with
  | 0x00 =>
    let w := (wrStart s v 7).clamp 0xC0000 0 2 0 2 true
    (.ok 0, (w.s.updFlt (fun f => { f with ctl := w.v })).stale)
  | 0x20 => clearCmd s v (fun s => s.updFlt (fun f => { f with cnt := 0, cnt2 := 0 }))
  | _ => s.ignored r v

/-- DMP_CTL written (R441): refused while a dump runs. -/
def State.writeDmp (s : State) (r o : Nat) (v : Reg) : RegAns × State :=
  if o = 0 then
    if s.dmp.running then refuseWrite s r else plainWrite s v 0x1F (fun s v => { s with dmp := { s.dmp with ctl := v } })
  else s.ignored r v

/-- Is the module a candidate or in a job (R384)? -/
def State.placing (s : State) : Bool := s.plc.st ≠ 0 && s.plc.st ≠ 10 || s.busy

/-- The hall number formed from the straps and WING (R363). -/
def State.hallNumber (s : State) : Nat :=
  field s.plc.ctl 44 1 * 32768 + field s.plc.straps 0 12 * 8 + field s.plc.straps 12 3

/-- PLC_ registers written (R384). A new hall number is no duplicate that a placement has found (R364; log 110). -/
def State.writePlc (s : State) (r o : Nat) (v : Reg) : RegAns × State :=
  match o with
  | 0x00 =>
    if s.placing then refuseWrite s r
    else
      let w := (((wrStart s v 0x1FFF7FFFFFFF).clamp r 0 16 500 20000 false).clamp r 16 12 2 1000 false).clamp r 28 3 0 4 false
      let w := w.clamp r 32 12 1 3600 false
      let s := (w.s.updPlc (fun p => { p with ctl := w.v })).stale
      (.ok 0, s.updPlc (fun p => { p with hall := s.hallNumber, duplicate := p.duplicate && s.hallNumber == p.hall }))
  | 0x90 => clearCmd s v (fun s => s.updPlc (fun p => { p with cnt := 0 }))
  | _ =>
    match wordAt o 0x28 6 with
    | some p =>
      if s.placing then refuseWrite s r
      else plainWrite s v 0xFFFF (fun s v => (s.updPlc (fun x => { x with decl := Tbl.set x.decl p v })).stale)
    | none => s.ignored r v

/-! ### Journal commands (R467) -/

/-- Does the register at `r` hold a field of region 6 (R458)? -/
def inRegion6 (r : Nat) : Bool :=
  match placeOf r with
  | .tim o => o = 0 || o = 0x58 || o = 0x110 || (wordAt o 0xB0 6).isSome
  | .spn p o => p < 100 && o = 8
  | .olf _ o => o = 0
  | .svc o => o = 0
  | .hst o => o = 0x10
  | .flt o => o = 0
  | .plc o => o = 0 || (wordAt o 0x28 6).isSome
  | _ => false

/-- CFG_CMD.PERSIST (R467). -/
def State.persist (s : State) : RegAns × State :=
  let r := field s.cfg.persistOfs 0 36
  if inRegion6 r then
    (.ok 0, s.journal jrRegister (leBytes r 8 ++ leBytes ((s.regValue r).getD 0).toNat 8))
  else refuseWrite s 0x10

/-- CFG_CMD.FORGET (R467). -/
def State.forget (s : State) : RegAns × State :=
  let r := field s.cfg.persistOfs 0 36
  if inRegion6 r then (.ok 0, s.journal jrForget (leBytes r 8)) else refuseWrite s 0x10

/-- CFG_CMD.COMPACT (R465): the compaction begins once the spare bank is erased. -/
def State.compact (s : State) : State := s.startCompact

/-- CFG_CLEAR bit 0 (R468). -/
def State.clearCfg (s : State) : State := s.updCfg (fun c => { c with cnt := 0, aszLog := 0, violLog := 0, clampLog := 0 })

/-- CFG_CMD written: PERSIST, then FORGET, then COMPACT. -/
def State.writeCfgCmd (s : State) (v : Reg) : RegAns × State :=
  if (bit v 0 || bit v 1) && !inRegion6 (field s.cfg.persistOfs 0 36) then refuseWrite s 0x10
  else
    let w := wrStart s v 7
    let s := if bit w.v 0 then w.s.persist.2 else w.s
    let s := if bit w.v 1 then s.forget.2 else s
    (.ok 0, if bit w.v 2 then s.compact else s)

/-- CFG_ASZ_T_REF written (R458). -/
def State.writeTRef (s : State) (v : Reg) : State := s.updCfg (fun c => { c with tRef := v, tStale := false })

/-- CFG_GRP_REF written (R450, R451). -/
def State.writeRef (s : State) (fw : Bool) (g : Nat) (v : Reg) : RegAns × State :=
  if !fw && g < 2 then refuseWrite s (0x100 + 8 * g) else (.ok 0, s.writeGrpRef g v)

/-- CFG_ registers written (R468). -/
def State.writeCfg (s : State) (r o : Nat) (v : Reg) : RegAns × State :=
  match o with
  | 0x010 => s.writeCfgCmd v
  | 0x018 => plainWrite s v 0xFFFFFFFFF (fun s v => s.updCfg (fun c => { c with persistOfs := v }))
  | 0x028 => clearCmd s v State.clearCfg
  | 0x050 => (.ok 0, s.writeTRef v)
  | _ =>
    match wordAt o 0x100 6 with
    | some g => s.writeRef false g v
    | none => s.ignored r v

end Sys2Proof.Machine
end

