-- ==== Sys2Proof/Machine/Place.lean ====
section
/-! DEFINITION. Placement (13: R365 to R374, R378, R382, R383; 15: R422): election, health, the map and what a module takes from it. -/

namespace Sys2Proof.Machine

/-! ### Health records (R367) -/

/-- B and H of a port (R312, R327). -/
def Olf.baseHold (o : Olf) : Nat × Nat := (field o.toll 0 13, field o.toll 13 13)

/-- Mean one-way delay of a port in units of 0.01 ns, from the two delays in units of 2^-16 ns. -/
def State.meanDelay (s : State) (p : Nat) : Nat :=
  let d := Tbl.get 0 s.tim.delay p
  ((field d 0 32 + field d 32 32) * 50 + 32768) / 65536

/-- Does the measured delay differ from the declared one by more than 2.0 ns (R371)? -/
def State.wrongDelay (s : State) (p : Nat) : Bool :=
  let dec := field (Tbl.get 0 s.plc.decl p) 0 16
  let d := s.meanDelay p
  dec ≠ 0 && (decide (d + 200 < dec) || decide (dec + 200 < d))

/-- Port `p` as the module's health record gives it. A port that fails the delay check is excluded: it is given as not up (R371). -/
def State.healthPort (s : State) (p : Nat) : HealthPort :=
  let o := s.port p
  { peer := o.peerId, peerPort := field o.peer 0 3, width := BitVec.ofNat 2 o.width, up := o.st == linkUp && !s.wrongDelay p,
    revDiff := o.revDown, laneFault := (List.range 8).any (fun l => field o.lane (8 * l + 5) 3 ≠ 0),
    base := o.baseHold.1, hold := o.baseHold.2, delay := s.meanDelay p }

/-- This module's health record. -/
def State.ownHealth (s : State) : Health :=
  { physId := s.sec.fuses.physId, hall := s.plc.hall, gen := s.flt.gen, topStep := s.topStep, timeGood := s.tim.good,
    gradeB := s.sec.fuses.gradeB, kept := (List.range 4).all (fun st => (s.ms st).kept), ucieNarrow := s.ucie.narrow,
    repairDue := s.rows.any (fun r => r.2.pending ≠ 33),
    fabricRev := s.sec.fabric, ports := (List.range 6).map s.healthPort, digest16 := padTo (slice s.job.img 32 16) 16 }

/-- The 16 bytes of a port in a health record. -/
def portBytes (h : HealthPort) : List Byte :=
  leBytes h.peer.toNat 8 ++
    leBytes (h.peerPort % 8 + h.width.toNat * 8 + (if h.up then 32 else 0) + (if h.revDiff then 64 else 0) + (if h.laneFault then 128 else 0)) 1 ++
    [0] ++ leBytes h.base 2 ++ leBytes h.hold 2 ++ leBytes h.delay 2

/-- The 128 bytes of a health record (R367). Repair pending (R120) is bit 4 of FLAGS (DESIGN CHOICE, log 92). -/
def healthBytes (h : Health) : List Byte :=
  leBytes h.physId.toNat 8 ++ leBytes h.hall 2 ++ leBytes (h.gen.toNat + h.topStep * 16) 1 ++
    leBytes ((if h.timeGood then 1 else 0) + (if h.gradeB then 2 else 0) + (if h.kept then 4 else 0) + (if h.ucieNarrow then 8 else 0) +
      (if h.repairDue then 16 else 0)) 1 ++
    leBytes h.fabricRev 2 ++ zeros 2 ++ h.ports.flatMap portBytes ++ padTo h.digest16 16

/-! ### Election (R365 to R367) -/

/-- Does the module stand in a placement before the map (states 1 to 5)? -/
def State.electing (s : State) : Bool := 1 ≤ s.plc.st && s.plc.st ≤ 5

/-- Does a placement message concern this module: it is an admissible candidate for the same image? -/
def State.takesPlc (s : State) (digest8 : List Byte) : Bool :=
  s.electing && s.admitRow false == 0 && digest8 == s.imgDigest8

/-- An election begins, or begins again (R366, R367). -/
def State.startElection (s : State) : State :=
  s.updPlc (fun p => { p with st := 2, leader := false, leadValid := false, claim := (p.hall, 0), claimAt := s.tim.now.toNat,
                              parent := 7, depth := 0, health := [], heard := [], kidPorts := [], excluded := [],
                              cnt := satInc p.cnt 0 16 1 })

/-- A port that no map uses: admitted to nothing, its pad and toll gone, and nothing of its link held against a map (R327). -/
def Olf.unmapped (o : Olf) : Olf :=
  Olf.settleUse { o with sched := false, admitted := none, miswired := false, tollOver := false, named := false, toll := setField o.toll 26 26 0 }

/-- The placement given up: chip, map and the mapping of ports go (R382). -/
def State.dropMap (s : State) : State :=
  let s := s.updPlc (fun p => { p with placed := false, chip := 0, map := [], jobDigest := zeros 32, mapDigest := zeros 32, replica := 0,
                                       paired := false, leader := false, proposal := none })
  let s := forEach s (List.range 6) (fun s p => (s.updRtr p (fun r => { r with mapped := false, lport := 0 })).updPort p Olf.unmapped)
  s.digestsAgree

/-- RELEASE and UNLOAD (R422, R456): W_A is in force no more either, and what ARM loaded is given up and checked no more. -/
def State.dropPlace (s : State) : State :=
  let s := forEach s.dropMap (List.range 6) (fun s p => s.updRtr p (fun r => { r with loaded := false, hdr := [], pages := [] }))
  (s.updFlt (fun f => { f with abortWin := 0 })).updCfg (fun c => { c with jLoaded := false })

/-- A placement ends without a map: the module is LOADED again, without the place that it may have held before, and its PLACE completes. W_A
stays as it is (R422). -/
def State.endPlace (s : State) (st status : Nat) (code : BitVec 16) (detail : Nat) : State :=
  ((s.dropMap.updPlc (fun p => { p with st := st, switch := none, given := none })).setSt stLoaded).finishAll isPlace status code detail []

/-- The fault behind a condition of admission that fails, 0 for none (R399): the strap fault or duplicate, or what ended time-good (R57). -/
def State.rowFault (s : State) (row : Nat) : BitVec 16 := if row = 1 then 0x6004 else if row = 2 then s.tim.leftBy else 0

/-- A candidate that is not admissible any more takes no further part: its PLACE completes with the condition that fails (R365). -/
def State.loseAdmission (s : State) : State :=
  let row := s.admitRow false
  s.endPlace 0 sNotAdmissible (s.rowFault row) row

/-- A link that goes down, or a new candidate, restarts the election before the map is distributed (R367). -/
def State.restartElection (s : State) : State := if s.electing && s.plc.given.isNone then s.startElection else s

/-- EXCLUDE on its way down the election tree (R364): cause and hall number of the modules excluded (log 42). -/
def State.passExclude (s : State) (cause hall : Nat) : State := forEach s s.plc.kidPorts (fun s p => s.sendPlc p 5 (leBytes cause 1 ++ leBytes hall 2))

/-- Two candidates with one hall number (R364): both are excluded, and told down the tree, the leader itself at once. -/
def State.dropTwins (s : State) : State :=
  let twins := (s.plc.health.filter (fun h => s.plc.health.any (fun g => g.hall == h.hall && g.physId != h.physId))).map (·.hall)
  let fresh := twins.dedup.filter (fun h => !s.plc.excluded.contains h)
  if fresh.isEmpty then s
  else
    let s := s.updPlc (fun p => { p with excluded := p.excluded ++ fresh })
    let s := fresh.foldl (fun s h => s.passExclude 1 h) s
    if fresh.contains s.plc.hall then
      ((s.updPlc (fun p => { p with duplicate := true })).raise 0x6004 srcToll 0).endPlace 0 sNotAdmissible 0x6004 1
    else s

/-- A better claim is adopted (R366): hall number, then depth; equal offers by the lower port. -/
def State.takeClaim (s : State) (p hall depth : Nat) : State :=
  let c := s.plc.claim
  let s := s.updPlc (fun x => { x with heard := if x.heard.contains p then x.heard else x.heard ++ [p] })
  if hall < c.1 || hall = c.1 && depth + 1 < c.2 then
    s.updPlc (fun x => { x with claim := (hall, depth + 1), claimAt := s.tim.now.toNat, parent := p, depth := depth + 1 })
  else if hall = c.1 && depth + 1 = c.2 && p < s.plc.parent then s.updPlc (fun x => { x with parent := p })
  else s

/-- The election closes here (R364, R367): the leader begins to gather, from the records that have come already on; another module sends its health
record to its parent. -/
def State.closeElection (s : State) : State :=
  let p := s.plc
  let lead := p.claim.1 = p.hall && p.claim.2 = 0
  let s := s.updPlc (fun x => { x with st := 3, leader := lead, leadValid := true, leadHall := x.claim.1,
                                       health := if lead then s.ownHealth :: x.health else x.health })
  let s := forEach s (List.range 6) (fun s q => if (s.port q).st == linkUp && s.wrongDelay q then s.olfFault q 0x2006 0 0 else s)
  if lead then s.dropTwins else s.sendPlc p.parent 2 (healthBytes s.ownHealth)

/-! ### The map (R368, R369, R373) -/

/-- A mapped module while the map is formed: its record, and the physical port of each logical port (7 none). -/
abbrev Seat := Health × List Nat

/-- TOLL, HOLD_MAX and MAXGAP of the page set of a logical port of a chip; none without one (R329, R330). -/
def State.pageSetOf (s : State) (chip lp : Nat) : Option (Nat × Nat × Nat) :=
  (sectionOf s.job.img chip 5 lp).map (fun x => (s.imgAt (x.ofs + 2) 2, s.imgAt (x.ofs + 4) 2, s.imgAt (x.ofs + 10) 2))

/-- Does the receiving port `p` of a record meet the page set of its logical port (R299, R368)? -/
def State.portMeets (s : State) (h : Health) (p chip lp : Nat) : Bool :=
  match h.ports[p]? with
  | none => false
  | some x =>
    x.up && x.width == 3 && !x.revDiff &&
      (match s.pageSetOf chip lp with
        | some (toll, hold, _) => decide (x.base + x.hold ≤ toll) && decide (x.hold ≤ hold)
        | none => decide (x.base + x.hold ≤ 4096))

/-- Are port `p` of record `a` and port `q` of record `b` the two ends of one link? -/
def joined (a : Health) (p : Nat) (b : Health) (q : Nat) : Bool :=
  match a.ports[p]?, b.ports[q]? with
  | some x, some y => x.peer == b.physId && x.peerPort == q && y.peer == a.physId && y.peerPort == p
  | _, _ => false

/-- The logical ports over which map index `i` meets modules of lower index, with those indices and their logical ports (R368, R378).
`paired` tells that indices of the second replica follow the first. -/
def State.lowerLinks (s : State) (i : Nat) : List (Nat × Nat × Nat) :=
  let e := s.ext
  let n := s.mapN
  let c := s.coords (i % n)
  let r := i / n * n
  let at3 := fun (x y z : Nat) => r + (x * e.2.1 + y) * e.2.2 + z
  (if 0 < c.1 then [(0, at3 (c.1 - 1) c.2.1 c.2.2, 1)] else []) ++ (if 0 < c.2.1 then [(2, at3 c.1 (c.2.1 - 1) c.2.2, 3)] else []) ++
    (if 0 < c.2.2 then [(4, at3 c.1 c.2.1 (c.2.2 - 1), 5)] else []) ++
    (if n ≤ i && c.1 + 1 = e.1 then [(1, i - n, 1)] else [])

/-- The ways to join a new module to those seated: each link takes a free physical port at both ends. -/
def State.seatWays (s : State) (i : Nat) (h : Health) : List (Nat × Nat × Nat) → List Seat → List Nat → List (List Seat)
  | [], seats, own => [seats ++ [(h, own)]]
  | (lp, j, lq) :: rest, seats, own =>
    match seats[j]? with
    | none => []
    | some (g, gp) =>
      let opts := (List.range 6).flatMap (fun p => (List.range 6).filterMap (fun q =>
        if joined h p g q && !own.contains p && !gp.contains q && s.portMeets h p (s.chipNo (i % s.mapN)) lp &&
            s.portMeets g q (s.chipNo (j % s.mapN)) lq then some (p, q) else none))
      opts.flatMap (fun o => State.seatWays s i h rest (seats.set j (g, gp.set lq o.2)) (own.set lp o.1))

/-- A change of wiring (R370): to join (true) or to part, with hall number and physical port of both ends. -/
abbrev Change := Bool × Nat × Nat × Nat × Nat

/-- A change with its ends in order. -/
def inOrder (c : Change) : Change := if c.2.2.2.1 < c.2.1 then (c.1, c.2.2.2.1, c.2.2.2.2, c.2.1, c.2.2.1) else c

/-- The part that frees port `p` of record `a`: nothing for a port whose link is not up. A link to a module that has sent no record is parted by
the join alone, since its hall number is not known (DESIGN CHOICE, log 96). -/
def freeing (recs : List Health) (a : Health) (p : Nat) : List Change :=
  match a.ports[p]? with
  | none => []
  | some x =>
    match recs.find? (fun b => x.up && b.physId == x.peer) with
    | some b => [inOrder (false, a.hall, p, b.hall, x.peerPort)]
    | none => []

/-- The changes that make ports `p` of `a` and `q` of `b` one link. -/
def joining (recs : List Health) (a : Health) (p : Nat) (b : Health) (q : Nat) : List Change :=
  freeing recs a p ++ freeing recs b q ++ [inOrder (true, a.hall, p, b.hall, q)]

/-- A seating in progress: the seats filled, and the changes that it needs. -/
abbrev Rewired := List Seat × List Change

/-- The ways to join a new module to those seated when the wiring may be changed: each link is one that stands and passes, or a new one between
two ports that no record shows joined. -/
def State.rewireWays (s : State) (i : Nat) (h : Health) : List (Nat × Nat × Nat) → Rewired → List Nat → List Rewired
  | [], x, own => [(x.1 ++ [(h, own)], x.2)]
  | (lp, j, lq) :: rest, x, own =>
    match x.1[j]? with
    | none => []
    | some (g, gp) =>
      let pairs := (List.range 6).flatMap (fun p => ((List.range 6).filter (fun q => !own.contains p && !gp.contains q)).map (fun q => (p, q)))
      pairs.flatMap (fun o =>
        let passes := s.portMeets h o.1 (s.chipNo (i % s.mapN)) lp && s.portMeets g o.2 (s.chipNo (j % s.mapN)) lq
        let more := if !joined h o.1 g o.2 then some (joining s.plc.health h o.1 g o.2) else if passes then some [] else none
        match more with
        | some l => State.rewireWays s i h rest (x.1.set j (g, gp.set lq o.2), (x.2 ++ l).dedup) (own.set lp o.1)
        | none => [])

/-- Of two plans, the one with fewer changes; of equal ones, that whose list of hall numbers in chip order is smaller (R369). -/
def lesserPlan (a b : Rewired) : Rewired :=
  if b.2.length < a.2.length then b
  else if b.2.length = a.2.length ∧ b.1.map (fun x => x.1.hall) < a.1.map (fun x => x.1.hall) then b else a

/-- The best plan that completes a seating by `n` more modules (R369, R370). A link that no wiring has made yet is taken to pass (DESIGN
CHOICE, log 96: its delay is not known before it trains). -/
def State.bestPlan (s : State) (cands : List Health) : Nat → Rewired → Option Rewired
  | 0, x => some x
  | n + 1, x =>
    let i := x.1.length
    let free := cands.filter (fun h => !(x.1.any (fun y => y.1.physId == h.physId)))
    let all := free.flatMap (fun h => (s.rewireWays i h (s.lowerLinks i) x (List.replicate 6 7)).filterMap (fun y => State.bestPlan s cands n y))
    match all with
    | [] => none
    | y :: r => some (r.foldl lesserPlan y)

/-- The first complete seating in the order of hall numbers, `n` modules still to seat (R369): the list of hall numbers in chip order is
the smallest. -/
def State.seat (s : State) (cands : List Health) : Nat → List Seat → Option (List Seat)
  | 0, seats => some seats
  | n + 1, seats =>
    let i := seats.length
    (cands.filter (fun h => !(seats.any (fun x => x.1.physId == h.physId)))).findSome? (fun h =>
      (s.seatWays i h (s.lowerLinks i) seats (List.replicate 6 7)).findSome? (fun l => State.seat s cands n l))

/-- Records that may be mapped, by rising hall number (R364, R365, R368). -/
def State.candidates (s : State) : List Health :=
  (s.plc.health.filter (fun h => !s.plc.excluded.contains h.hall && h.timeGood && decide (s.imgAt 10 1 ≤ h.topStep) &&
    h.fabricRev == s.imgAt 6 2)).mergeSort (fun a b => a.hall ≤ b.hall)

/-- Modules of the whole placement: one replica, or two of a paired image (R378). -/
def State.seatsWanted (s : State) : Nat := if s.imgAt 11 1 % 2 = 1 then 2 * s.mapN else s.mapN

/-- The previous map with the records now gathered, when it is still valid (R382). -/
def State.oldSeats (s : State) : Option (List Seat) :=
  let seats := s.plc.map.filterMap (fun e => (s.candidates.find? (fun h => h.physId == e.physId)).map (fun h => (h, e.ports)))
  let ok := fun (i : Nat) => (s.lowerLinks i).all (fun l =>
    match seats[i]?, seats[l.2.1]? with
    | some a, some b =>
      let p := nth 7 a.2 l.1
      let q := nth 7 b.2 l.2.2
      joined a.1 p b.1 q && s.portMeets a.1 p (s.chipNo (i % s.mapN)) l.1 && s.portMeets b.1 q (s.chipNo (l.2.1 % s.mapN)) l.2.2
    | _, _ => false)
  if s.plc.map.length = s.seatsWanted && seats.length = s.seatsWanted && (List.range seats.length).all ok then some seats else none

/-- The map with the fewest switch changes: the previous one if still valid, else the first in order (R369, R382). -/
def State.findMap (s : State) : Option (List Seat) :=
  match s.oldSeats with
  | some l => some l
  | none => s.seat s.candidates s.seatsWanted []

/-- The pad of a logical port (R372): TOLL − B − H of the receiving port; 0 without a page set (R368). -/
def State.padOf (s : State) (h : Health) (chip lp p : Nat) : Nat :=
  match s.pageSetOf chip lp, h.ports[p]? with
  | some (toll, _, _), some x => toll - x.base - x.hold
  | _, _ => 0

/-- A map entry (R373). -/
def State.mapEntry (s : State) (i : Nat) (x : Seat) : MapEntry :=
  { physId := x.1.physId, gen := x.1.gen, hall := x.1.hall, ports := x.2,
    pads := x.2.mapIdx (fun lp p => s.padOf x.1 (s.chipNo (i % s.mapN)) lp p) }

/-- The canonical bytes of a map (R373). -/
def mapBytes (m : List MapEntry) : List Byte :=
  m.flatMap (fun e => leBytes e.physId.toNat 8 ++ leBytes e.gen.toNat 1 ++ [0] ++ (e.ports.map (BitVec.ofNat 8)) ++
    e.pads.flatMap (fun p => leBytes p 2) ++ zeros 4)

/-! ### The abort window (R422) -/

/-- The hop time of the link that leaves a chip on a logical port, in units of 0.125 ns. -/
def State.hopTime (s : State) (chip lp : Nat) : Nat :=
  match s.pageSetOf chip lp with
  | some (toll, _, gap) => 3 * (gap + 1) + 252 + 3 * toll
  | none => 3 + 252 + 3 * 4096

/-- The sum of hop times from coordinate `a` to `b` of one dimension, `n` hops at most; `chip` gives the chip at a coordinate. -/
def State.lineTime (s : State) (chip : Nat → Nat) (lo : Nat) (b : Nat) : Nat → Nat → Nat
  | 0, _ => 0
  | n + 1, a =>
    if a < b then s.hopTime (chip a) (lo + 1) + State.lineTime s chip lo b n (a + 1)
    else if b < a then s.hopTime (chip a) lo + State.lineTime s chip lo b n (a - 1)
    else 0

/-- The sum of hop times of the dimension-order path (R348). -/
def State.pathTime (s : State) (a b : Nat × Nat × Nat) : Nat :=
  let chip := fun (x y z : Nat) => x * 1024 + y * 32 + z
  s.lineTime (fun x => chip x a.2.1 a.2.2) 0 b.1 32 a.1 + s.lineTime (fun y => chip b.1 y a.2.2) 2 b.2.1 32 a.2.1 +
    s.lineTime (fun z => chip b.1 b.2.1 z) 4 b.2.2 32 a.2.2

/-- W_A in microseconds: 2 × L + 20 µs, rounded up. -/
def State.abortWindow (s : State) : Nat :=
  let l := (List.range s.mapN).foldl (fun m i => (List.range s.mapN).foldl (fun m j => max m (s.pathTime (s.coords i) (s.coords j))) m) 0
  (2 * l + 7999) / 8000 + 20

/-! ### Taking a map (R374) -/

/-- JOB_DIGEST (R373). -/
def State.jobDigestOf (s : State) (mapDigest : List Byte) : List Byte := sha256 (slice s.job.img 32 32 ++ mapDigest)

/-- The peer that a map wants on logical port `lp` of its entry `i`: physical identity and port (R298). The links of a pair join X+ to X+
(R378). -/
def State.peerWanted (s : State) (m : List MapEntry) (i lp : Nat) : Option (BitVec 64 × Nat) :=
  match s.nbrIndex i lp with
  | none => none
  | some j =>
    let back := if j / max 1 s.mapN ≠ i / max 1 s.mapN then 1 else lp ^^^ 1
    (m[j]?).map (fun e => (e.physId, nth 7 e.ports back))

/-- Does the peer of a port match what the map wants there (R298)? -/
def Olf.wired (o : Olf) (want : Option (BitVec 64 × Nat)) : Bool :=
  match want with
  | some w => w.1 == o.peerId && w.2 == field o.peer 0 3
  | none => false

/-- What a physical port becomes under the map: mapped or not, admitted or not (R299, R312, R313, R326, R368). -/
def State.mapPort (s : State) (m : List MapEntry) (i p : Nat) : State :=
  match m[i]? with
  | none => s
  | some e =>
    match (List.range 6).find? (fun lp => nth 7 e.ports lp == p) with
    | none => (s.updRtr p (fun r => { r with mapped := false, lport := 0 })).updPort p (fun o => o.unmapped)
    | some lp =>
      let s := s.updRtr p (fun r => { r with mapped := true, lport := lp })
      let o := s.port p
      let chip := s.chipNo (i % s.mapN)
      let wired := o.wired (s.peerWanted m i lp)
      let bh := o.baseHold.1 + o.baseHold.2
      let toll := match s.pageSetOf chip lp with
        | some x => x.1
        | none => 0
      let fits := match s.pageSetOf chip lp with
        | some x => decide (bh ≤ x.1)
        | none => decide (bh ≤ 4096)
      let held := match s.pageSetOf chip lp with
        | some x => decide (o.baseHold.2 ≤ x.2.1)
        | none => true
      let ok := wired && fits && held && o.st == linkUp && o.width == 3 && !o.revDown
      let s := s.updPort p (fun o => Olf.settleUse { o with
                                              miswired := !wired, tollOver := !fits, sched := ok, digOnly := o.digOnly && !ok,
                                              admitted := some bh, toll := setField (setField o.toll 26 13 (nth 0 e.pads lp)) 39 13 toll })
      let s := if wired then s else s.olfFault p 0x2006 0 0
      if fits then s else s.olfFault p 0x200A 0 0

/-- The generation table from the map (R355). -/
def State.genTable (s : State) (m : List MapEntry) : Tbl Nat :=
  (List.range m.length).foldl (fun t i => Tbl.set t (32768 * (i / max 1 s.mapN) + s.chipNo (i % max 1 s.mapN))
    ((m[i]?.map (fun e => e.gen.toNat)).getD 0)) []

/-- The module takes its place from a map whose digest is right (R374, R422, R512): chip, ports, pads, generation table, W_A. Its PLACE
completes OK; a module that the map does not hold is released. -/
def State.takeMap (s : State) (m : List MapEntry) (digest : List Byte) : State :=
  match m.findIdx? (fun e => e.physId == s.sec.fuses.physId) with
  | none => s.endPlace 10 sNotUsed 0 0
  | some i =>
    let n := max 1 s.mapN
    let s := s.updPlc (fun p => { p with map := m, mapDigest := digest, jobDigest := s.jobDigestOf digest, placed := true,
                                         chip := s.chipNo (i % n), replica := i / n, paired := s.imgAt 11 1 % 2 = 1, st := 6, proposal := none,
                                         switch := none, given := none, cnt := satInc p.cnt 16 16 1 })
    let s := s.updPlc (fun p => { p with jobHall := s.hallAt s.leaderIndex, leader := s.isJobLeader })
    let s := forEach s (List.range 6) (fun s p => s.mapPort m i p)
    let s := forEach s (List.range 6) (fun s p =>
      if m.any (fun e => e.physId == (s.port p).peerId) then s.updPort p (fun o => { o with named := true }) else s)
    let s := s.updSvc (fun v => { v with gen := s.genTable m })
    let s := s.updFlt (fun f => { f with abortWin := orAll [at_ s.abortWindow 0 16, flag true 16] })
    (s.setSt stPlaced).finishAll isPlace sOk 0 0
      (s.plc.jobDigest ++ leBytes (s.plc.chip + 32768 * s.plc.replica) 2 ++ leBytes s.plc.jobHall 2)

/-- A map goes on down the election tree, and a neighbour there that it does not hold also gets RELEASE (R369, R374). -/
def State.passMap (s : State) (m : List MapEntry) (d : List Byte) : State :=
  forEach s s.plc.kidPorts (fun s p =>
    let s := s.sendPlc p 3 (d ++ leBytes m.length 4 ++ mapBytes m)
    if m.any (fun e => e.physId == (s.port p).peerId) then s else s.sendPlc p 4 [])

/-- The leader distributes a map (R374). With modules below it that may still refuse, it takes its own place later (DESIGN CHOICE, log 94). -/
def State.distribute (s : State) (seats : List Seat) : State :=
  let m := seats.mapIdx (fun i x => s.mapEntry i x)
  let d := sha256 (mapBytes m)
  let s := s.passMap m d
  if s.plc.kidPorts.isEmpty then s.takeMap m d else s.updPlc (fun p => { p with given := some (m, d) })

/-- The changes of the plan with the fewest (R369, R370); none where no wiring of the candidates makes a map. -/
def State.switchPlan (s : State) : List Change :=
  match s.bestPlan s.candidates s.seatsWanted ([], []) with
  | some x => x.2
  | none => []

/-- A switch request (R370): raised to the leader's own host while rounds are left; otherwise the placement ends as no fit. -/
def State.askSwitch (s : State) : State :=
  if s.plc.rounds < field s.plc.ctl 28 3 then
    let req := s.plc.rounds
    let plan := (s.switchPlan).take 64
    let entries := plan.map (fun x => (x.2.1 % 65536, x.2.2.1 % 8 + (if x.1 then 128 else 0), x.2.2.2.1 % 65536, x.2.2.2.2 % 8))
    (s.updPlc (fun p => { p with st := 5, rounds := req + 1, switch := some (req, entries) })).event 5
      (leBytes req 4 ++ leBytes entries.length 1)
  else
    let s := forEach s s.plc.kidPorts (fun s p => s.sendPlc p 4 [])
    s.endPlace 0 sNoFit 0 s.plc.rounds

end Sys2Proof.Machine
end

