-- ==== Sys2Proof/Machine/Starts.lean ====
section
/-! DEFINITION. The keystone start (13: R375 to R377; 14: R403, R405) and the end of a job (15: R420 to R423; 14: R404, R409, R410). -/

namespace Sys2Proof.Machine

/-! ### Proposals (R375, R376) -/

/-- The origin that an abort of this module names: its chip number and its replica. -/
def State.selfOrigin (s : State) : Nat := s.chipOr0 + 32768 * s.plc.replica

/-- The contents of PROPOSE, GO and CANCEL. -/
def State.epochBody (s : State) (e : Nat) : List Byte := slice s.plc.jobDigest 0 8 ++ leBytes e 8

/-- The conditions under which a module takes a PROPOSE (R376), which an unusable one does not (R415; log 100). -/
def State.takesProposal (s : State) (digest8 : List Byte) (e : Nat) : Bool :=
  digest8 == slice s.plc.jobDigest 0 8 && s.admitRow true == 0 && !s.unusable &&
    (List.range 6).all (fun p => !(s.rtr p).mapped || (s.port p).sched) && decide (s.tim.now.toNat + 1000000 * ns ≤ e * ns)

/-- REFUSE sent up the job tree (R375). The job leader has no parent: it learns of its own refusal at once. -/
def State.refuseUp (s : State) (code : BitVec 16) : State := s.sendParent 8 (leBytes s.plc.hall 2 ++ leBytes code.toNat 2)

/-- The proposal and its captured values given up, and the START with it: CANCELLED and ARMED again, or STOPPED where the module has sent
REFUSE after the PROPOSE on an ABORT (R377, R403, R405, R454). STOPs that waited for RUNNING end (R408). -/
def State.cancelStart (s : State) : State :=
  let s := if s.cfg.capturing then s.uncapture 3 4 0 0 0 else s
  let stopped := s.job.withdrawn = 2
  let was := s.hst.st = stStarting
  let s := s.updPlc (fun p => { p with proposal := none, st := 6, cnt := satInc p.cnt 32 16 1 })
  let s := s.updJob (fun j => { j with accepted := false, withdrawn := 0, armed := j.armed && !stopped })
  let s := s.updTik (fun t => { t with keyArmed := false })
  if was || stopped then
    let s := if stopped then (s.stopClocks.setSt stStopped).digestsAgree.freeStep else s.setSt stArmed
    (s.finishAll isStart sCancelled 0 0 []).refuseStops
  else s

/-- The step abort of step 0 of a start that is kept from firing (R405, R407, R419), with its code: START completes ABORTED and the module enters
STOPPED. -/
def State.abortStart (s : State) (code : BitVec 16) : State :=
  let s := s.issueAbort s.job.firstStep code s.selfOrigin
  let s := if s.cfg.capturing then s.uncapture 3 3 0 0 0 else s
  let s := s.updPlc (fun p => { p with proposal := none, st := 6, cnt := satInc p.cnt 32 16 1 })
  let s := s.updJob (fun j => { j with accepted := false, withdrawn := 0, armed := false })
  let s := s.updTik (fun t => { t with keyArmed := false })
  let s := (s.stopClocks.setSt stStopped).updHst (fun h => { h with aborted := true })
  (s.finishAll isStart sAborted code s.chipOr0 []).refuseStops.digestsAgree.freeStep

/-- GO at this module (R375, R377, R405): the named keystone for tick 0 is armed with COMMIT and START, unless it comes within 200 µs of the
epoch. -/
def State.takeGo (s : State) (e : Nat) : State :=
  match s.plc.proposal with
  | none => s
  | some p =>
    if p.epoch ≠ e || p.go || decide (e * ns < s.tim.now.toNat + 200000 * ns) then s
    else if s.job.withdrawn = 2 then s.abortStart 0x9002
    else
      let s := s.updPlc (fun x => { x with proposal := some { p with go := true }, st := 8 })
      s.updTik (fun t => { t with keyTick := 0, keyAct := 3, keyArmed := true, armTick := 0, armAct := 3 })

/-- READY when the module and every child are ready (R375): up the tree, or GO when the job leader holds the whole machine. -/
def State.tryReady (s : State) : State :=
  match s.plc.proposal with
  | none => s
  | some p =>
    let kids := s.jobChildren
    if p.own && !p.sentUp && s.job.armed && s.job.accepted && s.job.withdrawn = 0 && kids.all (fun c => (p.kids.find? (fun k => k.1 == c)).isSome) then
      let s := s.updPlc (fun x => { x with proposal := some { p with sentUp := true } })
      if s.isJobLeader then (s.sendChildren 9 (s.epochBody p.epoch)).takeGo p.epoch
      else s.sendParent 7 (leBytes (1 + (p.kids.map (·.2)).sum) 4)
    else s

/-- The job leader cancels: CANCEL down the tree, and its own start is given up (R375). -/
def State.leaderCancel (s : State) : State :=
  match s.plc.proposal with
  | none => s
  | some p => if p.go then s else (s.sendChildren 10 (s.epochBody p.epoch)).cancelStart

/-- A refusal by this module: up the tree, or CANCEL at once when it is the job leader. -/
def State.selfRefuse (s : State) (code : BitVec 16) : State := if s.isJobLeader then s.leaderCancel else s.refuseUp code

/-- PROPOSE at this module (R375, R376, R453): the epoch goes to the shadow of group 1 with its reference, the groups are captured and
validated, and READY or REFUSE follows; the module whose START was withdrawn before refuses with 0x9002 whatever the capture finds (R405). -/
def State.takePropose (s : State) (digest8 : List Byte) (e : Nat) : State :=
  let s := if s.cfg.capturing then s.uncapture 3 4 0 0 0 else s
  let s := s.sendChildren 6 (digest8 ++ leBytes e 8)
  let s := (s.writeShadow 1 0 (BitVec.ofNat 64 e)).writeGrpRef 1 (groupRef 1 [BitVec.ofNat 64 e])
  let s := s.capture
  let mine := digest8 == slice s.plc.jobDigest 0 8
  let s := s.updPlc (fun p => { p with proposal := some { epoch := e, mine := mine }, st := 7 })
  let bad := s.capBad
  let s := match bad with
    | some f => s.refuseCommit f
    | none => s
  if s.job.withdrawn = 1 then (s.updJob (fun j => { j with withdrawn := 0 })).selfRefuse 0x9002
  else if bad.isNone && s.takesProposal digest8 e then
    (s.updPlc (fun p => { p with proposal := some { epoch := e, mine := mine, own := true } })).tryReady
  else s.selfRefuse 0x6002

/-- The job leader proposes (R375): E is the smallest multiple of 96 ns at or after its machine time plus START_LEAD_MS. -/
def State.propose (s : State) : State :=
  let lead := field s.plc.ctl 16 12 * 1000000
  let e := roundUp ((s.tim.now.toNat + ns - 1) / ns + lead) 96
  s.takePropose (slice s.plc.jobDigest 0 8) e

/-! ### The end of a job -/

/-- Every bank with positive debt refreshed, from cycle `j` on as the table permits (R263). A bank that is not listed owes every increase. -/
def Msq.payAll (m : Msq) (j : Int) : Msq :=
  (if 0 < m.incs then List.range 3072 else m.banks.map (·.1)).foldl (fun m k =>
    if 0 < m.debtOf (k / 48) (k % 48) then m.payBank (k / 48) (k % 48) j else m) m

/-- The autonomous mode of a stack whose stream has ended, from cycle `j` and time `t` on (R263): every bank with positive debt is refreshed
first; no debt stands outside a job. -/
def Msq.handBack (m : Msq) (j : Int) (t : Nat) : Msq :=
  let m := m.payAll j
  { m with running := false, auto := true, halted := false, owed := [], banks := m.banks.map (fun p => (p.1, { p.2 with debt := 0 })), incs := 0,
           autoAt := t }

/-- What stopping a job does to the units (R178, R420): spans that answer stop, the clocks of the compute spans with them, memory sequencers go
to autonomous mode, the pages and the staging list govern nothing more. The module holds no job digest against its peers from now (R298). -/
def State.stopUnits (s : State) : State :=
  let s := s.stopClocks
  let s := forEach s (List.range' 100 14) (fun s p => if (s.spn p).silent then s else s.updSpn p (fun k => { k with running := false }))
  let s := forEach s (List.range 4) (fun s st => if (s.ms st).running then s.updMs st (fun m => m.handBack (s.memNow + 1) s.tim.now.toNat) else s)
  let s := forEach s (List.range 6) (fun s p => s.updRtr p (fun r => { r with running := false }))
  let s := { s with cxl := { s.cxl with staging := false },
                    job := { s.job with running := false, armed := false, accepted := false, boundary := none, stopAfter := none, requests := [],
                                        stopAsked := false },
                    tik := { s.tik with running := false, held := false, heldAsked := false, carry := false, keyArmed := false },
                    plc := { s.plc with st := 6, proposal := none }, pwr := { s.pwr with stopReq := false } }
  s.digestsAgree.ibi

/-- The value firmware gives TIK_STEP_SET once the job has stopped (R77, R479): min(STEP_TARGET, A). -/
def State.settleStep (s : State) : State := s.wantStep (min (field s.pwr.ctl 0 4 : Int) s.pwr.allowed).toNat

/-- The last completed step as completions and events give it: FIRST_STEP − 1 when none is. -/
def State.lastDone (s : State) : Nat :=
  match s.job.lastStep with
  | some n => n
  | none => (s.job.firstStep + 2 ^ 64 - 1) % 2 ^ 64

/-- JOB_STOPPED (R409). -/
def State.jobStopped (s : State) (cause : Nat) : State := s.event 3 (leBytes s.lastDone 8 ++ leBytes cause 1)

/-- The lowest aborted step, with its code and origin (R421). -/
def State.lowAbort (s : State) : Option (Nat × BitVec 16 × Nat) :=
  s.job.aborts.foldl (fun m a => match m with
    | none => some a
    | some b => if a.1 < b.1 then some a else some b) none

/-- STEP_DONE for the steps up to `n` (R409, R410). -/
def State.stepDoneEvent (s : State) (n : Nat) : State :=
  let covered := n + 1 - s.job.firstStep - s.job.posted
  (s.event 1 (leBytes n 8 ++ [if s.plc.paired then 1 else 0] ++ zeros 3 ++ leBytes covered 4)).updJob
    (fun j => { j with posted := n + 1 - j.firstStep })

/-- The final STEP_DONE of a job whose last completed step qualified before it stopped: it covers the remainder (R410). -/
def State.lastStepDone (s : State) : State :=
  match s.job.lastStep with
  | some n =>
    let c := n + 1 - s.job.firstStep
    if field s.hst.ctl 8 8 ≠ 0 && decide (c ≤ s.job.qualified) && decide (s.job.posted < c) then s.stepDoneEvent n else s
  | none => s

/-- ABORT_STOP (R420, R421): the job stops at the boundary; STEP_ABORT and JOB_STOPPED with cause 4; every STOP completes ABORTED. -/
def State.abortStop (s : State) (a : Nat × BitVec 16 × Nat) : State :=
  let s := s.stopUnits
  let last := if a.1 ≤ s.job.firstStep then none else some (a.1 - 1)
  let s := { s with job := { s.job with lastStep := last },
                    plc := { s.plc with cnt := if a.1 = s.job.firstStep then satInc s.plc.cnt 32 16 1 else s.plc.cnt } }
  let s := (s.setSt stStopped).updHst (fun h => { h with aborted := true })
  let s := (s.event 2 (leBytes a.1 8 ++ leBytes a.2.1.toNat 2 ++ leBytes (a.2.2 % 32768) 2)).jobStopped 4
  let s := s.lastStepDone
  (s.finishAll isStop sAborted a.2.1 (a.2.2 % 32768) (leBytes s.lastDone 8)).settleStep

/-- JOB_STOP (R178, R404): the job ends in order; every STOP completes OK with the last completed step. -/
def State.orderlyStop (s : State) : State :=
  let cause := if s.job.ended then 1 else s.job.stopCause
  let s := s.stopUnits
  let s := (s.setSt stStopped).jobStopped cause
  (s.finishAll isStop sOk 0 0 (leBytes s.lastDone 8)).settleStep

/-! ### Steps completed (R410, R422) -/

/-- Have the outbound descriptors with EXT 1 captured in a step completed (R410)? -/
def State.hostDone (s : State) (step : Nat) : Bool :=
  (s.cxl.runs.filter (fun r => r.step == step && !r.inbound && r.host)).all (fun r => r.toWrite.all r.done.contains && r.checked != some false)

/-! ### Digests of paired runs (R380, R381) -/

/-- This module's coordinates. -/
def State.here (s : State) : Nat × Nat × Nat := (s.plc.chip / 1024 % 32, s.plc.chip / 32 % 32, s.plc.chip % 32)

/-- The logical port toward the parent of the digest tree; none at the root (R380). -/
def State.digestUp (s : State) : Option Nat :=
  let c := s.here
  if 0 < c.2.2 then some 4 else if 0 < c.2.1 then some 2 else if c.1 + 1 < s.ext.1 then some 1 else none

/-- The logical ports toward the children of the digest tree. -/
def State.digestKids (s : State) : List Nat :=
  let c := s.here
  let e := s.ext
  (if c.2.2 + 1 < e.2.2 then [5] else []) ++ (if c.2.2 = 0 && c.2.1 + 1 < e.2.1 then [3] else []) ++
    (if c.2.2 = 0 && c.2.1 = 0 && 0 < c.1 then [0] else [])

/-- Is a step aborted (R420: its digest is neither handed over nor compared)? -/
def State.aborted (s : State) (step : Nat) : Bool := s.job.aborts.any (fun a => a.1 ≤ step)

/-- A failed pair (R381): logged, counted, and a step abort with 0x9002. -/
def State.pairFail (s : State) (step : Nat) (timeout : Bool) : State :=
  let log := if bit s.plc.pairLog 32 then s.plc.pairLog else orAll [at_ step 0 32, flag true 32, flag timeout 33]
  State.askAbort (s.updPlc (fun p => { p with cnt := satInc p.cnt 48 16 1, pairLog := log })) step 0x9002

/-- CONFIRM at this module (R381): passed down the digest tree; a confirmed step is recorded. -/
def State.confirm (s : State) (step : Nat) (agree : Bool) : State :=
  let s := forEach s s.digestKids (fun s lp => s.sendPlc (s.linkPort lp) 12 (leBytes step 8 ++ [if agree then 1 else 0]))
  if agree then s.updPlc (fun p => { p with confirmed := orAll [at_ step 0 32, flag true 32], agreed := p.agreed ++ [step] }) else s

/-- The root compares the two replicas once it holds both values (R381). -/
def State.comparePair (s : State) (step : Nat) (mine : BitVec 64) : State :=
  match (s.plc.twin.find? (fun x => x.1 == step)) with
  | none => s
  | some x => if x.2 = mine then s.confirm step true else (s.pairFail step false).confirm step false

/-- A module that holds its own digest and its children's sends the result up, or to its twin (R380). -/
def State.digestTry (s : State) (step : Nat) : State :=
  match s.plc.own.find? (fun x => x.1 == step) with
  | none => s
  | some x =>
    let kids := Tbl.get [] s.plc.digs step
    if kids.length < s.digestKids.length || s.aborted step then s
    else
      let v := kids.foldl (· ^^^ ·) x.2
      let body := leBytes step 8 ++ leBytes v.toNat 8
      match s.digestUp with
      | some lp => s.sendPlc (s.linkPort lp) 11 body
      | none => (s.sendPlc (s.linkPort 1) 11 body).comparePair step v

/-- STEP_DIGEST_HANDOVER (R213, R380, R420). -/
def execStepDigestHandover (s : State) : Host.Outcome State Fault Refusal :=
  match s.job.digests with
  | [] => .next s
  | (step, d) :: rest =>
    let s := s.updJob (fun j => { j with digests := rest })
    if s.aborted step then .next s
    else
      let s := s.updPlc (fun p => { p with own := Tbl.set p.own step d })
      .next (if s.plc.paired then s.digestTry step else s)

/-- STEPDIG_RECEIVE (R380). -/
def execStepdigReceive (p step : Nat) (digest : BitVec 64) (s : State) : Host.Outcome State Fault Refusal :=
  if 6 ≤ p then .next s
  else if !s.plc.paired then .next s
  else if s.digestUp.isNone && p == s.linkPort 1 then
    let s := s.updPlc (fun x => { x with twin := Tbl.set x.twin step digest })
    let kids := Tbl.get [] s.plc.digs step
    match s.plc.own.find? (fun x => x.1 == step) with
    | some x => if kids.length < s.digestKids.length || s.aborted step then .next s else .next (s.comparePair step (kids.foldl (· ^^^ ·) x.2))
    | none => .next s
  else if s.digestKids.any (fun lp => s.linkPort lp == p) then
    .next ((s.updPlc (fun x => { x with digs := Tbl.upd [] x.digs step (· ++ [digest]) })).digestTry step)
  else .next s

/-- CONFIRM_RECEIVE (R381). -/
def execConfirmReceive (step : Nat) (agree : Bool) (s : State) : Host.Outcome State Fault Refusal :=
  if s.plc.paired then .next (s.confirm step agree) else .next s

/-- PAIR_TIMEOUT (R381): a root without its twin's value 10 ms after the boundary of a step. -/
def execPairTimeout (step : Nat) (s : State) : Host.Outcome State Fault Refusal :=
  match s.plc.paired && s.digestUp.isNone && (s.plc.twin.find? (fun x => x.1 == step)).isNone && !s.aborted step,
      s.job.ends.find? (fun e => e.1 == step) with
  | true, some e => .next (((s.advance (e.2 + 10000000 * ns)).pairFail step true).confirm step false)
  | _, _ => .next s

end Sys2Proof.Machine
end

