-- ==== Sys2Proof/Machine/SvcCore.lean ====
section
/-! DEFINITION. The service agent: routes, requests, what a responder does, and responses (12: R347 to R356; 16: R445, R446). -/

namespace Sys2Proof.Machine

/-! ### Fields of a service cell (R347) -/

/-- Is the cell addressed to a neighbour? -/
def svcNbr (c : Cell) : Bool := (nth 0 c.payload 7).getLsbD 7
/-- OFFSET. -/
def svcOfs (c : Cell) : Nat := leAt c.payload 0 6
/-- CHIP. -/
def svcChip (c : Cell) : Nat := leAt c.payload 6 2 % 2 ^ 15
/-- SRC. -/
def svcSrc (c : Cell) : Nat := leAt c.payload 8 2 % 2 ^ 15
/-- RTAG. -/
def svcRtag (c : Cell) : Nat := leAt c.payload 10 2
/-- LEN. -/
def svcLen (c : Cell) : Nat := leAt c.payload 13 1 % 4
/-- The bytes that a LEN stands for. -/
def lenBytes (len : Nat) : Nat := 8 * 2 ^ len

/-! ### Routes (R348, R349) -/

/-- Where a cell for a chip goes next. -/
inductive Hop where
  | here
  | via (p : Nat)
  | noRoute
  deriving DecidableEq, Repr

/-- The logical port toward a chip in dimension order; none when it is this module (R348). -/
def State.towards (s : State) (chip : Nat) : Option Nat :=
  let c := s.here
  let x := chip / 1024 % 32
  let y := chip / 32 % 32
  let z := chip % 32
  if c.1 ≠ x then some (if c.1 < x then 1 else 0)
  else if c.2.1 ≠ y then some (if c.2.1 < y then 3 else 2)
  else if c.2.2 ≠ z then some (if c.2.2 < z then 5 else 4)
  else none

/-- The next hop toward a chip (R348, R349): none without a map, outside the extents, or over a link that is down. -/
def State.hop (s : State) (chip : Nat) : Hop :=
  let e := s.ext
  if !s.plc.placed || e.1 ≤ chip / 1024 % 32 || e.2.1 ≤ chip / 32 % 32 || e.2.2 ≤ chip % 32 then .noRoute
  else
    match s.towards chip with
    | none => .here
    | some lp =>
      let p := s.linkPort lp
      if (s.rtr p).mapped && (s.port p).st == linkUp then .via p else .noRoute

/-- A cell that cannot be carried further, counted (R349). -/
def State.noRoute (s : State) : State := s.updSvc (fun v => { v with cnt := satInc v.cnt 48 16 1 })

/-- An answer for this module's firmware. -/
def State.answer (s : State) (rtag : BitVec 16) (status : Nat) (data : List Byte) : State :=
  s.updSvc (fun v => { v with answers := v.answers ++ [⟨rtag, status, data⟩] })

/-! ### The responder (R354, R356, R445, R446) -/

/-- KIND of a response (R354). -/
def respKind (write : Bool) (status : Nat) : BitVec 4 := if status = 0 then (if write then 3 else 2) else 4

/-- A response to request `c`, which echoes RTAG, RGEN, REPOCH, LEN and OFFSET. -/
def State.response (s : State) (dest : Nat) (c : Cell) (status : Nat) (data : List Byte) : Cell :=
  { seq := 0, ack := 0, cls := 2, kind := respKind (c.kind == 1) status, gen := s.flt.gen, credit := 0, tag := 0,
    payload := leBytes dest 8 ++ leBytes s.chipOr0 2 ++ slice c.payload 10 3 ++ slice c.payload 13 1 ++ leBytes status 1 ++ leBytes 128 1 ++
      zeros 16 ++ padTo data 32 }

/-- A violation by a service request (R446). -/
def State.svcDeny (s : State) (c : Cell) (ofs : Nat) : Option (Nat × List Byte) × State := (some (1, []), s.violation ofs (svcSrc c))

/-- The span whose controller a service request asks (R25, R27): of the store line, the HBM stack or the register at a local offset. -/
def spanOfAddr (a : Nat) : Option Nat :=
  if inStore a then some (spanOf (a / 0x100000))
  else if inHbm a then some (100 + (a - hbmBase) / 128 / stackLines)
  else if regBase ≤ a then spanOfPlace (placeOf (a - regBase))
  else none

/-- A store or HBM access of `n` bytes within one line (R445: a store while its span is stopped); none while the span's acknowledgement is awaited. -/
def State.svcMemory (s : State) (c : Cell) (a n : Nat) : Option (Nat × List Byte) × State :=
  let lo := a % 128
  let ws := range' (lo / 8) (n / 8)
  let mute := ((spanOfAddr a).map s.mute).getD false
  if inStore a then
    if !(s.spn (spanOf (a / 0x100000))).stopped then s.svcDeny c a
    else if mute then (none, s)
    else if c.kind = 1 then
      (some (0, []), s.writeWords (a / 0x100000) (a % 0x100000 / 128) (zeros lo ++ slice c.payload 32 n) ws)
    else
      let r := s.readLine (a / 0x100000) (a % 0x100000 / 128)
      (some (0, slice r.1 lo n), r.2)
  else if s.busy then s.svcDeny c a
  else if mute then (none, s)
  else
    let k := (a - hbmBase) / 128
    if c.kind = 1 then
      (some (0, []), State.scrubWords { s with mem := memWrite s.mem a (padTo (slice c.payload 32 n) n) } .hbm k ws)
    else
      let r := readHbm s (k / stackLines) (k % stackLines) []
      (some (0, slice r.1 lo n), r.2.2)

/-- Registers read by a service request, 8 bytes each: no service request writes one (R445), and none lies at the other offsets (R443). -/
def State.svcRegs (s : State) (c : Cell) (r n : Nat) : Option (Nat × List Byte) × State :=
  let rs := (List.range (n / 8)).map (fun i => r + 8 * i)
  if c.kind = 1 || rs.any (fun x => (s.regValue x).isNone) then s.svcDeny c (regBase + r)
  else if rs.any s.silentAt then (none, s)
  else
    let x := rs.foldl (fun (x : List Byte × State) r =>
      match x.2.readReg r (svcSrc c) with
      | (.ok v, s) => (x.1 ++ leBytes v.toNat 8, s)
      | (_, s) => (x.1 ++ zeros 8, s)) ([], s)
    (some (0, x.1), x.2)

/-- What the responder does with an accepted request: STATUS and data, or none while a span controller's acknowledgement is awaited. An
offset of the CXL region that no enabled decoder covers is unmapped (R272, R354). -/
def State.svcAccess (s : State) (c : Cell) : Option (Nat × List Byte) × State :=
  let a := svcOfs c
  let n := lenBytes (svcLen c)
  if svcLen c = 3 || a % n ≠ 0 then (some (8, []), s)
  else if inStore a || inHbm a then s.svcMemory c a n
  else if cxlBase ≤ a && a < cxlEnd then (if s.mapped a n then s.svcDeny c a else (some (3, []), s))
  else if regBase ≤ a then s.svcRegs c (a - regBase) n
  else (some (3, []), s)

/-! ### Requests (R350, R353) -/

/-- The lowest free slot of the outstanding requests. -/
def State.freeSlot (s : State) : Option Nat := (List.range 64).find? (fun i => s.svc.out.all (fun x => x.1 ≠ i))

/-- Is a response accepted (R351), and does a stale generation keep it out? `p` is the port of arrival; 6 for an answer of this module. -/
def State.takesResponse (s : State) (p : Nat) (c : Cell) : Bool × Bool :=
  let rgen := leAt c.payload 12 1 % 16
  let repoch := leAt c.payload 12 1 / 16
  match s.svc.out.find? (fun x => x.2.rtag.toNat == svcRtag c) with
  | none => (false, decide (rgen ≠ s.flt.gen.toNat))
  | some (_, o) =>
    let gen := if svcNbr c then decide (c.gen.toNat = field (s.port p).peer 4 4)
      else decide (c.gen.toNat = s.genOf s.plc.replica (svcSrc c))
    (decide (rgen = s.flt.gen.toNat) && decide (repoch = (s.port o.port).epoch.toNat) && gen, decide (rgen ≠ s.flt.gen.toNat) || !gen)

/-- A response at its requester (R351). -/
def State.takeResponse (s : State) (p : Nat) (c : Cell) : State :=
  let t := s.takesResponse p c
  if t.1 then
    let rtag := BitVec.ofNat 16 (svcRtag c)
    let data := if c.kind = 2 then slice c.payload 32 (lenBytes (svcLen c)) else []
    (s.updSvc (fun v => { v with out := v.out.filter (fun x => x.2.rtag ≠ rtag) })).answer rtag (leAt c.payload 14 1) data
  else
    let s := s.updSvc (fun v => { v with cnt := satInc v.cnt 16 16 1 })
    if t.2 then s.staleGen else s

/-- A response sent (R354): to SRC over the map, or back on the port of arrival. One that has no route is dropped and counted (R349). -/
def State.respond (s : State) (p : Nat) (c : Cell) (status : Nat) (data : List Byte) : State :=
  if svcNbr c then
    if (s.port p).st = linkUp then s.queueCell p (s.response (nbrDest (s.nport p) (svcOfs c)) c status data) else s.noRoute
  else
    let r := s.response (chipDest (svcSrc c) (svcOfs c)) c status data
    match s.hop (svcSrc c) with
    | .here => s.takeResponse p r
    | .via q => s.queueCell q r
    | .noRoute => s.noRoute

/-- A request answered as responder. -/
def State.served (s : State) (p : Nat) (c : Cell) (r : Nat × List Byte) : State :=
  (s.updSvc (fun v => { v with cnt := satInc v.cnt 0 16 1 })).respond p c r.1 r.2

/-- An accepted request carried out at this module (R354), or left to wait for the control network. -/
def State.carry (s : State) (p : Nat) (c : Cell) : State :=
  match s.svcAccess c with
  | (none, s) => (s.ask (.svc p c)).updSvc (fun v => { v with accepted := v.accepted + 1 })
  | (some r, s) => s.served p c r

/-- A new request at this module (R354): fenced off while FENCE is set (R356). -/
def State.serve (s : State) (p : Nat) (c : Cell) : State := if bit s.svc.ctl 2 then s.served p c (7, []) else s.carry p c

/-- The cell of a request. -/
def State.requestCell (s : State) (r : SvcReq) (rtag repoch : Nat) : Cell :=
  { seq := 0, ack := 0, cls := 1, kind := if r.write then 1 else 0, gen := s.flt.gen, credit := 0, tag := 0,
    payload := svcPayload (if r.nbr then nbrDest r.dest r.offset else chipDest r.dest r.offset) s.chipOr0 rtag s.flt.gen.toNat repoch r.len.toNat 0
      (zeros 16 ++ padTo (if r.write then r.data else []) 32) }

/-- The hop of a request: NPORT is a logical port (R347). -/
def State.requestHop (s : State) (r : SvcReq) : Hop :=
  if r.nbr then
    let p := s.physPort r.dest
    if r.dest < 6 && (s.port p).st == linkUp then .via p else .noRoute
  else s.hop r.dest

/-- A request sent in slot `slot` (R350): it gets its tag and deadline; one without a route is answered at once (R349). A module's request to
itself is served without a link. -/
def State.sendIn (s : State) (r : SvcReq) (slot : Nat) : State :=
  let use := (Tbl.get 0 s.svc.use slot + 1) % 1024
  let rtag := use * 64 + slot
  let s := s.updSvc (fun v => { v with use := Tbl.set v.use slot use })
  let tag := BitVec.ofNat 16 rtag
  let deadline := s.tim.now.toNat + field s.svc.ctl 8 16 * 1000 * ns
  let note := fun (p : Nat) (s : State) => s.updSvc (fun v => { v with out := Tbl.set v.out slot ⟨tag, p, (s.port p).epoch, deadline, r.nbr, r.dest⟩ })
  match s.requestHop r with
  | .noRoute => s.noRoute.answer tag 4 []
  | .via p => (note p s).queueCell p (s.requestCell r rtag (s.port p).epoch.toNat)
  | .here => (note 6 s).serve 6 (s.requestCell r rtag (s.port 6).epoch.toNat)

/-- A request sent, or held until an entry is free (R350). -/
def State.sendRequest (s : State) (r : SvcReq) : State :=
  match s.freeSlot with
  | some i => s.sendIn r i
  | none => s.updSvc (fun v => { v with waiting := v.waiting ++ [r] })

/-- Requests that wait go out while entries are free. -/
def State.sendWaiting (s : State) : State :=
  let w := s.svc.waiting
  w.foldl State.sendRequest (s.updSvc (fun v => { v with waiting := [] }))

end Sys2Proof.Machine
end

