-- ==== Sys2Proof/Machine/LinkCore.lean ====
section
/-! DEFINITION. Links going down and starting retrains (11: R319 to R324; 12: R352). -/

namespace Sys2Proof.Machine

/-- LINK_LOST_ANSWER (R352): requests outstanding on a port are answered here with link lost; requests that waited for an entry go out. -/
def State.linkLost (s : State) (p : Nat) : State :=
  let lost := s.svc.out.filter (fun x => x.2.port == p)
  (s.updSvc (fun v => { v with out := v.out.filter (fun x => x.2.port != p), answers := v.answers ++ lost.map (fun x => ⟨x.2.rtag, 5, []⟩),
                               cnt2 := satInc v.cnt2 0 16 lost.length })).sendWaiting

/-- What a retrain or a down ends (R321): replay buffer, receive hold, lag and credits. -/
def Olf.dropped_ (o : Olf) : Olf :=
  { o with replay := [], hold := [], matched := 0, txSeq := 0, rxSeq := 0, nak := false, nakSeq := 0, nakCount := 0, credSvc := 0, credFoot := 0,
           sentSvc := 0, sentFoot := 0, footOut := [], retSvc := 0, retFoot := 0, cumSvc := 0, cumFoot := 0, rxSvc := [], rxFoot := [], rxMsg := none,
           frags := [], leakSvc := false, leakFoot := false, gotPeer := false, gotGot := false, gotFinal := false }

/-- OLF_LANE without lock on any lane. -/
def Olf.unlocked (o : Olf) : Reg := o.lane &&& ~~~(0x0101010101010101 : Reg)

/-- A port whose link is down (R321): no lock, no scheduled use, and nothing of the peer differs from a map any more. -/
def Olf.down (o : Olf) (t : Nat) : Olf :=
  { o.dropped_ with st := 0, lock := false, lane := o.unlocked, sched := false, svcOnly := false, digOnly := false, named := false, miswired := false,
                    revDown := false, tollOver := false, retrain := false, lossAt := none, downAt := t, msgs := [], width := 0 }

/-- The link of port `p` goes down (R320, R321, R324): 0x2004 where a fault takes it down. -/
def State.linkDown (s : State) (p : Nat) (fault : Bool) : State :=
  let s := if fault then s.olfFault p 0x2004 0 0 else s
  let s := s.updPort p (fun o => o.down s.tim.now.toNat)
  let s := s.updTim (fun t => { t with ports := Tbl.upd {} t.ports p (fun b => { b with adv := none, exch := [], sent := [], lastRx := none, lastOk := none }) })
  (s.linkLost p).restartElection

/-- A retrain of port `p` begins (R320 to R323); the fourth within one second takes the link down. An end that starts it sends RETRAIN. -/
def State.beginRetrain (s : State) (p width : Nat) (starts : Bool) : State :=
  let t := s.tim.now.toNat
  let recent := (s.port p).retrains.filter (fun r => t < r + 1000000000 * ns)
  let s := s.updPort p (fun o => { o with cnt := satInc o.cnt 32 8 1, retrains := recent ++ [t] })
  if 3 ≤ recent.length then s.linkDown p true
  else
    (s.updPort p (fun o => { o.dropped_ with st := 7, stAt := t, retrain := true, propose := width, lossAt := none,
                                             msgs := if starts then [⟨3, leBytes width 1 ++ zeros 21⟩] else [] })).linkLost p

/-- A retrain under R311 or OLF_CMD (R320): 0x2003, with the number that the NAKs named; OLF_CMD concerns none, and gives 0 (R327). -/
def State.startRetrain (s : State) (p width seq : Nat) : State := (s.olfFault p 0x2003 0 seq).beginRetrain p width true

/-- The largest width code that `n` good lanes permit (R296, R323). -/
def widthCode (n : Nat) : Nat := if 8 ≤ n then 3 else if 4 ≤ n then 2 else if 2 ≤ n then 1 else 0

/-- OLF_CTL written (R327): a cleared ENABLE holds the port in DOWN. -/
def State.writeOlfCtl (s : State) (p : Nat) (v : Reg) : RegAns × State :=
  let w := wrStart s v 7
  let s := (w.s.updPort p (fun o => { o with ctl := w.v })).stale
  (.ok 0, if !bit w.v 0 && (s.port p).st ≠ 0 then s.linkDown p false else s)

/-- OLF_CMD bit 0: a retrain of a link that is up. -/
def State.cmdRetrain (s : State) (p : Nat) : State := if (s.port p).st = linkUp then s.startRetrain p (s.port p).width 0 else s

/-- OLF_CMD bit 1: the link goes down. -/
def State.cmdDown (s : State) (p : Nat) : State := if (s.port p).st = 0 then s else s.linkDown p false

/-- OLF_CMD written (R320, R327): refused while a job is armed or running. -/
def State.writeOlfCmd (s : State) (p : Nat) (v : Reg) : RegAns × State :=
  if s.busy then refuseWrite s (0x50050 + p * 0x100)
  else
    let w := wrStart s v 3
    let s := if bit w.v 0 then w.s.cmdRetrain p else w.s
    (.ok 0, if bit w.v 1 then s.cmdDown p else s)

/-- OLF_CLEAR bit 0 (R327). -/
def State.clearOlf (s : State) (p : Nat) : State := s.updPort p (fun o => { o with cnt := 0, cnt2 := 0 })

/-- OLF_ registers written. -/
def State.writeOlf (s : State) (r p o : Nat) (v : Reg) : RegAns × State :=
  match o with
  | 0x00 => s.writeOlfCtl p v
  | 0x40 => clearCmd s v (fun s => s.clearOlf p)
  | 0x50 => s.writeOlfCmd p v
  | _ => s.ignored r v

end Sys2Proof.Machine
end

