-- ==== Sys2Proof/Machine/RegFile.lean ====
section
/-! DEFINITION. The debug unlock (18: R493) and a write to any register by host software (16: R444 to R448). -/

namespace Sys2Proof.Machine

/-- SEC_DBG_CMD bit 0 (R493): a fresh random challenge (a free value, log 8). -/
def State.challenge (s : State) : State :=
  let x := s.freeBytes 32
  { x.2 with sec := { x.2.sec with chal := x.1, fresh := true } }

/-- The token: r then s, big-endian (R486, R493). -/
def State.tokenBytes (s : State) : List Byte := (List.range 8).flatMap (fun n => leBytes (Tbl.get 0 s.sec.token n).toNat 8)

/-- Is the token the signature of the debug authority over the standing challenge (R493): by a key whose hash is fused? -/
def State.tokenGood (s : State) (level : Nat) : Bool :=
  let z := beNat (sha256 (s.sec.chal ++ leBytes s.sec.fuses.physId.toNat 8 ++ [BitVec.ofNat 8 level]))
  let t := s.tokenBytes
  let r := beNat (slice t 0 32)
  let q := beNat (slice t 32 32)
  s.sec.fresh && (ecdsaKeys z r q).any (fun k => k.isSome && sha256 (ptBytes k) == s.sec.fuses.dbgKey)

/-- A refused unlock (R493). -/
def State.refuseUnlock (s : State) (badToken : Bool) : RegAns × State :=
  let x := s.sec
  let cnt := satInc (if badToken then satInc x.cnt 0 16 1 else x.cnt) 16 16 1
  (.refused 0x7003, State.raise { s with sec := { x with cnt, fresh := false, fails := if badToken then min 3 (x.fails + 1) else x.fails } }
    0x7003 srcToll 0)

/-- SEC_DBG_CMD bit 1 (R493, R494: the levels are 1 to 3): an unlock lasts until the next reset, so a lower one after it changes nothing. -/
def State.unlock (s : State) : RegAns × State :=
  let level := field s.sec.level 0 2
  if 3 ≤ s.sec.fails || s.busy || s.sec.fuses.dbgMax < level || level = 0 then s.refuseUnlock false
  else if s.tokenGood level then
    let x := s.sec
    (.ok 0, State.journal { s with sec := { x with debug := max x.debug level, fresh := false, akValid := x.akValid && level != 3 } } jrSecurity
      (leBytes level 1))
  else s.refuseUnlock true

/-- SEC_ registers written (R494). -/
def State.writeSec (s : State) (r o : Nat) (v : Reg) : RegAns × State :=
  match o with
  | 0x70 =>
    let w := (wrStart s v 3).clamp r 0 2 1 3 false
    (.ok 0, { w.s with sec := { w.s.sec with level := w.v } })
  | 0x78 =>
    let w := wrStart s v 3
    let s := if bit w.v 0 then w.s.challenge else w.s
    if bit w.v 1 then s.unlock else (.ok 0, s)
  | 0x88 => clearCmd s v (fun s => { s with sec := { s.sec with cnt := 0 } })
  | _ =>
    match wordAt o 0x30 8 with
    | some n => (.ok 0, { s with sec := { s.sec with token := Tbl.set s.sec.token n v } })
    | none => s.ignored r v

/-- A register written by host software (R443 to R448). -/
def State.writeReg (s : State) (r : Nat) (v : Reg) : RegAns × State :=
  match placeOf r with
  | .cfg o => s.writeCfg r o v
  | .tim o => s.writeTim r o v
  | .tik o => s.writeTik r o v
  | .spn p o => s.writeSpn r p o v
  | .msq st o => s.writeMsq r st o v
  | .olf p o => s.writeOlf r p o v
  | .cwy p o => if o = 0x18 then clearCmd s v (fun s => s.clearCwy p) else s.ignored r v
  | .svc o => s.writeSvc r o v
  | .cxl o => if o = 0x40 then clearCmd s v State.clearCxl else s.ignored r v
  | .hst o => s.writeHst r o v
  | .pwr o => s.writePwr r o v
  | .sec o => s.writeSec r o v
  | .flt o => s.writeFlt r o v
  | .dmp o => s.writeDmp r o v
  | .plc o => s.writePlc r o v
  | .clu c o => if o = 0x20 then clearCmd s v (fun s => s.clearClu c) else s.ignored r v
  | .repair _ => s.ignored r v
  | .shadow _ _ => refuseWrite s r
  | .none => refuseWrite s r

/-- Registers whose writes are rows of their own are not written by REGISTER_WRITE's row alone; a restore from the journal (R467) writes
registers of region 6 under R447 and R448. -/
def State.restoreReg (s : State) (r : Nat) (v : Reg) : State := (s.writeReg r v).2

end Sys2Proof.Machine
end

