-- ==== Sys2Proof/Machine/Load.lean ====
section
/-! DEFINITION. The load checks (06: R154 to R157, R179, R516; 16: R452), and what ARM loads into the units (14: R402; 06: R163). -/

namespace Sys2Proof.Machine

/-! ### Check 1 (R154, R179) -/

/-- Byte offsets at which the header fails (check 1); `len` is the length that LOAD gave. STEP_TICKS outside its range of R154 counts among
them, at its offset 16 (DESIGN CHOICE, log 63). -/
def headerBad (img : List Byte) (len : Nat) : List Nat :=
  let f := fun (o n : Nat) => leAt img o n
  let digest := sha256 (img.take 32 ++ zeros 32 ++ img.drop 64)
  (if slice img 0 4 = [0x4B, 0x4B, 0x50, 0x49] then [] else [0]) ++ (if f 4 2 = 1 then [] else [4]) ++
    (if 2 ≤ f 8 1 ∧ f 8 1 ≤ 64 then [] else [8]) ++ (if 10 ≤ f 9 1 ∧ f 9 1 ≤ 20 then [] else [9]) ++ (if f 10 1 ≤ 10 then [] else [10]) ++
    ([12, 13, 14].filter (fun o => f o 1 = 0 || 32 < f o 1)) ++ (if 1 ≤ f 16 4 ∧ f 16 4 ≤ 1048576 then [] else [16]) ++
    (if f 24 8 = len then [] else [24]) ++ (if slice img 32 32 = digest then [] else [32])

/-! ### Check 2 (R155 to R157, R452, R516) -/

/-- Is INDEX one that the section's type has (R156, R452)? -/
def indexOk (ty index : Nat) : Bool :=
  match ty with
  | 1 => index < 3200
  | 2 | 5 => index < 6
  | 3 => index < 4
  | 4 | 6 | 7 | 8 | 10 => index = 0
  | 9 => 2 ≤ index && index < 6
  | _ => false

/-- Preset entries of a section: byte offset, r and value (R452). -/
def presetsOf (img : List Byte) (x : Section) : List (Nat × Nat × Reg) :=
  (List.range (x.len / 16)).map (fun i => let o := x.ofs + 16 * i
                                          (o, leAt img o 8, BitVec.ofNat 64 (leAt img (o + 8) 8)))

/-- Do two contents sections of one type and CHIP load one line (R516)? -/
def sameLines (a b : Section) : Bool :=
  (a.ty = 7 || a.ty = 8) && a.ty == b.ty && a.chip == b.chip && a.at_ ≠ b.at_ && decide (a.addr < b.addr + b.len / 128) &&
    decide (b.addr < a.addr + a.len / 128)

/-- Byte offsets at which a section entry fails, against the entries `l` of the table. -/
def sectionBad (img : List Byte) (l : List Section) (x : Section) : List Nat :=
  let o := x.at_
  let raw := fun (k n : Nat) => leAt img (o + k) n
  let dup := x.ty ≠ 7 && x.ty ≠ 8 && l.any (fun y => y.at_ < o && y.ty == x.ty && y.chip == x.chip && y.index == x.index)
  let lap := l.any (fun y => y.at_ < o && decide (0 < x.len) && decide (0 < y.len) && decide (x.ofs < y.ofs + y.len) && decide (y.ofs < x.ofs + x.len))
  (if 1 ≤ x.ty ∧ x.ty ≤ 10 then [] else [o]) ++ (if dup then [o] else []) ++ (if indexOk x.ty x.index then [] else [o + 4]) ++
    (if (if x.ty = 1 then raw 6 2 < 1024 else raw 6 2 = 0) then [] else [o + 6]) ++
    (if (if x.ty = 1 then 1 ≤ x.wlen ∧ x.wlen ≤ 768 else x.wlen = 0) then [] else [o + 8]) ++ (if raw 10 2 = 0 then [] else [o + 10]) ++
    (if x.ty ≠ 7 && x.ty ≠ 8 && x.addr ≠ 0 || l.any (fun y => y.at_ < o && sameLines x y) then [o + 12] else []) ++
    (if x.ofs % 128 = 0 ∧ x.ofs + x.len ≤ img.length ∧ lap = false then [] else [o + 16]) ++
    (if raw 29 3 ≠ 0 || (x.ty = 7 || x.ty = 8) && x.len % 128 ≠ 0 || x.ty = 6 && x.len ≠ 1600 * leAt img 16 4 || x.ty = 9 && x.len % 16 ≠ 0 ||
        (x.ty = 1 || x.ty = 2 || x.ty = 3) && x.len % 8 ≠ 0 || x.ty = 4 && (x.len % 32 ≠ 0 || 32768 < x.len) then [o + 24] else []) ++
    (if x.ty = 9 then (presetsOf img x).filterMap (fun e =>
      match groupOf e.2.1 with
      | some (g, i) => if g ≠ x.index then some e.1 else if e.2.2 &&& ~~~(nth 0 (shMasks g) i) ≠ 0 then some (e.1 + 8) else none
      | none => some e.1) else [])

/-- Byte offsets at which the section table fails. -/
def tableBad (img : List Byte) : List Nat :=
  let o := leAt img 64 8
  if img.length < o + 32 * leAt img 20 4 then [64]
  else (sections img).flatMap (sectionBad img (sections img))

/-! ### Checks 8 and 10 (R163, R179) -/

/-- Sections whose window leaves the instruction memory, or meets the window of another stream that a module takes for the same cluster
(R163, R516), by byte offset. -/
def windowBad (img : List Byte) : List Nat :=
  let l := (sections img).filter (fun x => x.ty = 1)
  let chips := ((sections img).map (·.chip)).dedup
  l.filterMap (fun x =>
    let lap := l.any (fun y => y.index / 4 == x.index / 4 && y.index != x.index &&
      decide (x.win < y.win + y.wlen) && decide (y.win < x.win + x.wlen) &&
      chips.any (fun c => sectionOf img c 1 x.index == some x && sectionOf img c 1 y.index == some y))
    if 768 < x.win + x.wlen || lap then some (x.at_ + 6) else none)

/-- Contents lines outside a populated range (check 10), by the byte offset of the line. -/
def contentsBad (img : List Byte) : List Nat :=
  (sections img).flatMap (fun x =>
    (List.range (x.len / 128)).filterMap (fun i =>
      let ok := if x.ty = 7 then inStore ((x.addr + i) * 128) else if x.ty = 8 then decide (x.addr + i < 4 * stackLines) else true
      if ok then none else some (x.ofs + 128 * i)))

/-! ### What ARM loads (R402) -/

/-- The lines of a contents section written into memory from local offset `base`, every word with new check bits (R109, R112). -/
def State.loadLines (s : State) (x : Section) (base : Nat) : State :=
  let a := base / 128 + x.addr
  let n := ((x.bytes s.job.img).length + 127) / 128
  { s with mem := memWrite s.mem (base + x.addr * 128) (x.bytes s.job.img)
           upsets := s.upsets.filter (fun u => u.area == .landing || decide (u.line < a) || decide (a + n ≤ u.line)) }

/-- Contents sections of a type: CHIP 0xFFFF first, so that the module's own lines stand over them (R516). -/
def State.loadContents (s : State) (ty base : Nat) : State :=
  let l := (sections s.job.img).filter (fun x => x.ty = ty)
  let s := (l.filter (fun x => x.chip = 0xFFFF)).foldl (fun s x => s.loadLines x base) s
  (l.filter (fun x => x.chip ≠ 0xFFFF && x.chip = s.chipOr0)).foldl (fun s x => s.loadLines x base) s

/-- A stream as ARM leaves it. -/
def streamOf (x : Section) : Stream := { win := x.win, wlen := x.wlen, len := x.len / 8 }

/-- The first WLEN stream lines of a unit in its window, each with its number (R163). -/
def fillWindow (img : List Byte) (x : Section) (t : Tbl ImemLine) : Tbl ImemLine :=
  let n := min x.wlen ((x.len + 127) / 128)
  (List.range n).foldl (fun t i => Tbl.set t (x.win + i) ⟨padTo (slice img (x.ofs + 128 * i) (min 128 (x.len - 128 * i))) 128, i⟩) t

/-- A cluster as ARM leaves it: streams that the image gives, idle ones otherwise (R516). -/
def State.armCluster (s : State) (c : Nat) : State :=
  let get := fun (u : Nat) => s.section_ 1 (4 * c + u)
  let str := fun (u : Nat) => ((get u).map streamOf).getD {}
  let any := (List.range 4).any (fun u => (get u).isSome)
  if !any && (s.clusters.find? (fun p => p.1 == c)).isNone then s
  else
    let im := (List.range 4).foldl (fun t u => match get u with
      | some x => fillWindow s.job.img x t
      | none => t) ([] : Tbl ImemLine)
    s.updClu c (fun k => { k with sMe := str 0, sVu := str 1, sMv := str 2, sSq := str 3, imem := im, ops := [], fly := [], br := [] })

/-- The page set and pad of a logical port placed into its router (R217, R331, R402). -/
def State.armPort (s : State) (lp : Nat) : State :=
  let s := s.setPt lp (((s.section_ 2 lp).map streamOf).getD {})
  let p := s.physPort lp
  let pad := field (s.port p).toll 26 13
  match s.section_ 5 lp with
  | some x =>
    let b := x.bytes s.job.img
    s.updRtr p (fun r => { r with hdr := b.take 64, pages := b.drop 64, loaded := true, active := leAt b 8 2, next := none, padNew := pad })
  | none => s.updRtr p (fun r => { r with hdr := [], pages := [], loaded := false, active := 0, next := none, padNew := pad })

/-- The nominal table with the presets of a section: the values that check 11 uses (R256, R449). -/
def presetTableOf (img : List Byte) (x : Option Section) (st : Nat) : List Reg :=
  match x with
  | none => ({} : Msq).ttab
  | some x => (presetsOf img x).foldl (fun t e => match groupOf e.2.1 with
      | some (g, i) => if g = 2 + st then t.set i (e.2.2 &&& nth 0 (shMasks g) i) else t
      | none => t) ({} : Msq).ttab

/-- The table that an image gives this module's stack. -/
def State.presetTable (s : State) (st : Nat) : List Reg := presetTableOf s.job.img (s.section_ 9 (2 + st)) st

/-- The presets of a group written into its shadow, and the reference that firmware computes (R452). -/
def State.armPreset (s : State) (st : Nat) : State :=
  match s.section_ 9 (2 + st) with
  | none => s
  | some x =>
    let g := 2 + st
    let s := (presetsOf s.job.img x).foldl (fun s e => match groupOf e.2.1 with
      | some (_, i) => s.writeShadow g i e.2.2
      | none => s) s
    s.writeGrpRef g (groupRef g (s.groupShadow g))

/-- The stream of unit number `u`: 0 ME, 1 VU, 2 MV, 3 SQ. -/
def Cluster.unitStream (k : Cluster) (u : Nat) : Stream := if u = 0 then k.sMe else if u = 1 then k.sVu else if u = 2 then k.sMv else k.sSq

/-- A section that the last ARM loaded, for the chip number that the module had then. -/
def State.loadedSection (s : State) (ty index : Nat) : Option Section := sectionOf s.job.img s.cfg.jChip ty index

/-- Its bytes. -/
def State.loadedBytes (s : State) (ty index : Nat) : List Byte := ((s.loadedSection ty index).map (fun x => x.bytes s.job.img)).getD []

/-- A span's portion of region 7 (R459), from what units and routers hold of it: `window c u` gives the words of the resident window of unit
`u` of cluster `c`, `page p` the page set and pad of physical port `p`. Plan, memory streams and staging list stand where ARM loaded them. -/
def State.portionOf (s : State) (window : Nat → Nat → List Byte) (page : Nat → List Byte) (p : Nat) : List Byte :=
  if p < 100 then
    slice (s.loadedBytes 6 0) (16 * s.stepTicks * p) (16 * s.stepTicks) ++
      (List.range 8).flatMap (fun i => (List.range 4).flatMap (window (cluAt p i))) ++
      (List.range 8).flatMap (fun i => leBytes (s.cluPhys (cluAt p i)).toNat 8)
  else if p < 104 then s.loadedBytes 3 (p - 100)
  else if p < 110 then page (p - 104)
  else if p = 110 then s.loadedBytes 4 0
  else []

/-- A span's portion of region 7 as the hardware reads it (R457). -/
def State.portion (s : State) (p : Nat) : List Byte :=
  s.portionOf (fun c u =>
      let t := (s.clu c).unitStream u
      if t.len = 0 || 16 * t.wlen < t.len then []
      else ((List.range ((t.len + 15) / 16)).flatMap (fun j => (Tbl.get {} (s.clu c).imem (t.win + j)).words)).take (8 * t.len))
    (fun q => let r := s.rtr q
              if r.loaded then r.hdr ++ r.pages ++ leBytes r.padNew 2 else []) p

/-- The same portion as firmware forms it from its own copies of the image and the map (R459). -/
def State.refPortion (s : State) (p : Nat) : List Byte :=
  s.portionOf (fun c u => match s.loadedSection 1 (4 * c + u) with
      | some x => if x.len = 0 || 128 * x.wlen < x.len then [] else (x.bytes s.job.img).take (x.len / 8 * 8)
      | none => [])
    (fun q => match (List.range 6).find? (fun lp => s.physPort lp == q) with
      | some lp => if (s.loadedSection 5 lp).isSome then s.loadedBytes 5 lp ++ leBytes (field (s.port q).toll 26 13) 2 else []
      | none => []) p

/-- The value of a portion of span `p`; a span without one contributes nothing. -/
def part7Of (p : Nat) (b : List Byte) : Reg := if b.isEmpty then 0 else crc64 0 ([BitVec.ofNat 8 p, 0] ++ b)

/-- The value of span `p`'s portion. -/
def State.part7 (s : State) (p : Nat) : Reg := part7Of p (s.portion p)

/-- The values of all portions, by span. -/
def State.parts7 (s : State) : Tbl Reg := (List.range 111).map (fun p => (p, s.part7 p))

/-- The values that firmware computes. -/
def State.refParts (s : State) : Tbl Reg := (List.range 111).map (fun p => (p, part7Of p (s.refPortion p)))

/-- The value of region 7 from its portions. -/
def region7 (l : Tbl Reg) : Reg := l.foldl (fun x p => x ^^^ p.2) 0

/-- TIK_CTL as the image header gives it (R154, R449). -/
def State.headerCtl (s : State) : Reg := orAll [at_ (s.imgAt 8 1) 0 7, at_ (s.imgAt 9 1) 8 5, at_ (s.imgAt 10 1) 16 4]

/-- ARM's work (R402, R452, R457, R459): every section into its units, pads, presets, group 0, and the reference of region 7. -/
def State.armUnits (s : State) : State :=
  let s := s.loadContents 7 0
  let s := s.loadContents 8 hbmBase
  let s := forEach s (List.range 800) State.armCluster
  let s := forEach s (List.range 6) State.armPort
  let s := forEach s (List.range 4) (fun s st => s.updMs st (fun m => { m with str := ((s.section_ 3 st).map streamOf).getD {} }))
  let s := forEach s (List.range 4) State.armPreset
  let s := (s.writeShadow 0 0 s.headerCtl).writeGrpRef 0 (groupRef 0 [s.headerCtl])
  let s := forEach s (List.range 114) (fun s p => s.updSpn p s.clockOn)
  let s := s.updJob (fun j => { j with armed := true, accepted := false, checked := (List.range 4).map s.presetTable, withdrawn := 0 })
  let s := s.updCfg (fun c => { c with jChip := s.chipOr0, jLoaded := true })
  s.updCfg (fun c => { c with jRef := region7 s.refParts, jParts := s.refParts })

/-! ### Staging descriptors (R275) -/

/-- A staging descriptor. -/
structure Desc where
  out   : Bool
  host  : Bool
  lag   : Nat
  n     : Nat
  issue : Nat
  dead  : Nat
  sbuf  : Nat
  addr  : Nat
  hbuf  : Nat
  stick : Nat
  sph   : Nat
  scyc  : Nat
  dspan : Nat
  q     : Nat
  entry : Nat
  tagb  : Nat
  deriving DecidableEq, Repr

/-- Descriptor `d` of a staging list section. -/
def descAt (img : List Byte) (x : Section) (d : Nat) : Option Desc :=
  if x.len < 32 * (d + 1) then none
  else
    let o := x.ofs + 32 * d
    let w := fun (k n : Nat) => BitVec.ofNat 64 (leAt img (o + k) n)
    let a := w 16 8
    let c := w 24 8
    let host := bit (w 0 2) 1
    some { out := bit (w 0 2) 0, host, lag := field (w 0 2) 2 2, n := field (w 2 2) 0 9 + 1, issue := field (w 4 4) 0 20,
           dead := field (w 8 4) 0 20, sbuf := field (w 12 4) 0 17, addr := if host then field a 0 40 else field a 0 48,
           hbuf := if host then field a 40 12 else 0, stick := field c 0 20, sph := field c 20 3, scyc := field c 23 10,
           dspan := field c 33 7, q := field c 40 2, entry := field c 42 9, tagb := field c 51 12 }

/-- Descriptor `d` of the loaded image's staging list. -/
def State.desc (s : State) (d : Nat) : Option Desc :=
  match s.section_ 4 0 with
  | none => none
  | some x => descAt s.job.img x d

/-- Descriptors of the staging list. -/
def State.descs (s : State) : List Desc :=
  match s.section_ 4 0 with
  | none => []
  | some x => (List.range (x.len / 32)).filterMap s.desc

/-- Do all host descriptors name registered buffers, with ranges inside and the access permitted (R280, R390, R391)? -/
def State.buffersOk (s : State) : Bool :=
  s.descs.all (fun d => !d.host || (match s.hst.bufs.find? (fun b => b.1 == d.hbuf) with
    | none => false
    | some (_, b) => d.hbuf ≠ 4095 && decide (d.addr + 128 * d.n ≤ b.len) && (if d.out then b.mask.getLsbD 1 else b.mask.getLsbD 0)))

/-- Does the staging list of the loaded image name a buffer? -/
def State.listNames (s : State) (hbuf : Nat) : Bool := s.descs.any (fun d => d.host && d.hbuf == hbuf)

end Sys2Proof.Machine
end

