-- ==== Sys2Proof/Machine/StreamBits.lean ====
section
/-! DEFINITION. Reading the 64-bit words of a stream (06: R158 to R160; 07: R189, R201, R208, R211, R215; 08: R224 to R228, R236; 09: R248,
R249). A word that no row of an opcode table describes, or with a reserved bit set, reads as none. -/

namespace Sys2Proof.Machine

/-! ### Fields -/

/-- Are all set bits of the word's lowest `top` bits in the named fields (low bit and length)? -/
def within (w : Reg) (top : Nat) (l : List (Nat × Nat)) : Bool := w &&& (fmask 0 top) &&& ~~~(orAll (l.map (fun p => fmask p.1 p.2))) == 0

/-- Format codes (R187): 12 to 15 are reserved. -/
def fmtCode (n : Nat) : Option Fmt :=
  [Fmt.e4m3, .e5m2, .mxE4m3, .mxE5m2, .mxE3m2, .mxE2m3, .mxE2m1, .mxInt8, .int8, .int4, .bf16, .fp32][n]?

/-- Type codes of floating-point instructions (R225). -/
def ftyCode (n : Nat) : Option FTy := [FTy.fp32, .bf16][n]?
/-- Type codes of instructions that also take integers (R225). -/
def vtyCode (n : Nat) : Option VTy := [VTy.fp32, .bf16, .s32][n]?
/-- Condition codes (R232): 7 is reserved. -/
def condCode (n : Nat) : Option Cond := [Cond.eq, .ne, .lt, .le, .gt, .ge, .un][n]?

/-- The common fields of a cluster word (R158). -/
def wdOf (w : Reg) : Wd := ⟨field w 54 10, bit w 47, field w 44 3⟩

/-- `x` when the word's operands [43:0] are within the named fields. -/
def fits (w : Reg) (l : List (Nat × Nat)) (x : Option Instr) : Option Instr := if within w 44 l then x else none

/-! ### Matrix engine (R189) -/

/-- Operands of ME.MAC and ME.MACS. -/
def macWord (w : Reg) (go : Bool → Bool → Fmt → Fmt → Nat → Nat → Nat → Instr) : Option Instr :=
  fits w [(43, 1), (42, 1), (38, 4), (34, 4), (21, 13), (15, 6), (9, 6)] (do
    let a ← fmtCode (field w 38 4)
    let f ← fmtCode (field w 34 4)
    some (go (bit w 43) (bit w 42) a f (field w 21 13) (field w 15 6 + 1) (field w 9 6)))

/-- A word of a matrix engine stream. -/
def meWord (cl : Nat) (w : Reg) : Option Instr :=
  let d := wdOf w
  let b := bit w 43
  match field w 48 6 with
  | 0x01 => fits w [(43, 1), (37, 6), (29, 8), (21, 8)]
      (some (.meWin cl d b (BitVec.ofNat 6 (field w 37 6)) (signed (field w 29 8) 8) (signed (field w 21 8) 8)))
  | 0x02 => fits w [(43, 1)] (some (.meClear cl d b))
  | 0x03 => fits w [(43, 1), (39, 4), (26, 13)] ((fmtCode (field w 39 4)).map (fun f => .meLoadw cl d b f (field w 26 13)))
  | 0x04 => macWord w (.meMac cl d)
  | 0x05 => macWord w (.meMacs cl d)
  | 0x06 => fits w [(43, 1), (39, 4), (30, 9), (21, 9), (15, 6), (9, 6), (3, 6)]
      ((fmtCode (field w 39 4)).map (fun f => .meMacv cl d b f (field w 30 9) (field w 21 9) (field w 15 6 + 1) (field w 9 6 + 1) (field w 3 6)))
  | 0x07 => fits w [(43, 1), (37, 6), (24, 13), (18, 6), (12, 6)]
      (some (.meAddx cl d b (BitVec.ofNat 6 (field w 37 6)) (field w 24 13) (field w 18 6 + 1) (field w 12 6)))
  | 0x08 => fits w [(43, 1), (39, 4), (31, 8), (18, 13), (12, 6), (6, 6)] ((fmtCode (field w 39 4)).map (fun f =>
      .meRound cl d b f (signed (field w 31 8) 8) (field w 18 13) (field w 12 6 + 1) (field w 6 6)))
  | 0x09 => fits w [(43, 1), (30, 13), (24, 6), (18, 6)] (some (.meDrain cl d b (field w 30 13) (field w 24 6 + 1) (field w 18 6)))
  | _ => none

/-! ### Data mover (R201) -/

/-- A word of a data mover stream. -/
def mvWord (cl : Nat) (w : Reg) : Option Instr :=
  let d := wdOf w
  match field w 48 6 with
  | 0x01 => fits w [(31, 13), (18, 13), (15, 3), (5, 10)]
      (some (.mvCopy cl d (field w 31 13) (field w 18 13) (field w 15 3) (field w 5 10 + 1)))
  | 0x02 => fits w [(31, 13), (24, 7), (22, 2), (13, 9), (4, 9)]
      (some (.mvSend cl d (field w 31 13) (field w 24 7) (field w 22 2) (field w 13 9) (field w 4 9 + 1)))
  | 0x03 =>
    if bit w 33 then fits w [(43, 1), (34, 9), (33, 1), (23, 10), (7, 16), (2, 5)]
      (some (.mvRecv cl d (field w 43 1) (field w 34 9) (.imem (field w 23 10) (field w 7 16)) (field w 2 5 + 1)))
    else fits w [(43, 1), (34, 9), (20, 13), (11, 9)]
      (some (.mvRecv cl d (field w 43 1) (field w 34 9) (.store (field w 20 13)) (field w 11 9 + 1)))
  | 0x04 => fits w [(31, 13), (29, 2), (27, 2), (18, 9), (12, 6), (0, 12)]
      (some (.mvHbm cl d (field w 31 13) (field w 29 2) (field w 27 2) (field w 18 9) (field w 12 6 + 1) (field w 0 12)))
  | 0x05 => fits w [(31, 13), (30, 1), (21, 9), (12, 9), (2, 10)]
      (some (.mvStage cl d (field w 31 13) (field w 30 1) (field w 21 9) (field w 12 9 + 1) (field w 2 10)))
  | 0x06 => fits w [(31, 13), (21, 10), (5, 16)]
      (some (.mvFill cl d (field w 31 13) (field w 21 10 + 1) (BitVec.ofNat 16 (field w 5 16))))
  | _ => none

/-! ### Cluster sequencer (R208, R211) -/

/-- SQ.FLAG by its ACT. -/
def flagWord (w : Reg) : Option FlagAct :=
  match field w 42 2 with
  | 0 => if within w 44 [(42, 2), (34, 8), (33, 1)] then some (.set (BitVec.ofNat 8 (field w 34 8)) (bit w 33)) else none
  | 1 => if within w 44 [(42, 2), (29, 13), (22, 7)] then some (.loads (field w 29 13) (field w 22 7)) else none
  | 2 =>
    if within w 44 [(42, 2), (41, 1), (32, 9), (30, 2), (27, 3)] then
      ([HalfSel.first, .second, .both][field w 30 2]?).map (fun h => .loade (field w 41 1) (field w 32 9) h (field w 27 3))
    else none
  | _ => if within w 44 [(42, 2), (34, 8), (26, 8)] then some (.imm (BitVec.ofNat 8 (field w 34 8)) (BitVec.ofNat 8 (field w 26 8))) else none

/-- Three words as an SQ.BR (R210): PART 0, 1 and 2, and DELTA 1 on the second and third. -/
def brWords (cl : Nat) (a b c : Reg) : Option Instr :=
  let isPart := fun (w : Reg) (p : Nat) => field w 48 6 == 2 && !bit w 47 && field w 42 2 == p
  if isPart a 0 && isPart b 1 && isPart c 2 && field b 54 10 == 1 && field c 54 10 == 1 &&
      within a 44 [(42, 2), (39, 3), (31, 8), (19, 12), (7, 12)] && within b 44 [(42, 2), (30, 12), (18, 12), (6, 12)] &&
      within c 44 [(42, 2), (30, 12), (18, 12), (6, 12)] then
    some (.sqBr cl (field a 54 10) (field a 39 3) (field a 31 8 + 1)
      ⟨field a 19 12, field a 7 12, field b 30 12, field b 18 12⟩ ⟨field b 6 12, field c 30 12, field c 18 12, field c 6 12⟩)
  else none

/-- A word of a cluster sequencer stream other than SQ.BR. -/
def sqWord (cl : Nat) (w : Reg) : Option Instr :=
  let d := field w 54 10
  if bit w 47 then none
  else
    match field w 48 6 with
    | 0x01 => fits w [(32, 12)] (some (.sqWait cl d (field w 32 12 + 1)))
    | 0x03 => (flagWord w).map (.sqFlag cl d)
    | 0x04 => fits w [(41, 3), (39, 2), (30, 9), (22, 8), (21, 1), (19, 2), (16, 3), (13, 3)]
        (some (.sqAgree cl d (field w 41 3) (field w 39 2) (field w 30 9) (field w 22 8) (bit w 21) (BitVec.ofNat 2 (field w 19 2))
          (field w 16 3) (field w 13 3)))
    | 0x05 => fits w [(31, 13), (21, 10)] (some (.sqDigest cl d (field w 31 13) (field w 21 10 + 1)))
    | 0x06 => fits w [] (some (.sqEnd cl d))
    | _ => none

/-! ### Port streams (R215) -/

/-- A word of a port stream; PT.PAD is in no image (R217). -/
def ptWord (lp : Nat) (w : Reg) : Option Instr :=
  if field w 48 6 = 1 && !bit w 47 then fits w [(0, 10)] (some (.ptPage lp (field w 54 10) (field w 0 10))) else none

/-! ### Vector unit (R224 to R228, R236) -/

/-- VD and VA. -/
def fieldsDA : List (Nat × Nat) := [(39, 5), (34, 5)]
/-- VD, VA and VB. -/
def fieldsDAB : List (Nat × Nat) := [(39, 5), (34, 5), (29, 5)]
/-- VD, VA, VB and VC. -/
def fieldsDABC : List (Nat × Nat) := [(39, 5), (34, 5), (29, 5), (24, 5)]

/-- The second operand of an integer instruction and the field it uses (R234). -/
def opndWord (w : Reg) : Opnd × Nat × Nat :=
  if bit w 20 then (.imm (BitVec.ofNat 16 (field w 0 16)), 0, 16) else (.reg (field w 29 5), 29, 5)

/-- The shift count and the field it uses (R234). -/
def shWord (w : Reg) : ShOp × Nat × Nat := if bit w 20 then (.imm (field w 0 5), 0, 5) else (.reg (field w 29 5), 29, 5)

/-- A word of a vector unit stream. -/
def vuWord (cl : Nat) (w : Reg) : Option Instr :=
  let wd := wdOf w
  let d := field w 39 5
  let a := field w 34 5
  let b := field w 29 5
  let c := field w 24 5
  let ty := field w 21 3
  let fp2 := fun (k : Nat → Wd → FTy → Nat → Nat → Instr) =>
    fits w (fieldsDA ++ [(21, 3)]) ((ftyCode ty).map (fun t => k cl wd t d a))
  let fp3 := fun (k : Nat → Wd → FTy → Nat → Nat → Nat → Instr) =>
    fits w (fieldsDAB ++ [(21, 3)]) ((ftyCode ty).map (fun t => k cl wd t d a b))
  let v3 := fun (k : Nat → Wd → VTy → Nat → Nat → Nat → Instr) =>
    fits w (fieldsDAB ++ [(21, 3)]) ((vtyCode ty).map (fun t => k cl wd t d a b))
  let o := opndWord w
  let h := shWord w
  let logic := fun (k : Nat → Wd → Nat → Nat → Opnd → Instr) => fits w (fieldsDA ++ [(20, 1), o.2]) (some (k cl wd d a o.1))
  match field w 48 6 with
  | 0x01 =>
    let n := field w 23 2 + 1
    let tag := if bit w 22 then some (BitVec.ofNat 6 (field w 16 6)) else none
    let rest := [(23, 2), (22, 1), (16, 6)]
    if bit w 38 then fits w ([(39, 5), (38, 1), (37, 1), (28, 9)] ++ rest) (some (.vuLd cl wd d (.landing (field w 37 1) (field w 28 9)) n tag))
    else fits w ([(39, 5), (38, 1), (25, 13)] ++ rest) (some (.vuLd cl wd d (.store (field w 25 13)) n tag))
  | 0x02 => fits w [(34, 5), (21, 13), (19, 2)] (some (.vuSt cl wd a (field w 21 13) (field w 19 2 + 1)))
  | 0x03 => fp3 .vuAdd
  | 0x04 => fp3 .vuSub
  | 0x05 => fp3 .vuMul
  | 0x06 => fits w (fieldsDABC ++ [(21, 3)]) ((ftyCode ty).map (fun t => .vuFma cl wd t d a b c))
  | 0x07 => v3 .vuMin
  | 0x08 => v3 .vuMax
  | 0x09 => fits w (fieldsDAB ++ [(21, 3), (18, 3)]) (do
      let t ← vtyCode ty
      let x ← condCode (field w 18 3)
      some (.vuCmp cl wd t x d a b))
  | 0x0A => fits w fieldsDABC (some (.vuSel cl wd d a b c))
  | 0x0B => fits w (fieldsDA ++ [(20, 1), (19, 1), (18, 1), o.2]) (some (.vuIadd cl wd d a o.1 (bit w 19) (bit w 18)))
  | 0x0C => logic .vuAnd
  | 0x0D => logic .vuOr
  | 0x0E => logic .vuXor
  | 0x0F => fits w (fieldsDA ++ [(20, 1), h.2]) (some (.vuShl cl wd d a h.1))
  | 0x10 => fits w (fieldsDA ++ [(20, 1), (17, 1), h.2]) (some (.vuShr cl wd d a h.1 (bit w 17)))
  | 0x11 => fits w (fieldsDAB ++ [(16, 5), (15, 1), (7, 8), (3, 4)])
      (some (.vuCvt cl wd d a b (field w 16 5) (bit w 15) (signed (field w 7 8) 8) (field w 3 4)))
  | 0x12 => fits w (fieldsDAB ++ [(20, 4), (15, 5)]) ((fmtCode (field w 20 4)).map (fun f => .vuQmx cl wd d a b f (field w 15 5)))
  | 0x13 => fp2 .vuExp2
  | 0x14 => fp2 .vuLog2
  | 0x15 => fp2 .vuRcp
  | 0x16 => fp2 .vuRsq
  | 0x17 => fp2 .vuTanh
  | 0x18 => fp2 .vuSin
  | 0x19 => fp2 .vuCos
  | 0x1A => fits w (fieldsDA ++ [(21, 3), (18, 3), (12, 6), (11, 1)])
      ((vtyCode ty).map (fun t => .vuXsum cl wd t d a (field w 18 3) (BitVec.ofNat 6 (field w 12 6)) (bit w 11)))
  | 0x1B =>
    if ty = 0 || ty = 2 then fits w ((if bit w 20 then fieldsDAB else fieldsDA) ++ [(21, 3), (20, 1), (13, 7)])
      (some (.vuTopk cl wd (ty = 2) d a b (bit w 20) (field w 13 7 + 1)))
    else none
  | 0x1C => fits w (fieldsDA ++ [(20, 1), (0, 16)]) (some (.vuRng cl wd d a (bit w 20) (field w 0 16)))
  | 0x1D => fits w fieldsDABC (some (.vuPerm cl wd d a b c))
  | _ => none

/-! ### Memory command streams (R248, R249) -/

/-- A word of a memory command stream: operands in [47:0]. -/
def memWordOf (st : Nat) (w : Reg) : Option Instr :=
  let d := field w 54 10
  let lo := field w 42 6
  let n := field w 36 6 + 1
  let b := field w 30 6
  let only := fun (l : List (Nat × Nat)) (i : Instr) => if within w 48 ([(42, 6), (36, 6)] ++ l) then some i else none
  match field w 48 6 with
  | 0x01 => only [(30, 6), (15, 15)] (.act st d lo n b (field w 15 15))
  | 0x02 => only [(30, 6), (29, 1)] (.pre st d lo n b (bit w 29))
  | 0x03 => only [(30, 6), (27, 3), (20, 7), (18, 2), (9, 9), (7, 2)]
      (.rd st d lo n b (field w 27 3) (field w 20 7) (field w 18 2) (field w 9 9) (field w 7 2))
  | 0x04 => only [(30, 6), (27, 3), (25, 2), (16, 9)] (.wr st d lo n b (field w 27 3) (field w 25 2) (field w 16 9))
  | 0x05 => only [] (.refa st d lo n)
  | 0x06 => only [(30, 6)] (.refb st d lo n b)
  | _ => none

/-! ### Any stream -/

/-- What a word of a stream is. -/
inductive StreamWord where
  /-- A phase mark (R159). -/
  | mark (advance bp : Nat)
  /-- An idle word (R160). -/
  | idle (delta : Nat)
  /-- A word that issues a command; `words` is 3 for SQ.BR (R210). -/
  | cmd (i : Instr) (delta words : Nat)
  /-- No word of the stream's table. -/
  | bad
  deriving DecidableEq, Repr

/-- A word that issues. -/
def issuing (w : Reg) (x : Option Instr) : StreamWord :=
  match x with
  | some i => .cmd i (field w 54 10) 1
  | none => .bad

/-- The word at the head of a stream's words `ws`. -/
def readWord (st : StreamId) (ws : List Reg) : StreamWord :=
  let w := nth 0 ws 0
  match field w 48 6 with
  | 0 => if field w 24 24 = 0 && field w 54 10 = 0 && field w 0 16 ≠ 0 then .mark (field w 0 16) (field w 16 8) else .bad
  | 0x3F => if field w 0 48 = 0 then .idle (field w 54 10) else .bad
  | o =>
    match st with
    | .unit cl .me => issuing w (meWord cl w)
    | .unit cl .vu => issuing w (vuWord cl w)
    | .unit cl .mv => issuing w (mvWord cl w)
    | .unit cl .sq =>
      if o = 2 then
        match ws with
        | a :: b :: c :: _ => (match brWords cl a b c with
          | some i => .cmd i (field a 54 10) 3
          | none => .bad)
        | _ => .bad
      else issuing w (sqWord cl w)
    | .port lp => issuing w (ptWord lp w)
    | .mem s => issuing w (memWordOf s w)

/-- The stream that a section holds (R156). -/
def Section.stream (x : Section) : Option StreamId :=
  match x.ty with
  | 1 => some (.unit (x.index / 4) (nth Unit4.me [.me, .vu, .mv, .sq] (x.index % 4)))
  | 2 => some (.port x.index)
  | 3 => some (.mem x.index)
  | _ => none

/-- The 64-bit words in a list of bytes. -/
def wordsOf : List Byte → List Reg
  | b0 :: b1 :: b2 :: b3 :: b4 :: b5 :: b6 :: b7 :: r => BitVec.ofNat 64 (leNat [b0, b1, b2, b3, b4, b5, b6, b7]) :: wordsOf r
  | _ => []

/-- The words of a stream section. -/
def Section.words (x : Section) (img : List Byte) : List Reg := wordsOf (x.bytes img)

/-- The words of a stream, read one by one from the one at its head (a word inside an SQ.BR reads as bad). -/
def readAll (st : StreamId) : List Reg → List StreamWord
  | [] => []
  | w :: r => readWord st (w :: r) :: readAll st r

end Sys2Proof.Machine
end

