-- ==== Sys2Proof/Machine/Streams.lean ====
section
/-! DEFINITION. Words that steer streams: SQ.WAIT, SQ.BR, SQ.END, port words, phase marks and idle words (06, 07). -/

namespace Sys2Proof.Machine

/-- SQ.WAIT declares a quiet interval; it changes no bit and no cycle (R209). -/
def execSqWait (cl delta q : Nat) (s : State) : Host.Outcome State Fault Refusal :=
  issueWith (.sqWait cl delta q) s 1 (fun _ _ _ s _ => s)

/-- SQ.BR: three words; the predicate bit is read at the issue of the first (R171, R210). -/
def execSqBr (cl delta sel n : Nat) (l0 l1 : ArmLens) (s : State) : Host.Outcome State Fault Refusal :=
  issueWith (.sqBr cl delta sel n l0 l1) s 3 (fun cl _ _ s _ =>
    let P := s.tik.phaseNo
    s.updClu cl (fun k => { k with br := k.br.filter (fun b => P < b.2.2.2.2) ++ [(l0, l1, k.p.getLsbD sel, P + 1, P + n + 1)] }))

/-- SQ.END: the job ends at the boundary of this step (R178, R214). -/
def execSqEnd (cl delta : Nat) (s : State) : Host.Outcome State Fault Refusal :=
  issueWith (.sqEnd cl delta) s 1 (fun _ _ _ s _ => s.updJob (fun j => { j with ended := true }))

/-- PT.PAGE: the page is active from the first slot of the next phase (R216). -/
def execPtPage (lport delta page : Nat) (s : State) : Host.Outcome State Fault Refusal :=
  if !wordOk (.ptPage lport delta page) then .refused .wordRefused
  else
    let t := s.pt lport
    .next ((s.setPt lport (t.issued 1 (t.issue delta))).updRtr (s.physPort lport) (fun r => { r with next := some page }))

/-- PT.PAD: placed by firmware at ARM; it occupies no slot, and the pad takes effect at the start keystone (R217). -/
def execPtPad (lport pad : Nat) (s : State) : Host.Outcome State Fault Refusal :=
  if !wordOk (.ptPad lport pad) then .refused .wordRefused
  else .next (s.updRtr (s.physPort lport) (fun r => { r with padNew := pad }))

/-! ### Phase marks and idle words -/

/-- The number under which a stream stands in the agreed branch table. -/
def streamCode : StreamId → Nat
  | .unit c u => 4 * c + unitPart u
  | .port p => 3200 + p
  | .mem st => 3206 + st

/-- A stream by name. -/
def State.stream (s : State) : StreamId → Stream
  | .unit c u => (s.clu c).stream u
  | .port p => s.pt p
  | .mem st => (s.ms st).str

/-- A stream replaced. -/
def State.setStream (s : State) (i : StreamId) (t : Stream) : State :=
  match i with
  | .unit c u => s.updClu c (fun k => k.setStream u t)
  | .port p => s.setPt p t
  | .mem st => s.updMs st (fun m => { m with str := t })

/-- The length of an arm in one unit's stream (R210). -/
def ArmLens.of (l : ArmLens) : Unit4 → Nat
  | .me => l.me
  | .vu => l.vu
  | .mv => l.mv
  | .sq => l.sq

/-- A fixed-length branch in force: arm lengths, first arm taken, phases p + 1 and p + n + 1 (R171, R210). -/
abbrev Branch := ArmLens × ArmLens × Bool × Nat × Nat

/-- What the branches whose arms begin in phase `P` make of a stream whose next word is `pos`, the first of the first arm (R171, R210): the
next word, and the second arms still to be passed over. A stream that takes the first arm passes over the second where the first ends; it
has no word between, so that this is the edge of phase p + n + 1 (DEDUCED, log 108). -/
def armsAt (br : List Branch) (u : Unit4) (P pos : Nat) (hop : List (Nat × Nat)) : Nat × List (Nat × Nat) :=
  br.foldl (fun x b =>
    if b.2.2.2.1 ≠ P then x
    else
      let q := pos + ArmLens.of b.1 u
      let rest := x.2.filter (fun h => h.1 ≠ q)
      if b.2.2.1 then
        let hop := (q, q + ArmLens.of b.2.1 u) :: rest
        (hopOver hop pos, hop)
      else (q, rest)) (hopOver hop pos, hop)

/-- The next word of a stream after a phase mark that carries `bp` and moves the time base to phase `P`, and the second arms still to be passed
over (R162, R171, R176). -/
def State.nextPos (s : State) (i : StreamId) (pos P bp : Nat) (hop : List (Nat × Nat)) : Nat × List (Nat × Nat) :=
  let n := 8 * s.stepTicks
  if n ≠ 0 && P % n == 0 then (0, [])
  else if bp ≠ 0 then
    match Tbl.get none ((s.job.taken ++ s.tik.agree.map (fun e => (e.1, e.2.toNat))).map (fun e => (e.1, some e.2))) bp with
    | some v => (Config.armOffset s.job.img s.chipOr0 (streamCode i) bp v, [])
    | none => (pos, hop)
  else
    match i with
    | .unit c u => armsAt (s.clu c).br u P pos hop
    | _ => (hopOver hop pos, hop)

/-- May the stream go on: no overrun holds it, and no check has stopped it (R89, R166, R257). -/
def State.streamRuns (s : State) : StreamId → Bool
  | .unit c u => s.mayIssue c u
  | .port _ => true
  | .mem st => !(s.ms st).halted

/-- A phase mark: the time base moves on (R159, R161, R162, R176). -/
def execPhaseMark (st : StreamId) (advance bp : Nat) (s : State) : Host.Outcome State Fault Refusal :=
  if !wordOk (.phaseMark st advance bp) then .refused .wordRefused
  else if !s.streamRuns st then .next s
  else
    let t := s.stream st
    let P := t.base + advance
    let x := s.nextPos st (t.pos + 1) P bp t.hop
    .next (s.setStream st { t with base := P, first := true, pos := x.1, hop := x.2 })

/-- An idle word: it issues nothing and carries its DELTA (R160, R161, R166). -/
def execIdleWord (st : StreamId) (delta : Nat) (s : State) : Host.Outcome State Fault Refusal :=
  if !wordOk (.idleWord st delta) then .refused .wordRefused
  else if !s.streamRuns st then .next s
  else
    match st with
    | .unit c u => .next (issueAt s c u delta 1 (fun s _ => s))
    | _ =>
      let t := s.stream st
      .next (s.setStream st (t.issued 1 (t.issue delta)))

end Sys2Proof.Machine
end

