-- ==== Sys2Proof/Machine/Walk.lean ====
section
/-! DEFINITION. Paths through the streams of an image (06: R159 to R162, R171, R174 to R177, R210): which word issues in which phase and
cycle of a step, for every outcome of the branches. -/

namespace Sys2Proof.Machine

/-- An issue on a path: word number, phase of the step, cycle, command. -/
structure Iss where
  idx : Nat
  ph  : Nat
  cyc : Nat
  ins : Instr
  deriving DecidableEq, Repr

/-- A walk along one path of a stream. The lists hold the newest entry first while the walk runs. -/
structure Walk where
  pos    : Nat := 0
  base   : Nat := 0
  first  : Bool := true
  last   : Nat := 0
  done   : Bool := false
  iss    : List Iss := []
  /-- Phase marks: word, phase reached, BP. -/
  marks  : List (Nat × Nat × Nat) := []
  /-- Fixed-length branches as `Cluster.br` holds them, each with the number of its first word. -/
  brs    : List (Branch × Nat) := []
  /-- Second arms still to be passed over, as `Stream.hop`. -/
  hop    : List (Nat × Nat) := []
  /-- Arms still to be chosen, one for each branch that the walk meets. -/
  choose : List Bool := []
  /-- What breaks a check: check number and word. -/
  bad    : List (Nat × Nat) := []
  /-- Words with an issue cycle: word, phase and cycle. -/
  seen   : List (Nat × Nat × Nat) := []
  deriving DecidableEq, Repr

/-- What is fixed while a stream is walked: its words, the phases of a step, and the agreed values by branch point. -/
structure Track where
  img   : List Byte
  chip  : Nat
  id    : StreamId
  ws    : Array StreamWord
  total : Nat
  vals  : Tbl Nat

/-- The word after a phase mark that carries `bp` and reaches phase `P`, and the second arms still to be passed over (R171, R176, R210). -/
def Track.after (t : Track) (w : Walk) (P bp : Nat) : Nat × List (Nat × Nat) :=
  if bp ≠ 0 then (Config.armOffset t.img t.chip (streamCode t.id) bp (Tbl.get 0 t.vals bp), [])
  else
    match t.id with
    | .unit _ u => armsAt (w.brs.map (·.1)) u P (w.pos + 1) w.hop
    | _ => (w.pos + 1, w.hop)

/-- A word that takes an issue cycle: DELTA counts from the word before it (R161). -/
def Walk.take (w : Walk) (delta words : Nat) : Walk :=
  let c := if w.first then delta else w.last + delta
  { w with last := c + words - 1, first := false, pos := hopOver w.hop (w.pos + words),
           seen := ((List.range words).map (fun j => (w.pos + j, w.base, c + j))).reverse ++ w.seen,
           bad := if delta = 0 && !w.first then (3, w.pos) :: w.bad else w.bad }

/-- One word of a walk: the path ends at the step boundary (R162), and a mark that passes it breaks check 4. -/
def Track.word (t : Track) (w : Walk) : Walk :=
  match t.ws[w.pos]? with
  | none => { w with done := true, bad := (4, t.ws.size - 1) :: w.bad }
  | some (.mark a bp) =>
    let P := w.base + a
    let v := { w with base := P, first := true, marks := (w.pos, P, bp) :: w.marks }
    if t.total < P then { v with done := true, bad := (4, w.pos) :: w.bad }
    else if P = t.total then { v with done := true }
    else
      let x := t.after w P bp
      { v with pos := x.1, hop := x.2 }
  | some (.idle d) => w.take d 1
  | some (.cmd i d n) =>
    let v := w.take d n
    let v := { v with iss := ⟨w.pos, w.base, v.last + 1 - n, i⟩ :: w.iss }
    match i with
    | .sqBr _ _ _ k l0 l1 =>
      { v with brs := ((l0, l1, w.choose.headD true, w.base + 1, w.base + k + 1), w.pos) :: w.brs, choose := w.choose.tail }
    | _ => v
  | some .bad => { w with pos := w.pos + 1, first := false, bad := (3, w.pos) :: w.bad }

/-- The walk until it ends, at most `n` words. -/
def Track.go (t : Track) : Nat → Walk → Walk
  | 0, w => w
  | n + 1, w => if w.done then w else Track.go t n (t.word w)

/-- A walk over a whole step, its lists in order. -/
def Track.walk (t : Track) (w : Walk) : Walk :=
  let v := t.go (257 * (t.ws.size + 1)) w
  { v with iss := v.iss.reverse, marks := v.marks.reverse, brs := v.brs.reverse, seen := v.seen.reverse }

/-! ### Choices -/

/-- The lists of arms that a path can take from the choices `c` on: a branch that the path meets beyond them may go either way, as often as the
path passes it. `met` counts the branches met on the path of some choices; `n` bounds the depth. -/
def armLists (met : List Bool → Nat) : Nat → List Bool → List (List Bool)
  | 0, c => [c]
  | n + 1, c => if met c ≤ c.length then [c] else armLists met n (c ++ [true]) ++ armLists met n (c ++ [false])

/-- All assignments of the four agreed values to branch points (R175). -/
def assignments : List Nat → List (Tbl Nat)
  | [] => [[]]
  | b :: r => (assignments r).flatMap (fun l => [(b, 0) :: l, (b, 1) :: l, (b, 2) :: l, (b, 3) :: l])

/-- The words of a section of an image, read; none for an absent section. -/
def readSection (img : List Byte) (x : Option Section) : List StreamWord :=
  match x with
  | none => []
  | some x =>
    match x.stream with
    | some id => readAll id (x.words img)
    | none => []

/-- Branch points that marks of a stream carry. -/
def branchPoints (ws : List StreamWord) : List Nat :=
  (ws.filterMap (fun w => match w with
    | .mark _ bp => if bp = 0 then none else some bp
    | _ => none)).dedup

/-- The stream sections that a module with chip number `chip` takes (R516). -/
def streamSections (img : List Byte) (chip : Nat) : List Section :=
  (sections img).filter (fun x => (x.ty = 1 || x.ty = 2 || x.ty = 3) && sectionOf img chip x.ty x.index == some x)

/-- The agreed values that a step of a module can take. -/
def moduleVals (img : List Byte) (chip : Nat) : List (Tbl Nat) :=
  assignments (((streamSections img chip).flatMap (fun x => branchPoints (readSection img (some x)))).dedup)

/-- Phases of a step (R162). -/
def stepPhases (img : List Byte) : Nat := 8 * leAt img 16 4

/-! ### Paths of a cluster -/

/-- A unit's stream on one path: its section and its walk. -/
structure UnitPath where
  sec  : Option Section
  walk : Walk
  deriving DecidableEq, Repr

/-- One path through the four streams of a cluster, all under the same branches (R171). -/
structure CluPath where
  me : UnitPath
  vu : UnitPath
  mv : UnitPath
  sq : UnitPath
  deriving DecidableEq, Repr

/-- The four units in the order of R156. -/
def units : List Unit4 := [.me, .vu, .mv, .sq]

/-- A unit of a path. -/
def CluPath.unit (p : CluPath) : Unit4 → UnitPath
  | .me => p.me
  | .vu => p.vu
  | .mv => p.mv
  | .sq => p.sq

/-- The byte offset of a word of a unit's stream. -/
def UnitPath.ofs (p : UnitPath) (idx : Nat) : Nat :=
  match p.sec with
  | some x => x.ofs + 8 * idx
  | none => 0

/-- The paths of a cluster under agreed values: the sequencer's stream first, whose branches steer all four. -/
def cluPaths (img : List Byte) (chip cl : Nat) (vals : Tbl Nat) : List CluPath :=
  let sec := fun (u : Unit4) => sectionOf img chip 1 (4 * cl + unitPart u)
  let ws := fun (u : Unit4) => readSection img (sec u)
  let track := fun (u : Unit4) (w : List StreamWord) => Track.mk img chip (.unit cl u) w.toArray (stepPhases img) vals
  let run := fun (u : Unit4) (w : List StreamWord) (v : Walk) =>
    UnitPath.mk (sec u) (if (sec u).isNone then { v with done := true } else (track u w).walk v)
  let wMe := ws .me
  let wVu := ws .vu
  let wMv := ws .mv
  let wSq := ws .sq
  let met := fun (c : List Bool) => (run .sq wSq { choose := c }).walk.brs.length
  (armLists met (257 * (wSq.length + 1)) []).map (fun c =>
    let q := run .sq wSq { choose := c }
    let v : Walk := { brs := q.walk.brs }
    { me := run .me wMe v, vu := run .vu wVu v, mv := run .mv wMv v, sq := q })

/-- The clusters for which an image holds a stream. -/
def imageClusters (img : List Byte) : List Nat := (((sections img).filter (fun x => x.ty = 1)).map (fun x => x.index / 4)).dedup

/-- Is a chip number within the extents of the image (R154)? -/
def chipInside (img : List Byte) (c : Nat) : Bool :=
  c / 1024 < leAt img 12 1 && c / 32 % 32 < leAt img 13 1 && c % 32 < leAt img 14 1 && c < 32768

/-- The chip numbers that an image tells apart: each that a section names, and 0xFFFF for the modules that no section names; with an agreed
branch table, which gives every module arms of its own (R174), each module of the machine. -/
def imageChips (img : List Byte) : List Nat :=
  let named := (((sections img).map (·.chip)).filter (· ≠ 0xFFFF)).dedup
  let others := (List.range 32768).filter (fun c => chipInside img c && !named.contains c)
  if (sections img).any (fun x => x.ty = 10) then named ++ others
  else if others.isEmpty then named else named ++ [0xFFFF]

end Sys2Proof.Machine
end

