-- ==== Sys2Proof/Machine/UnitChecks.lean ====
section
/-! DEFINITION. Load checks on the words and paths of a cluster (06: R157, R159 to R166, R171, R172, R174, R176, R179; 04: R105, R107,
R113, R115; 07: R185, R191, R194, R209, R211; 08: R221). A finding is a check number with the byte offset at fault (log 63). -/

namespace Sys2Proof.Machine

/-- A check and the byte offset that it finds at fault. -/
abbrev Finding := Nat × Nat

/-! ### Words of a section (checks 3 and 10) -/

/-- Findings on the words from word `i` of a section; `skip` words belong to the SQ.BR before them (R183, R210, R225, R249). -/
def wordBad (ofs : Nat) : List StreamWord → Nat → Nat → List Finding
  | [], _, _ => []
  | _ :: r, i, skip + 1 => wordBad ofs r (i + 1) skip
  | w :: r, i, 0 =>
    let o := ofs + 8 * i
    match w with
    | .cmd c _ n => (if formOk c then [] else [(3, o)]) ++ (if placeOk c then [] else [(10, o)]) ++ wordBad ofs r (i + 1) (n - 1)
    | .bad => (3, o) :: wordBad ofs r (i + 1) 0
    | _ => wordBad ofs r (i + 1) 0

/-- Findings on the words of every stream section. -/
def wordsBad (img : List Byte) : List Finding :=
  (sections img).flatMap (fun x => if x.stream.isSome then wordBad x.ofs (readSection img (some x)) 0 0 else [])

/-! ### Paths and branch points (checks 3 and 4) -/

/-- What a walk found, as byte offsets. -/
def Walk.findings (w : Walk) (ofs : Nat → Nat) : List Finding := w.bad.map (fun b => (b.1, ofs b.2))

/-- Check 4 on the marks of a path (R176): BP is the branch point whose take tick begins at the phase reached, and 0 elsewhere. Where two
branch points share a take tick, the mark carries another number for one of them. -/
def marksBad (img : List Byte) (chip : Nat) (w : Walk) (ofs : Nat → Nat) : List Finding :=
  let n := branchCount img chip
  w.marks.filterMap (fun m =>
    let here := (range' 1 n).filter (fun b => 8 * Config.takeTick img b = m.2.1)
    if (if m.2.2 = 0 then here.isEmpty else here == [m.2.2]) then none else some (4, ofs m.1))

/-! ### Timing on a path (check 3) -/

/-- Path cycles of an instruction (R185: the timing tables of R191, R202, R208 and R226). -/
def pathCycles (i : Instr) : Nat :=
  match i with
  | .meLoadw _ _ _ f _ => tileCycles f
  | .meMac _ _ _ _ a f _ m _ => m * rowCycles a f
  | .meMacs _ _ _ _ _ _ _ m _ => 1 + m
  | .meMacv _ _ _ f _ _ ic g _ => 1 + macvSG f (ic * g) + ic * g
  | .meAddx _ _ _ _ _ r _ => r
  | .meRound _ _ _ f _ _ r _ => roundLines f r
  | .meDrain _ _ _ _ r _ => 8 * r
  | .mvCopy _ _ _ _ _ n | .mvSend _ _ _ _ _ _ n | .mvRecv _ _ _ _ _ n | .mvHbm _ _ _ _ _ _ n _ | .mvStage _ _ _ _ _ n _
  | .mvFill _ _ _ n _ | .sqDigest _ _ _ n => n
  | .sqBr .. => 3
  | .vuLd _ _ _ (.landing _ _) nl _ => nl
  | .vuQmx .. => 4
  | .vuExp2 _ _ ty _ _ | .vuLog2 _ _ ty _ _ | .vuRcp _ _ ty _ _ | .vuRsq _ _ ty _ _ => specialP ty false
  | .vuTanh _ _ ty _ _ | .vuSin _ _ ty _ _ | .vuCos _ _ ty _ _ => specialP ty true
  | .vuXsum _ _ ty _ _ _ _ _ => if ty = .bf16 then 2 else 1
  | .vuTopk _ _ _ _ _ _ two _ => if two then 16 else 8
  | .vuRng .. => 2
  | _ => 1

/-- Is it on the drain path of the matrix engine (R185)? -/
def onDrain (i : Instr) : Bool :=
  match i with
  | .meRound .. | .meDrain .. => true
  | _ => false

/-- R185 along one path of a unit: the later of two words that overlap in a phase. -/
def pathBad : List Iss → List Nat
  | a :: b :: r => (if a.ph = b.ph && b.cyc < a.cyc + pathCycles a.ins then [b.idx] else []) ++ pathBad (b :: r)
  | _ => []

/-- The accumulator buffer that an instruction holds and the last cycle in which it holds it (R191). -/
def holds (x : Iss) : Option (Bool × Nat) :=
  match x.ins with
  | .meWin _ _ b _ _ _ | .meClear _ _ b => some (b, x.cyc + 11)
  | .meMac _ _ b _ a f _ m _ => some (b, x.cyc + (m - 1) * rowCycles a f + 11)
  | .meMacs _ _ b _ _ _ _ m _ => some (b, x.cyc + m + 11)
  | .meMacv _ _ b _ _ _ _ _ _ => some (b, x.cyc + pathCycles x.ins + 10)
  | .meAddx _ _ b _ _ r _ => some (b, x.cyc + r + 10)
  | .meRound _ _ b _ _ _ _ _ | .meDrain _ _ b _ _ _ => some (b, x.cyc + pathCycles x.ins - 1)
  | _ => none

/-- R191: a word that takes a buffer which the other path still holds. `old` are the earlier words. -/
def holdBad (l : List Iss) : List Nat :=
  l.filterMap (fun x => match holds x with
    | none => none
    | some (b, _) =>
      if l.any (fun y => y.idx ≠ x.idx && y.ph == x.ph && onDrain y.ins != onDrain x.ins && y.cyc < x.cyc && (match holds y with
        | some (b', e) => b' == b && x.cyc ≤ e
        | none => false)) then some x.idx else none)

/-- The formats that may stand in tile slot `t` after a word (R194): a predicated ME.LOADW may or may not load. -/
def slotAfter (t : Bool) (fs : List Fmt) (i : Instr) : List Fmt :=
  match i with
  | .meLoadw _ w t' f _ => if t' = t then (if w.pred then f :: fs else [f]) else fs
  | _ => fs

/-- R194: multiplies whose WFMT differs from a format that may stand in their slot. -/
def slotBad (t : Bool) : List Fmt → List Iss → List Nat
  | _, [] => []
  | fs, x :: r =>
    (match x.ins with
     | .meMac _ _ _ t' _ f _ _ _ | .meMacs _ _ _ t' _ f _ _ _ => if t' = t && fs.any (· ≠ f) then [x.idx] else []
     | _ => []) ++ slotBad t (slotAfter t fs x.ins) r

/-- The window codes that stand for buffer `b` after a word; none where the image fixes none (check 13). -/
def codeAfter (b : Bool) (cs : List (BitVec 6)) (i : Instr) : List (BitVec 6) :=
  match i with
  | .meWin _ w b' c _ _ => if b' = b then (if w.pred then [] else [c]) else cs
  | _ => cs

/-- Check 13: ME.ADDX words whose code differs from the one that the image fixes for the buffer (R135, R198). -/
def codeBad (b : Bool) : List (BitVec 6) → List Iss → List Nat
  | _, [] => []
  | cs, x :: r =>
    (match x.ins with
     | .meAddx _ _ b' c _ _ _ => if b' = b && cs.any (· ≠ c) then [x.idx] else []
     | _ => []) ++ codeBad b (codeAfter b cs x.ins) r

/-- R211: a SET that issues before the FS write of an earlier LOADS or LOADE. -/
def setBad (l : List Iss) : List Nat :=
  l.filterMap (fun x => match x.ins with
    | .sqFlag _ _ (.set _ _) =>
      if l.any (fun y => y.ph == x.ph && y.cyc < x.cyc && (match y.ins with
        | .sqFlag _ _ (.loads _ _) => x.cyc ≤ y.cyc + 4
        | .sqFlag _ _ (.loade _ _ _ _) => x.cyc ≤ y.cyc + 6
        | _ => false)) then some x.idx else none
    | _ => none)

/-- Register writes of a vector instruction issued in cycle `c`: cycle at whose end, and register (R226, R227, R239, R242). -/
def regWrites (i : Instr) (c : Nat) : List (Nat × Nat) :=
  match i with
  | .vuLd _ _ d (.store _) _ _ => [(c + 4, d)]
  | .vuLd _ _ d (.landing _ _) nl _ => (List.range nl).map (fun j => (c + 6 + j, d))
  | .vuSt .. => []
  | .vuAdd _ _ _ d _ _ | .vuSub _ _ _ d _ _ | .vuMul _ _ _ d _ _ | .vuFma _ _ _ d _ _ _ | .vuMin _ _ _ d _ _ | .vuMax _ _ _ d _ _
  | .vuCmp _ _ _ _ d _ _ | .vuSel _ _ d _ _ _ | .vuIadd _ _ d _ _ _ _ | .vuAnd _ _ d _ _ | .vuOr _ _ d _ _ | .vuXor _ _ d _ _
  | .vuShl _ _ d _ _ | .vuShr _ _ d _ _ _ | .vuCvt _ _ d _ _ _ _ _ _ | .vuExp2 _ _ _ d _ | .vuLog2 _ _ _ d _ | .vuRcp _ _ _ d _
  | .vuRsq _ _ _ d _ | .vuTanh _ _ _ d _ | .vuSin _ _ _ d _ | .vuCos _ _ _ d _ | .vuXsum _ _ _ d _ _ _ _ | .vuRng _ _ d _ _ _
  | .vuPerm _ _ d _ _ _ => [(c + vuLatency i, d)]
  | .vuQmx _ _ d _ e _ _ => [(c + vuLatency i, d), (c + vuLatency i, e)]
  | .vuTopk _ _ _ d _ _ _ _ => [(c + vuLatency i, d), (c + vuLatency i, d + 1)]
  | _ => []

/-- R221 on the writes of a phase, in issue order: a third write at the end of a cycle, or a second of one register. -/
def writesBad : List (Nat × Nat × Nat) → List (Nat × Nat × Nat) → List Nat
  | _, [] => []
  | old, (c, r, i) :: rest =>
    let same := old.filter (fun o => o.1 = c)
    (if 2 ≤ same.length || same.any (fun o => o.2.1 = r) then [i] else []) ++ writesBad ((c, r, i) :: old) rest

/-- The issues of a path in phase `p`. -/
def inPhase (l : List Iss) (p : Nat) : List Iss := l.filter (fun x => x.ph = p)

/-- The phases in which a path issues. -/
def phasesOf (l : List Iss) : List Nat := (l.map (·.ph)).dedup

/-- R221 along a path. -/
def regBad (l : List Iss) : List Nat :=
  (phasesOf l).flatMap (fun p => writesBad [] ((inPhase l p).flatMap (fun x => (regWrites x.ins x.cyc).map (fun w => (w.1, w.2, x.idx)))))

/-- Cycles in which a matrix engine instruction issued in cycle `c` has an accumulator access (R184, R191). -/
def accCycles (i : Instr) (c : Nat) : List Nat :=
  match i with
  | .meWin .. | .meClear .. => [c + 11]
  | .meMac _ _ _ _ a f _ m _ => (List.range m).map (fun j => c + j * rowCycles a f + 11)
  | .meMacs _ _ _ _ _ _ _ m _ => (List.range m).map (fun j => c + 1 + j + 11)
  | .meMacv _ _ _ f _ _ ic g _ => (List.range (ic * g)).map (fun j => c + 1 + macvSG f (ic * g) + j + 11)
  | .meAddx _ _ _ _ _ r _ => (List.range r).map (fun j => c + j + 11)
  | .meRound .. | .meDrain .. => (List.range (pathCycles i)).map (fun j => c + j)
  | _ => []

/-- Cycles of a step in which a unit of the cluster issues or has an access (R184, R209), counted at the rated step, `n` to a phase. -/
def CluPath.used (p : CluPath) (pos n : Nat) : List Nat :=
  units.flatMap (fun u => (p.unit u).walk.iss.flatMap (fun x =>
    let ops := (opsOf x.ins u x.cyc pos).filterMap (fun o => if (resourceOf 0 o.2).isSome then some o.1 else none)
    (x.cyc :: ops ++ accCycles x.ins x.cyc).map (fun c => x.ph * n + c)))

/-- R209: SQ.WAIT words in whose interval a unit of the cluster issues or has an access, in this step or, on any of the paths `all`, in a
step that follows; `total` are the cycles of a step. -/
def waitBad (p : CluPath) (all : List CluPath) (pos n total : Nat) : List Nat :=
  let used := p.used pos n
  let later := (all.flatMap (fun q => q.used pos n)).dedup
  p.sq.walk.iss.filterMap (fun x => match x.ins with
    | .sqWait _ _ q =>
      let c := x.ph * n + x.cyc
      let hit := fun (y : Nat) => decide (c < y ∧ y ≤ c + q)
      if used.any hit || (range' 1 (q / max 1 total + 1)).any (fun m => later.any (fun y => hit (m * total + y))) then some x.idx else none
    | _ => none)

/-- Check 3 on a path of a cluster: all rules that need issue cycles. `slots` are the formats that may stand in T0 and T1 when a step
begins, `all` the paths of later steps, `n` the cycles of a phase and `total` those of a step. -/
def timingBad (p : CluPath) (all : List CluPath) (pos n total : Nat) (slots : List Fmt × List Fmt) : List Finding :=
  let me := p.me.walk.iss
  let f := fun (u : Unit4) (l : List Nat) => l.map (fun i => ((3, (p.unit u).ofs i) : Finding))
  f .me (pathBad (me.filter (fun x => !onDrain x.ins)) ++ pathBad (me.filter (fun x => onDrain x.ins)) ++ holdBad me ++
    slotBad false slots.1 me ++ slotBad true slots.2 me) ++
  f .vu (pathBad p.vu.walk.iss ++ regBad p.vu.walk.iss) ++ f .mv (pathBad p.mv.walk.iss) ++
  f .sq (pathBad p.sq.walk.iss ++ setBad p.sq.walk.iss ++ waitBad p all pos n total)

/-! ### Phase edges and the plan table (check 5) -/

/-- One past the last cycle in which a unit is busy with an instruction: its path cycles, its accesses and work, and a span transfer's
write at the destination (R88, R114, R203). -/
def busyEnd (x : Iss) (u : Unit4) (pos : Nat) : Nat :=
  let far := match x.ins with
    | .mvCopy _ _ _ _ dpos _ => if dpos = pos then 0 else 7
    | _ => 0
  (opsOf x.ins u x.cyc pos).foldl (fun e o => max e (o.1 + 1 + far)) (x.cyc + pathCycles x.ins)

/-- PLAN_END of the span of a cluster in phase `ph` of the step, and its byte offset (R157); 0 without a plan table. -/
def planAt (img : List Byte) (chip cl ph : Nat) : Nat × Option Nat :=
  match sectionOf img chip 6 0 with
  | none => (0, none)
  | some t =>
    let a := t.ofs + 2 * ((spanOf cl * leAt img 16 4 + ph / 8) * 8 + ph % 8)
    (leAt img a 2, some a)

/-- Check 5 on a path of a cluster: an execution that crosses a phase edge, a plan end above the plan table's, and any busy cycle where
the module has no plan table (R88, R157). -/
def planBad (img : List Byte) (chip cl : Nat) (p : CluPath) : List Finding :=
  units.flatMap (fun u => (p.unit u).walk.iss.flatMap (fun x =>
    let e := busyEnd x u (posOf cl)
    let o := (p.unit u).ofs x.idx
    let t := planAt img chip cl x.ph
    (if cyclesPerPhase (leAt img 8 1) (leAt img 10 1) < e then [(5, o)] else []) ++ (if t.1 < e then [(5, t.2.getD o)] else [])))

/-- Check 5 on the plan tables: values above the ceiling (R71, R88). -/
def ceilingBad (img : List Byte) : List Finding :=
  (sections img).flatMap (fun x =>
    if x.ty = 6 then ((wordsU16 (x.bytes img)).mapIdx (fun i v => (i, v))).filterMap (fun e =>
      if planCeiling (leAt img 8 1) (leAt img 10 1) < e.2 then some (5, x.ofs + 2 * e.1) else none) else [])
where
  /-- The u16 values in a list of bytes. -/
  wordsU16 : List Byte → List Nat
    | a :: b :: r => leNat [a, b] :: wordsU16 r
    | _ => []

/-! ### Collisions (check 6) -/

/-- A use of a resource of a span: phase, cycle, resource kind and key, byte offset of the word. Kinds above 3 are the limits of R105 on
the data mover: one store write and one store read in a cycle. -/
abbrev Use := Nat × Nat × Nat × Nat × Nat

/-- The uses of an instruction of the cluster (R107, R113 to R115). -/
def usesOf (cl : Nat) (u : Unit4) (x : Iss) (ofs : Nat) : List Use :=
  let pos := posOf cl
  (opsOf x.ins u x.cyc pos).flatMap (fun o =>
    (match resourceOf cl o.2 with
     | some r => [(x.ph, o.1, r.1, r.2.1, ofs)]
     | none => []) ++
    (match o.2, u with
     | .wr _ _, .mv => [(x.ph, o.1, 4, cl, ofs)]
     | .rd _ _, .mv => [(x.ph, o.1, 5, cl, ofs)]
     | _, _ => [])) ++
  (match x.ins with
   | .mvCopy _ _ _ dl dpos n =>
     if dpos = pos then []
     else
       let d := cluAt (spanOf cl) dpos
       (List.range n).flatMap (fun j => [(x.ph, x.cyc + j + 8, 2, d, ofs), (x.ph, x.cyc + j + 11, 0, 16 * d + (dl + j) % 16, ofs)])
   | _ => [])

/-- The uses of a whole path. -/
def CluPath.uses (p : CluPath) (cl : Nat) : List Use :=
  units.flatMap (fun u => (p.unit u).walk.iss.flatMap (fun x => usesOf cl u x ((p.unit u).ofs x.idx)))

/-- Do two uses meet? -/
def Use.meets (a b : Use) : Bool := a.1 == b.1 && a.2.1 == b.2.1 && a.2.2.1 == b.2.2.1 && a.2.2.2.1 == b.2.2.2.1

/-- Uses of one path that meet, by byte offset. -/
def selfBad : List Use → List Finding
  | [] => []
  | a :: r => (r.filter a.meets).flatMap (fun b => [(6, a.2.2.2.2), (6, b.2.2.2.2)]) ++ selfBad r

/-- Uses of two clusters that meet, by byte offset. -/
def crossBad (a b : List Use) : List Finding :=
  a.flatMap (fun x => (b.filter x.meets).flatMap (fun y => [(6, x.2.2.2.2), (6, y.2.2.2.2)]))

/-- Check 6 on a span, given each cluster's paths: collisions within a path, and between paths of different clusters. -/
def spanBad : List (List (List Use)) → List Finding
  | [] => []
  | c :: r => c.flatMap selfBad ++ r.flatMap (fun d => crossBad c.flatten d.flatten) ++ spanBad r

/-! ### Instruction memory (check 8) -/

/-- Lines of a stream (R163). -/
def Section.lines (x : Section) : Nat := (x.len + 127) / 128

/-- Is the stream longer than its window (R163)? -/
def nonResident (x : Option Section) : Bool :=
  match x with
  | some x => x.wlen < x.lines
  | none => false

/-- A refill: phase, cycle at whose end the window line is written, window line, stream line, byte offset (R164, R202). -/
def refillsOf (p : CluPath) : List (Nat × Nat × Nat × Nat × Nat) :=
  p.mv.walk.iss.flatMap (fun x => match x.ins with
    | .mvRecv _ _ _ _ (.imem wl sln) n => (List.range n).map (fun j => (x.ph, x.cyc + j + 6, wl + j, sln + j, p.mv.ofs x.idx))
    | _ => [])

/-- The stream line at a window line after the refills of `l`, when `line` stood there before. -/
def lineAfter (l : List (Nat × Nat × Nat × Nat × Nat)) (wl : Nat) (line : Option Nat) : Option Nat :=
  l.foldl (fun s r => if r.2.2.1 = wl then some r.2.2.2.1 else s) line

/-- The stream line that ARM leaves at a window line of a stream (R163). -/
def armLine (x : Section) (wl : Nat) : Option Nat := if wl - x.win < x.lines then some (wl - x.win) else none

/-- R165 on a path `p` of a step, after a step on path `q` if there was one: every word of a non-resident stream that has an issue cycle
finds its line, written at least 4 cycles before and not about to be replaced. The three words of SQ.BR issue one by one (R210). -/
def refillBad (q : Option CluPath) (p : CluPath) : List Finding :=
  let before := match q with
    | some q => refillsOf q
    | none => []
  let mine := refillsOf p
  units.flatMap (fun u =>
    let up := p.unit u
    match up.sec with
    | none => []
    | some x =>
      if x.lines ≤ x.wlen then []
      else up.walk.seen.filterMap (fun i =>
        let want := i.1 / 16
        let wl := x.win + want % x.wlen
        let done := mine.filter (fun r => r.1 < i.2.1 || r.1 == i.2.1 && decide (r.2.1 + 4 ≤ i.2.2))
        let near := mine.any (fun r => r.2.2.1 == wl && r.1 == i.2.1 && decide (i.2.2 < r.2.1 + 4 ∧ r.2.1 ≤ i.2.2))
        if lineAfter done wl (lineAfter before wl (armLine x wl)) = some want && !near then none else some (8, up.ofs i.1)))

/-- Check 8 on a cluster's sections and paths: the data mover resident (R164), refills into the window of one non-resident stream (R205),
and their times (R165). -/
def imemBad (p : CluPath) : List Finding :=
  let secs := units.map (fun u => (p.unit u).sec)
  let ring := secs.filterMap (fun x => if nonResident x then x else none)
  (if ring.isEmpty then [] else match p.mv.sec with
    | some m => if nonResident p.mv.sec then [(8, m.at_ + 8)] else []
    | none => ring.map (fun x => (8, x.at_ + 8))) ++
  p.mv.walk.iss.filterMap (fun x => match x.ins with
    | .mvRecv _ _ _ _ (.imem wl _) n =>
      if ring.any (fun y => y.win ≤ wl && wl + n ≤ y.win + y.wlen) then none else some (8, p.mv.ofs x.idx)
    | _ => none)

/-! ### Fixed-length branches (check 9) -/

/-- R171 and R210 on a walk of a unit that has a stream: a mark reaches phase p + 1, the words that issue in phases p + 1 to p + n are those of
the arm that the path takes, and from the edge of phase p + n + 1 on the stream is past both arms, until it comes to the mark again. -/
def armShape (w : Walk) (u : Unit4) (b : Branch) : Bool :=
  match w.marks.find? (fun m => m.2.1 = b.2.2.2.1) with
  | none => false
  | some m =>
    let lo := m.1 + 1 + (if b.2.2.1 then 0 else ArmLens.of b.1 u)
    let inArm := fun (i : Nat) => lo ≤ i && i < lo + ArmLens.of (if b.2.2.1 then b.1 else b.2.1) u
    let again := fun (ph : Nat) => w.marks.any (fun e => e.1 == m.1 && decide (b.2.2.2.1 < e.2.1 ∧ e.2.1 ≤ ph))
    w.seen.all (fun x => if x.2.1 < b.2.2.2.1 then true else if x.2.1 < b.2.2.2.2 then inArm x.1 else !inArm x.1 || again x.2.1) &&
      w.marks.all (fun e => e.2.1 ≤ b.2.2.2.2 || !inArm e.1 || again e.2.1)

/-- What others observe of a cluster in phases `lo` to `hi − 1` of a path (R172): crossing entries, span transfers and refills, each with
its phase. -/
def observed (p : CluPath) (lo hi : Nat) : List (Nat × List Nat) :=
  units.flatMap (fun u => (p.unit u).walk.iss.flatMap (fun x =>
    if lo ≤ x.ph && x.ph < hi then
      match x.ins with
      | .mvSend _ _ _ d q e n => (List.range n).map (fun j => (x.ph, [0, d, q, e + j]))
      | .mvHbm _ _ _ st q e n _ => (List.range n).map (fun j => (x.ph, [0, 100 + st, q, e + j]))
      | .mvStage _ _ _ q e n _ => (List.range n).map (fun j => (x.ph, [0, 110, q, e + j]))
      | .sqAgree _ _ port q e _ _ _ _ _ => [(x.ph, [0, 104 + port, q, e])]
      | .mvCopy c _ _ dl dpos n => if dpos = posOf c then [] else (List.range n).map (fun j => (x.ph, [1, dpos, dl + j]))
      | .mvRecv _ _ _ _ (.imem wl sln) n => (List.range n).map (fun j => (x.ph, [2, wl + j, sln + j]))
      | _ => []
    else []))

/-- Are two lists equal as sets? -/
def sameSet (a b : List (Nat × List Nat)) : Bool := a.all b.contains && b.all a.contains

/-- R172: does the path end every phase from `lo` to `hi − 1` at or below the plan table's value? -/
def plansFit (img : List Byte) (chip cl : Nat) (p : CluPath) (lo hi : Nat) : Bool :=
  units.all (fun u => (p.unit u).walk.iss.all (fun x =>
    x.ph < lo || hi ≤ x.ph || busyEnd x u (posOf cl) ≤ (planAt img chip cl x.ph).1))

/-- Check 9 on the paths of a cluster, reported at the first word of the SQ.BR (R171 to R173). -/
def branchBad (img : List Byte) (chip cl : Nat) (ps : List CluPath) : List Finding :=
  ps.flatMap (fun p => p.sq.walk.brs.flatMap (fun b =>
    let shape := units.all (fun u => (p.unit u).sec.isNone || armShape (p.unit u).walk u b.1)
    let other := ps.filter (fun q => q.sq.walk.brs.any (fun c => c.2 == b.2 && c.1.2.2.1 != b.1.2.2.1 && c.1.2.2.2 == b.1.2.2.2))
    let same := other.all (fun q => sameSet (observed p b.1.2.2.2.1 b.1.2.2.2.2) (observed q b.1.2.2.2.1 b.1.2.2.2.2))
    if shape && same && plansFit img chip cl p b.1.2.2.2.1 b.1.2.2.2.2 then [] else [(9, p.sq.ofs b.2)]))

/-! ### A cluster and a module -/

/-- All findings on the paths `ps` of a cluster under one assignment of agreed values, given every path `all` under any. -/
def cluBad (img : List Byte) (chip cl : Nat) (all ps : List CluPath) : List Finding :=
  let n := cyclesPerPhase (leAt img 8 1) (leAt img 10 1)
  let ends := fun (g : CluPath → List Fmt) => (all.flatMap g).dedup
  let slots := (ends (fun p => p.me.walk.iss.foldl (fun fs x => slotAfter false fs x.ins) []),
    ends (fun p => p.me.walk.iss.foldl (fun fs x => slotAfter true fs x.ins) []))
  let codes := fun (b : Bool) => (all.flatMap (fun p => p.me.walk.iss.foldl (fun cs x => codeAfter b cs x.ins) [])).dedup
  ps.flatMap (fun p =>
    units.flatMap (fun u =>
      (if (p.unit u).sec.isNone then [] else
        (p.unit u).walk.findings (p.unit u).ofs ++ marksBad img chip (p.unit u).walk (p.unit u).ofs)) ++
    timingBad p all (posOf cl) n (n * stepPhases img) slots ++ planBad img chip cl p ++ imemBad p ++ refillBad none p ++
    all.flatMap (fun q => refillBad (some q) p) ++
    [false, true].flatMap (fun b => (codeBad b (codes b) p.me.walk.iss).map (fun i => (13, p.me.ofs i)))) ++
  branchBad img chip cl ps

/-- Findings on the clusters of a module with chip number `chip`. -/
def clustersBad (img : List Byte) (chip : Nat) : List Finding :=
  let vals := moduleVals img chip
  let cs := imageClusters img
  let paths := cs.map (fun c => (c, vals.map (cluPaths img chip c)))
  paths.flatMap (fun e => e.2.flatMap (fun ps => cluBad img chip e.1 e.2.flatten ps)) ++
  ((cs.map spanOf).dedup).flatMap (fun sp =>
    (List.range vals.length).flatMap (fun v =>
      spanBad ((paths.filter (fun e => spanOf e.1 = sp)).map (fun e => (nth [] e.2 v).map (fun p => p.uses e.1)))))

end Sys2Proof.Machine
end

