-- ==== Sys2Proof/Machine/MemChecks.lean ====
section
/-! DEFINITION. Load checks on the memory command streams and the port streams (09: R247, R250, R253, R256 to R262; 06: R162, R176, R179;
07: R216). -/

namespace Sys2Proof.Machine

/-! ### Memory command streams: bank states and spacings (checks 3 and 11) -/

/-- A memory command as the timing check takes it: kind, first pseudo-channel, how many, bank, row, every bank. -/
def memParts (i : Instr) : Option (MemCmd × Nat × Nat × Nat × Nat × Bool) :=
  match i with
  | .act _ _ lo n b r => some (.act, lo, n, b, r, false)
  | .pre _ _ lo n b all => some (.pre, lo, n, b, 0, all)
  | .rd _ _ lo n b _ _ _ _ _ => some (.rd, lo, n, b, 0, false)
  | .wr _ _ lo n b _ _ _ => some (.wr, lo, n, b, 0, false)
  | .refa _ _ lo n => some (.refa, lo, n, 0, 0, false)
  | .refb _ _ lo n b => some (.refb, lo, n, b, 0, false)
  | _ => none

/-- The least number of memory cycles in a phase (R247). -/
def memCycles (k : Nat) : Nat := 144 * k / 5

/-- The sequencer after the issues of a step, and the words at fault: a word past the last cycle in which a stream issues, or the first whose
bank state or spacing is broken. Spacings are minima, so every phase counts its least number of cycles (R247). -/
def playStep (k base : Nat) (l : List Iss) (a : Msq × List Nat) : Msq × List Nat :=
  l.foldl (fun a x =>
    match memParts x.ins with
    | none => a
    | some (c, lo, n, b, row, all) =>
      let r := memWord a.1 c lo n b row all ((base + x.ph) * memCycles k + x.cyc)
      (r.1, a.2 ++ (if memCycles k ≤ x.cyc || r.2.2.1.isSome then [x.idx] else []))) a

/-- Check 11 without the debts: a step on path `q`, then one on path `p`. -/
def spacingBad (img : List Byte) (table : List Reg) (q p : Walk) : List Nat :=
  let k := leAt img 8 1
  let a := playStep k 0 q.iss ({ ttab := table }, [])
  match a.2 with
  | i :: _ => [i]
  | [] => (playStep k (stepPhases img) p.iss a).2.take 1

/-- Reads of landing entries by WR words of a phase, cycle and number (R253). -/
def landReads (x : Iss) : List (Nat × Nat) :=
  match x.ins with
  | .wr _ _ _ n _ _ _ _ => (List.range ((n + 7) / 8)).map (fun t => (x.cyc + t, min 8 (n - 8 * t)))
  | _ => []

/-- R253: WR words that make a ninth entry read in a cycle, or read past the edge of their issue phase. The edge is that of the shortest phase
(R247), so that reads of two phases never share a cycle. -/
def readsBad (k : Nat) (l : List Iss) : List Nat :=
  l.filterMap (fun x =>
    let old := (l.filter (fun y => y.ph = x.ph && y.cyc < x.cyc)).flatMap landReads
    if (landReads x).any (fun r => memCycles k ≤ r.1 || 8 < r.2 + ((old.filter (fun o => o.1 = r.1)).map (·.2)).sum) then some x.idx else none)

/-! ### Refresh debt (check 11: R260, R262) -/

/-- Cycle 0 of phase `P` since the start keystone (R246). -/
def edgeOf (k P : Nat) : Nat := (P * k * 144 + 4) / 5

/-- Refreshes of one bank on a path: phase and cycle. -/
def refreshesOf (w : Walk) (pc b : Nat) : List (Nat × Nat) :=
  w.iss.filterMap (fun x => match x.ins with
    | .refa _ _ lo n => if lo ≤ pc && pc < lo + n then some (x.ph, x.cyc) else none
    | .refb _ _ lo n b' => if lo ≤ pc && pc < lo + n && b' == b then some (x.ph, x.cyc) else none
    | _ => none)

/-- A debt after the increases up to number `n'`, or the increase that takes it past 8. -/
def grow (d : Int) (n n' : Nat) : Sum Nat Int :=
  if 9 ≤ d + ((n' - n : Nat) : Int) then .inl (n + (9 - d).toNat) else .inr (d + ((n' - n : Nat) : Int))

/-- The debt of a bank over step `s` (R260): an increase at the edge of a refresh counts first, and no refresh is credited at −8. -/
def debtStep (k total s : Nat) (d : Int) (n : Nat) : List (Nat × Nat) → Sum Nat (Int × Nat)
  | [] =>
    let n' := increasesBy (edgeOf k ((s + 1) * total) - 1)
    match grow d n n' with
    | .inl f => .inl f
    | .inr d => .inr (d, n')
  | r :: l =>
    let n' := increasesBy (edgeOf k (s * total + r.1) + r.2)
    match grow d n n' with
    | .inl f => .inl f
    | .inr d => debtStep k total s (max (-8) (d - 1)) n' l

/-- Steps from `s` on, each on the path that leaves the highest debt: the path, step and increase at which a limit is first passed. The
debt stays at or below 8 exactly when both limits of R262 hold. -/
def debtRun (k total : Nat) (paths : List (List (Nat × Nat))) : Nat → Nat → Int → Nat → Option (Nat × Nat × Nat)
  | 0, _, _, _ => none
  | m + 1, s, d, n =>
    let r := paths.map (debtStep k total s d n)
    match (r.mapIdx (fun i x => (i, x))).findSome? (fun e => match e.2 with
      | .inl f => some (e.1, s, f)
      | .inr _ => none) with
    | some e => some e
    | none =>
      let ends := r.filterMap (fun x => match x with
        | .inl _ => none
        | .inr y => some y)
      match ends with
      | [] => none
      | e :: l => debtRun k total paths m (s + 1) (l.foldl (fun a x => max a x.1) e.1) e.2

/-- Steps after which the machine times of refreshes against increases repeat. -/
def debtPeriod (k ticks : Nat) : Nat := 15625 / Nat.gcd (768 * k * ticks) 15625

/-- How many steps decide whether a bank ever passes a limit: two periods where every path refreshes at least as often as the debt
rises, and otherwise enough for a gain of 1 a period to reach 9 from −8. -/
def debtSteps (k ticks : Nat) (paths : List (List (Nat × Nat))) : Nat :=
  if paths.any (fun l => l.length * 15625 < 768 * k * ticks) then 20 * debtPeriod k ticks + 20 else 2 * debtPeriod k ticks

/-- The word reported for a limit passed at increase `f` in step `s` (R179): the first that issues at or after it, else the mark that ends
the step body. -/
def debtWord (k total : Nat) (w : Walk) (s f : Nat) : Nat :=
  match w.iss.find? (fun x => increaseCycle f ≤ edgeOf k (s * total + x.ph) + x.cyc) with
  | some x => x.idx
  | none => ((w.marks.getLast?).map (·.1)).getD 0

/-- Check 11 on the debts of every bank of a stack, over all paths. -/
def debtBad (img : List Byte) (ws : List Walk) : List Nat :=
  let k := leAt img 8 1
  let ticks := leAt img 16 4
  let keys := ((List.range 64).flatMap (fun pc => (List.range 48).map (fun b => ws.map (fun w => refreshesOf w pc b)))).dedup
  keys.filterMap (fun paths =>
    (debtRun k (8 * ticks) paths (debtSteps k ticks paths) 0 0 0).map (fun e => debtWord k (8 * ticks) (nth {} ws e.1) e.2.1 e.2.2))

/-- The walks of a stream section that steers no branch of its own, one for each assignment of agreed values. -/
def plainWalks (img : List Byte) (chip : Nat) (x : Section) (id : StreamId) (vals : List (Tbl Nat)) : List Walk :=
  let ws := (readAll id (x.words img)).toArray
  vals.map (fun v => (Track.mk img chip id ws (stepPhases img) v).walk {})

/-- Findings on the memory command stream of a stack of a module with chip number `chip`. -/
def stackBad (img : List Byte) (chip st : Nat) : List Finding :=
  match sectionOf img chip 3 st with
  | none => []
  | some x =>
    let ofs := fun (i : Nat) => x.ofs + 8 * i
    let ws := plainWalks img chip x (.mem st) (moduleVals img chip)
    let table := presetTableOf img (sectionOf img chip 9 (2 + st)) st
    ws.flatMap (fun w => w.findings ofs ++ marksBad img chip w ofs ++ (readsBad (leAt img 8 1) w.iss).map (fun i => (3, ofs i)) ++
      ws.flatMap (fun q => (spacingBad img table q w).map (fun i => (11, ofs i)))) ++
    (debtBad img ws).map (fun i => (11, ofs i))

/-! ### Port streams -/

/-- Findings on the port stream of logical port `lp` of a module: paths (check 4), a second PT.PAGE in a phase (check 3, R216), a word past
the last slot of its phase (check 5), and a page that the port's page set does not have (check 12, R216, R330). -/
def portBad (img : List Byte) (chip lp : Nat) : List Finding :=
  match sectionOf img chip 2 lp with
  | none => []
  | some x =>
    let ofs := fun (i : Nat) => x.ofs + 8 * i
    let pages := match sectionOf img chip 5 lp with
      | some y => leAt img y.ofs 2
      | none => 0
    (plainWalks img chip x (.port lp) (moduleVals img chip)).flatMap (fun w =>
      w.findings ofs ++ marksBad img chip w ofs ++
      w.iss.flatMap (fun i =>
        (if w.iss.any (fun j => j.ph == i.ph && j.cyc < i.cyc) then [(3, ofs i.idx)] else []) ++
        (if 32 * leAt img 8 1 ≤ i.cyc then [(5, ofs i.idx)] else []) ++
        (match i.ins with
         | .ptPage _ _ page => if page < pages then [] else [(12, ofs i.idx)]
         | _ => [])))

end Sys2Proof.Machine
end

