-- ==== Sys2Proof/Machine/PageChecks.lean ====
section
/-! DEFINITION. Load checks on causeway page sets (12: R329 to R336, R343; 07: R216): check 12, and check 13 for combine partners. -/

namespace Sys2Proof.Machine

/-! ### Page sets -/

/-- Slots of a phase, and entries of a page (R329). -/
def pageSlots (img : List Byte) : Nat := 32 * leAt img 8 1

/-- PAGES of a page set. -/
def setPages (img : List Byte) (x : Section) : Nat := leAt img x.ofs 2

/-- The byte offset of an entry of a page. -/
def entryOfs (img : List Byte) (x : Section) (page slot : Nat) : Nat := x.ofs + 64 + 16 * (page * pageSlots img + slot)

/-- The two words of an entry (R331, R332). -/
def entryAt (img : List Byte) (x : Section) (page slot : Nat) : Reg × Reg :=
  let o := entryOfs img x page slot
  (BitVec.ofNat 64 (leAt img o 8), BitVec.ofNat 64 (leAt img (o + 8) 8))

/-- N of a service reservation code (R329). -/
def svcN (code : Nat) : Nat := if code = 0 then 32 else if code = 1 then 16 else 64

/-- Header fields of a page set at fault, by offset within the section (R329, R330); `svc` is SVC_RES of the image's first page set. -/
def setHeadBad (img : List Byte) (x : Section) (svc : Nat) : List Nat :=
  let f := fun (o n : Nat) => leAt img (x.ofs + o) n
  let pages := setPages img x
  let n := pageSlots img
  (if 1 ≤ pages ∧ pages ≤ 1024 ∧ pages * n ≤ 32768 ∧ x.len = 64 + 16 * n * pages then [] else [0]) ++
    (if 1 ≤ f 2 2 ∧ f 2 2 ≤ 4096 then [] else [2]) ++ (if f 6 1 ≤ 2 ∧ f 6 1 = svc then [] else [6]) ++
    (if f 7 1 = leAt img 8 1 then [] else [7]) ++ (if f 8 2 < pages then [] else [8]) ++
    (if f 10 2 ≤ 32 * svcN (f 6 1) - 32 then [] else [10]) ++ (if (slice img (x.ofs + 12) 52).all (· == 0) then [] else [12])

/-- Does an entry of port `port` break a rule that it shows alone (R331, R332, R334)? -/
def entryBad (port : Nat) (e : Reg × Reg) : Bool :=
  let w := e.1
  let v := e.2
  let isrc := field v 0 2
  let dspan := field w 21 7
  field w 52 12 ≠ 0 || field v 34 30 ≠ 0 || bit w (12 + port) || bit w 18 && !bit w 20 || !(dspan = 112 || field w 28 2 < queuesOf dspan) ||
    bit v 20 && isrc < 2 || isrc = 3 && bit v 13

/-- Findings on the page sets one by one. -/
def setsBad (img : List Byte) : List Finding :=
  let l := (sections img).filter (fun x => x.ty = 5)
  let svc := match l with
    | x :: _ => leAt img (x.ofs + 6) 1
    | [] => 0
  l.flatMap (fun x =>
    match setHeadBad img x svc with
    | [] => (List.range (setPages img x)).flatMap (fun p => (List.range (pageSlots img)).filterMap (fun j =>
        if entryBad x.index (entryAt img x p j) then some (12, entryOfs img x p j) else none))
    | bad => bad.map (fun o => ((12, x.ofs + o) : Finding)))

/-! ### Both ends of a link (R330) -/

/-- The neighbour in the positive direction of dimension `d` of a module, if the machine has one (R13). -/
def upChip (img : List Byte) (c d : Nat) : Option Nat :=
  let at3 := nth 0 [c / 1024, c / 32 % 32, c % 32] d
  if at3 + 1 < leAt img (12 + d) 1 then some (c + nth 0 [1024, 32, 1] d) else none

/-- The chip numbers of a machine of the image's extents. -/
def machineChips (img : List Byte) : List Nat :=
  (List.range (leAt img 12 1)).flatMap (fun x => (List.range (leAt img 13 1)).flatMap (fun y =>
    (List.range (leAt img 14 1)).map (fun z => 1024 * x + 32 * y + z)))

/-- Links of which one end alone has a page set, or whose two sets declare different TOLL or HOLD_MAX. -/
def linksBad (img : List Byte) : List Finding :=
  (machineChips img).flatMap (fun c => (List.range 3).flatMap (fun d =>
    match upChip img c d with
    | none => []
    | some u =>
      match sectionOf img c 5 (2 * d + 1), sectionOf img u 5 (2 * d) with
      | none, none => []
      | some a, none => [(12, a.ofs)]
      | none, some b => [(12, b.ofs)]
      | some a, some b => [2, 4].flatMap (fun o =>
          if leAt img (a.ofs + o) 2 = leAt img (b.ofs + o) 2 then [] else [(12, a.ofs + o), (12, b.ofs + o)])))

/-! ### Active pages along the port streams (R216, R330, R333) -/

/-- The pages active in the phases of a step that begins with page `cur`, and the page after it; a page beyond the `n` of the set changes
nothing here. -/
def stepPages (total n cur : Nat) (w : Walk) : List Nat × Nat :=
  let change := fun (a : Nat) => w.iss.findSome? (fun x => match x.ins with
    | .ptPage _ _ page => if x.ph = a && page < n then some page else none
    | _ => none)
  let r := (List.range total).foldl (fun (s : List Nat × Nat) a => (s.2 :: s.1, (change a).getD s.2)) ([], cur)
  (r.1.reverse, r.2)

/-- The pages active in the phases of steps on the given paths, from page `cur`. -/
def pagesOver (total n : Nat) : Nat → List Walk → List Nat
  | _, [] => []
  | cur, w :: r =>
    let s := stepPages total n cur w
    s.1 ++ pagesOver total n s.2 r

/-- Steps that show every window of R343 and every run of R330 that begins in their first one: such a run is at most 2,017 slots long, or
is found too long within 4,096. -/
def windowSteps (img : List Byte) : Nat :=
  let n := stepPhases img * pageSlots img
  1 + (4096 + n - 1) / n

/-- All lists of `n` numbers below `m`. -/
def tuples (m : Nat) : Nat → List (List Nat)
  | 0 => [[]]
  | n + 1 => (tuples m n).flatMap (fun l => (List.range m).map (fun i => i :: l))

/-- A port of a module with a page set: logical port, section, and its walk for each assignment of agreed values. -/
abbrev PagePort := Nat × Section × List Walk

/-- The ports of a module whose page sets have a sound header. -/
def pagePorts (img : List Byte) (chip : Nat) (vals : List (Tbl Nat)) : List PagePort :=
  (List.range 6).filterMap (fun lp => match sectionOf img chip 5 lp with
    | none => none
    | some x =>
      if (setHeadBad img x (leAt img (x.ofs + 6) 1)).isEmpty then
        some (lp, x, match sectionOf img chip 2 lp with
          | some y => plainWalks img chip y (.port lp) vals
          | none => vals.map (fun _ => {}))
      else none)

/-- The pages of a port over steps on the paths numbered `seq`, from page `cur`. -/
def PagePort.pages (img : List Byte) (p : PagePort) (cur : Nat) (seq : List Nat) : List Nat :=
  pagesOver (stepPhases img) (setPages img p.2.1) cur (seq.map (nth {} p.2.2))

/-- The page of a port after a step on path `v` that begins with page `cur`. -/
def PagePort.after (img : List Byte) (p : PagePort) (v cur : Nat) : Nat :=
  (stepPages (stepPhases img) (setPages img p.2.1) cur (nth {} p.2.2 v)).2

/-- Everything that `f` reaches from `new` in at most `n` turns; `seen` has been reached before. -/
def reachFrom {α : Type} [DecidableEq α] (f : α → List α) : Nat → List α → List α → List α
  | 0, seen, _ => seen
  | n + 1, seen, new =>
    let next := ((new.flatMap f).dedup).filter (fun x => !seen.contains x)
    if next.isEmpty then seen else reachFrom f n (seen ++ next) next

/-- The pages of all ports with which a step can begin: INITIAL, and whatever steps on any paths leave (R216, R330, R333). -/
def startPages (img : List Byte) (ports : List PagePort) (nv : Nat) : List (List Nat) :=
  let first := ports.map (fun p => leAt img (p.2.1.ofs + 8) 2)
  let step := fun (t : List Nat) => (List.range nv).map (fun v => (ports.zip t).map (fun e => e.1.after img v e.2))
  reachFrom step ((ports.map (fun p => setPages img p.2.1)).foldl (· * ·) 1) [first] [first]

/-! ### Reserved slots (R330, R343) -/

/-- Slots of a page with RES set. -/
def resSlots (img : List Byte) (x : Section) (page : Nat) : List Nat :=
  (List.range (pageSlots img)).filter (fun j => bit (entryAt img x page j).2 33)

/-- Do the reserved slot positions `pos` of `len` slots leave a run longer than `gap`? -/
def runsLong (gap len : Nat) : Nat → List Nat → Bool
  | start, [] => start + gap < len
  | start, p :: r => start + gap < p || runsLong gap len (p + 1) r

/-- Do the positions leave a window of 32 × N slots, of `len` slots, with fewer than 32 reserved ones? -/
def windowsShort (n len : Nat) (pos : List Nat) : Bool :=
  let far := pos.drop 32
  decide (32 * n ≤ len) && (match pos[31]? with
    | some p => 32 * n ≤ p
    | none => true) ||
  (List.zip pos far).any (fun p => p.1 + 32 * n < p.2) || (pos.drop far.length).any (fun p => p + 32 * n < len)

/-- Findings on the reserved slots of a port over steps on the paths numbered `seq`, from page `cur`. -/
def reserveBad (img : List Byte) (p : PagePort) (cur : Nat) (seq : List Nat) : List Finding :=
  let n := pageSlots img
  let pages := p.pages img cur seq
  let slots := pages.dedup.map (fun g => (g, resSlots img p.2.1 g))
  let pos := (pages.mapIdx (fun a g => (Tbl.get [] slots g).map (fun j => a * n + j))).flatten
  let len := pages.length * n
  if runsLong (leAt img (p.2.1.ofs + 10) 2) len 0 pos || windowsShort (svcN (leAt img (p.2.1.ofs + 6) 1)) len pos then [(12, p.2.1.ofs + 10)]
  else []

/-! ### One slot (R334, R336) -/

/-- A source that names a sink: injected, combine, byte offset of its entry, WCODE, and the delivery target. -/
abbrev SlotSource := Bool × Bool × Nat × Nat × Nat

/-- The sources of a slot that name sink `k`: egress ports 0 to 5, local delivery 6. -/
def sourcesOf (k : Nat) (l : List (Nat × Nat × Reg × Reg)) : List SlotSource :=
  l.flatMap (fun e =>
    let w := e.2.2.1
    let v := e.2.2.2
    (if bit w 20 && (if k = 6 then bit w 18 else bit w (12 + k)) then [(false, bit w 19, e.2.1, field w 6 6, field w 21 19)] else []) ++
    (if field v 0 2 ≠ 0 && (if k = 6 then bit v 20 else bit v (14 + k)) then [(true, field v 0 2 == 2, e.2.1, field v 27 6, 0)] else []))

/-- What check 12 or 13 finds of the sources of one sink (R336, R338): a collision, or partners with different window codes. -/
def sinkBad (k : Nat) (l : List SlotSource) : List Finding :=
  let at12 := l.map (fun x => ((12, x.2.2.1) : Finding))
  match l with
  | [] => []
  | [a] => if k = 6 && a.1 && a.2.1 then at12 else []
  | [a, b] =>
    if !(a.2.1 && b.2.1) || a.1 && b.1 || k = 6 && !a.1 && !b.1 && a.2.2.2.2 != b.2.2.2.2 then at12
    else if a.2.2.2.1 = b.2.2.2.1 then [] else [(13, a.2.2.1), (13, b.2.2.1)]
  | _ => at12

/-- Findings on one slot, given the entries that govern it: port, byte offset and words. -/
def slotBad12 (l : List (Nat × Nat × Reg × Reg)) : List Finding :=
  (List.range 7).flatMap (fun k => sinkBad k (sourcesOf k l)) ++
  l.flatMap (fun e => if bit e.2.2.2 33 && !(sourcesOf e.1 l).isEmpty then [(12, e.2.1)] else [])

/-- Findings on the pages of a module's ports that are active together. -/
def togetherBad (img : List Byte) (ports : List PagePort) (pages : List Nat) : List Finding :=
  (List.range (pageSlots img)).flatMap (fun j =>
    slotBad12 ((ports.zip pages).map (fun e => (e.1.1, entryOfs img e.1.2.1 e.2 j, entryAt img e.1.2.1 e.2 j))))

/-- R330: entries of a port that name an egress whose logical port has no page set, and so carries no scheduled cell. -/
def entriesOff (img : List Byte) (chip : Nat) (p : PagePort) : List Finding :=
  let off := (List.range 6).filter (fun e => (sectionOf img chip 5 e).isNone)
  (List.range (setPages img p.2.1)).flatMap (fun g => (List.range (pageSlots img)).filterMap (fun j =>
    let x := entryAt img p.2.1 g j
    if off.any (fun e => bit x.1 20 && bit x.1 (12 + e) || field x.2 0 2 ≠ 0 && bit x.2 (14 + e)) then some (12, entryOfs img p.2.1 g j)
    else none))

/-- The columns of a list of rows of `n` entries. -/
def columns (n : Nat) (rows : List (List Nat)) : List (List Nat) := (List.range n).map (fun a => rows.map (fun r => nth 0 r a))

/-- Check 12, and 13 for combine partners, on the pages that a module's port streams make active. -/
def pagesBad (img : List Byte) (chip : Nat) : List Finding :=
  let vals := moduleVals img chip
  let ports := pagePorts img chip vals
  if ports.isEmpty then []
  else
    let starts := startPages img ports vals.length
    let steps := (tuples vals.length (windowSteps img)).flatMap (fun q => starts.map (fun t => (q, t)))
    let one := starts.flatMap (fun t => (List.range vals.length).flatMap (fun v =>
      columns (stepPhases img) ((ports.zip t).map (fun e => e.1.pages img e.2 [v]))))
    ports.flatMap (entriesOff img chip) ++ steps.flatMap (fun e => (ports.zip e.2).flatMap (fun x => reserveBad img x.1 x.2 e.1)) ++
    one.dedup.flatMap (togetherBad img ports)

end Sys2Proof.Machine
end

