-- ==== Sys2Proof/Machine/MeshChecks.lean ====
section
/-! DEFINITION. Load check 7: the die-mesh load (04: R116, R117; 12: R511; 06: R179). The spec bounds the lines that a link, an attachment or
a queue receives in 8 ns and does not say when a line counts on its way: a line counts everywhere on its route at the time at which it
completes at its source (DESIGN CHOICE, log 86). Times are in units of 1/264 ns, in which every span's clock period is whole. -/

namespace Sys2Proof.Machine

/-- A line put on the die mesh: time of completion at its source, source and destination span as the program names them (R511), queue, and
byte offset of what sends it. -/
structure MeshLine where
  time : Nat
  src  : Nat
  dst  : Nat
  q    : Nat
  ofs  : Nat
  deriving DecidableEq, Repr

/-- What sends lines within one step: the alternatives of which one is taken. -/
abbrev MeshAgent := List (List MeshLine)

/-! ### Routes (R116) -/

/-- The hub of a span: row and quarter. -/
def hubOf (span : Nat) : Nat × Nat :=
  if span < 100 then (span / 4, span % 4)
  else nth (0, 0) [(6, 0), (18, 0), (6, 3), (18, 3), (0, 0), (24, 0), (0, 1), (24, 1), (0, 2), (24, 2), (0, 3)] (span - 100)

/-- What a line passes: kind, and where. Kinds 0 and 1 are links to the next and the previous row, 2 and 3 to the next and the previous
quarter, each by row and quarter of the hub it leaves; 4 and 5 the attachment of an edge span, outward of the span and into it; 6 a queue,
by span and number. -/
abbrev MeshPart := Nat × Nat × Nat

/-- The route of a line: rows first, then quarters (R116). -/
def routeOf (src dst q : Nat) : List MeshPart :=
  let a := hubOf src
  let b := hubOf dst
  (if 100 ≤ src then [(4, src, 0)] else []) ++
    (range' a.1 (b.1 - a.1)).map (fun r => (0, r, a.2)) ++ (range' (b.1 + 1) (a.1 - b.1)).map (fun r => (1, r, a.2)) ++
    (range' a.2 (b.2 - a.2)).map (fun c => (2, b.1, c)) ++ (range' (b.2 + 1) (a.2 - b.2)).map (fun c => (3, b.1, c)) ++
    (if 100 ≤ dst then [(5, dst, 0)] else []) ++ [(6, dst, q)]

/-- The physical span of a program's span number when the logical ports stand on the physical ports `ports` (R511). -/
def spanUnder (ports : List Nat) (span : Nat) : Nat := if 104 ≤ span && span < 110 then 104 + nth 0 ports (span - 104) else span

/-- The assignments of the six logical ports to the six physical ones (R511). -/
def portOrders : List (List Nat) := (tuples 6 6).filter (fun l => decide l.Nodup)

/-! ### Sources -/

/-- The time of cycle 0 of phase `P` from the start keystone: 12 × k ns a phase. -/
def meshTime (img : List Byte) (P : Nat) : Nat := 3168 * leAt img 8 1 * P

/-- Lines of a compute cluster on a path, its span at 2.2 GHz (R117, R203, R212); `P` is the first phase of the step. -/
def CluPath.lines (img : List Byte) (cl P : Nat) (p : CluPath) : List MeshLine :=
  units.flatMap (fun u => (p.unit u).walk.iss.flatMap (fun x =>
    let put := fun (n dst q : Nat) => (List.range n).map (fun j =>
      ({ time := meshTime img (P + x.ph) + 120 * (x.cyc + j + 4), src := spanOf cl, dst, q, ofs := (p.unit u).ofs x.idx } : MeshLine))
    match x.ins with
    | .mvSend _ _ _ d q _ n => put n d q
    | .mvHbm _ _ _ st q _ n _ => put n (100 + st) q
    | .mvStage _ _ _ q _ n _ => put n 110 q
    | .sqAgree _ _ port q _ _ _ _ _ _ => put 1 (104 + port) q
    | _ => []))

/-- Lines of a memory stack on a path (R251); `trl` is its read latency. -/
def memLines (img : List Byte) (st P trl : Nat) (x : Section) (w : Walk) : List MeshLine :=
  w.iss.flatMap (fun i => match i.ins with
    | .rd _ _ _ n _ _ d q _ _ => (List.range n).map (fun j =>
        { time := 110 * (edgeOf (leAt img 8 1) (P + i.ph) + i.cyc + trl + 12 + j / 8), src := 100 + st, dst := d, q, ofs := x.ofs + 8 * i.idx })
    | _ => [])

/-- Cells that the ports deliver while `pages` are active in a phase `P` (R94, R336): a sum of two cells is one write, of the lower port. -/
def portLines (img : List Byte) (ports : List PagePort) (P : Nat) (pages : List Nat) : List MeshLine :=
  (List.range (pageSlots img)).flatMap (fun j =>
    let l := ((ports.zip pages).map (fun e => (e.1.1, entryOfs img e.1.2.1 e.2 j, (entryAt img e.1.2.1 e.2 j).1))).filter
      (fun e => bit e.2.2 20 && bit e.2.2 18 && field e.2.2 21 7 ≠ 112)
    (l.filter (fun e => !(bit e.2.2 19 && l.any (fun f => f.1 < e.1 && bit f.2.2 19 && field f.2.2 21 19 == field e.2.2 21 19)))).map (fun e =>
      { time := meshTime img P + 99 * j, src := 104 + e.1, dst := field e.2.2 21 7, q := field e.2.2 28 2, ofs := e.2.1 }))

/-- Lines that a descriptor delivers in a step whose first phase is `P` (R276). -/
def Desc.lines (img : List Byte) (P ofs : Nat) (a : Desc) : List MeshLine :=
  (List.range a.n).map (fun i =>
    { time := meshTime img (P + 8 * a.stick + a.sph) + 264 * (a.scyc + i / 2), src := 110, dst := a.dspan, q := a.q, ofs })

/-! ### The limit (R117) -/

/-- The lines of an alternative that a part of the mesh receives in the 8 ns from time `t`. -/
def inWindow (ports : List Nat) (r : MeshPart) (t : Nat) (l : List MeshLine) : List MeshLine :=
  l.filter (fun x => t ≤ x.time && x.time < t + 2112 && (routeOf (spanUnder ports x.src) (spanUnder ports x.dst) x.q).contains r)

/-- Byte offsets of the lines that make a part of the mesh receive more than 144 lines from time `t`: each agent's lines with the most that
the other agents can send beside them. -/
def windowOver (agents : List MeshAgent) (ports : List Nat) (r : MeshPart) (t : Nat) : List Nat :=
  let l := agents.map (fun a => a.map (inWindow ports r t))
  let most := fun (a : MeshAgent) => (a.map List.length).foldl max 0
  let sum := (l.map most).sum
  l.flatMap (fun a => a.flatMap (fun x => if 144 < sum - most a + x.length then x.map (·.ofs) else []))

/-- Byte offsets at which agents that send together exceed the limit, under any assignment of the ports. -/
def meshOver (agents : List MeshAgent) : List Nat :=
  let all := (agents.flatMap List.flatten)
  if all.length ≤ 144 then []
  else
    let times := (all.map (·.time)).dedup
    portOrders.flatMap (fun ports =>
      ((all.flatMap (fun x => routeOf (spanUnder ports x.src) (spanUnder ports x.dst) x.q)).dedup).flatMap (fun r =>
        times.flatMap (windowOver agents ports r)))

/-- The lists of a module's staging list that one step's path can hold, of descriptors that `p` picks (R281). -/
def stagingAlternatives (img : List Byte) (chip : Nat) (x : Section) (vals : List (Tbl Nat)) (p : Desc → Bool) : List (List (Nat × Desc)) :=
  let l := (List.range (x.len / 32)).filterMap (fun d => (descAt img x d).map (fun a => (d, a)))
  vals.map (fun v => l.filter (fun e => p e.2 && inStretch img chip (match takenBy img chip e.2.issue with
    | some b => stagingArm img chip b (Tbl.get 0 v b)
    | none => 0) e.1))

/-- Check 7 on a module: two steps in a row, on any paths, from any pages, at each place that a step can have on the memory clock. -/
def meshBad (img : List Byte) (chip : Nat) : List Finding :=
  if !(sections img).any (fun x => x.ty = 1 || x.ty = 3 || x.ty = 4 || x.ty = 5) then []
  else
    let vals := moduleVals img chip
    let n := vals.length
    let total := stepPhases img
    let clus := (imageClusters img).map (fun c => (c, vals.map (cluPaths img chip c)))
    let mems := (List.range 4).filterMap (fun st => (sectionOf img chip 3 st).map (fun x =>
      let table : Msq := { ttab := presetTableOf img (sectionOf img chip 9 (2 + st)) st }
      (st, table.tt 8, x, plainWalks img chip x (.mem st) vals)))
    let ports := pagePorts img chip vals
    let late := fun (lag : Nat) (a : Desc) => !a.out && a.lag == lag
    let step := fun (s v : Nat) (pages : List Nat) =>
      let P := s * total
      clus.map (fun e => (nth [] e.2 v).map (CluPath.lines img e.1 P)) ++
        mems.map (fun m => [memLines img m.1 P m.2.1 m.2.2.1 (nth {} m.2.2.2 v)]) ++
        [[((columns total ((ports.zip pages).map (fun e => e.1.pages img e.2 [v]))).mapIdx (fun a g => portLines img ports (P + a) g)).flatten]] ++
        (match sectionOf img chip 4 0 with
         | none => []
         | some x => (List.range 4).map (fun lag =>
             let l := stagingAlternatives img chip x vals (late lag)
             (if lag = 0 then [nth [] l v] else l).map (fun d => d.flatMap (fun e => e.2.lines img P (x.ofs + 32 * e.1)))))
    let starts := if ports.isEmpty then [[]] else startPages img ports n
    (List.range 5).flatMap (fun s => starts.flatMap (fun t => (List.range n).flatMap (fun v => (List.range n).flatMap (fun w =>
      let t' := (ports.zip t).map (fun e => e.1.after img v e.2)
      (meshOver (step s v t ++ step (s + 1) w t')).map (fun o => (7, o))))))

end Sys2Proof.Machine
end

