-- ==== Sys2Proof/Machine/Checks.lean ====
section
/-! DEFINITION. Load checks on the staging list (10: R275, R280, R281), and the outcome of all checks (06: R179). -/

namespace Sys2Proof.Machine

/-! ### The staging list -/

/-- The raw parts of descriptor `d` that no field uses (R275). -/
def descReserved (img : List Byte) (x : Section) (d : Nat) : Bool :=
  let w := fun (k n : Nat) => BitVec.ofNat 64 (leAt img (x.ofs + 32 * d + k) n)
  field (w 0 2) 4 12 ≠ 0 || field (w 2 2) 9 7 ≠ 0 || field (w 4 4) 20 12 ≠ 0 || field (w 8 4) 20 12 ≠ 0 || field (w 12 4) 17 15 ≠ 0 ||
    (if bit (w 0 2) 1 then field (w 16 8) 52 12 ≠ 0 else field (w 16 8) 48 16 ≠ 0) || bit (w 24 8) 63

/-- Phases between which a descriptor's staging lines are live, from the start of step s (R280); `t` is the phases of a step. -/
def Desc.live (a : Desc) (t : Nat) : Nat × Nat :=
  if a.out then (8 * a.stick + a.sph, a.lag * t + 8 * a.dead) else (8 * a.issue, a.lag * t + 8 * a.stick + a.sph + 1)

/-- Do two periods meet, the second taken up to four steps earlier or later; in one step only with `one`? -/
def meetsWithin (t : Nat) (a b : Nat × Nat) (one : Bool) : Bool :=
  (List.range 9).any (fun m => (one || m != 4) && decide (a.1 + 4 * t < b.2 + m * t) && decide (b.1 + m * t < a.2 + 4 * t))

/-- Do two descriptors (or, with `same`, two steps' runs of one) break R280: a staging line live for both, or delivery or capture cycles
that overlap? Runs of one step meet only where both lie on one path (`one`); those of different steps, whatever each step's path. -/
def Desc.clash (a b : Desc) (t : Nat) (same one : Bool) : Bool :=
  decide (a.sbuf < b.sbuf + b.n) && decide (b.sbuf < a.sbuf + a.n) && meetsWithin t (a.live t) (b.live t) (one && !same) ||
  !same && (one || !a.out && a.lag ≠ b.lag) && a.out == b.out && a.stick == b.stick && a.sph == b.sph &&
    decide (a.scyc < b.scyc + (b.n + 1) / 2) && decide (b.scyc < a.scyc + (a.n + 1) / 2)

/-- Does a descriptor break R275 or R280 by itself? `hdm` are the decoders of the CXL region at load. -/
def Desc.wrong (hdm : List Reg) (img : List Byte) (a : Desc) : Bool :=
  let t := stepPhases img
  12 * leAt img 8 1 < a.scyc + (a.n + 1) / 2 || 512 < a.entry + a.n || 131072 < a.sbuf + a.n || a.addr % 128 ≠ 0 ||
    (if a.out then a.issue ≠ 0 || a.dspan ≠ 0 || 2 ≤ a.q || a.tagb ≠ 0 || a.lag * t + 8 * a.dead < 8 * a.stick + a.sph + 1
     else a.stick < a.dead || a.dspan = 110 || queuesOf a.dspan ≤ a.q || (a.tagb ≠ 0 && !(100 ≤ a.dspan && a.dspan < 104))) ||
    !a.host && (List.range a.n).any (fun i =>
      let o := a.addr + 128 * i
      cxlEnd ≤ o || !(hdm.any (fun d => bit d 31 && cxlBase + field d 0 14 * 2 ^ 28 ≤ o && o < cxlBase + (field d 0 14 + field d 16 15) * 2 ^ 28)))

/-- The tick of a descriptor's issue or capture, at which it is taken or not (R276, R278, R281). -/
def Desc.tick (a : Desc) : Nat := if a.out then a.stick else a.issue

/-- The values of the branch point in force at a descriptor's tick with which it is taken (R281): the branch point, and values. Before the
first branch point takes, any value or none. -/
def takenWith (img : List Byte) (chip : Nat) (e : Nat × Desc) : Option Nat × List Nat :=
  match takenBy img chip e.2.tick with
  | none => (none, if inStretch img chip 0 e.1 then List.range 4 else [])
  | some b => (some b, (List.range 4).filter (fun v => inStretch img chip (stagingArm img chip b v) e.1))

/-- Do two descriptors lie on one path of a step (R281)? -/
def together (img : List Byte) (chip : Nat) (d e : Nat × Desc) : Bool :=
  let x := takenWith img chip d
  let y := takenWith img chip e
  x.2.any (fun v => y.2.any (fun w => x.1 != y.1 || x.1 == none || v == w))

/-- Byte offsets at which a module's staging list is at fault. -/
def stagingBad (hdm : List Reg) (img : List Byte) (chip : Nat) : List Nat :=
  match sectionOf img chip 4 0 with
  | none => []
  | some x =>
    let l := (List.range (x.len / 32)).filterMap (fun d => (descAt img x d).map (fun a => (d, a)))
    let t := stepPhases img
    l.filterMap (fun e =>
      if descReserved img x e.1 || e.2.wrong hdm img ||
          l.any (fun f => !(takenWith img chip e).2.isEmpty && !(takenWith img chip f).2.isEmpty &&
            Desc.clash e.2 f.2 t (e.1 == f.1) (together img chip e f)) then some (x.ofs + 32 * e.1)
      else none)

/-- Check 4 on the agreed branch table (R174, R281): ticks beyond the step, or arms beyond the module's staging list, reported at the
table. -/
def agreedBad (img : List Byte) (chip : Nat) : List Finding :=
  match sectionOf img chip 10 0 with
  | none => []
  | some x =>
    let ticks := leAt img 16 4
    let descs := (sectionOf img chip 4 0).map (fun y => y.len / 32)
    if (range' 1 (branchCount img chip)).all (fun b => decide (Config.decisionTick img b < ticks) && decide (Config.takeTick img b < ticks) &&
        (List.range 4).all (fun v => descs.all (fun n => decide (stagingArm img chip b v ≤ n)))) then [] else [(4, x.ofs)]

/-! ### The outcome (R179) -/

/-- Findings of checks 3 to 13. A staging list at fault is reported under the free check number `Config.stagingCheck` (log 8). -/
def deepBad (hdm : List Reg) (img : List Byte) : List Finding :=
  let chips := imageChips img
  wordsBad img ++ ceilingBad img ++ (windowBad img).map (fun o => (8, o)) ++ (contentsBad img).map (fun o => (10, o)) ++ setsBad img ++
    linksBad img ++
    chips.flatMap (fun c =>
      clustersBad img c ++ (List.range 4).flatMap (stackBad img c) ++ (List.range 6).flatMap (portBad img c) ++ pagesBad img c ++
      agreedBad img c ++ meshBad img c ++ (stagingBad hdm img c).map (fun o => (Config.stagingCheck.val + 1, o)))

/-- The lowest-numbered check of a list of findings and its lowest byte offset. -/
def leastFinding : List Finding → Option Finding
  | [] => none
  | a :: r => match leastFinding r with
    | none => some a
    | some b => if a.1 < b.1 || a.1 == b.1 && a.2 ≤ b.2 then some a else some b

/-- Everything that the checks find of an image of which LOAD gave `len` bytes; checks 3 to 13 read an image whose header and section table
stand. -/
def findings (hdm : List Reg) (img : List Byte) (len : Nat) : List Finding :=
  let h := (headerBad img len).map (fun o => ((1, o) : Finding))
  let t := if h.isEmpty then (tableBad img).map (fun o => ((2, o) : Finding)) else []
  h ++ t ++ if h.isEmpty && t.isEmpty then deepBad hdm img else []

/-- The check that refuses an image and the byte offset it reports (R179), with the decoders `hdm` of the CXL region at load. -/
def loadBad (hdm : List Reg) (img : List Byte) (len : Nat) : Option Finding := leastFinding (findings hdm img len)

/-- Does a fixed-length branch of the image break R171 or R172 (R173)? -/
def armsUnequal (hdm : List Reg) (img : List Byte) (len : Nat) : Bool := (findings hdm img len).any (fun f => f.1 == 9)

end Sys2Proof.Machine
end

