-- ==== Sys2Proof/Machine/Dump.lean ====
section
/-! DEFINITION. The dump (15: R435 to R439) and the attestation report (18: R490 to R492). -/

namespace Sys2Proof.Machine

/-! ### Dump records (R436 to R438) -/

/-- A dump record before it is laid out. -/
structure DumpRec where
  kind    : Nat
  source  : Nat
  agent   : Nat
  status  : Nat
  cluster : Nat
  addr    : Nat
  data    : List Byte
  deriving DecidableEq, Repr

/-- The bytes of a record (R438): header, data, padding to 32 bytes. -/
def DumpRec.bytes (r : DumpRec) (time : Nat) : List Byte :=
  leBytes r.kind 2 ++ leBytes r.source 2 ++ leBytes r.agent 1 ++ leBytes r.status 1 ++ leBytes r.cluster 2 ++ leBytes r.addr 8 ++
    leBytes r.data.length 4 ++ zeros 4 ++ leBytes time 8 ++ padTo r.data (roundUp r.data.length 32)

/-- The registers of a block from `r`, `n` words; words at which no register lies are 0. -/
def State.blockBytes (s : State) (r n : Nat) : List Byte := (List.range n).flatMap (fun i => leBytes ((s.regValue (r + 8 * i)).getD 0).toNat 8)

/-- A register record. -/
def State.regRec (s : State) (src agent cluster r n : Nat) : DumpRec := ⟨1, src, agent, 0, cluster, r, s.blockBytes r n⟩

/-- The records of a silent span controller: no answer for it, skipped for each agent behind it (R437). -/
def silentRec (src agent status cluster addr : Nat) : DumpRec := ⟨1, src, agent, status, cluster, addr, []⟩

/-- Unit agents of a fixed-clock span, as R513 numbers them. -/
def agentsOf (p : Nat) : Nat := if p < 104 then 35 else if p < 110 then 4 else if p < 112 then 2 else 3

/-- Register blocks of the unit agents of a fixed-clock span: agent, base and number of words; those of span 110 between its two agents
(DESIGN CHOICE, log 102). An agent without registers has none. -/
def spanBlocks (p : Nat) : List (Nat × Nat × Nat) :=
  if p < 104 then [(0, 0x40000 + (p - 100) * 0x1000, 19)]
  else if p < 110 then [(0, 0x50000 + (p - 104) * 0x100, 11), (1, 0x60000 + (p - 104) * 0x100, 6)]
  else if p = 110 then [(0, 0x80000, 5), (0, 0x80038, 2), (1, 0x80028, 2)]
  else if p = 112 then [(1, 0x20000, 10)]
  else []

/-- The records of the unit agents of a fixed-clock span: their registers, or one record of each agent behind a silent controller (R437). `mute`
says which span controllers are silent. -/
def State.spanAgents (s : State) (mute : Nat → Bool) (p : Nat) : List DumpRec :=
  if mute p then (List.range (agentsOf p)).map (fun a =>
    silentRec p a 2 0xFFFF ((((spanBlocks p).find? (fun b => b.1 == a)).map (fun b => b.2.1)).getD 0))
  else (spanBlocks p).map (fun b => s.regRec p b.1 0xFFFF b.2.1 b.2.2)

/-- Unit agents of a cluster (R436): the registers lie at the store's agent. -/
def State.cluAgents (s : State) (mute : Nat → Bool) (c : Nat) : List DumpRec :=
  let p := spanOf c
  let r := 0x100000 + c * 0x100
  if mute p then [3, 2, 1, 0, 4].map (fun a => silentRec p (s.agentOf c a) 2 c r)
  else [s.regRec p (s.agentOf c 4) c r 6]

/-- A lane as bytes. -/
def lanesBytes (l : List Lane) : List Byte := (List.range 128).flatMap (fun i => leBytes (nth 0 l i).toNat 4)

/-- The store lines of a cluster in which bit errors stand. -/
def State.flawedLines (s : State) (c : Nat) : List Nat :=
  ((s.upsets.filter (fun u => u.area == .store && u.line / 8192 == c)).map (fun u => u.line % 8192)).dedup

/-- The store of a cluster as its corrector gives it (R109). -/
def State.storeBytes (s : State) (c : Nat) : List Byte :=
  (s.flawedLines c).foldl (fun b l => b.take (128 * l) ++ (s.readLine c l).1 ++ b.drop (128 * l + 128)) (memRead s.mem (storeAddr c 0) 0xC0000)

/-- The landing entries of a compute span in the order of a dump: queue, frame, entry. -/
def landKeys : List (Nat × Nat × Nat) :=
  (List.range 2).flatMap (fun q => (List.range 3).flatMap (fun f => (List.range 512).map (fun e => (q, f, e))))

/-- The landing entries of a span in which bit errors stand. -/
def State.flawedLandings (s : State) (p : Nat) : List (Nat × Nat × Nat) :=
  landKeys.filter (fun x => s.upsets.any (fun u => u.area == .landing && u.line == landKey p x.1 x.2.1 x.2.2))

/-- A landing entry as its corrector gives it (R115). -/
def State.landBytes (s : State) (key : Nat) : List Byte := (eccRead s.upsets .landing key (Tbl.get {} s.landing key : LandEntry).bytes).data

/-- What the reads of a dump find in the stores and landing banks that it holds (R109 to R111, R115): counts, logs and faults. The span
controller's read of a landing bank is counted at the span's first cluster (DESIGN CHOICE, log 102). -/
def State.dumpReads (s : State) : State :=
  let here := fun (c : Nat) => !s.mute (spanOf c) && !s.dmp.deaf.contains (spanOf c, s.agentOf c 4)
  let s := if bit s.dmp.ctl 3 then
      forEach s ((List.range 800).filter here) (fun s c => forEach s (s.flawedLines c) (fun s l => (s.readLine c l).2))
    else s
  if bit s.dmp.ctl 4 then
    forEach s ((List.range 100).filter (fun p => !s.mute p)) (fun s p =>
      (s.flawedLandings p).foldl (fun s x => s.landFlaw (cluAt p 0) p x.1 x.2.2 (landKey p x.1 x.2.1 x.2.2)) s)
  else s

/-- Memory contents of a cluster that DMP_CTL selects (R435, R436), each at the agent of its unit (DESIGN CHOICE, log 102). -/
def State.cluContents (s : State) (mute : Nat → Bool) (c : Nat) : List DumpRec :=
  let p := spanOf c
  if mute p then []
  else
    let k := s.clu c
    (if bit s.dmp.ctl 0 then [⟨3, p, s.agentOf c 3, 0, c, 0, (List.range 768).flatMap (fun i => (Tbl.get {} k.imem i).words)⟩] else []) ++
      (if bit s.dmp.ctl 1 then [⟨4, p, s.agentOf c 1, 0, c, 0, (List.range 32).flatMap (fun v => lanesBytes (Tbl.get {} k.vregs v).lanes)⟩]
        else []) ++
      (if bit s.dmp.ctl 2 then [⟨5, p, s.agentOf c 0, 0, c, 0,
        (List.range 128).flatMap (fun r => let row := Tbl.get [] k.me.acc r
                                           (List.range 64).flatMap (fun j => leBytes (nth 0 row j).toNat 16)) ++
          [k.me.b0, k.me.b1].flatMap (fun b => [b.wcode.setWidth 8, BitVec.ofInt 8 b.ta, BitVec.ofInt 8 b.tw, if b.dirty then 1 else 0])⟩]
        else []) ++
      (if bit s.dmp.ctl 3 then [⟨6, p, s.agentOf c 4, 0, c, storeAddr c 0, s.storeBytes c⟩] else [])

/-- The landing frames of a compute span (R435), read by its controller (DESIGN CHOICE, log 102). -/
def State.landContents (s : State) (mute : Nat → Bool) (p : Nat) : List DumpRec :=
  if bit s.dmp.ctl 4 && !mute p then
    [⟨7, p, 0xFF, 0, 0xFFFF, 0, landKeys.flatMap (fun x => s.landBytes (landKey p x.1 x.2.1 x.2.2))⟩]
  else []

/-- Register blocks of the tollhouse, by base and number of words (R436, R442). -/
def tollBlocks : List (Nat × Nat) :=
  [(0x90000, 49), (0xE0000, 19), (0x10000, 37), (0x70000, 4608), (0xC0000, 2560), (0xD0000, 4), (0xA0000, 10), (0xB0000, 18)]

/-- The records of a span controller: its block, and CLU_REPAIR of the row whose first span it has (R123; DESIGN CHOICE, log 103). -/
def State.spanRec (s : State) (mute : Nat → Bool) (p : Nat) : List DumpRec :=
  if mute p then [silentRec p 0xFF 1 0xFFFF (0x30000 + p * 0x100)]
  else s.regRec p 0xFF 0xFFFF (0x30000 + p * 0x100) 7 ::
    (if p < 100 && p % 4 == 0 then [s.regRec p 0xFF 0xFFFF (0x140000 + p / 4 * 8) 1] else [])

/-- The die manager and the controller of span 113. The CFG_ block is read at agent 0 of that span (DESIGN CHOICE, log 102). -/
def State.dieRec (s : State) (mute : Nat → Bool) : List DumpRec :=
  if mute 113 then s.spanRec mute 113 ++ [0, 1, 2].map (fun a => silentRec 113 a 2 0xFFFF 0) else s.regRec 113 0 0xFFFF 0 54 :: s.spanRec mute 113

/-- The fault log, oldest record first (R418). -/
def State.logBytes (s : State) : List Byte :=
  let n := min s.flt.nextSeq faultLogSize
  (range' (s.flt.nextSeq - n) n).flatMap (fun q => Tbl.get (zeros 64) s.flt.log (q % faultLogSize))

/-- The register records of the tollhouse. -/
def State.tollRecs (s : State) : List DumpRec := tollBlocks.map (fun b => s.regRec srcToll 0 0xFFFF b.1 b.2)

/-- The records of item `n` of the order of R436. -/
def State.dumpPart (s : State) (mute : Nat → Bool) (n : Nat) : List DumpRec :=
  match n with
  | 1 => ⟨2, srcToll, 0, 0, 0xFFFF, 0, s.logBytes⟩ :: s.tollRecs
  | 2 => s.dieRec mute
  | 3 => ([112, 111, 110, 109, 108, 107, 106, 105, 104, 103, 102, 101, 100] ++ List.range 100).flatMap (s.spanRec mute)
  | 4 => (range' 100 13).flatMap (s.spanAgents mute)
  | 5 => (List.range 800).flatMap (s.cluAgents mute)
  | _ => (List.range 800).flatMap (s.cluContents mute) ++ (List.range 100).flatMap (s.landContents mute)

/-- What a record takes in a dump. -/
def recSize (r : DumpRec) : Nat := 32 + roundUp r.data.length 32
/-- What records take in a dump. -/
def recsSize (l : List DumpRec) : Nat := (l.map recSize).sum

/-- Everything of a dump that lies behind one span controller. -/
def State.spanGroup (s : State) (mute : Nat → Bool) (p : Nat) : List DumpRec :=
  if p = 113 then s.dieRec mute
  else if 100 ≤ p then s.spanRec mute p ++ s.spanAgents mute p
  else s.spanRec mute p ++ (List.range 8).flatMap (fun i => s.cluAgents mute (cluAt p i) ++ s.cluContents mute (cluAt p i)) ++ s.landContents mute p

/-- The largest size that the selected contents can reach (R439): a full fault log, and of each span the larger of what its answers take and
what the records of its silence take. -/
def State.dumpSize (s : State) : Nat :=
  128 + (32 + faultLogSize * 64) + recsSize s.tollRecs +
    ((List.range 114).map (fun p => max (recsSize (s.spanGroup (fun _ => false) p)) (recsSize (s.spanGroup (fun _ => true) p)))).sum

/-- The records of the item in progress as they come out, and the agents found without an answer up to there (R437): where `deaf` names an
agent, its first read becomes a record without an answer, and its other reads are skipped. -/
def State.dumpTake (s : State) (deaf : List (Nat × Nat)) : List DumpRec × List (Nat × Nat) :=
  (s.dumpPart s.mute s.dmp.stage).foldl (fun x r =>
    let a := (r.source, r.agent)
    if r.status ≠ 0 || r.agent = 0xFF || r.source = srcToll then (x.1 ++ [r], x.2)
    else if x.2.contains a then x
    else if deaf.contains a then (x.1 ++ [{ r with status := 1, data := [] }], x.2 ++ [a])
    else (x.1 ++ [r], x.2)) ([], s.dmp.deaf)

/-- The header of a dump whose records are all taken (R438). -/
def State.dumpHeader (s : State) (force : Bool) : List Byte :=
  let d := s.dmp
  [0x4B, 0x4B, 0x44, 0x4D] ++ leBytes 1 2 ++ leBytes ((if force then 1 else 0) + (if d.noAns = 0 then 0 else 2)) 2 ++
    leBytes s.sec.fuses.physId.toNat 8 ++ leBytes (s.plc.chip + (if s.plc.placed then 32768 else 0)) 2 ++ leBytes s.flt.gen.toNat 1 ++
    leBytes d.startSt 1 ++ leBytes d.ctl.toNat 4 ++ leBytes d.start 8 ++ leBytes s.nowNs 8 ++ leBytes (s.job.lastStep.getD 0) 8 ++
    (if s.plc.placed then s.plc.jobDigest else zeros 32) ++ leBytes d.records 4 ++ leBytes d.noAns 4 ++ leBytes (128 + d.body.length) 8 ++
    sha256 d.body

/-! ### Attestation (R490 to R492) -/

/-- The attestation key of a measurement (R491). -/
def State.attKey (s : State) : Nat :=
  beNat (hmac256 s.sec.fuses.secret ([0x4B, 0x4B, 0x41, 0x4B] ++ s.sec.measure)) % (n256 - 1) + 1

/-- SHA-256 of the fused key hashes, revoke bits, SVN and DBG_MAX (R492; the order of the fields, log 15). -/
def State.fuseDigest (s : State) : List Byte :=
  let f := s.sec.fuses
  sha256 (f.keys.flatMap id ++ f.dbgKey ++ leBytes f.revoked.toNat 1 ++ leBytes f.svn 1 ++ leBytes f.dbgMax 1)

/-- The attestation public key (R491, R492). -/
def State.attPub (s : State) : List Byte := ptBytes (ptComb g256 s.attKey none 0)

/-- The device identity public key (R490). -/
def State.idPub (s : State) : List Byte := ptBytes (ptComb g256 (Config.idScalar s.sec.fuses.secret) none 0)

/-- PHYS_ID as 16 upper-case hex digits (R490). -/
def State.serialNumber (s : State) : List Byte :=
  (List.range 16).map (fun i => let d := s.sec.fuses.physId.toNat / 16 ^ (15 - i) % 16
                                BitVec.ofNat 8 (if d < 10 then 48 + d else 55 + d))

/-- What the certificate area holds (R490): the identity key's certificate and the CA's. -/
def State.certArea (s : State) : List Byte := Config.idCert s.idPub s.serialNumber ++ Config.caCert

/-- CHAIN of a report, held to the 4,096 bytes that a report has at most (R492). -/
def State.certChain (s : State) : List Byte := (s.sec.akCert ++ s.certArea).take 3760

/-- The key engine issues the attestation key's certificate with the identity key, and refuses that key's use from then on (R491). -/
def State.issueAk (s : State) : State :=
  if s.sec.idLocked then s
  else { s with sec := { s.sec with akCert := Config.akCert (Config.idScalar s.sec.fuses.secret) s.attPub s.sec.measure, idLocked := true } }

/-- The attestation report (R492), signed with a nonce from the random source (log 8). -/
def State.report (s : State) (nonce : List Byte) : List Byte × State :=
  let chain := s.certChain
  let body := [0x4B, 0x4B, 0x41, 0x54] ++ leBytes 1 2 ++ leBytes (336 + chain.length) 2 ++ leBytes s.sec.fuses.physId.toNat 8 ++
    [if s.sec.fuses.gradeB then 1 else 0] ++ leBytes s.flt.gen.toNat 1 ++ leBytes s.sec.debug 1 ++
    leBytes ((if s.sec.trial then 1 else 0) + (if s.busy then 2 else 0)) 1 ++ leBytes s.sec.version.toNat 4 ++ leBytes s.sec.fuses.svn 4 ++
    zeros 4 ++ padTo nonce 32 ++ s.sec.measure ++ s.fuseDigest ++ (if s.job.loaded then padTo (slice s.job.img 32 32) 32 else zeros 32) ++
    (if s.plc.placed then s.plc.jobDigest else zeros 32) ++ leBytes s.nowNs 8 ++ leBytes (s.job.lastStep.getD 0) 8 ++
    s.attPub
  let r := s.freeBytes 32
  let sg := ecdsaSign s.attKey (beNat (sha256 body)) (beNat r.1 % (n256 - 1) + 1)
  (body ++ beBytes sg.1 32 ++ beBytes sg.2 32 ++ chain, r.2)

/-! ### Firmware images (R486) -/

/-- Does a firmware image verify (R486)? -/
def State.fwVerifies (s : State) (img : List Byte) : Bool :=
  let idx := leAt img 6 1
  let pub := slice img 56 64
  let len := leAt img 16 8
  let q := ptOf pub
  slice img 0 4 == [0x4B, 0x4B, 0x46, 0x57] && leAt img 4 2 == 1 && idx < 4 && s.sec.fuses.keys[idx]? == some (sha256 pub) &&
    !(s.sec.fuses.revoked.getLsbD idx) && decide (len ≤ 117440000) && decide (512 + len ≤ img.length) &&
    ecdsaOk q (beNat (sha256 (img.take 448))) (beNat (slice img 448 32)) (beNat (slice img 480 32)) &&
    slice img 24 32 == sha256 (slice img 512 len) && decide (s.sec.fuses.svn ≤ leAt img 12 4)

/-- A FW_UPDATE that does not end (R489): how far the slot that did not boot is written is open, so its bytes are free (log 8). -/
def State.halfWritten (s : State) : Instr → State
  | .fwUpdate _ _ _ len =>
    let slot := 1 - s.sec.slot
    let r := s.freeBytes len
    { r.2 with sec := s.sec.putSlot slot (r.1 ++ (s.sec.slotImage slot).drop len) }
  | _ => s

/-- Every FW_UPDATE that runs is cut short. -/
def State.cutUpdates (s : State) : State := s.hst.running.foldl (fun s r => s.halfWritten r.cmd) s

/-- An image that does not verify: 0x7001, counted as a signature failure (R488, R489, R494). AGENT of the tollhouse's records is 0 (DESIGN
CHOICE, log 102). -/
def State.badImage (s : State) : State :=
  State.raise { s with sec := { s.sec with cnt := satInc s.sec.cnt 0 16 1 } } 0x7001 srcToll 0

/-- FW_MEASURE (R486): SHA-256 of the header followed by the body. -/
def measureOf (img : List Byte) : List Byte := sha256 (img.take (512 + leAt img 16 8))

end Sys2Proof.Machine
end

