-- ==== Sys2Proof/Machine/ResetCore.lean ====
section
/-! DEFINITION. Requests for a module reset and their preparation (15: R427 to R431). -/

namespace Sys2Proof.Machine

/-- F in units of 0.01 ppb, as a FREQ record holds it (R463). -/
def State.freqRecord (s : State) : List Byte := leBytes ((ppb100 s.tim.freq) % 2 ^ 32).toNat 4

/-- The journal appends of a planned reset (R430): F, a RESET record, and the newest 64 records of severity STEP or above. -/
def State.resetAppends (s : State) : State :=
  let s := s.journal jrFreq s.freqRecord
  let s := s.journal jrReset ([BitVec.ofNat 8 s.rst.cause, if s.rst.planned then 1 else 0, BitVec.ofNat 8 s.flt.gen.toNat])
  let recs := ((range' (s.flt.nextSeq - min s.flt.nextSeq faultLogSize) (min s.flt.nextSeq faultLogSize)).map
    (fun q => Tbl.get (zeros 64) s.flt.log (q % faultLogSize))).filter (fun b => 3 ≤ leAt b 2 1)
  (recs.drop (recs.length - 64)).foldl (fun s b => s.journal jrFault b) s

/-- Has every service request been answered (R428)? -/
def State.drained (s : State) : Bool := s.svc.accepted == 0 && s.svc.out.isEmpty && s.svc.waiting.isEmpty

/-- The drain is over: the appends follow, and S may come (R428, R430). -/
def State.endDrain (s : State) : State := State.resetAppends (s.updFlt (fun f => { f with draining := false }))

/-- Preparation of a planned reset (R419, R428 to R430). Cause 0 is a command, 1 automatic. -/
def State.prepareReset (s : State) : State :=
  let code : BitVec 16 := if s.rst.cause = 1 then 0x9001 else 0x9002
  let s := if s.job.running then s.issueAbort s.step code s.selfOrigin else if s.hst.st = stStarting then s.abortStart code else s
  let s := { s with rst := { s.rst with stage := .draining, drainAt := s.tim.now.toNat } }
  if s.domainMode = 2 then s.endDrain
  else
    let s := (s.updSvc (fun v => { v with ctl := v.ctl ||| flag true 2 })).stale
    if s.drained then s.endDrain else s.updFlt (fun f => { f with draining := true })

/-- Time at which a reset may begin (R430): 100 ms after the previous one began. -/
def State.resetFrom (s : State) : Nat := (s.rst.last + 100000000 * ns).toNat

/-- Milliseconds until a reset may begin. -/
def State.resetWait (s : State) : Nat :=
  let t := s.resetFrom
  if t ≤ s.tim.now.toNat then 0 else (t - s.tim.now.toNat + 1000000 * ns - 1) / (1000000 * ns)

/-- A planned reset requested (R406, R426, R430). -/
def State.requestReset (s : State) (cause : Nat) : State :=
  if s.rst.stage = .none then
    let s := { s with rst := { s.rst with planned := true, cause := cause } }
    if s.resetWait = 0 then s.prepareReset else { s with rst := { s.rst with stage := .held } }
  else s

/-- Is a reset sequence in progress, from S to IDLE (R430)? -/
def State.resetting (s : State) : Bool :=
  match s.rst.stage with
  | .begun | .inReset | .bootRom | .firmware | .die => true
  | _ => false

/-- An unplanned reset requested (R425, R430, R500): no preparation; held like any other. One that comes during a reset sequence waits while
that goes on. None begins while the module has no power. -/
def State.unplannedReset (s : State) (cause : Nat) : State :=
  if s.rst.stage = .off then s
  else if s.resetting && s.resetWait ≠ 0 then { s with rst := { s.rst with again := some cause } }
  else
    let s := { s with rst := { s.rst with planned := false, cause := cause }, flt := { s.flt with draining := false } }
    if s.resetWait = 0 then { s with rst := { s.rst with stage := .draining } } else { s with rst := { s.rst with stage := .held } }

end Sys2Proof.Machine
end

