-- ==== Sys2Proof/Machine/Commands.lean ====
section
/-! DEFINITION. What each host command does when it starts (14: R391, R397 to R408, R411, R514), and the order in which commands that wait
start (R397). -/

namespace Sys2Proof.Machine

/-! ### Buffers (R390, R391) -/

/-- The transfer area's bytes and its number (R390). -/
def xferBuf : Nat := 4095
/-- Bytes of the transfer area. -/
def xferSize : Nat := (pcieFn false).bar4.bytes

/-- A host buffer by number; the transfer area is always there. -/
def State.buf (s : State) (hbuf : Nat) : Option HostBuf :=
  if hbuf = xferBuf then some ⟨0, xferSize, 3⟩ else (s.hst.bufs.find? (fun b => b.1 == hbuf)).map (·.2)

/-- The first bad parameter of a range within a buffer (R391, R399): HBUF at byte 8, the direction at `dirAt`, the offset, a multiple of
`al`, at `oo`, the length at `lo`; `rd` asks that the module may read. -/
def State.badRange (s : State) (hbuf ofs len : Nat) (rd : Bool) (al dirAt oo lo : Nat) : Option Nat :=
  match s.buf hbuf with
  | none => some 8
  | some b =>
    if !(if rd then b.mask.getLsbD 0 else b.mask.getLsbD 1) then some dirAt
    else if ofs % al ≠ 0 ∨ b.len < ofs then some oo
    else if b.len < ofs + len then some lo
    else none

/-- Does a running transfer command use a buffer? -/
def usesBuf (hbuf : Nat) : Instr → Bool
  | .dma _ b _ _ _ _ => b == hbuf
  | .dump _ b _ _ _ => b == hbuf
  | .attest _ b _ _ => b == hbuf
  | .fwUpdate _ b _ _ => b == hbuf
  | _ => false

/-- May a buffer not be changed (R391)? -/
def State.bufHeld (s : State) (hbuf : Nat) : Bool := s.hst.running.any (fun r => usesBuf hbuf r.cmd) || s.busy && s.listNames hbuf

/-- Bytes written to a host buffer: the transfer area, or host memory outside (hst.out). -/
def State.toBuf (s : State) (hbuf ofs : Nat) (bytes : List Byte) : State :=
  if hbuf = xferBuf then { s with xfer := memWrite s.xfer ofs bytes } else s.updHst (fun h => { h with out := h.out ++ [(hbuf, ofs, bytes)] })

/-! ### Register commands (R514) -/

/-- REG_READ from register `i` on, `n` registers to go, `got` read before. -/
def State.regReads (s : State) (r : RunCmd) (base : Nat) : Nat → Nat → List Reg → State
  | 0, _, got => s.finish r sOk 0 0 (got.flatMap (fun v => leBytes v.toNat 8))
  | n + 1, i, got =>
    let a := base + 8 * i
    if s.silentAt a then (s.runs r).ask (.cmd r i got)
    else
      match s.readReg a s.chipOr0 with
      | (.ok v, s) => State.regReads s r base n (i + 1) (got ++ [v])
      | (.refused c, s) => s.finish r sAccess c i []
      | (.silent, s) => s.finish r sNoAnswer 0 i []

/-- REG_WRITE of the values from register `i` on. -/
def State.regWrites (s : State) (r : RunCmd) (base : Nat) : List Reg → Nat → State
  | [], _ => s.finish r sOk 0 0 []
  | v :: rest, i =>
    let a := base + 8 * i
    if s.silentAt a then (s.runs r).ask (.cmd r i [])
    else
      match s.writeReg a v with
      | (.ok _, s) => State.regWrites s r base rest (i + 1)
      | (.refused c, s) => s.finish r sAccess c i []
      | (.silent, s) => s.finish r sNoAnswer 0 i []

/-! ### State commands -/

/-- LOAD (R400). -/
def State.doLoad (s : State) (r : RunCmd) (hbuf ofs len : Nat) (res : HostRes) : State :=
  match s.badRange hbuf ofs len true 128 8 16 24 with
  | some o => s.badParam r o
  | none =>
    match res with
    | .ok data =>
      let img := if hbuf = xferBuf then memRead s.xfer ofs len else padTo data len
      match loadBad s.cxl.hdm img len with
      | some (n, o) =>
        let s := if armsUnequal s.cxl.hdm img len then s.raise 0x100F srcToll 0 0 none 9 else s
        s.finish r sImageRefused 0 n (leBytes o 8)
      | none => ({ s with job := { img := img, loaded := true } }.setSt stLoaded).finish r sOk 0 0 (slice img 32 32)
    | _ => s.finish r sHostDma 0 0 []

/-- UNLOAD. -/
def State.doUnload (s : State) (r : RunCmd) : State :=
  let s := { s.dropPlace with job := {} }
  ((s.updPlc (fun p => { p with st := 0 })).setSt stIdle).finish r sOk 0 0 []

/-- PLACE (R365, R378, R401): the module becomes a candidate, and an election begins. Whether its hall number is unique the election finds anew
(R364; log 110). -/
def State.doPlace (s : State) (r : RunCmd) : State :=
  if s.imgAt 11 1 % 2 = 1 && decide (32 < s.imgAt 12 1) then s.badParam r 0
  else
    let s := s.updPlc (fun p => { p with duplicate := false })
    let row := s.admitRow false
    if row ≠ 0 then s.finish r sNotAdmissible (s.rowFault row) row []
    else
      let s := s.updPlc (fun p => { p with rounds := 0, switch := none, given := none, placeAt := s.tim.now.toNat, proposal := none })
      ((s.setSt stPlacing).runs r).startElection

/-- ARM (R280, R402). -/
def State.doArm (s : State) (r : RunCmd) : State :=
  if !s.buffersOk then s.badParam r 0
  else (s.armUnits.digestsAgree.setSt stArmed).finish r sOk 0 0 []

/-- START (R403): accepted; the job leader proposes, another module answers a proposal that waits for it. -/
def State.doStart (s : State) (r : RunCmd) (first : Reg) : State :=
  let s := s.updJob (fun j => { j with accepted := true, firstStep := first.toNat, stepNo := 0, withdrawn := 0, aborts := [], abortSent := [],
                                       digests := [], ends := [], qualified := 0, posted := 0 })
  let s := s.updHst (fun h => { h with aborted := false, doneStep := 0 })
  let s := (s.setSt stStarting).runs r
  if s.isJobLeader && s.plc.proposal.isNone then s.propose else s.tryReady

/-- RELEASE. -/
def State.doRelease (s : State) (r : RunCmd) : State :=
  let s := s.dropPlace
  let s := s.stopClocks.updJob (fun j => { j with armed := false, accepted := false, withdrawn := 0 })
  ((s.updPlc (fun p => { p with st := 10 })).freeStep.setSt stLoaded).finish r sOk 0 0 []

/-- ABORT (R405). -/
def State.doAbort (s : State) (r : RunCmd) : State :=
  if s.hst.st = stRunning then
    let n := s.step
    (s.issueAbort n 0x9002 s.selfOrigin).finish r sOk 0 0 (leBytes n 8)
  else
    let s' := s.finish r sOk 0 0 (leBytes s.job.firstStep 8)
    match s.plc.proposal with
    | none =>
      let s := s'.updJob (fun j => { j with accepted := false, withdrawn := 1 })
      ((s.setSt stArmed).finishAll isStart sCancelled 0 0 []).refuseStops
    | some p =>
      if p.go then s'.abortStart 0x9002
      else (s'.updJob (fun j => { j with withdrawn := 2 })).selfRefuse 0x9002

/-- STOP (R404, R408). -/
def State.doStop (s : State) (r : RunCmd) (last : Reg) : State :=
  let s := s.runs r
  if s.hst.st = stRunning then s.requestStop last.toNat 0 else s

/-! ### The other commands -/

/-- IDENTIFY (R398). -/
def State.doIdentify (s : State) (r : RunCmd) : State :=
  s.finish r sOk 0 0 (leBytes s.sec.fuses.physId.toNat 8 ++ [if s.sec.fuses.gradeB then 1 else 0] ++ leBytes s.topStep 1 ++
    leBytes s.sec.fabric 2 ++ leBytes s.sec.version.toNat 4 ++ leBytes s.plc.hall 2 ++ leBytes s.hst.st 1 ++ leBytes s.flt.gen.toNat 1)

/-- BUF_REG (R391). -/
def State.doBufReg (s : State) (r : RunCmd) (hbuf : Nat) (mask : BitVec 2) (addr len : Nat) : State :=
  if 4094 < hbuf then s.badParam r 8
  else if addr % 4096 ≠ 0 then s.badParam r 16
  else if len % 4096 ≠ 0 ∨ len = 0 ∨ 2 ^ 40 < len then s.badParam r 24
  else if s.bufHeld hbuf then s.wrongState r
  else (s.updHst (fun h => { h with bufs := Tbl.set h.bufs hbuf ⟨addr, len, mask⟩ })).finish r sOk 0 0 []

/-- BUF_FREE (R391). -/
def State.doBufFree (s : State) (r : RunCmd) (hbuf : Nat) : State :=
  if 4094 < hbuf then s.badParam r 8
  else if s.bufHeld hbuf then s.wrongState r
  else (s.updHst (fun h => { h with bufs := Tbl.del h.bufs hbuf })).finish r sOk 0 0 []

/-- SWITCH_GET (R401). -/
def State.doSwitchGet (s : State) (r : RunCmd) (req page : Nat) : State :=
  match s.plc.switch with
  | none => s.badParam r 8
  | some (q, l) =>
    if q ≠ req then s.badParam r 8
    else if l.length ≤ 8 * page && page ≠ 0 then s.badParam r 12
    else s.finish r sOk 0 0 (((l.drop (8 * page)).take 8).flatMap (fun e => leBytes e.1 2 ++ leBytes e.2.1 1 ++ leBytes e.2.2.1 2 ++ leBytes e.2.2.2 1))

/-- SWITCH_DONE (R370, R401). -/
def State.doSwitchDone (s : State) (r : RunCmd) (req : Nat) : State :=
  match s.plc.switch with
  | none => s.badParam r 8
  | some (q, _) => if q ≠ req then s.badParam r 8 else (s.updPlc (fun p => { p with switch := none, switchAt := s.tim.now.toNat })).finish r sOk 0 0 []

/-- Is a local range of DMA within the populated store, the HBM region, or a mapped CXL range (R23, R272, R398)? -/
def State.localOk (s : State) (a len : Nat) : Bool :=
  let store := inStore a && a % 0x100000 + len ≤ 0xC0000
  let hbm := inHbm a && a + len ≤ hbmEnd
  store || hbm || s.mapped a len

/-- DMA (R285, R398): it runs until its host transfer completes. -/
def State.doDma (s : State) (r : RunCmd) (hbuf : Nat) (toHost : Bool) (bufOfs loc len : Nat) : State :=
  let b := s.badRange hbuf bufOfs len (!toHost) 128 10 16 32
  if loc % 128 ≠ 0 && b = some 32 then s.badParam r 24
  else
    match b with
    | some o => s.badParam r o
    | none =>
      if loc % 128 ≠ 0 || !s.localOk loc len then s.badParam r 24
      else if len % 128 ≠ 0 then s.badParam r 32
      else s.runs r

/-- REG_READ (R514). -/
def State.doRegRead (s : State) (r : RunCmd) (base count : Nat) : State :=
  if count = 0 ∨ 4 < count then s.badParam r 16 else s.regReads r base count 0 []

/-- REG_WRITE (R514). -/
def State.doRegWrite (s : State) (r : RunCmd) (base count : Nat) (vals : List Reg) : State :=
  if count = 0 ∨ 4 < count then s.badParam r 16
  else s.regWrites r base ((List.range count).map (fun i => nth 0 vals i)) 0

/-- DUMP (R407, R435, R439): it runs until its host transfer completes. FORCE in STARTING or RUNNING first issues a step abort. -/
def State.doDump (s : State) (r : RunCmd) (hbuf : Nat) (force : Bool) (ofs space : Nat) : State :=
  match s.badRange hbuf ofs space false 1 8 16 24 with
  | some o => s.badParam r o
  | none =>
    if space < s.dumpSize then (s.raise 0x8002 srcToll 0).finish r sBadParam 0x8002 24 (leBytes s.dumpSize 8)
    else
      let st := s.hst.st
      let s := if force && s.job.running then s.issueAbort s.step 0x9001 s.selfOrigin
        else if force && s.hst.st = stStarting then s.abortStart 0x9001 else s
      { (s.runs r) with dmp := { s.dmp with running := true, stage := 1, noAns := 0, records := 0, lines := 0, startSt := st, body := [], deaf := [] } }

/-- Every command that runs or waits ends with SUPERSEDED, and a dump with it (R406, R439). -/
def State.supersedeAll (s : State) : State :=
  let dump := s.dmp.running
  let all := s.hst.running ++ s.hst.waiting
  let s := s.cutUpdates
  let s := all.foldl (fun s x => s.finish x sSuperseded 0 0 []) (s.updHst (fun h => { h with waiting := [] }))
  if dump then { s with dmp := { s.dmp with running := false, stage := 0, body := [], deaf := [], last := (s.dmp.last &&& ~~~(flag true 17)) ||| flag true 18 } } else s

/-- RESET (R406): every other command is superseded, and the reset is requested. -/
def State.doReset (s : State) (r : RunCmd) : State :=
  let s := s.supersedeAll
  (s.finish r sOk 0 s.resetWait []).requestReset 0

/-- ATTEST after a level 3 unlock (R492). -/
def State.attestDenied (s : State) (r : RunCmd) : State := (s.raise 0x7002 srcToll 0).finish r sAccess 0x7002 0 []

/-- ATTEST (R492). -/
def State.doAttest (s : State) (r : RunCmd) (hbuf ofs : Nat) : State :=
  if 3 ≤ s.sec.debug then s.attestDenied r
  else
    match s.badRange hbuf ofs (336 + s.certChain.length) false 1 8 16 16 with
    | some o => s.badParam r o
    | none => s.runs r

/-- FW_UPDATE (R489): one at a time. -/
def State.doFwUpdate (s : State) (r : RunCmd) (hbuf ofs len : Nat) : State :=
  if s.hst.running.any (fun x => match x.cmd with
      | .fwUpdate .. => true
      | _ => false) then s.wrongState r
  else
    match s.badRange hbuf ofs len true 1 8 16 24 with
    | some o => s.badParam r o
    | none => s.runs r

/-! ### Starting a command -/

/-- A command starts (R397, R398, R426): its opcode, a wedged or unusable module (log 100) and the module's state may refuse it. -/
def State.startCmd (s : State) (r : RunCmd) : State :=
  if opcodeBad r.cmd then s.reject r sBadOpcode 0x8001 0
  else if s.unusable && !wedgedTakes r.cmd then s.wrongState r
  else if !acceptedIn r.cmd s.hst.st then s.wrongState r
  else
    match r.cmd with
    | .identify _ => s.doIdentify r
    | .bufReg _ b m a l => s.doBufReg r b m a l
    | .bufFree _ b => s.doBufFree r b
    | .load _ b o l res => s.doLoad r b o l res
    | .unload _ => s.doUnload r
    | .place _ => s.doPlace r
    | .switchGet _ q p => s.doSwitchGet r q p
    | .switchDone _ q => s.doSwitchDone r q
    | .arm _ => s.doArm r
    | .start _ f => s.doStart r f
    | .stop _ l => s.doStop r l
    | .abort _ => s.doAbort r
    | .release _ => s.doRelease r
    | .dma _ b d bo lo l => s.doDma r b d bo lo l
    | .regRead _ b n => s.doRegRead r b n
    | .regWrite _ b n v => s.doRegWrite r b n v
    | .dump _ b f o sp => s.doDump r b f o sp
    | .reset _ => s.doReset r
    | .attest _ b o _ => s.doAttest r b o
    | .fwUpdate _ b o l => s.doFwUpdate r b o l
    | _ => s

/-- The origin of a command that waits or runs. -/
def RunCmd.via (r : RunCmd) : Option Via := (hdrOf r.cmd).map (·.via)

/-- May a command that waits start now (R395, R397, R402)? One with a bad opcode waits for no other command but those that ORDER names. -/
def State.mayStart (s : State) (r : RunCmd) : Bool :=
  let order := ((hdrOf r.cmd).map (·.order)).getD false && r.via ≠ some .mbox
  let ok := !order || !(s.hst.running.any (fun x => x.via = r.via))
  let st := !isStateCmd r.cmd || !(s.hst.running.any (fun x => isStateCmd x.cmd))
  let tr := !isTransfer r.cmd || decide ((s.hst.running.filter (fun x => isTransfer x.cmd)).length < 4)
  let arm := !isArm r.cmd || !((List.range 4).any (fun m => (s.ms m).scrubbing)) && !(s.hst.running.any (fun x => isTransfer x.cmd))
  ok && (opcodeBad r.cmd || st && tr && arm)

/-- Commands that wait start, mailbox first, as long as one may (R397, R411); at most `n` of them. -/
def State.pumpN (s : State) : Nat → State
  | 0 => s
  | n + 1 =>
    match s.hst.waiting.find? (fun r => s.mayStart r && (!s.compFull || r.via = some .mbox)) with
    | none => s
    | some r => State.pumpN ((s.updHst (fun h => { h with waiting := h.waiting.erase r })).startCmd r) n

/-- Every command that may start does: at most the three that can wait, one for each ring and one for the mailbox, and one that a mailbox
doorbell written by a command adds. With the tollhouse cores halted none does (R493). -/
def State.pump (s : State) : State := if s.sec.halted then s else s.pumpN (s.hst.waiting.length + 2)

end Sys2Proof.Machine
end

