-- ==== Sys2Proof/Machine/Staging.lean ====
section
/-! DEFINITION. The staging engine, the CXL port and local transfers (10). -/

namespace Sys2Proof.Machine

/-! ### Runs of descriptors -/

/-- The tick within the step (R275). -/
def State.stepTick (s : State) : Nat := s.tick % max 1 s.stepTicks

/-- The machine time of the edge of a descriptor's T_DEAD tick, for a run begun in step `st` (R275, R277). -/
def State.deadTime (s : State) (a : Desc) (st : Nat) : Nat :=
  s.phaseTime (8 * ((st - s.job.firstStep + a.lag) * s.stepTicks + a.dead))

/-- Does what arrives now come before the last CXL-span cycle, of 1 ns, that precedes the edge of T_DEAD (R277)? -/
def State.inTime (s : State) (a : Desc) (st : Nat) : Bool := decide (s.tim.now.toNat + ns < s.deadTime a st)

/-- Has the outbound run every line acknowledged that it writes (R277)? -/
def StgRun.acked (r : StgRun) : Bool := r.toWrite.all r.done.contains

/-- The run of descriptor `d` begun in step `st`. -/
def State.stgRun (s : State) (d st : Nat) : Option StgRun := s.cxl.runs.find? (fun r => r.desc == d && r.step == st)

/-- The runs with one changed. -/
def State.updRun (s : State) (d st : Nat) (f : StgRun → StgRun) : State :=
  s.updCxl (fun x => { x with runs := x.runs.map (fun r => if r.desc = d ∧ r.step = st then f r else r) })

/-- The runs without one that is over. -/
def State.dropRun (s : State) (d st : Nat) : State :=
  s.updCxl (fun x => { x with runs := x.runs.filter (fun r => !(r.desc == d && r.step == st)) })

/-- Does the descriptor lie on the path that the agreed branches of this step have taken (R281): in the arm taken last, or before the
first arm while none is? -/
def State.staged (s : State) (d : Nat) : Bool :=
  inStretch s.job.img s.chipOr0 ((s.cxl.arms.getLast?.map (·.2)).getD 0) d

/-- Do the external ranges of two descriptors overlap? -/
def Desc.overlaps (a b : Desc) : Bool :=
  a.host == b.host && a.hbuf == b.hbuf && decide (a.addr < b.addr + 128 * b.n) && decide (b.addr < a.addr + 128 * a.n)

/-- Is there an outstanding outbound write, of those that `p` picks, to a range that overlaps that of `a` (R279)? -/
def State.overlapped (s : State) (a : Desc) (p : StgRun → Bool) : Bool :=
  s.cxl.runs.any (fun r => !r.inbound && !r.acked && p r && (match s.desc r.desc with
    | some b => a.overlaps b
    | none => false))

/-- Does run `r` come before step `st` and descriptor `d` in step and list order? -/
def StgRun.before (r : StgRun) (d st : Nat) : Bool := r.step < st || r.step == st && r.desc < d

/-- May the external read of descriptor `d` in step `st` start (R279)? -/
def State.readFree (s : State) (a : Desc) (d st : Nat) : Bool := !s.overlapped a (fun r => r.before d st)

/-! ### Staging faults (R277, R278, R282, R286) -/

/-- KIND of CXL_STG_LOG for an access error. -/
def cxlKind : CxlErr → Nat
  | .poison => 2
  | .completion => 3
  | .linkDown => 6
  | .unmapped => 7

/-- CXL_STG_LOG: the first staging fault since the job started. -/
def State.stgFault (s : State) (d kind line st : Nat) : State :=
  s.updCxl (fun x => if x.faulted then x else
    { x with faulted := true, stgLog := orAll [at_ d 0 10, at_ kind 10 3, at_ line 13 9, at_ st 32 32] })

/-- CXL_ERR_LOG: the first external error since the job started. -/
def State.extLog (s : State) (addr hbuf : Nat) (host : Bool) : State :=
  s.updCxl (fun x => if bit x.errLog 61 then x else { x with errLog := orAll [at_ addr 0 48, at_ hbuf 48 12, flag host 60, flag true 61] })

/-- An external error at a line of a descriptor. -/
def State.extFault (s : State) (a : Desc) (line : Nat) : State := s.extLog (a.addr + 128 * line) a.hbuf a.host

/-- A failed external access to the CXL region (R282): logged, counted, 0x3005. -/
def State.accessFault (s : State) (a : Desc) (d st line : Nat) (kind : CxlErr) : State :=
  let s := (s.stgFault d (cxlKind kind) line st).extFault a line
  State.raise (s.updCxl (fun x => { x with stgCnt := satInc x.stgCnt 40 16 1 })) 0x3005 110 1 s.cxl.stgLog (some (a.addr + 128 * line))

/-- Why accesses to `lines` of the descriptor's range fail at once, and at which line: the link is down, or no enabled decoder covers an offset of
the line (R272, R282). -/
def State.accessBad (s : State) (a : Desc) (lines : List Nat) : Option (CxlErr × Nat) :=
  if a.host then none
  else if !s.cxl.linkUp then lines.head?.map (fun i => (.linkDown, i))
  else (lines.find? (fun i => !s.mapped (a.addr + 128 * i) 128)).map (fun i => (.unmapped, i))

/-- A failed host transfer of a line (R282): the descriptor stays incomplete. -/
def State.hostLineFail (s : State) (a : Desc) (desc step line : Nat) : State :=
  match s.stgRun desc step with
  | none => s
  | some _ =>
    ((s.updRun desc step (fun r => { r with failed := true })).extFault a line).updCxl (fun x => { x with stgCnt := satInc x.stgCnt 56 8 1 })

/-- Is the host buffer of a descriptor registered no more (R387)? -/
def State.hostGone (s : State) (a : Desc) : Bool := a.host && !s.hst.bufs.any (fun b => b.1 == a.hbuf)

/-- The external accesses of a run to `lines` begin (R276, R278), by `go`; or they fail at once (R282, R387). No line makes no access. -/
def State.beginAccess (s : State) (a : Desc) (desc step : Nat) (lines : List Nat) (go : State → State) : State :=
  match s.accessBad a lines with
  | some k => (s.updRun desc step (fun r => { r with failed := true })).accessFault a desc step k.2 k.1
  | none =>
    if s.hostGone a && !lines.isEmpty then s.hostLineFail a desc step (lines.headD 0)
    else go (s.updRun desc step (fun r => { r with issued := true }))

/-- Inbound reads that waited start once no outstanding write holds them; one whose access has failed does not. -/
def State.startReads (s : State) : State :=
  if s.cxl.aborted then s
  else s.cxl.runs.foldl (fun s r =>
    match s.desc r.desc with
    | some a => if r.inbound && !r.issued && !r.failed && s.readFree a r.desc r.step then s.beginAccess a r.desc r.step (List.range a.n) id else s
    | none => s) s

/-! ### Inbound descriptors (R276) -/

/-- STAGING_ISSUE (R276, R279, R281, R283): at the edge of T_ISSUE the read starts, or waits for a write that overlaps it. -/
def execStagingIssue (desc : Nat) (s : State) : Host.Outcome State Fault Refusal :=
  match s.desc desc with
  | none => .next s
  | some a =>
    if !s.job.running || !s.cxl.staging || a.out || s.stepTick ≠ a.issue || s.cxl.aborted || !s.staged desc ||
        (s.stgRun desc s.step).isSome then .next s
    else
      let r : StgRun := { desc, step := s.step, inbound := true, host := a.host }
      let s' := s.updCxl (fun x => { x with runs := x.runs ++ [r] })
      .next (if s.readFree a desc s.step then s'.beginAccess a desc s.step (List.range a.n) id else s')

/-- A line read outside reaches the engine (R276, R277, R283): discarded after a step abort, or too late for the deadline. -/
def State.lineArrive (s : State) (a : Desc) (desc step line : Nat) (data : List Byte) : State :=
  match s.stgRun desc step with
  | none => s
  | some r =>
    if r.inbound && r.issued && r.checked.isNone && !s.cxl.aborted && decide (line < a.n) && !r.done.contains line && s.inTime a step then
      (s.updRun desc step (fun r => { r with done := r.done ++ [line] })).updCxl
        (fun x => { x with sbuf := Tbl.set x.sbuf (a.sbuf + line) (padTo data 128) })
    else s

/-- STAGING_LINE_ARRIVE (R276). -/
def execStagingLineArrive (desc step line : Nat) (data : List Byte) (s : State) : Host.Outcome State Fault Refusal :=
  match s.desc desc with
  | none => .next s
  | some a => .next (s.lineArrive a desc step line data)

/-- Is a run complete (R277)? -/
def StgRun.complete (r : StgRun) (n : Nat) : Bool :=
  if r.inbound then (List.range n).all r.done.contains else r.acked && r.late.isEmpty

/-- The line at which a run is incomplete. -/
def StgRun.missing (r : StgRun) (n : Nat) : Nat :=
  ((if r.inbound then List.range n else r.toWrite).find? (fun l => !r.done.contains l || r.late.contains l)).getD 0

/-- STAGING_DEADLINE (R277, R419): at the edge of T_DEAD a complete descriptor is counted, and another raises 0x100B for the tick that ends
there. -/
def execStagingDeadline (desc : Nat) (s : State) : Host.Outcome State Fault Refusal :=
  match s.desc desc with
  | none => .next s
  | some a =>
    let st := s.step - a.lag
    match s.stgRun desc st with
    | none => .next s
    | some r =>
      if !s.job.running || s.stepTick ≠ a.dead || s.phase ≠ 0 || s.step < a.lag || r.checked.isSome then .next s
      else if r.complete a.n then
        let s := s.updCxl (fun x => { x with stgCnt := satInc x.stgCnt 0 24 1 })
        .next (if r.inbound then s.updRun desc st (fun r => { r with checked := some true }) else s.dropRun desc st)
      else
        let s := (s.stgFault desc (if r.failed && a.host then 4 else 1) (r.missing a.n) st).updRun desc st (fun r => { r with checked := some false })
        let s := s.updCxl (fun x => { x with stgCnt := satInc x.stgCnt 24 16 1 })
        .next (s.raiseEdge 0x100B 110 1 s.cxl.stgLog)

/-- STAGING_DELIVERY (R276): the lines of a complete descriptor are placed as crossing writes of this phase. -/
def execStagingDelivery (desc : Nat) (s : State) : Host.Outcome State Fault Refusal :=
  match s.desc desc with
  | none => .next s
  | some a =>
    let st := s.step - a.lag
    match s.stgRun desc st with
    | none => .next s
    | some r =>
      if !s.job.running || a.out || s.stepTick ≠ a.stick || s.phase ≠ a.sph || s.step < a.lag || r.checked ≠ some true then .next s
      else
        let span := s.destSpan a.dspan
        let mem := 100 ≤ a.dspan && a.dspan < 104
        .next ((forEach s (List.range a.n) (fun s i =>
          s.cross span a.q (a.entry + i) true true (Tbl.get (zeros 128) s.cxl.sbuf (a.sbuf + i)) false
            (if mem then some (BitVec.ofNat 12 (a.tagb + i)) else none) none s.tik.phaseNo)).dropRun desc st)

/-! ### Outbound descriptors (R278) -/

/-- One line captured: an entry not written in its phase raises 0x1003, another descriptor's number 0x1007, each once (R515). -/
def State.captureLine (a : Desc) (d : Nat) (x : List (BitVec 16) × List Nat × State) (i : Nat) : List (BitVec 16) × List Nat × State :=
  let s := x.2.2
  let r := s.readEntry 110 1 a.q (a.entry + i) s.tik.phaseNo (x.1.contains 0x1003)
  let e := r.1
  let s := r.2.updCxl (fun c => { c with sbuf := Tbl.set c.sbuf (a.sbuf + i) e.bytes })
  let told := if e.w0 && e.w1 then x.1 else x.1 ++ [0x1003]
  let lines := if e.e0 || e.e1 then x.2.1 else x.2.1 ++ [i]
  let bad := match e.desc with
    | some n => n != d
    | none => false
  if bad && !told.contains 0x1007 then
    let s := s.stgFault d 5 i s.step
    (told ++ [0x1007], lines, s.raise 0x1007 110 1 s.cxl.stgLog)
  else (told, lines, s)

/-- STAGING_CAPTURE (R278, R281). -/
def execStagingCapture (desc : Nat) (s : State) : Host.Outcome State Fault Refusal :=
  match s.desc desc with
  | none => .next s
  | some a =>
    if !s.job.running || !s.cxl.staging || !a.out || s.stepTick ≠ a.stick || s.phase ≠ a.sph || !s.staged desc ||
        (s.stgRun desc s.step).isSome then .next s
    else
      let r := (List.range a.n).foldl (State.captureLine a desc) ([], [], s)
      let run : StgRun := { desc, step := s.step, inbound := false, host := a.host, toWrite := r.2.1 }
      .next (r.2.2.updCxl (fun x => { x with runs := x.runs ++ [run] }))

/-- STAGING_EXTERNAL_WRITE (R278, R279, R283): the captured lines go to the external range, unless a write to an overlapping range is
outstanding that has begun or comes before it in step and list order. -/
def execStagingExternalWrite (desc step : Nat) (s : State) : Host.Outcome State Fault Refusal :=
  match s.desc desc with
  | none => .next s
  | some a =>
    match s.stgRun desc step with
    | none => .next s
    | some r =>
      let held := s.overlapped a (fun q => (q.issued || q.before desc step) && !(q.desc == desc && q.step == step))
      if r.inbound || r.issued || r.failed || s.cxl.aborted || held then .next s
      else
        let w := r.toWrite.map (fun i => ({ host := a.host, addr := a.hbuf * 2 ^ 40 + a.addr + 128 * i,
                                            data := Tbl.get (zeros 128) s.cxl.sbuf (a.sbuf + i) } : ExtWrite))
        .next (s.beginAccess a desc step r.toWrite (fun s => s.updCxl (fun x => { x with out := x.out ++ w })))

/-- A line written outside is acknowledged (R277, R279), in time for the deadline or too late: reads that waited for it may start. -/
def State.writeAck (s : State) (a : Desc) (desc step line : Nat) : State :=
  let inTime := s.inTime a step
  State.startReads (s.updRun desc step (fun r =>
    if !r.inbound && r.issued && r.toWrite.contains line && !r.done.contains line then
      { r with done := r.done ++ [line], late := if inTime then r.late else r.late ++ [line] }
    else r))

/-- STAGING_WRITE_ACK (R277, R279). -/
def execStagingWriteAck (desc step line : Nat) (s : State) : Host.Outcome State Fault Refusal :=
  match s.desc desc with
  | none => .next s
  | some a => .next (s.writeAck a desc step line)

/-! ### CXL port (R271 to R273, R282) -/

/-- CXL_ACCESS_ERROR (R282): an access of a run fails. -/
def execCxlAccessError (desc step line : Nat) (kind : CxlErr) (s : State) : Host.Outcome State Fault Refusal :=
  match s.desc desc with
  | none => .next s
  | some a =>
    match s.stgRun desc step with
    | none => .next s
    | some r =>
      if r.issued && !a.host && decide (line < a.n) then
        .next ((s.updRun desc step (fun r => { r with failed := true })).accessFault a desc step line kind)
      else .next s

/-- CXL_HDM of a decoder (R286); one with an interleave that R271 does not list, or of units past the region's 16,384 (R272), is not
programmed. -/
def hdmReg (d : HdmDecoder) : Reg :=
  if 2 < d.ways.toNat || 6 < d.gran.toNat || 16384 < d.base + d.size then 0
  else orAll [at_ d.base 0 14, at_ d.size 16 15, flag true 31, at_ d.ways.toNat 32 2, at_ d.gran.toNat 34 3, at_ d.targets.toNat 38 8]

/-- The four CXL_HDM registers that a list of decoders gives. -/
def hdmRegs (l : List HdmDecoder) : List Reg := (List.range 4).map (fun n => (l[n]?.map hdmReg).getD 0)

/-- Does the link train at a width and a speed that R271 lists: x16, x8 or x4, at 64, 32, 16 or 8 GT/s? -/
def cxlTrains (width speed : Nat) : Bool := (width = 16 || width = 8 || width = 4) && 3 ≤ speed && speed ≤ 6

/-- CXL_LINK_TRAIN (R271 to R273): the link is used as it trained, and stays down at a width or speed that the port does not support;
decoders never change while a job is armed or running. -/
def execCxlLinkTrain (width speed devices : Nat) (hdm : List HdmDecoder) (s : State) : Host.Outcome State Fault Refusal :=
  if !s.fwUp then .next s
  else if !cxlTrains width speed then .next (s.updCxl (fun x => { x with linkUp := false, width := 0, speed := 0 }))
  else
    let keep := s.busy
    .next (s.updCxl (fun x => { x with linkUp := true, width := width, speed := speed,
                                       devices := if keep then x.devices else min devices 4, hdm := if keep then x.hdm else hdmRegs hdm }))

/-- CXL_HOT_ADD (R272): between jobs. -/
def execCxlHotAdd (devices : Nat) (hdm : List HdmDecoder) (s : State) : Host.Outcome State Fault Refusal :=
  if s.busy || !s.cxl.linkUp then .next s else .next (s.updCxl (fun x => { x with devices := min devices 4, hdm := hdmRegs hdm }))

/-- Has a run of a CXL descriptor an access outstanding: a line that is not in, or not acknowledged? -/
def StgRun.outside (r : StgRun) (n : Nat) : Bool :=
  !r.host && r.issued && !r.failed && !(if r.inbound then (List.range n).all r.done.contains else r.acked)

/-- CXL_LINK_DOWN (R282, R286): the outstanding accesses of each CXL descriptor fail. -/
def execCxlLinkDown (s : State) : Host.Outcome State Fault Refusal :=
  let s := s.updCxl (fun x => { x with linkUp := false, width := 0, speed := 0 })
  .next (s.cxl.runs.foldl (fun s r =>
    match s.desc r.desc with
    | some a =>
      if r.outside a.n then
        (s.updRun r.desc r.step (fun r => { r with failed := true })).accessFault a r.desc r.step (r.missing a.n) .linkDown
      else s
    | none => s) s)

/-! ### Transfers between jobs (R285) -/

/-- A transfer to or from the CXL region fails when the link is down or the range is not mapped (R282; its status is a DESIGN CHOICE, log
89). -/
def State.cxlFails (s : State) (a len : Nat) : Bool := decide (cxlBase ≤ a) && !(s.cxl.linkUp && s.mapped a len)

/-- One line read at a local offset: store and HBM through their correctors, the CXL region from its devices; a free value where the
compute die has lost its rails (log 8). -/
def State.localRead (s : State) (a : Nat) : List Byte × State :=
  if s.pwr.computeOff && (inStore a || inHbm a) then s.freeBytes 128
  else if inStore a then s.readLine (a / 0x100000) (a % 0x100000 / 128)
  else if inHbm a then
    let k := (a - hbmBase) / 128
    let r := readHbm s (k / stackLines) (k % stackLines) []
    (r.1, r.2.2)
  else ((range' a 128).map (Config.deviceByte s.freeCtr), { s with freeCtr := s.freeCtr + 1 })

/-- One line written at a local offset. -/
def State.localWrite (s : State) (a : Nat) (data : List Byte) : State :=
  if inStore a then s.writeLine (a / 0x100000) (a % 0x100000 / 128) data
  else if inHbm a then
    State.scrubWords { s with mem := memWrite s.mem a (padTo data 128) } .hbm ((a - hbmBase) / 128) (List.range 16)
  else s.updCxl (fun x => { x with out := x.out ++ [{ host := false, addr := a, data := padTo data 128 }] })

/-- `n` lines read from local offset `a`. -/
def State.localReads (s : State) (a n : Nat) : List Byte × State :=
  (List.range n).foldl (fun x i =>
    let r := x.2.localRead (a + 128 * i)
    (x.1 ++ r.1, r.2)) ([], s)

/-- Lines written from local offset `a`. -/
def State.localWrites (s : State) (a : Nat) (data : List Byte) (n : Nat) : State :=
  forEach s (List.range n) (fun s i => s.localWrite (a + 128 * i) (slice data (128 * i) 128))

end Sys2Proof.Machine
end

