-- ==== Sys2Proof/Machine/CmdRows.lean ====
section
/-! DEFINITION. Host command rows, host transfers, rings, mailbox, windows and the reset of the PCIe interface (14: R387 to R412). -/

namespace Sys2Proof.Machine

/-! ### Consuming commands (R393, R397, R411) -/

/-- May ring 1, or ring 0, be consumed from now: enabled, not stopped, not empty, no command of it waiting, room for completions? -/
def State.ringReady (s : State) (ring1 : Bool) : Bool :=
  let h := s.hst
  let v := if ring1 then Via.ring1 else Via.ring0
  bit h.ctl 0 && h.st ≠ stResetting && !s.compFull && !(h.waiting.any (fun r => r.via = some v)) &&
    (if ring1 then !h.err1 && h.cr1Head ≠ h.cr1Tail else !h.err0 && h.cr0Head ≠ h.cr0Tail)

/-- A command of the host: the next descriptor of its ring is consumed, or the mailbox runs it (R393, R397, R411). -/
def State.command (s : State) (i : Instr) (h : Hdr) : State :=
  let x := s.hst
  match h.via with
  | .mbox =>
    if x.st = stResetting then s
    else if x.mboxBusy then s.updHst (fun x => { x with cnt := satInc x.cnt 56 8 1 })
    else
      State.pump (s.updHst (fun x => { x with mboxBusy := true, mboxCpl := Tbl.set x.mboxCpl 0 (Tbl.get 0 x.mboxCpl 0 &&& ~~~(flag true 56)),
                                              waiting := ⟨i, 0⟩ :: x.waiting }))
  | .ring1 =>
    if s.ringReady true then
      State.pump (s.updHst (fun x => { x with cr1Head := (x.cr1Head + 1) % ringSize x.cring1, waiting := x.waiting ++ [⟨i, x.cr1Head⟩] }))
    else s
  | .ring0 =>
    if s.ringReady false && !s.ringReady true then
      State.pump (s.updHst (fun x => { x with cr0Head := (x.cr0Head + 1) % ringSize x.cring0, waiting := x.waiting ++ [⟨i, x.cr0Head⟩] }))
    else s

/-- IDENTIFY (R398). -/
def execIdentify (h : Hdr) (s : State) : Host.Outcome State Fault Refusal := .next (s.command (.identify h) h)
/-- BUF_REG (R391). -/
def execBufReg (h : Hdr) (hbuf : Nat) (mask : BitVec 2) (addr len : Nat) (s : State) : Host.Outcome State Fault Refusal :=
  .next (s.command (.bufReg h hbuf mask addr len) h)
/-- BUF_FREE (R391). -/
def execBufFree (h : Hdr) (hbuf : Nat) (s : State) : Host.Outcome State Fault Refusal := .next (s.command (.bufFree h hbuf) h)
/-- LOAD (R400). -/
def execLoad (h : Hdr) (hbuf ofs len : Nat) (res : HostRes) (s : State) : Host.Outcome State Fault Refusal :=
  .next (s.command (.load h hbuf ofs len res) h)
/-- UNLOAD (R398). -/
def execUnload (h : Hdr) (s : State) : Host.Outcome State Fault Refusal := .next (s.command (.unload h) h)
/-- PLACE (R365, R401). -/
def execPlace (h : Hdr) (s : State) : Host.Outcome State Fault Refusal := .next (s.command (.place h) h)
/-- SWITCH_GET (R401). -/
def execSwitchGet (h : Hdr) (req page : Nat) (s : State) : Host.Outcome State Fault Refusal := .next (s.command (.switchGet h req page) h)
/-- SWITCH_DONE (R401). -/
def execSwitchDone (h : Hdr) (req : Nat) (s : State) : Host.Outcome State Fault Refusal := .next (s.command (.switchDone h req) h)
/-- ARM (R402). -/
def execArm (h : Hdr) (s : State) : Host.Outcome State Fault Refusal := .next (s.command (.arm h) h)
/-- START (R403). -/
def execStart (h : Hdr) (first : Reg) (s : State) : Host.Outcome State Fault Refusal := .next (s.command (.start h first) h)
/-- STOP (R404). -/
def execStop (h : Hdr) (last : Reg) (s : State) : Host.Outcome State Fault Refusal := .next (s.command (.stop h last) h)
/-- ABORT (R405). -/
def execAbort (h : Hdr) (s : State) : Host.Outcome State Fault Refusal := .next (s.command (.abort h) h)
/-- RELEASE (R398). -/
def execRelease (h : Hdr) (s : State) : Host.Outcome State Fault Refusal := .next (s.command (.release h) h)
/-- DMA (R285, R398). -/
def execDma (h : Hdr) (hbuf : Nat) (toHost : Bool) (bufOfs loc len : Nat) (s : State) : Host.Outcome State Fault Refusal :=
  .next (s.command (.dma h hbuf toHost bufOfs loc len) h)
/-- REG_READ (R514). -/
def execRegRead (h : Hdr) (r count : Nat) (s : State) : Host.Outcome State Fault Refusal := .next (s.command (.regRead h r count) h)
/-- REG_WRITE (R514). -/
def execRegWrite (h : Hdr) (r count : Nat) (vals : List Reg) (s : State) : Host.Outcome State Fault Refusal :=
  .next (s.command (.regWrite h r count vals) h)
/-- DUMP (R407, R435). -/
def execDump (h : Hdr) (hbuf : Nat) (force : Bool) (ofs space : Nat) (s : State) : Host.Outcome State Fault Refusal :=
  .next (s.command (.dump h hbuf force ofs space) h)
/-- RESET (R406). -/
def execReset (h : Hdr) (s : State) : Host.Outcome State Fault Refusal := .next (s.command (.reset h) h)
/-- ATTEST (R492). -/
def execAttest (h : Hdr) (hbuf ofs : Nat) (nonce : List Byte) (s : State) : Host.Outcome State Fault Refusal :=
  .next (s.command (.attest h hbuf ofs nonce) h)
/-- FW_UPDATE (R489). -/
def execFwUpdate (h : Hdr) (hbuf ofs len : Nat) (s : State) : Host.Outcome State Fault Refusal := .next (s.command (.fwUpdate h hbuf ofs len) h)

/-! ### Host transfers (R388) -/

/-- What a transfer read from a host buffer: the transfer area's own bytes, or what the host answered. -/
def State.fromBuf (s : State) (hbuf ofs len : Nat) (data : List Byte) : List Byte :=
  if hbuf = xferBuf then memRead s.xfer ofs len else padTo data len

/-- One item of a dump is read and written behind the place of the header (R436 to R438, R441). -/
def State.dumpItem (s : State) (hbuf ofs : Nat) (deaf : List (Nat × Nat)) : State :=
  let s := deaf.foldl (fun s a => if a.2 = 0xFF && a.1 < 114 then s.updSpn a.1 (fun k => { k with silent := true }) else s) s
  let x := s.dumpTake deaf
  let b := x.1.flatMap (fun r => r.bytes s.nowNs)
  let d := s.dmp
  let u := (if d.stage = 6 then State.dumpReads { s with dmp := { d with deaf := x.2 } } else s).toBuf hbuf (ofs + 128 + d.body.length) b
  { u with dmp := { d with noAns := d.noAns + (x.1.filter (fun r => r.status ≠ 0)).length, records := d.records + x.1.length,
                           lines := (d.body.length + b.length) / 128, body := d.body ++ b, deaf := x.2,
                           start := if d.stage = 1 then s.nowNs else d.start } }

/-- DUMP finishes (R437 to R439, R441): the header comes last, then the outcome, and an automatic reset that waited for it (R426). -/
def State.dumpDone (s : State) (r : RunCmd) (hbuf : Nat) (force : Bool) (ofs : Nat) : State :=
  let no := s.dmp.noAns
  let n := 128 + s.dmp.body.length
  let last := orAll [at_ no 0 16, flag true 16, flag (no ≠ 0) 17]
  let s := s.toBuf hbuf ofs (s.dumpHeader force)
  let s := { s with dmp := { s.dmp with running := false, stage := 0, noAns := 0, lines := n / 128, last := last, body := [], deaf := [] } }
  let s := if no = 0 then s.finish r sOk 0 0 (leBytes n 8)
    else (s.raise 0x9003 srcToll 0 0 none no).finish r sPartial 0x9003 no (leBytes n 8)
  if s.rst.autoDue then State.requestReset { s with rst := { s.rst with autoDue := false } } 1 else s

/-- FW_UPDATE finishes (R489): the slot that did not boot is written; a good copy gets a boot record with TRIAL. -/
def State.fwDone (s : State) (r : RunCmd) (img : List Byte) : State :=
  let slot := 1 - s.sec.slot
  let s := { s with sec := s.sec.putSlot slot img, hst := { s.hst with fwSlot := slot } }
  if s.fwVerifies (s.sec.slotImage slot) then
    (s.bootAppend ⟨slot, true, 3⟩).finish r sOk 0 0 [BitVec.ofNat 8 slot]
  else s.badImage.finish r sSignature 0x7001 0 []

/-- A host transfer of a dump completes: there is one for each item of R436 (DESIGN CHOICE, log 104), and the sixth ends it. -/
def State.dumpStep (s : State) (r : RunCmd) (hbuf : Nat) (force : Bool) (ofs : Nat) (deaf : List (Nat × Nat)) : State :=
  let u := s.dumpItem hbuf ofs deaf
  if s.dmp.stage < 6 then { u with dmp := { u.dmp with stage := s.dmp.stage + 1 } } else u.dumpDone r hbuf force ofs

/-- A running transfer command's host transfer completes (R285, R388). -/
def State.transferDone (s : State) (r : RunCmd) (deaf : List (Nat × Nat)) (data : List Byte) : State :=
  match r.cmd with
  | .dma _ hbuf toHost ofs loc len =>
    if s.cxlFails loc len then
      let s := (s.extLog loc 0 false).updCxl (fun x => { x with stgCnt := satInc x.stgCnt 40 16 1 })
      (s.raise 0x3005 110 1 s.cxl.errLog (some loc)).finish r sHostDma 0 0 []
    else if toHost then
      let x := s.localReads loc (len / 128)
      (x.2.toBuf hbuf ofs x.1).finish r sOk 0 0 (leBytes len 8)
    else (s.localWrites loc (s.fromBuf hbuf ofs len data) (len / 128)).finish r sOk 0 0 (leBytes len 8)
  | .dump _ hbuf force ofs _ => s.dumpStep r hbuf force ofs deaf
  | .attest _ hbuf ofs nonce =>
    let x := s.report nonce
    if 3 ≤ s.sec.debug then s.attestDenied r else (x.2.toBuf hbuf ofs x.1).finish r sOk 0 0 (leBytes x.1.length 8)
  | .fwUpdate _ hbuf ofs len => s.fwDone r (s.fromBuf hbuf ofs len data)
  | _ => s

/-- A running transfer command's host transfer fails (R388). A dump that ends so leaves no outcome but its end. -/
def State.transferFail (s : State) (r : RunCmd) : State :=
  let s := match r.cmd with
    | .dump .. => { s with dmp := { s.dmp with running := false, stage := 0, body := [], deaf := [] } }
    | _ => s.halfWritten r.cmd
  let s := s.finish r sHostDma 0 0 []
  if s.rst.autoDue && !s.dmp.running then State.requestReset { s with rst := { s.rst with autoDue := false } } 1 else s

/-- Is the transfer of a command held back: a dump waits until the job has stopped (R407), DMA until a UCIe module is up (R19)? -/
def State.transferHeld (s : State) (r : RunCmd) : Bool :=
  match r.cmd with
  | .dump .. => s.job.running
  | .dma .. => s.ucieCut
  | _ => false

/-- HOST_DMA_COMPLETE (R282, R285, R388). -/
def execHostDmaComplete (ref : DmaRef) (res : HostRes) (s : State) : Host.Outcome State Fault Refusal :=
  match ref with
  | .command i deaf =>
    match (s.hst.running.filter (fun r => isTransfer r.cmd))[i]? with
    | none => .next s
    | some r =>
      if s.transferHeld r then .next s
      else
        match res with
        | .ok data => .next (s.transferDone r deaf data).pump
        | _ => .next (s.transferFail r).pump
  | .staging d st line =>
    match s.desc d with
    | none => .next s
    | some a =>
      if !a.host || s.ucieCut then .next s
      else
        match res with
        | .ok data =>
          .next (if s.hostGone a then s.hostLineFail a d st line
                 else if a.out then s.writeAck a d st line else s.lineArrive a d st line data)
        | _ => .next (s.hostLineFail a d st line)

/-! ### Doorbells, completions and events (R393, R394, R412) -/

/-- A write by the host to a doorbell or window register: dropped while the module is RESETTING (R432). -/
def hostWrite (s : State) (f : State → State) : Host.Outcome State Fault Refusal :=
  if s.hst.st = stResetting then .next s else .next (f s).pump

/-- COMMAND_RING_DOORBELL (R393). -/
def execCommandRingDoorbell (ring1 : Bool) (v : Reg) (s : State) : Host.Outcome State Fault Refusal := hostWrite s (·.ringDoorbell ring1 v)
/-- COMPLETION_DOORBELL (R394). -/
def execCompletionDoorbell (v : Reg) (s : State) : Host.Outcome State Fault Refusal := hostWrite s (·.compDoorbell v)
/-- EVENT_DOORBELL (R394). -/
def execEventDoorbell (v : Reg) (s : State) : Host.Outcome State Fault Refusal := hostWrite s (·.evtDoorbell v)
/-- MAILBOX_DOORBELL (R411). -/
def execMailboxDoorbell (v : Reg) (s : State) : Host.Outcome State Fault Refusal := hostWrite s (·.mboxDoorbell v)

/-- The oldest completion goes to the ring when there is room (R394, R396, R412). -/
def State.writeCompletion (s : State) : State :=
  match s.hst.done with
  | [] => s
  | c :: rest =>
    if !bit s.hst.ctl 0 || s.compFull then s
    else
      let s := s.updHst (fun h =>
        let t := (h.compTail + 1) % ringSize h.comp
        { h with done := rest, compRing := Tbl.set h.compRing h.compTail (c.bytes h.compPhase), compTail := t,
                 compPhase := if t = 0 then !h.compPhase else h.compPhase, cnt := satInc h.cnt 0 32 1 })
      if c.irq then s.signal 0 else s

/-- COMPLETION_WRITE. -/
def execCompletionWrite (s : State) : Host.Outcome State Fault Refusal := .next s.writeCompletion

/-- The completions that the ring has room for are written. -/
def State.writeCompletions (s : State) : State := (List.range s.hst.done.length).foldl (fun s _ => s.writeCompletion) s

/-- EVENTS_LOST (R394, R409): the count of discarded events is posted once there is room, with 0x8004. -/
def execEventsLost (s : State) : Host.Outcome State Fault Refusal :=
  if s.hst.evtLost = 0 || !bit s.hst.ctl 0 || s.evtFull then .next s
  else
    let n := s.hst.evtLost
    .next ((((s.updHst (fun h => { h with evtLost := 0 })).event 8 (leBytes n 4))).raise 0x8004 srcToll 0)

/-- COAL_US of HST_CTL in units of machine time (R412). -/
def State.coalTime (s : State) : Nat := field s.hst.ctl 16 10 * 1000 * ns

/-- INTERRUPT_COALESCE_END (R412): COAL_US after it was signalled, the vector may be signalled again, and is when it was held back. -/
def execInterruptCoalesceEnd (vector : Nat) (s : State) : Host.Outcome State Fault Refusal :=
  match vector with
  | 0 =>
    if !s.hst.coal0 then .next s
    else
      let owed := s.hst.owed0
      let s := (s.advance (s.hst.coalAt0 + s.coalTime)).updHst (fun h => { h with coal0 := false, owed0 := false })
      .next (if owed then s.signal 0 else s)
  | 1 =>
    if !s.hst.coal1 then .next s
    else
      let owed := s.hst.owed1
      let s := (s.advance (s.hst.coalAt1 + s.coalTime)).updHst (fun h => { h with coal1 := false, owed1 := false })
      .next (if owed then s.signal 1 else s)
  | _ => .next s

/-- PCIE_RESET (R387, R508): only the host interface is reset, alike for every kind. HST_CTL is a field of region 6 (R458). -/
def execPcieReset (_kind : PcieResetKind) (s : State) : Host.Outcome State Fault Refusal :=
  .next (s.stale.updHst (fun h =>
    { h.ringsOff with bufs := [], mboxBusy := false, done := [], orphans := h.orphans ++ h.waiting ++ h.running,
                      cr0Head := 0, cr0Tail := 0, cr1Head := 0, cr1Tail := 0, compTail := 0, compRead := 0, evtTail := 0, evtRead := 0 }))

/-! ### The diagnostic window and the transfer area (R389, R390, R432) -/

/-- HST_DIAG_LOG: the first refused access since it was cleared, with the page and offset at which register `r` was reached (R389). -/
def State.diagNote (s : State) (r kind : Nat) (write : Bool) : State :=
  s.updHst (fun h => if bit h.diagLog 39 then h else
    { h with diagLog := orAll [at_ r 0 22, at_ (r / 0x400000) 22 14, at_ kind 36 2, flag write 38, flag true 39] })

/-- The 0x7002 of an access through the window has HST_DIAG_LOG as its DETAIL (R414). -/
def State.windowDetail (s : State) : State :=
  s.updFlt (fun f => { f with raised := f.raised.dropLast ++ (f.raised.getLast?.map (fun (r : Raised) =>
    if r.code = 0x7002 then { r with detail := s.hst.diagLog } else r)).toList })

/-- A diagnostic access carried out (R389): one that is refused is noted with KIND 1. -/
def State.diagAccess (s : State) (write : Bool) (r : Nat) (v : Reg) : State :=
  let noted := s.diagNote r 1 write
  if write then
    match s.writeReg r v with
    | (.ok _, s) => s.pump
    | _ => (noted.writeReg r v).2.windowDetail
  else
    match s.readReg r s.chipOr0 with
    | (.ok x, s) => s.updHst (fun h => { h with diagAns := some x })
    | _ => (noted.readReg r s.chipOr0).2.windowDetail.updHst (fun h => { h with diagAns := none })

/-- DIAG_WINDOW_ACCESS (R389, R432): a read answers in `hst.diagAns`, none for an access that is turned away. -/
def execDiagWindowAccess (write : Bool) (ofs size : Nat) (v : Reg) (s : State) : Host.Outcome State Fault Refusal :=
  let bar := (pcieFn s.sec.fuses.gradeB).bar2.bytes
  let r := field s.hst.diagBase 0 14 * bar + ofs % bar
  if s.hst.st = stResetting then .next (if write then s else s.updHst (fun h => { h with diagAns := some 0 }))
  else if size ≠ 8 || ofs % 8 ≠ 0 then .next ((s.diagNote r 3 write).updHst (fun h => { h with diagAns := none }))
  else if s.silentAt r then .next (s.ask (.diag write r v))
  else .next (s.diagAccess write r v)

/-- TRANSFER_AREA_ACCESS (R390, R432): a read answers in `hst.xferAns`. -/
def execTransferAreaAccess (write : Bool) (ofs len : Nat) (data : List Byte) (s : State) : Host.Outcome State Fault Refusal :=
  if s.hst.st = stResetting then .next (if write then s else s.updHst (fun h => { h with xferAns := zeros len }))
  else if xferSize < ofs + len then .next s
  else if write then .next { s with xfer := memWrite s.xfer ofs (padTo data len) }
  else .next (s.updHst (fun h => { h with xferAns := memRead s.xfer ofs len }))

/-- REGISTER_WRITE (R444 to R448): a register without a row of its own, by its access code. -/
def execRegisterWrite (r : Nat) (v : Reg) (s : State) : Host.Outcome State Fault Refusal :=
  if s.hst.st = stResetting then .next s
  else if s.silentAt r then .next (s.ask (.reg r v))
  else .next (s.writeReg r v).2.pump

/-- MSQ_SCRUB_DONE (R267): an ARM that waited for it may start (R402). -/
def execMsqScrubDone (st : Nat) (s : State) : Host.Outcome State Fault Refusal :=
  if st < 4 then .next (s.scrubDone st).pump else .next s

end Sys2Proof.Machine
end

