-- ==== Sys2Proof/Machine/LinkRows.lean ====
section
/-! DEFINITION. Training, audits, run checks, lock loss and width changes of an Olfin link (11: R292 to R299, R312, R317 to R326). Where a
command names no port of the module, its meaning faults. -/

namespace Sys2Proof.Machine

/-- A row about port `p`: ports are 0 to 5. -/
def portRow (p : Nat) (s : State) (f : State → State) : Host.Outcome State Fault Refusal := if 6 ≤ p then .next s else .next (f s)

/-- The state after one about port `p` that happens only while `ok` holds (log 3). -/
def whenPort (s : State) (ok : Bool) (f : State → State) : State := if ok then f s else s

/-- Smallest width kept up (R327). -/
def Olf.minWidth (o : Olf) : Nat := field o.ctl 1 2

/-! ### Lanes (R292 to R294) -/

/-- The byte of a logical lane in OLF_LANE. -/
def laneByte (lock inverted : Bool) (phys fault : Nat) : Nat :=
  (if lock then 1 else 0) + (if inverted then 2 else 0) + phys % 8 * 4 + fault % 8 * 32

/-- The fault recorded against a physical lane (R327). -/
def Olf.laneFault (o : Olf) (phys : Nat) : Nat :=
  (List.range 8).foldl (fun f l => if field o.lane (8 * l + 2) 3 = phys then field o.lane (8 * l + 5) 3 else f) 0

/-- OLF_LANE from its bytes. -/
def laneReg (bs : List Nat) : Reg := BitVec.ofNat 64 (leNat (bs.map (BitVec.ofNat 8)))

/-- DETECT_RETEST (R293, R323): `lanes` gives each physical lane's finding: 0 none, 1 open, 2 short, 3 TX-to-TX. Every finding raises 0x2009;
with a peer and enough good lanes the port goes on to EQUALISE. -/
def execDetectRetest (p : Nat) (peer : Bool) (lanes : List (BitVec 3)) (s : State) : Host.Outcome State Fault Refusal :=
  portRow p s (fun s => whenPort s ((s.port p).st == 1) (fun s =>
    let s := s.beat (beatDetect p) (10000000 * ns)
    let f := (List.range 8).map (fun i => (nth (0 : BitVec 3) lanes i).toNat)
    let s := s.updPort p (fun o => { o with lane := laneReg ((List.range 8).map (fun i => laneByte false false i (nth 0 f i))) })
    let s := (f.filter (· ≠ 0)).foldl (fun s _ => s.olfFault p 0x2009 0 0) s
    let good := (f.filter (· = 0)).length
    let w := widthCode good
    s.updPort p (fun o => { o with propose := w, st := if peer && decide (1 ≤ good) && decide (o.minWidth ≤ w) then 2 else 1, stAt := s.tim.now.toNat })))

/-- EQUALISE_DONE (R295). -/
def execEqualiseDone (p : Nat) (s : State) : Host.Outcome State Fault Refusal :=
  portRow p s (fun s => whenPort s ((s.port p).st == 2) (fun s => s.updPort p (fun o => { o with st := 3, stAt := s.tim.now.toNat })))

/-- OLF_LANE after alignment (R294): each locked physical lane stands at the logical lane of its marker; the others fill what is left. A lane
once without lock that has it again is good again (R327); one with a fault of its own takes no part (R293). -/
def Olf.aligned (o : Olf) (lanes : List LaneObs) : Reg :=
  let at_ := fun (i : Nat) => nth (⟨false, false, 0⟩ : LaneObs) lanes i
  let good := (List.range 8).filter (fun i => (at_ i).lock && o.laneFault i % 4 == 0)
  let rest := (List.range 8).filter (fun i => !good.contains i)
  let free := (List.range 8).filter (fun l => good.all (fun i => (at_ i).logical % 8 ≠ l))
  laneReg ((List.range 8).map (fun l =>
    match good.find? (fun i => (at_ i).logical % 8 == l) with
    | some i => laneByte true (at_ i).inverted i 0
    | none =>
      let i := nth 0 rest ((free.findIdx? (· == l)).getD 0)
      laneByte false false i (if o.laneFault i = 0 then 4 else o.laneFault i)))

/-- Logical lanes with lock. -/
def Olf.goodLanes (o : Olf) : Nat := ((List.range 8).filter (fun l => bit o.lane (8 * l))).length

/-! ### The identity exchange (R296 to R298, R325) -/

/-- An IDENT message (R297). -/
def State.identBytes (s : State) (p : Nat) (got final : Bool) (epoch width : Nat) : List Byte :=
  let flags := (if got then 1 else 0) + (if final then 2 else 0) + (if s.sec.fuses.gradeB then 4 else 0) + (if s.tim.good then 8 else 0)
  leBytes s.sec.fuses.physId.toNat 8 ++ leBytes p 1 ++ leBytes s.flt.gen.toNat 1 ++ leBytes (epoch % 16) 1 ++ leBytes (width % 4) 1 ++
    leBytes s.sec.fabric 2 ++ leBytes (field s.plc.straps 0 15 + field s.plc.ctl 44 1 * 2 ^ 15) 2 ++
    leBytes (s.plc.chip + (if s.plc.placed then 2 ^ 15 else 0)) 2 ++ s.ownDigest ++ leBytes flags 1 ++ zeros 15

/-- An IDENT put in place of any that waits. -/
def State.sendIdent (s : State) (p : Nat) (b : List Byte) : State :=
  s.updPort p (fun o => { o with msgs := o.msgs.filter (fun m => m.msg ≠ 2) ++ [⟨2, b⟩] })

/-- ALIGN_DONE (R292, R294, R295): skew above 4 ns fails alignment, and the timeout of the state follows. -/
def execAlignDone (p : Nat) (lanes : List LaneObs) (skewPs : Nat) (s : State) : Host.Outcome State Fault Refusal :=
  portRow p s (fun s => whenPort s (((s.port p).st == 3 || (s.port p).st == 7) && decide (skewPs ≤ 4000)) (fun s =>
    let s := s.updPort p (fun o => { o with lane := o.aligned lanes })
    whenPort s (decide (1 ≤ (s.port p).goodLanes)) (fun s =>
      let s := s.updPort p (fun o => { o with st := 4, stAt := s.tim.now.toNat, lock := true, lossAt := none, propose := min o.propose (widthCode o.goodLanes), gotPeer := false, gotGot := false,
                                              gotFinal := false, msgs := [], frags := [], rxMsg := none })
      s.sendIdent p (s.identBytes p false false (s.port p).epoch.toNat (s.port p).propose))))

/-- What an IDENT tells of the peer (R297, R298, R327). -/
def Olf.notePeer (o : Olf) (b : List Byte) : Olf :=
  let straps := leAt b 14 2
  let chip := leAt b 16 2
  let flags := leAt b 50 1
  { o with peerId := BitVec.ofNat 64 (leAt b 0 8), peerDig := slice b 18 32, named := false,
           peer := orAll [at_ (leAt b 8 1) 0 3, at_ (leAt b 9 1) 4 4, at_ (leAt b 12 2) 8 16, at_ chip 24 15, at_ (chip / 2 ^ 15) 39 1, at_ straps 40 12,
             at_ (straps / 2 ^ 12) 52 3, at_ (flags / 4) 55 1, at_ (straps / 2 ^ 15) 56 1],
           gotPeer := true, gotGot := o.gotGot || decide (flags % 2 = 1), gotFinal := o.gotFinal || decide (flags / 2 % 2 = 1) }

/-- Does the map need the link of port `p` for scheduled traffic (R298): the port is mapped and its logical port has a page set? -/
def State.needsLink (s : State) (p : Nat) : Bool := (s.rtr p).mapped && (s.pageSetOf s.plc.chip (s.rtr p).lport).isSome

/-- Has a port lock on all its active lanes: as many as its width takes (R327)? Before the width is chosen, the aligned ones. -/
def Olf.allLocked (o : Olf) : Bool := decide (o.st = 4 ∧ 1 ≤ o.goodLanes) || decide (2 ^ o.width ≤ o.goodLanes)

/-- WIDTH sent with the largest width code that the good lanes permit (R323). -/
def Olf.sendWidth (o : Olf) : Olf :=
  { o with propose := widthCode o.goodLanes, msgs := o.msgs ++ [⟨4, leBytes (widthCode o.goodLanes) 1 ++ zeros 21⟩] }

/-- A lane lost while the exchange went on: the width it leaves is proposed once the exchange has chosen one (R323). -/
def Olf.proposeLost (o : Olf) : Olf := if o.goodLanes = 0 || o.allLocked then o else o.sendWidth

/-- EXCHANGE_OUTCOME (R296, R298, R323): the leader's width, faults, service-only use, and the change of width that a retrain has brought. MEASURE
begins, with the exchanges measured from here on (R295). -/
def State.exchangeEnd (s : State) (p : Nat) : State :=
  let oldWidth := (s.port p).width
  let s := s.updPort p (fun o => { o with width := if o.leader then min o.propose o.peerWidth else o.peerWidth })
  let o := s.port p
  let again := o.retrain
  if o.width < o.minWidth || decide (o.goodLanes < 2 ^ o.width) && decide (widthCode o.goodLanes < o.minWidth) then s.linkDown p true
  else
    let wiring := (s.rtr p).mapped && !o.wired (s.selfIndex.bind (fun i => s.peerWanted s.plc.map i (s.rtr p).lport))
    let rev := decide (field o.peer 8 16 ≠ s.sec.fabric)
    let dig := o.peerDig ≠ s.ownDigest && (s.busy || o.peerDig ≠ zeros 32)
    let s := if wiring then s.olfFault p 0x2006 0 0 else s
    let s := if rev && s.needsLink p then s.olfFault p 0x2006 1 0 else s
    let s := if dig then s.olfFault p 0x2006 2 0 else s
    let narrowed := again && decide (o.width ≠ oldWidth)
    let s := if narrowed then (s.updPort p (fun o => { o with cnt := satInc o.cnt 40 8 1 })).olfFault p 0x2005 0 0 else s
    let s := s.updPort p (fun o => Olf.settleUse
      { o with st := 5, stAt := s.tim.now.toNat, windows := 0, miswired := wiring, revDown := rev, digOnly := dig,
               sched := o.sched && !wiring && !rev && decide (3 ≤ o.width) })
    let s := s.updPort p (fun o => Olf.proposeLost { o with lock := o.allLocked })
    let s := s.updTim (fun t => { t with ports := Tbl.upd {} t.ports p (fun b => { b with exch := [] }) })
    if again then s else s.restartElection

/-- IDENT_RECEIVE (R296 to R298, R325). -/
def execIdentReceive (p : Nat) (bytes : List Byte) (s : State) : Host.Outcome State Fault Refusal :=
  portRow p s (fun s => whenPort s ((s.port p).st == 4 && decide (66 ≤ bytes.length)) (fun s =>
    let o0 := s.port p
    let first := !o0.gotPeer
    let o := o0.notePeer bytes
    let leads := decide (s.sec.fuses.physId.toNat < o.peerId.toNat)
    let o := if first then { o with peerEpoch := BitVec.ofNat 4 (leAt bytes 10 1), peerWidth := leAt bytes 11 1 % 4, leader := leads } else o
    let o := if first && leads then
        { o with epoch := BitVec.ofNat 4 (max o.epoch.toNat o.peerEpoch.toNat + 1) }
      else if !leads && decide (leAt bytes 50 1 / 2 % 2 = 1) then
        { o with peerWidth := leAt bytes 11 1 % 4, epoch := BitVec.ofNat 4 (leAt bytes 10 1) }
      else o
    let s := s.setPort p o
    let s := if first then
        s.sendIdent p (if leads then s.identBytes p true true o.epoch.toNat (min o.propose o.peerWidth) else s.identBytes p true false o0.epoch.toNat o.propose)
      else s
    if o.gotGot && (leads || o.gotFinal) then s.exchangeEnd p else s))

/-! ### Measurement and coming up (R295, R306, R312, R316, R326) -/

/-- B of R312 from d_f in units of 2^-16 ns: slots of 0.375 ns. -/
def tollBase (df : Nat) : Nat := (30 * 65536 + df + 24575) / 24576

/-- H of R312. -/
def tollHold (df db : Nat) : Nat := (3956736 + df + db + 24575) / 24576

/-- MEASURE_DONE (R295, R312, R326): after two valid beacon windows, B and H for the direction in which the port receives, and the link comes
up. A B or H above what its field holds is given as the field's largest value, which no toll admits. -/
def execMeasureDone (p : Nat) (s : State) : Host.Outcome State Fault Refusal :=
  portRow p s (fun s => whenPort s ((s.port p).st == 5 && decide (2 ≤ (s.port p).windows)) (fun s =>
    let d := Tbl.get 0 s.tim.delay p
    let b := min 8191 (tollBase (field d 32 32))
    let h := min 8191 (tollHold (field d 32 32) (field d 0 32))
    let exceeds := match (s.port p).admitted with
      | some x => (s.port p).retrain && (s.port p).width == 3 && decide (x < b + h)
      | none => false
    let s := s.updPort p (fun o =>
      { o.dropped_ with st := 6, stAt := s.tim.now.toNat, retrain := false, log := 0, credSvc := 56, credFoot := 8, toll := setField (setField o.toll 0 13 b) 13 13 h,
                        tollOver := o.tollOver || exceeds, sched := o.sched && !exceeds })
    if exceeds then s.olfFault p 0x200A 0 0 else s))

/-- How long a training state may last, in ns (R295): alignment in a retrain has 20 µs. -/
def Olf.stateLimit (o : Olf) : Nat :=
  match o.st with
  | 2 => 500000000
  | 3 => 1000000
  | 4 => 100000
  | 5 => 131072
  | _ => 20000

/-- When the training state of a port times out (R295): a retrain has 300 µs in all. -/
def Olf.dueAt (o : Olf) : Nat :=
  let own := o.stAt + o.stateLimit * ns
  if o.retrain then min own ((o.retrains.getLast?).getD o.stAt + 300000 * ns) else own

/-- TRAINING_TIMEOUT (R295, R320): back to DETECT; a retrain has failed, and the link goes down. -/
def execTrainingTimeout (p : Nat) (s : State) : Host.Outcome State Fault Refusal :=
  portRow p s (fun s =>
    let o := s.port p
    if o.st = 7 || o.retrain && decide (3 ≤ o.st ∧ o.st ≤ 5) then (s.advance o.dueAt).linkDown p true
    else if 2 ≤ o.st && o.st ≤ 5 then
      let s := s.advance o.dueAt
      s.updPort p (fun o => { o.down o.downAt with st := 1, stAt := s.tim.now.toNat })
    else s)

/-! ### Audits (R317) -/

/-- AUDIT_SEND: occupancy of the entries, and the ACK at which it was sampled. -/
def execAuditSend (p : Nat) (s : State) : Host.Outcome State Fault Refusal :=
  portRow p s (fun s => whenPort s ((s.port p).st == linkUp) (fun s => (s.beat (beatAudit p) (1048576 * ns)).updPort p (fun o =>
    { o with msgs := o.msgs ++ [⟨6, leBytes o.rxSvc.length 1 ++ leBytes o.rxFoot.length 1 ++ leBytes o.rxSeq 2 ++ zeros 18⟩] })))

/-- Cells of a class sent and not acknowledged at number `ack`. -/
def Olf.inFlight (o : Olf) (cls : BitVec 2) (ack : Nat) : Nat :=
  (o.replay.filter (fun x => x.cell.cls == cls && !x.fresh && decide ((x.cell.seq.toNat + 1024 - ack) % 1024 < 512))).length

/-- The audit of one class (R317): the amount missing. -/
def auditSum (share cred flight occ : Nat) : Int := (share : Int) - cred - flight - occ

/-- AUDIT_RECEIVE (R317): a non-zero result in two audits running is a leak: 0x2007, and the credits are set right. -/
def execAuditReceive (p : Nat) (bytes : List Byte) (s : State) : Host.Outcome State Fault Refusal :=
  portRow p s (fun s => whenPort s ((s.port p).st == linkUp && decide (4 ≤ bytes.length)) (fun s =>
    let o := s.port p
    let ack := leAt bytes 2 2 % 1024
    let fS := o.inFlight 1 ack
    let fF := o.inFlight 2 ack
    let badS := auditSum 56 o.credSvc fS (leAt bytes 0 1) ≠ 0
    let badF := auditSum 8 o.credFoot fF (leAt bytes 1 1) ≠ 0
    let fixS := badS && o.leakSvc
    let fixF := badF && o.leakFoot
    let newS := 56 - fS - leAt bytes 0 1
    let newF := 8 - fF - leAt bytes 1 1
    let o := if fixS then { o with credSvc := newS, sentSvc := (o.sentSvc + 4096 + o.credSvc - newS) % 4096 } else o
    let o := if fixF then { o with credFoot := newF, sentFoot := (o.sentFoot + 4096 + o.credFoot - newF) % 4096 }.trimFoot else o
    let o := { o with leakSvc := badS && !fixS, leakFoot := badF && !fixF }
    if fixS || fixF then (s.setPort p { o with cnt2 := satInc o.cnt2 56 8 1 }).olfFault p 0x2007 0 ack else s.setPort p o))

/-! ### Run checks (R318) -/

/-- RUNCHK_SEND (R318): once at a tick n with n mod 256 = 0, on every port of the job. -/
def execRunchkSend (s : State) : Host.Outcome State Fault Refusal :=
  if !s.job.running || s.tick % 256 ≠ 0 || s.job.runchk = some s.tick then .next s
  else
    let s := s.updJob (fun j => { j with runchk := some s.tick })
    let b := leBytes (s.tick % 2 ^ 32) 4 ++ leBytes (s.step % 2 ^ 32) 4 ++ s.plc.jobDigest.take 4 ++ zeros 10
    .next (forEach s (List.range 6) (fun s p =>
      if s.sharesJob p then s.updPort p (fun o => { o with msgs := o.msgs ++ [⟨5, b⟩] }) else s))

/-- A tick number from its low 32 bits: the one nearest the current tick. -/
def State.tickNear (s : State) (low : Nat) : Nat :=
  let c := s.tick / 2 ^ 32 * 2 ^ 32 + low
  if s.tick + 2 ^ 31 < c ∧ 2 ^ 32 ≤ c then c - 2 ^ 32 else if c + 2 ^ 31 ≤ s.tick then c + 2 ^ 32 else c

/-- This module's step number at tick `n` (R318). -/
def State.stepAt (s : State) (n : Nat) : Nat := s.job.firstStep + n / max 1 s.stepTicks

/-- RUNCHK_RECEIVE (R318): inequality raises 0x2006, kind run state; an equal digest makes the peer one of the job. -/
def execRunchkReceive (p : Nat) (bytes : List Byte) (s : State) : Host.Outcome State Fault Refusal :=
  portRow p s (fun s => whenPort s (decide (12 ≤ bytes.length)) (fun s =>
    let n := s.tickNear (leAt bytes 0 4)
    let same := slice bytes 8 4 == s.plc.jobDigest.take 4
    let s := (s.updPort p (fun o =>
      { o with runTick := some n, named := false, peerDig := if same then s.plc.jobDigest else padTo (slice bytes 8 4) 32 })).digestsAgree
    if s.job.running && !(same && leAt bytes 4 4 == s.stepAt n % 2 ^ 32) then s.olfFault p 0x2006 kindRunState 0 else s))

/-- RUNCHK_MISSING (R318): the run check of tick n has not come by tick n + 256. -/
def execRunchkMissing (p : Nat) (s : State) : Host.Outcome State Fault Refusal :=
  portRow p s (fun s =>
    let due := s.tick / 256 * 256 - 256
    let came := match (s.port p).runTick with
      | some n => decide (due ≤ n)
      | none => false
    whenPort s (s.job.running && decide (256 ≤ s.tick) && s.sharesJob p && !came) (fun s =>
      s.updPort p (fun o => { o with runMiss := o.runMiss + 1 })))

/-! ### Lock, retrain and width (R319 to R324) -/

/-- Has a port lock to lose: aligned, or on its way through a retrain (R295, R319)? -/
def Olf.mayLose (o : Olf) : Bool := decide (4 ≤ o.st) && decide (1 ≤ o.goodLanes) && o.lossAt.isNone

/-- OLF_LANE with no lane locked: those that were show fault 4, no lock (R327). -/
def Olf.lostLanes (o : Olf) : Reg :=
  (List.range 8).foldl (fun r l => if bit r (8 * l) then setField (setField r (8 * l) 1 0) (8 * l + 5) 3 4 else r) o.lane

/-- LOCK_LOSS (R319): all active lanes. -/
def execLockLoss (p : Nat) (s : State) : Host.Outcome State Fault Refusal :=
  portRow p s (fun s => whenPort s (s.port p).mayLose (fun s =>
    (s.updPort p (fun o => { o with lock := false, lane := o.lostLanes, keptLane := o.lane, lossAt := some s.tim.now.toNat,
                                    cnt := satInc o.cnt 16 16 1 })).olfFault p 0x2001 0 0))

/-- LOCK_LOSS_TIMEOUT (R319): 2 µs without lock. -/
def execLockLossTimeout (p : Nat) (s : State) : Host.Outcome State Fault Refusal :=
  portRow p s (fun s =>
    match (s.port p).lossAt with
    | some t => (s.advance (t + 2000 * ns)).linkDown p true
    | none => s)

/-- LOCK_REGAIN (R319): the lanes that had lock have it again. -/
def execLockRegain (p : Nat) (s : State) : Host.Outcome State Fault Refusal :=
  portRow p s (fun s => s.updPort p (fun o => match o.lossAt with
    | some _ => let o := { o with lane := o.keptLane, lossAt := none }
                { o with lock := o.allLocked }
    | none => o))

/-- LANE_LOCK_LOSS (R323): logical lane `lane` loses lock while others keep it. The width is proposed once the exchange has chosen one. -/
def execLaneLockLoss (p lane : Nat) (s : State) : Host.Outcome State Fault Refusal :=
  if 8 ≤ lane then .next s
  else portRow p s (fun s => whenPort s ((s.port p).mayLose && bit (s.port p).lane (8 * lane)) (fun s =>
    let s := s.updPort p (fun o => { o with lane := setField (setField o.lane (8 * lane) 1 0) (8 * lane + 5) 3 4 })
    let s := s.updPort p (fun o => { o with lock := o.allLocked })
    let w := widthCode (s.port p).goodLanes
    if (s.port p).st ≠ 5 && (s.port p).st ≠ linkUp then s
    else if (s.port p).goodLanes = 0 || w < (s.port p).minWidth then s.linkDown p true
    else s.updPort p Olf.sendWidth))

/-- RETRAIN_RECEIVE (R322): the port follows. Of two ends that have both started, the one with the higher physical identity abandons its own
attempt. -/
def execRetrainReceive (p : Nat) (width : BitVec 2) (s : State) : Host.Outcome State Fault Refusal :=
  portRow p s (fun s =>
    let o := s.port p
    if o.st = linkUp then s.beginRetrain p (min o.propose width.toNat) false
    else if o.st = 7 then
      s.updPort p (fun o => { o with propose := min o.propose width.toNat,
                                     msgs := if o.peerId.toNat < s.sec.fuses.physId.toNat then o.msgs.filter (fun m => m.msg ≠ 3) else o.msgs })
    else s)

/-- WIDTH_RECEIVE (R323): the smaller of two proposals wins, and the link is retrained at that width; below MIN_WIDTH it goes down. -/
def execWidthReceive (p : Nat) (width : BitVec 2) (s : State) : Host.Outcome State Fault Refusal :=
  portRow p s (fun s => whenPort s ((s.port p).st == linkUp || (s.port p).st == 5) (fun s =>
    let w := min (s.port p).propose width.toNat
    if w < (s.port p).minWidth then s.linkDown p true
    else if w = (s.port p).width then s
    else
      let s := (s.updPort p (fun o => { o with width := w, sched := false, cnt := satInc o.cnt 40 8 1 })).olfFault p 0x2005 0 0
      s.beginRetrain p w true))

/-- DOWN_HOLD_EXPIRY (R324): 100 ms after it went down, an enabled port starts DETECT again. -/
def execDownHoldExpiry (p : Nat) (s : State) : Host.Outcome State Fault Refusal :=
  portRow p s (fun s => whenPort s ((s.port p).st == 0 && bit (s.port p).ctl 0 && s.rst.stage == .none)
    (fun s =>
      let s := s.advance ((s.port p).downAt + 100000000 * ns)
      s.updPort p (fun o => { o with st := 1, stAt := s.tim.now.toNat })))

end Sys2Proof.Machine
end

