-- ==== Sys2Proof/Machine/Service.lean ====
section
/-! DEFINITION. Rows of the service class and the footway (12: R345 to R358; 15: R421, R423). A cell that waits in a receive entry frees it
(R316). -/

namespace Sys2Proof.Machine

/-- The entry of a cell that the router takes is freed, and its credit goes back (R316). -/
def State.takeCell (s : State) (p : Nat) (c : Cell) : State :=
  s.updPort p (fun o =>
    if c.cls = 1 && o.rxSvc.contains c then { o with rxSvc := o.rxSvc.erase c, retSvc := o.retSvc + 1, cumSvc := (o.cumSvc + 1) % 4096 }
    else if c.cls = 2 && o.rxFoot.contains c then
      { o with rxFoot := o.rxFoot.erase c, retFoot := o.retFoot + 1, cumFoot := (o.cumFoot + 1) % 4096 }
    else o)

/-- Is the generation of a cell that has come to its destination current (R355)? -/
def State.freshGen (s : State) (p : Nat) (c : Cell) : Bool :=
  if svcNbr c then decide (c.gen.toNat = field (s.port p).peer 4 4) else decide (c.gen.toNat = s.genOf s.plc.replica (svcSrc c))

/-- Has a cell come to its destination: the neighbour's, or this chip's (R348)? -/
def State.forHere (s : State) (c : Cell) : Bool := svcNbr c || s.hop (svcChip c) == .here

/-- SERVICE_REQUEST_SEND (R350). -/
def execServiceRequestSend (r : SvcReq) (s : State) : Host.Outcome State Fault Refusal := .next (s.sendRequest r)

/-- SERVICE_REQUEST_RECEIVE (R354 to R356). -/
def execServiceRequestReceive (p : Nat) (c : Cell) (s : State) : Host.Outcome State Fault Refusal :=
  portRow p s (fun s => whenPort s (s.forHere c && (c.kind == 0 || c.kind == 1)) (fun s =>
    let s := s.takeCell p c
    if s.freshGen p c then s.serve p c else s.staleGen))

/-- SERVICE_RESPONSE_RECEIVE (R351). -/
def execServiceResponseReceive (p : Nat) (c : Cell) (s : State) : Host.Outcome State Fault Refusal :=
  portRow p s (fun s => whenPort s (s.forHere c && (c.kind == 2 || c.kind == 3 || c.kind == 4)) (fun s =>
    ((s.takeCell p c).takeResponse p c).sendWaiting))

/-- A cell with one hop fewer to go. -/
def lessTtl (c : Cell) : Cell := { c with payload := c.payload.take 15 ++ [nth 0 c.payload 15 - 1] ++ c.payload.drop 16 }

/-- SERVICE_CELL_FORWARD (R348, R349): a request that can go no further is answered with no route, anything else is dropped; both count. -/
def execServiceCellForward (p : Nat) (c : Cell) (s : State) : Host.Outcome State Fault Refusal :=
  portRow p s (fun s => whenPort s (!s.forHere c) (fun s =>
    let s := s.takeCell p c
    let dead := decide ((nth 0 c.payload 15).toNat ≤ 1)
    match s.hop (svcChip c), dead with
    | .via q, false => s.queueCell q (lessTtl c)
    | _, _ => if c.kind = 0 || c.kind = 1 then s.noRoute.respond p c 4 [] else s.noRoute))

/-- SERVICE_MESSAGE_RECEIVE (R345, R347, R355): whether the firmware's buffer is full is a free value (log 8). -/
def execServiceMessageReceive (p : Nat) (c : Cell) (s : State) : Host.Outcome State Fault Refusal :=
  portRow p s (fun s => whenPort s (s.forHere c && c.kind == 5) (fun s =>
    let s := s.takeCell p c
    if !s.freshGen p c then s.staleGen
    else
      let full := Config.bufferFull s.freeCtr
      State.updSvc { s with freeCtr := s.freeCtr + 1 } (fun v =>
        if full then { v with msgDrop := v.msgDrop + 1 } else { v with inbox := v.inbox ++ [(p, c.payload)] })))

/-- SERVICE_REQUEST_TIMEOUT (R353). -/
def execServiceRequestTimeout (slot : Nat) (s : State) : Host.Outcome State Fault Refusal :=
  match s.svc.out.find? (fun x => x.1 == slot) with
  | none => .next s
  | some (_, o) =>
    let s := s.advance o.deadline
    .next ((s.updSvc (fun v => { v with out := Tbl.del v.out slot, cnt2 := satInc v.cnt2 16 16 1 })).answer o.rtag 6 []).sendWaiting

/-! ### Abort cells (R357, R358, R421, R423) -/

/-- A step number from its low 32 bits: the one nearest the current step. -/
def State.stepNear (s : State) (low : Nat) : Nat :=
  let c := s.step / 2 ^ 32 * 2 ^ 32 + low
  if s.step + 2 ^ 31 < c ∧ 2 ^ 32 ≤ c then c - 2 ^ 32 else if c + 2 ^ 31 ≤ s.step then c + 2 ^ 32 else c

/-- An abort cell absorbed and counted (R357). -/
def State.absorb (s : State) : State := s.updSvc (fun v => { v with cnt2 := satInc v.cnt2 48 16 1 })

/-- The first abort cell for a step (R357, R421, R423): 0x9002, the flood goes on, and the tick sequencer knows of it. -/
def State.takeAbort (s : State) (p step : Nat) (c : Cell) : State :=
  let origin := leAt c.payload 8 2
  let late := s.doneStep step
  let r : Raised := { code := 0x9002, source := 104 + p, agent := 1, tick := if s.job.running then s.tick else 0, step := step, addr := none,
                      detail := 0, aux := 0, origin := some (origin % 2 ^ 15), remote := true, late := late }
  let note := fun (s : State) => s.noteAbort step (BitVec.ofNat 16 (leAt c.payload 14 2)) origin
  let s := (s.raiseFull { r with detail := (note s).svc.abortLog }).flood c p
  let s := (note s).updJob (fun j => { j with abortSent := j.abortSent ++ [step] })
  s.updFlt (fun f => { f with cnt2 := satInc (if late then satInc f.cnt2 48 8 1 else f.cnt2) 16 16 1 })

/-- ABORT_CELL_RECEIVE (R355, R357): the first cell for a step of the job placed here, also once that job has stopped. -/
def execAbortCellReceive (p : Nat) (c : Cell) (s : State) : Host.Outcome State Fault Refusal :=
  portRow p s (fun s =>
    let s := s.takeCell p c
    let origin := leAt c.payload 8 2
    let step := s.stepNear (leAt c.payload 10 4)
    if c.gen.toNat ≠ s.genOf (origin / 2 ^ 15) (origin % 2 ^ 15) then s.staleGen
    else if !s.plc.placed || slice c.payload 16 4 ≠ s.plc.jobDigest.take 4 then s.absorb
    else if s.job.abortSent.contains step || s.job.aborts.any (fun a => a.1 == step) then s.absorb
    else s.takeAbort p step c)

end Sys2Proof.Machine
end

