-- ==== Sys2Proof/Machine/Control.lean ====
section
/-! DEFINITION. The control network and the watches over it (01: R25 to R28; 15: R425, R426). A request that a span controller has not yet
acknowledged stands in `s.ctl`, oldest first. -/

namespace Sys2Proof.Machine

/-- Request `i` taken off the list. -/
def State.dropCtl (s : State) (i : Nat) : State := { s with ctl := s.ctl.eraseIdx i }

/-- A service request's wait for the control network is over (R356). -/
def State.svcSettled (s : State) : State := s.updSvc (fun v => { v with accepted := v.accepted - 1 })

/-- Does the command of a waiting request still run: a reset supersedes it (R396, R406)? -/
def State.stillRuns (s : State) (r : RunCmd) : Bool := s.hst.running.contains r

/-- What no answer means to the requester (R27, R354, R389, R399, R425). -/
def State.noAnswer (s : State) : CtlReq → State
  | .poll span => (s.updSpn span (fun k => { k with silent := true })).raise 0x9001 span 0xFF
  | .diag write r _ =>
    let s := s.diagNote r 2 write
    if write then s else s.updHst (fun h => { h with diagAns := some (BitVec.allOnes 64) })
  | .reg _ _ => s
  | .cmd r i _ => if s.stillRuns r then (s.finish r sNoAnswer 0 i []).pump else s
  | .svc p c => ((s.svcSettled).updSvc (fun v => { v with cnt := satInc v.cnt 0 16 1 })).respond p c 2 []

/-- CONTROL_REQUEST_TIMEOUT (R27): the `i`-th request ends with no answer 10 µs after it was made. -/
def execControlRequestTimeout (i : Nat) (s : State) : Host.Outcome State Fault Refusal :=
  match s.ctl[i]? with
  | none => .next s
  | some q => .next (((s.dropCtl i).advance (q.2 + 10000 * ns)).noAnswer q.1)

/-- The span that a waiting request asks. -/
def CtlReq.span : CtlReq → Option Nat
  | .poll span => some span
  | .diag _ r _ | .reg r _ => spanOfPlace (placeOf r)
  | .cmd r i _ =>
    match r.cmd with
    | .regRead _ b _ => spanOfPlace (placeOf (b + 8 * i))
    | .regWrite _ b _ _ => spanOfPlace (placeOf (b + 8 * i))
    | _ => none
  | .svc _ c => spanOfAddr (svcOfs c)

/-- What an acknowledgement completes for its requester (R25, R389, R514). A service request accepted before FENCE is still carried out
(R356). -/
def State.acknowledged (s : State) : CtlReq → State
  | .poll _ => s
  | .diag write r v => s.diagAccess write r v
  | .reg r v => (s.writeReg r v).2.pump
  | .cmd r i got =>
    if !s.stillRuns r then s
    else
      match r.cmd with
      | .regRead _ b n => (s.regReads r b (n - i) i got).pump
      | .regWrite _ b n vals => (s.regWrites r b (((List.range n).map (fun j => nth 0 vals j)).drop i) i).pump
      | _ => s
  | .svc p c => s.svcSettled.carry p c

/-- CONTROL_ACKNOWLEDGEMENT (R25 to R28): the span controller behind the `i`-th request answers, and the access is made. -/
def execControlAcknowledgement (i : Nat) (s : State) : Host.Outcome State Fault Refusal :=
  match s.ctl[i]? with
  | none => .next s
  | some q =>
    if s.ucieCut then .next s
    else
      let s := s.dropCtl i
      let s := match q.1.span with
        | some p => s.updSpn p (fun k => { k with silent := false })
        | none => s
      .next (s.acknowledged q.1)

/-- SPAN_POLL (R425): the die manager asks every span controller. -/
def execSpanPoll (s : State) : Host.Outcome State Fault Refusal :=
  let s := s.beat beatSpans (1000000 * ns)
  let others := s.ctl.filter (fun q => match q.1 with
    | .poll _ => false
    | _ => true)
  .next { s with ctl := others ++ (List.range 114).map (fun p => (CtlReq.poll p, s.tim.now.toNat)) }

/-- STOP_CHECK (R425): a span that runs on 1 ms after the boundary. -/
def execStopCheck (s : State) : Host.Outcome State Fault Refusal :=
  match s.job.running, s.job.ends.getLast? with
  | false, some e =>
    let s := s.advance (e.2 + 1000000 * ns)
    .next (forEach s (List.range 114) (fun s p => if (s.spn p).running then s.raise 0x9001 p 0xFF else s))
  | _, _ => .next s

/-- TOLLHOUSE_POLL (R425): the poll that went before has been answered, unless no UCIe module is up. -/
def execTollhousePoll (s : State) : Host.Outcome State Fault Refusal :=
  if s.sec.halted then .next s
  else
    let s := s.beat beatPoll (1000000 * ns)
    .next { s with ucie := { s.ucie with pollAt := some (if s.ucieCut then s.ucie.pollAt.getD s.tim.now.toNat else s.tim.now.toNat) } }

/-- TOLLHOUSE_POLL_TIMEOUT (R425, R426): the die manager is in span 113. -/
def execTollhousePollTimeout (s : State) : Host.Outcome State Fault Refusal :=
  match s.ucie.pollAt with
  | none => .next s
  | some t =>
    let s := s.advance (t + 100000 * ns)
    .next (State.raise { s with ucie := { s.ucie with pollAt := none } } 0x9001 113 0xFF)

/-! ### UCIe (R19, R20, R37) -/

/-- The UCIe modules after one changes: the width, and the interval of R20. -/
def Ucie.settle (u : Ucie) (now : Nat) : Ucie :=
  { u with narrow := !(u.up0 && u.up1), downAt := if u.up0 || u.up1 then none else some (u.downAt.getD now) }

/-- UCIe module 0, or 1 where `m` is set, goes up or down; with module 0 the follower leaves or enters holdover (R37). -/
def State.setUcie (s : State) (m up : Bool) : State :=
  let old := s.tim
  let u := if m then { s.ucie with up1 := up } else { s.ucie with up0 := up }
  let s := { s with ucie := u.settle s.tim.now.toNat }
  if !m && !up then (s.updTim (fun t => { t with followerOk := false })).timeEvent old else s

/-- UCIE_TRAIN_FAIL (R19). -/
def execUcieTrainFail (m : Bool) (s : State) : Host.Outcome State Fault Refusal := .next (s.setUcie m false)

/-- UCIE_MODULE_DOWN (R19, R20, R37). -/
def execUcieModuleDown (m : Bool) (s : State) : Host.Outcome State Fault Refusal := .next (s.setUcie m false)

/-- UCIE_MODULE_RETURN (R19, R20, R37): fault records that waited on the compute die cross first. -/
def execUcieModuleReturn (m : Bool) (s : State) : Host.Outcome State Fault Refusal :=
  .next ((s.setUcie m true).updFlt (fun f => { f with raised := f.parked ++ f.raised, parked := [] }))

/-- UCIE_DOWN_TIMEOUT (R20): the die manager raises 0x9001, whose record aborts the step of a running job. -/
def execUcieDownTimeout (s : State) : Host.Outcome State Fault Refusal :=
  match s.ucie.downAt with
  | none => .next s
  | some t => .next ((s.advance (t + 100000 * ns)).raise 0x9001 113 0xFF)

/-! ### The hardware watchdog and the automatic reset (R425, R426) -/

/-- WATCHDOG_FEED (R425); halted cores feed it no more (R493). -/
def execWatchdogFeed (s : State) : Host.Outcome State Fault Refusal :=
  if s.sec.halted then .next s
  else
    let s := s.advance (s.ucie.fedAt + 10000000 * ns)
    .next { s with ucie := { s.ucie with fedAt := s.tim.now.toNat } }

/-- WATCHDOG_EXPIRY (R425, R429): an unplanned reset. -/
def execWatchdogExpiry (s : State) : Host.Outcome State Fault Refusal :=
  if s.fwStage then .next ((s.advance (s.ucie.fedAt + 1000000000 * ns)).unplannedReset 2) else .next s

/-- AUTO_RESET_TIMER (R426): a dump that runs goes first. -/
def execAutoResetTimer (s : State) : Host.Outcome State Fault Refusal :=
  match bit s.flt.ctl 2, s.flt.hangAt with
  | true, some t =>
    let s := s.advance (t + 1000000000 * ns)
    if s.dmp.running then .next { s with rst := { s.rst with autoDue := true } } else .next (s.requestReset 1)
  | _, _ => .next s

end Sys2Proof.Machine
end

