-- ==== Sys2Proof/Machine/Frame.lean ====
section
/-! DEFINITION. Cells, control blocks and frames of an Olfin link, acknowledgement, replay and credits (11: R289 to R311, R316). -/

namespace Sys2Proof.Machine

/-! ### Cells (R302 to R304) -/

/-- The 48-bit header of a cell. -/
def cellHeader (c : Cell) : Nat :=
  (orAll [at_ c.seq.toNat 0 10, at_ c.ack.toNat 10 10, at_ c.cls.toNat 20 2, at_ c.kind.toNat 22 4, at_ c.gen.toNat 26 4,
    at_ c.credit.toNat 30 6, at_ c.tag.toNat 36 12]).toNat

/-- The 72 bytes of a cell. -/
def cellBytes (c : Cell) : List Byte :=
  let b := leBytes (cellHeader c) 6 ++ padTo c.payload 64
  b ++ beBytes (crc16 b).toNat 2

/-- The cell in 72 bytes whose CRC holds (R304). -/
def cellOf (b : List Byte) : Option Cell :=
  if b.length ≠ 72 || crc16 (b.take 70) ≠ BitVec.ofNat 16 (beNat (slice b 70 2)) then none
  else
    let h := BitVec.ofNat 64 (leAt b 0 6)
    some { seq := BitVec.ofNat 10 (field h 0 10), ack := BitVec.ofNat 10 (field h 10 10), cls := BitVec.ofNat 2 (field h 20 2),
           kind := BitVec.ofNat 4 (field h 22 4), gen := BitVec.ofNat 4 (field h 26 4), credit := BitVec.ofNat 6 (field h 30 6),
           tag := BitVec.ofNat 12 (field h 36 12), payload := slice b 6 64 }

/-! ### Acknowledgement and credits (R307, R309, R311, R316) -/

/-- Cells before number `ack` leave the replay buffer (R307): those sent, as far as the number lies among them. -/
def Olf.release (o : Olf) (ack : Nat) : Olf :=
  match o.replay with
  | [] => o
  | x :: _ =>
    let n := (ack + 1024 - x.cell.seq.toNat) % 1024
    let sent := (o.replay.filter (fun y => !y.fresh)).length
    if x.fresh || sent < n then o else { o with replay := o.replay.drop n }

/-- Header credits added (R316). -/
def Olf.credit (o : Olf) (c : BitVec 6) : Olf :=
  let n := c.toNat % 32
  if c.toNat / 32 = 0 then { o with credSvc := min 56 (o.credSvc + n) } else { o with credFoot := min 8 (o.credFoot + n) }.trimFoot

/-- Credits recomputed from the totals of a control block (R316). -/
def Olf.recredit (o : Olf) (svcCum footCum : Nat) : Olf :=
  { o with credSvc := 56 - (o.sentSvc + 4096 - svcCum) % 4096, credFoot := 8 - (o.sentFoot + 4096 - footCum) % 4096 }.trimFoot

/-- The time in which a replay is answered: H slots (R312), in units of 2^-48 ns. -/
def Olf.replayTime (o : Olf) : Nat := o.baseHold.2 * (3 * 2 ^ 45)

/-- NAK naming `ack` (R309, R311). A repetition that comes before the resent cell can have been answered is part of the NAK acted on
(DEDUCED, log 17). The fourth acted on starts a retrain instead of a resend. -/
def State.takeNak (s : State) (p ack : Nat) : State :=
  let o := s.port p
  let t := s.tim.now.toNat
  let same := o.nakSeq = ack && o.nakCount ≠ 0
  if same && decide (t < o.nakAt + o.replayTime) then s
  else
    let n := if same then o.nakCount + 1 else 1
    let s := s.updPort p (fun o => { o with nakSeq := ack, nakCount := n, nakAt := t })
    if 4 ≤ n then s.startRetrain p o.width ack
    else s.updPort p (fun o => { o with cnt := satInc o.cnt 0 16 1, replay := o.replay.map (fun x => { x with sent := false }) })

/-! ### Sending (R289 to R291, R300 to R311, R344 to R346) -/

/-- The link word of a control block (R300). -/
def State.linkWord (s : State) (o : Olf) (msg frag frags : Nat) : Reg :=
  orAll [at_ o.rxSeq 0 10, flag o.nak 10, at_ o.cumSvc 12 12, at_ o.cumFoot 24 12, at_ o.epoch.toNat 36 4, at_ s.flt.gen.toNat 40 4, at_ msg 44 4,
    at_ frag 48 2, at_ frags 50 2]

/-- The fragments of a message, 22 bytes each (R300): message, index, count − 1, bytes. -/
def fragsOf (m : LinkMsg) : List (Nat × Nat × Nat × List Byte) :=
  let n := max 1 ((m.bytes.length + 21) / 22)
  (List.range n).map (fun i => (m.msg, i, n - 1, padTo (slice m.bytes (22 * i) 22) 22))

/-- The next fragment of a port (R300, R322): RETRAIN goes out in every control block until the peer enters RETRAIN, and IDENT again and again
while the exchange lasts (log 19). -/
def Olf.nextFrag (o : Olf) : Option (Nat × Nat × Nat × List Byte) × Olf :=
  match o.frags with
  | f :: r => (some f, { o with frags := r })
  | [] =>
    match o.msgs with
    | [] => (none, o)
    | m :: r =>
      match fragsOf m with
      | [] => (none, { o with msgs := r })
      | f :: fs => (some f, if m.msg = 3 && o.st = 7 || m.msg = 2 && o.st = 4 && r.isEmpty then { o with frags := fs } else { o with msgs := r, frags := fs })

/-- One control block (R300). -/
def State.controlBlock (s : State) (o : Olf) : List Byte × Olf :=
  let r := o.nextFrag
  let f := r.1.getD (0, 0, 0, zeros 22)
  let b := leBytes (s.linkWord o f.1 f.2.1 f.2.2.1).toNat 8 ++ f.2.2.2
  (b ++ beBytes (crc16 b).toNat 2, r.2)

/-- The CREDIT field of the next header: up to 31 for one class (R316). -/
def Olf.returns (o : Olf) : BitVec 6 × Olf :=
  if 0 < o.retSvc then (BitVec.ofNat 6 (min 31 o.retSvc), { o with retSvc := o.retSvc - min 31 o.retSvc })
  else if 0 < o.retFoot then (BitVec.ofNat 6 (32 + min 31 o.retFoot), { o with retFoot := o.retFoot - min 31 o.retFoot })
  else (0, o)

/-- A cell put on the line, with ACK and CREDIT. -/
def Olf.put (o : Olf) (c : Cell) : List Byte × Olf :=
  let r := o.returns
  (cellBytes { c with ack := BitVec.ofNat 10 o.rxSeq, credit := r.1 }, r.2)

/-- The idle cell (R303). -/
def State.idleCell (s : State) : Cell :=
  { seq := 0, ack := 0, cls := 3, kind := 15, gen := s.flt.gen, credit := 0, tag := 0, payload := zeros 64 }

/-- Cells of a class in the replay buffer. -/
def Olf.held (o : Olf) (cls : BitVec 2) : Nat := (o.replay.filter (fun x => x.cell.cls == cls && !x.fresh)).length

/-- Footway credits left of a share (R346): two for step aborts, six for other footway cells. -/
def Olf.footShare (o : Olf) (abort : Bool) : Nat := (if abort then 2 else 6) - (o.footOut.filter (· == abort)).length

/-- May a footway cell of a share be first sent (R310, R316, R346)? -/
def Olf.footMay (o : Olf) (abort : Bool) : Bool := decide (0 < o.footShare abort) && decide (0 < o.credFoot) && decide (o.held 2 < 8)

/-- A footway credit of a share spent. -/
def Olf.spendFoot (o : Olf) (abort : Bool) : Olf :=
  { o with credFoot := o.credFoot - 1, sentFoot := o.sentFoot + 1, footOut := o.footOut ++ [abort] }

/-- The first service or footway cell that may go (R310, R344, R346): the oldest step abort, other footway cell or service cell of the first
class that has one and holds the credit for it (log 91). -/
def Olf.nextSvc (o : Olf) : Option (Cell × Olf) :=
  let abort := (o.qAbort.head?).filter (fun _ => o.footMay true)
  let foot := (o.qFoot.head?).filter (fun _ => o.footMay false)
  let svc := (o.qSvc.head?).filter (fun _ => decide (0 < o.credSvc) && decide (o.held 1 < 56))
  match abort, foot, svc with
  | some c, _, _ => some (c, { o with qAbort := o.qAbort.tail }.spendFoot true)
  | none, some c, _ => some (c, { o with qFoot := o.qFoot.tail }.spendFoot false)
  | none, none, some c => some (c, { o with qSvc := o.qSvc.tail, credSvc := o.credSvc - 1, sentSvc := o.sentSvc + 1 })
  | none, none, none => none

/-- A service or footway cell first sent in slot `j` (R306, R310): it takes the next number, before cells that wait to be first sent. -/
def Olf.sendSvc (o : Olf) (c : Cell) (j : Nat) : List Byte × Olf :=
  let c := { c with seq := BitVec.ofNat 10 o.txSeq }
  let r := o.replay
  let o := { o with txSeq := (o.txSeq + 1) % 1024,
                    replay := r.filter (fun (x : TxCell) => !x.fresh) ++ [({ cell := c, sent := true, slot := j } : TxCell)] ++
                      r.filter (fun (x : TxCell) => x.fresh) }
  o.put c

/-- The first cell of a list that has not been sent since it was formed or since the last NAK, marked as sent; a fresh one takes number
`seq` (R306). -/
def takeUnsent (seq : Nat) : List TxCell → Option (Cell × Bool × List TxCell)
  | [] => none
  | x :: r =>
    if x.sent then (takeUnsent seq r).map (fun y => (y.1, y.2.1, x :: y.2.2))
    else
      let c := if x.fresh then { x.cell with seq := BitVec.ofNat 10 seq } else x.cell
      some (c, x.fresh, { x with cell := c, sent := true, fresh := false } :: r)

/-- The oldest unsent cell of the replay buffer sent. -/
def Olf.sendNext (o : Olf) : Option (List Byte × Olf) :=
  (takeUnsent o.txSeq o.replay).map (fun y =>
    Olf.put { o with replay := y.2.2, txSeq := if y.2.1 then (o.txSeq + 1) % 1024 else o.txSeq } y.1)

/-- One position (R291, R309, R344). `j` is the slot, `spare` the spare position that follows it, whose lag counts that slot's own cell too, `res` a slot reserved for the service class or one of a link
that carries no job. -/
def State.position (s : State) (o : Olf) (j : Nat) (spare res : Bool) : List Byte × Olf :=
  let idle := o.put s.idleCell
  if o.st ≠ linkUp then idle
  else
    let resend := o.replay.any (fun x => !x.sent && !x.fresh)
    let lag := o.replay.any (fun x => x.fresh && decide (if spare then x.slot ≤ j else x.slot < j))
    let due := o.replay.any (fun x => x.fresh && x.slot == j)
    let svc := if spare then none else o.nextSvc
    if resend || spare && lag then (o.sendNext).getD idle
    else if spare then idle
    else if lag then
      match res, svc with
      | true, some x => x.2.sendSvc x.1 j
      | _, _ => (o.sendNext).getD idle
    else if due then (o.sendNext).getD idle
    else
      match svc with
      | some x => x.2.sendSvc x.1 j
      | none => idle

/-- Word `w` of entry `j` of a page of a router (R331 to R333). -/
def Cwy.pageEntry (r : Cwy) (page k j w : Nat) : Reg := BitVec.ofNat 64 (leAt r.pages ((page * 32 * k + j) * 16 + 8 * w) 8)

/-- Word `w` of entry `j` of the active page of a router. -/
def Cwy.entry (r : Cwy) (k j w : Nat) : Reg := r.pageEntry r.active k j w

/-- The page that was active in phase `P` (R333): the latest of those turned to by then. -/
def Cwy.pageAt (r : Cwy) (P : Nat) : Nat := ((r.turned.find? (fun x => decide (x.1 ≤ P))).map (·.2)).getD r.active

/-- Does a job's page govern the port: it runs, and the link is not up for service only (R344)? -/
def State.governed (s : State) (p : Nat) : Bool := (s.rtr p).running && (s.port p).sched && !(s.port p).svcOnly

/-- Is slot `j` of the epoch reserved for the service class on port `p`'s egress, by the page of its phase, or free for it because no job
governs the port? -/
def State.reserved (s : State) (p j : Nat) : Bool :=
  let n := 32 * max 1 s.k
  !s.governed p || bit ((s.rtr p).pageEntry ((s.rtr p).pageAt (j / n)) s.k (j % n) 1) 33

/-- The ten bytes of the lane markers (R289, R290). -/
def laneMarkers : List Byte := beBytes ((List.range 8).foldl (fun n l => n * 1024 + (0x2C8 + l)) 0) 10

/-- The data bits of a frame as 10-bit symbols, each byte's most significant bit first (R290). -/
def dataSymbols (b : List Byte) : List Nat :=
  (List.range (b.length * 8 / 10)).map (fun i => beNat (slice b (10 * i / 8) 2) / 2 ^ (6 - 10 * i % 8) % 1024)

/-- The 544 symbols of codeword `c` of a frame (R289, R290): 514 of data, then the 30 of parity that the code of IEEE 802.3 gives them
(log 18). -/
def codeword (b : List Byte) (c : Nat) : List Nat :=
  let d := ((dataSymbols b).drop (514 * c)).take 514
  d ++ (List.range 30).map (Config.fecParity d)

/-- The 16,320 symbols of a frame in order (R290). -/
def frameSymbols (b : List Byte) : List Nat := (List.range 30).flatMap (codeword b)

/-- The symbols of a frame that logical lane `l` of `w` sends: of eight lanes, symbol m goes on lane m mod 8 (R290); a narrower link deals them
out over its own lanes in the same way (DEDUCED, log 109). -/
def laneSymbols (w : Nat) (b : List Byte) (l : Nat) : List Nat := (List.range (16320 / w)).map (fun i => (frameSymbols b).getD (w * i + l) 0)

/-- How many intervals of 96 ns a frame of port `p` lasts: 8 ÷ w at width w (R289, R323). -/
def State.frameSpan (s : State) (p : Nat) : Nat := 8 / (s.port p).lanes

/-- The 2,408 bytes of group `g` of a frame that begins at slot `f`: a control block, 32 slot positions and a spare position (R289). -/
def State.frameGroup (s : State) (p f g : Nat) (o : Olf) : List Byte × Olf :=
  let cb := s.controlBlock o
  let body := (List.range 32).foldl (fun (x : List Byte × Olf) i =>
    let j := f + 32 * g + i
    let y := s.position x.2 j false (s.reserved p j)
    (x.1 ++ y.1, y.2)) cb
  let sp := s.position body.2 (f + 32 * g + 31) true false
  (body.1 ++ sp.1, sp.2)

/-- FRAME_SEND (R289 to R291, R300, R309, R344): the 19,275 data bytes of one frame; `laneSymbols` gives what each lane
sends of them. The frame covers the 256 slots of which the router has formed the last. At a width w below x8 it lasts 96 × 8 ÷ w ns and
begins at a multiple of that, and the router's other intervals begin no frame (R323; log 109). A port in DOWN or DETECT sends none. -/
def execFrameSend (p : Nat) (s : State) : Host.Outcome State Fault Refusal :=
  if 6 ≤ p then .next s
  else if (s.port p).st < 2 then .next s
  else
    let s := if s.job.running then s else s.beat (beatFrame p) (96 * s.frameSpan p * ns)
    let f := (s.tik.slotNo - 1) / 256 * 256
    let start := if s.job.running then s.tim.epoch.toNat / 96 + f / 256 else s.nowNs / 96
    if s.job.running && start % s.frameSpan p ≠ 0 then .next s
    else
    let r := (List.range 8).foldl (fun (x : List Byte × Olf) g =>
      let y := s.frameGroup p f g x.2
      (x.1 ++ y.1, y.2)) (laneMarkers ++ leBytes start 1, s.port p)
    .next (s.setPort p { r.2 with frames := (s.port p).frames ++ [r.1] })

/-! ### Receiving (R300, R304 to R309, R314) -/

/-- LINK_WORD_RECEIVE (R300, R304, R307, R309, R311, R316): one control block of 32 bytes. Its message fragment is collected; each whole message
is a command of its own. -/
def execLinkWordReceive (p : Nat) (bytes : List Byte) (s : State) : Host.Outcome State Fault Refusal :=
  if 6 ≤ p then .next s
  else if bytes.length ≠ 32 || crc16 (bytes.take 30) ≠ BitVec.ofNat 16 (beNat (slice bytes 30 2)) then
    .next (s.updPort p (fun o => { o with rxMsg := none }))
  else
    let w := BitVec.ofNat 64 (leAt bytes 0 8)
    let frag := field w 48 2
    let b := slice bytes 8 22
    let s := s.updPort p (fun o =>
      { o with rxMsg := if field w 44 4 = 0 then o.rxMsg
        else if frag = 0 then some (field w 44 4, 1, b)
        else match o.rxMsg with
          | some (m, n, l) => if m = field w 44 4 && n = frag then some (m, n + 1, l ++ b) else none
          | none => none })
    if (s.port p).st ≠ linkUp then .next s
    else
      let s := s.updPort p (fun o => (o.release (field w 0 10)).recredit (field w 12 12) (field w 24 12))
      .next (if bit w 10 then s.takeNak p (field w 0 10) else s)

/-- A scheduled cell accepted in sequence: held for its slot, or late when its slot has passed without it (R313, R314). -/
def State.holdCell (s : State) (p slot : Nat) (c : Cell) : State :=
  let o := s.port p
  if !(s.rtr p).running then s
  else if 0 < o.matched then
    (s.updPort p (fun o => { o with matched := o.matched - 1, cnt2 := satInc o.cnt2 48 8 1 })).olfFault p 0x2002 0 c.seq.toNat
  else s.updPort p (fun o => { o with hold := o.hold ++ [⟨c, slot⟩] })

/-- CELL_RECEIVE (R304 to R308, R314, R316, R327): a cell checked in slot `slot`, with what the FEC found up to it. Frames are locked from EXCHANGE on
(R295), and their codewords are counted from then; cells flow while the link is up. -/
def execCellReceive (p slot : Nat) (bytes : List Byte) (fec : FecObs) (s : State) : Host.Outcome State Fault Refusal :=
  if 6 ≤ p then .next s
  else if (s.port p).st < 4 || 7 ≤ (s.port p).st then .next s
  else
    let s := s.updPort p (fun o => { o with cnt2 := satInc (satInc o.cnt2 0 32 fec.corrected) 32 16 fec.failed })
    if (s.port p).st ≠ linkUp then .next s
    else if !fec.ok then .next (s.updPort p (fun o => { o with nak := true }))
    else
      match cellOf bytes with
      | none => .next (s.updPort p (fun o => { o with nak := true }))
      | some c =>
        let o := s.port p
        let stale := c.gen.toNat ≠ field o.peer 4 4
        let taken := fun (o : Olf) => (o.release c.ack.toNat).credit c.credit
        let drop := fun (o : Olf) => { o with cnt := satInc o.cnt 48 16 1 }
        if c.cls = 3 then .next (s.updPort p (fun o => if stale then drop o else taken o))
        else if c.seq.toNat ≠ o.rxSeq then .next (s.updPort p (fun o => { o with nak := true }))
        else
          let s := s.updPort p (fun o => { o with rxSeq := (o.rxSeq + 1) % 1024, nak := false })
          if c.cls = 0 then
            if stale then .next (s.updPort p drop) else .next ((s.updPort p taken).holdCell p slot c)
          else
            let s := s.updPort p taken
            .next (s.updPort p (fun o =>
              if c.cls = 1 then (if o.rxSvc.length < 56 then { o with rxSvc := o.rxSvc ++ [c] } else o)
              else if o.rxFoot.length < 8 && (c.kind == 8 || decide ((o.rxFoot.filter (fun x => x.kind != 8)).length < 6)) then
                { o with rxFoot := o.rxFoot ++ [c] }
              else o))

end Sys2Proof.Machine
end

