-- ==== Sys2Proof/Machine/HostRows.lean ====
section
/-! DEFINITION. Host writes of machine time, ticks and units: one meaning for each row, over the register writes of Regs. While the module
is RESETTING every write is dropped (R432); a write behind a silent span waits for its acknowledgement (R27). -/

namespace Sys2Proof.Machine

/-- A write of register `r` by host software, as a command of its own. -/
def regRow (s : State) (r : Nat) (w : State → RegAns × State) (v : Reg) : Host.Outcome State Fault Refusal :=
  if s.hst.st = stResetting then .next s
  else if s.silentAt r then .next (s.ask (.reg r v))
  else .next (w s).2

/-- A write of a register of one of `n` units; the address of another unit is written as what stands there (R443). -/
def unitRow (s : State) (u n : Nat) (r : Nat) (w : State → RegAns × State) (v : Reg) : Host.Outcome State Fault Refusal :=
  regRow s r (if u < n then w else (·.writeReg r v)) v

/-- TIM_STEP (R55). -/
def execTimStep (v : Reg) (s : State) : Host.Outcome State Fault Refusal := regRow s 0x10020 (·.writeTimStep v) v
/-- TIM_CTL_WRITE (R56). -/
def execTimCtlWrite (v : Reg) (s : State) : Host.Outcome State Fault Refusal := regRow s 0x10000 (·.writeTimCtl v) v
/-- TIM_ETH_LAT_WRITE (R62). -/
def execTimEthLatWrite (v : Reg) (s : State) : Host.Outcome State Fault Refusal := regRow s 0x10110 (·.writeEthLat v) v
/-- TIM_CLEAR. -/
def execTimClear (v : Reg) (s : State) : Host.Outcome State Fault Refusal := regRow s 0x10120 (·.writeTim 0x10120 0x120 v) v
/-- TIK_KEY_ARM (R81). -/
def execTikKeyArm (s : State) : Host.Outcome State Fault Refusal := regRow s 0x20030 (·.writeKeyArm 1) 1
/-- TIK_KEY_DISARM (R99). -/
def execTikKeyDisarm (s : State) : Host.Outcome State Fault Refusal := regRow s 0x20030 (·.writeKeyArm 2) 2
/-- TIK_STEP_SET_WRITE (R76, R77), by firmware (R478) or by host software. -/
def execTikStepSetWrite (fw : Bool) (v : Reg) (s : State) : Host.Outcome State Fault Refusal :=
  if fw then .next (s.writeStepSet v) else regRow s 0x20038 (fun s => (.ok 0, s.writeStepSet v)) v
/-- TIK_CLEAR. -/
def execTikClear (v : Reg) (s : State) : Host.Outcome State Fault Refusal := regRow s 0x20048 (·.writeTik 0x20048 0x48 v) v
/-- SPN_CLEAR (R100). -/
def execSpnClear (span : Nat) (v : Reg) (s : State) : Host.Outcome State Fault Refusal :=
  unitRow s span 114 (0x30020 + span * 0x100) (fun s => clearCmd s v (·.clearSpn span)) v
/-- CLU_CLEAR (R123). -/
def execCluClear (cl : Nat) (v : Reg) (s : State) : Host.Outcome State Fault Refusal :=
  unitRow s cl 800 (0x100020 + cl * 0x100) (fun s => clearCmd s v (·.clearClu cl)) v
/-- MSQ_CLEAR (R270). -/
def execMsqClear (st : Nat) (v : Reg) (s : State) : Host.Outcome State Fault Refusal :=
  unitRow s st 4 (0x40060 + st * 0x1000) (fun s => clearCmd s v (·.clearMsq st)) v
/-- MSQ_SCRUB (R267). -/
def execMsqScrub (st : Nat) (v : Reg) (s : State) : Host.Outcome State Fault Refusal :=
  unitRow s st 4 (0x40090 + st * 0x1000) (·.writeScrub st v) v
/-- CXL_CLEAR (R286). -/
def execCxlClear (v : Reg) (s : State) : Host.Outcome State Fault Refusal := regRow s 0x80040 (fun s => clearCmd s v State.clearCxl) v
/-- OLF_RETRAIN_CMD (R320, R327). -/
def execOlfRetrainCmd (p : Nat) (s : State) : Host.Outcome State Fault Refusal :=
  unitRow s p 6 (0x50050 + p * 0x100) (·.writeOlfCmd p 1) 1
/-- OLF_DOWN_CMD (R327). -/
def execOlfDownCmd (p : Nat) (s : State) : Host.Outcome State Fault Refusal :=
  unitRow s p 6 (0x50050 + p * 0x100) (·.writeOlfCmd p 2) 2
/-- OLF_CTL_WRITE (R327). -/
def execOlfCtlWrite (p : Nat) (v : Reg) (s : State) : Host.Outcome State Fault Refusal :=
  unitRow s p 6 (0x50000 + p * 0x100) (·.writeOlfCtl p v) v
/-- OLF_CLEAR (R327). -/
def execOlfClear (p : Nat) (v : Reg) (s : State) : Host.Outcome State Fault Refusal :=
  unitRow s p 6 (0x50040 + p * 0x100) (fun s => clearCmd s v (·.clearOlf p)) v
/-- CWY_CLEAR (R360). -/
def execCwyClear (p : Nat) (v : Reg) (s : State) : Host.Outcome State Fault Refusal :=
  unitRow s p 6 (0x60018 + p * 0x100) (fun s => clearCmd s v (·.clearCwy p)) v
/-- SVC_CTL_WRITE (R356, R361). -/
def execSvcCtlWrite (v : Reg) (s : State) : Host.Outcome State Fault Refusal := regRow s 0x70000 (·.writeSvcCtl v) v
/-- SVC_CLEAR (R361). -/
def execSvcClear (v : Reg) (s : State) : Host.Outcome State Fault Refusal := regRow s 0x70020 (·.writeSvc 0x70020 0x20 v) v
/-- PLC_CLEAR (R384). -/
def execPlcClear (v : Reg) (s : State) : Host.Outcome State Fault Refusal := regRow s 0xE0090 (·.writePlc 0xE0090 0x90 v) v
/-- HST_CTL_WRITE (R392, R413). -/
def execHstCtlWrite (v : Reg) (s : State) : Host.Outcome State Fault Refusal := regRow s 0x90010 (·.writeHstCtl v) v
/-- HST_CLEAR (R413). -/
def execHstClear (v : Reg) (s : State) : Host.Outcome State Fault Refusal := regRow s 0x90068 (·.writeHst 0x90068 0x68 v) v
/-- FLT_CLEAR (R440). -/
def execFltClear (v : Reg) (s : State) : Host.Outcome State Fault Refusal := regRow s 0xC0020 (·.writeFlt 0xC0020 0x20 v) v
/-- CFG_PERSIST (R467). -/
def execCfgPersist (s : State) : Host.Outcome State Fault Refusal := regRow s 0x10 (·.writeCfgCmd 1) 1
/-- CFG_FORGET (R467). -/
def execCfgForget (s : State) : Host.Outcome State Fault Refusal := regRow s 0x10 (·.writeCfgCmd 2) 2
/-- CFG_COMPACT (R465). -/
def execCfgCompact (s : State) : Host.Outcome State Fault Refusal := regRow s 0x10 (·.writeCfgCmd 4) 4
/-- CFG_CLEAR (R468). -/
def execCfgClear (v : Reg) (s : State) : Host.Outcome State Fault Refusal := regRow s 0x28 (fun s => clearCmd s v State.clearCfg) v
/-- CFG_GRP_REF_WRITE (R450, R451), by firmware or by host software. -/
def execCfgGrpRefWrite (fw : Bool) (g : Nat) (v : Reg) (s : State) : Host.Outcome State Fault Refusal :=
  if fw then .next (if g < 6 then s.writeGrpRef g v else s) else unitRow s g 6 (0x100 + 8 * g) (·.writeRef false g v) v
/-- CFG_ASZ_T_REF_WRITE (R458). -/
def execCfgAszTRefWrite (v : Reg) (s : State) : Host.Outcome State Fault Refusal :=
  regRow s 0x50 (fun s => (.ok 0, s.writeTRef v)) v
/-- SHADOW_WRITE (R28, R444, R450). -/
def execShadowWrite (fw : Bool) (r : Nat) (v : Reg) (s : State) : Host.Outcome State Fault Refusal :=
  match groupOf r with
  | none => regRow s r (fun s => refuseWrite s r) v
  | some (g, i) => if fw then .next (s.writeSh true r g i v).2 else regRow s r (·.writeSh false r g i v) v
/-- PWR_CLEAR (R483). -/
def execPwrClear (v : Reg) (s : State) : Host.Outcome State Fault Refusal := regRow s 0xA0040 (·.writePwr 0xA0040 0x40 v) v
/-- SEC_DBG_CHALLENGE (R493). -/
def execSecDbgChallenge (s : State) : Host.Outcome State Fault Refusal := regRow s 0xB0078 (·.writeSec 0xB0078 0x78 1) 1
/-- SEC_DBG_UNLOCK (R493). -/
def execSecDbgUnlock (s : State) : Host.Outcome State Fault Refusal := regRow s 0xB0078 (·.writeSec 0xB0078 0x78 2) 2
/-- SEC_CLEAR (R494). -/
def execSecClear (v : Reg) (s : State) : Host.Outcome State Fault Refusal := regRow s 0xB0088 (·.writeSec 0xB0088 0x88 v) v

end Sys2Proof.Machine
end

