-- ==== Sys2Proof/Machine/JobRows.lean ====
section
/-! DEFINITION. Rows that end a job and qualify its steps (14: R404, R410; 15: R420 to R423). -/

namespace Sys2Proof.Machine

/-- ABORT_STOP (R420, R421). -/
def execAbortStop (s : State) : Host.Outcome State Fault Refusal :=
  match s.job.boundary, s.lowAbort with
  | some _, some a => .next (s.abortStop a).pump
  | _, _ => .next s

/-- JOB_STOP (R178, R284, R404): once every outbound descriptor already captured is complete; inbound transfers are discarded. -/
def execJobStop (s : State) : Host.Outcome State Fault Refusal :=
  if s.job.boundary.isNone || s.lowAbort.isSome || !(s.cxl.runs.all (fun r => r.inbound || r.acked)) then .next s
  else
    let n := (s.cxl.runs.filter (fun r => !r.inbound && r.checked.isNone)).length
    .next (s.updCxl (fun x => { x with runs := [], stgCnt := satInc x.stgCnt 0 24 n })).orderlyStop.pump

/-- STOP_REQUEST_RECEIVE (R404, R512): the job leader chooses S; another module sends the request on up the job tree. -/
def execStopRequestReceive (last cause : Nat) (s : State) : Host.Outcome State Fault Refusal :=
  if !s.job.running then .next s
  else
    let last := if last = 2 ^ 64 - 1 then 0 else last
    .next (if s.isJobLeader then s.takeStop last cause else s.sendStop last cause)

/-- STOP_STEP_RECEIVE (R404): S from the job tree goes down it. -/
def execStopStepReceive (step : Nat) (s : State) : Host.Outcome State Fault Refusal :=
  if s.job.running then .next (s.stopAt step) else .next s

/-- Is a step confirmed in a paired run (R381)? -/
def State.confirmed (s : State) (n : Nat) : Bool :=
  !s.plc.paired || s.plc.agreed.contains n

/-- STEP_DONE_POST (R410, R422, R423): the next step of the job qualifies, W_A after its boundary. -/
def execStepDonePost (s : State) : Host.Outcome State Fault Refusal :=
  let n := s.job.firstStep + s.job.qualified
  match s.job.ends.find? (fun e => e.1 == n) with
  | none => .next s
  | some e =>
    if !s.hostDone n || !s.confirmed n || s.aborted n || !bit s.flt.abortWin 16 then .next s
    else
      let s := s.advance (e.2 + field s.flt.abortWin 0 16 * 1000 * ns)
      let s := s.updJob (fun j => { j with qualified := j.qualified + 1 })
      let s := s.updPlc (fun p => { p with agreed := p.agreed.filter (· ≠ n) })
      let s := s.updHst (fun h => { h with doneStep := orAll [at_ n 0 63, flag true 63] })
      let div := field s.hst.ctl 8 8
      let stopped := !s.job.running || s.job.boundary.isSome
      .next (if div ≠ 0 && ((n - s.job.firstStep + 1) % div == 0 || stopped && s.job.lastStep == some n) then s.stepDoneEvent n else s)

end Sys2Proof.Machine
end

