-- ==== Sys2Proof/Machine/Tick.lean ====
section
/-! DEFINITION. Phase edges, plan ends, droop and crossings (03). -/

namespace Sys2Proof.Machine

/-! ### Plan end and overrun (R88 to R90) -/

/-- Has a running compute span reached PLAN_END of the current phase (R89): PLAN_END_REACHED has come, or the cycles carried out have
passed it. -/
def State.reached (s : State) (span : Nat) : Bool :=
  (s.spn span).planDone || decide (s.planEnd span s.tik.phaseNo ≤ (s.spn span).cycle)

/-- PHASE_OVERRUN (R89): the span holds its state and 0x1002 is raised. -/
def State.overrunSpan (s : State) (span : Nat) : State :=
  let log := orAll [at_ s.tick 0 61, at_ s.phase 61 3]
  (s.updSpn span (fun k => { k with overrun := true, ovrLog := log, cnt := satInc k.cnt 48 8 1 })).raise 0x1002 span 0xFF log

/-- PLAN_END_REACHED (R90): the slack in quarter periods of the current step, from the picoseconds left. -/
def execPlanEndReached (span leftPs : Nat) (s : State) : Host.Outcome State Fault Refusal :=
  if 100 ≤ span || !(s.spn span).running || (s.spn span).overrun then .next s
  else
    let s := advanceSpan s span (s.planEnd span s.tik.phaseNo)
    let q := leftPs * (12 + s.tik.stepNow) / 2500
    .next (s.updSpn span (fun k => { k with planDone := true, slackMin := BitVec.ofNat 64 (min k.slackMin.toNat (min q 0xFFFF)) }))

/-! ### Phase edge (R68) -/

/-- What a compute span does at a phase edge: it overruns, or it ends its phase. -/
def State.spanEdge (s : State) (span : Nat) : State :=
  let k := s.spn span
  if k.overrun then s
  else if k.running && !s.reached span then s.overrunSpan span
  else (drainSpan s span).updSpn span (fun k => { k with cycle := 0, planDone := false })

/-- The page that a PT.PAGE of the ended phase named is in effect (R216). -/
def Cwy.turnPage (r : Cwy) (P : Nat) : Cwy :=
  match r.next with
  | some p => { r with active := p, next := none, turned := (P, p) :: r.turned.take 15 }
  | none => r

/-- The step digest: XOR of the 800 values of D (R213). -/
def State.stepDigest (s : State) : BitVec 64 := (List.range 800).foldl (fun x c => x ^^^ s.dig c) 0

/-- A stream at the start of a step whose first phase is `P` (R161, R162, R166). -/
def Stream.begin_ (t : Stream) (P : Nat) : Stream := { t with pos := 0, base := P, last := 0, first := true, hop := [], dead := false }

/-- A cluster at the start of a step (R162, R166, R167, R211). -/
def Cluster.beginStep (k : Cluster) (P : Nat) : Cluster :=
  { k with p := 0xFF, fs := 0, br := [], sMe := k.sMe.begin_ P, sVu := k.sVu.begin_ P, sMv := k.sMv.begin_ P, sSq := k.sSq.begin_ P }

/-- Every stream begins word 0 at the step's first phase, and what holds for one step only is cleared (R162, R257, R310). A span that an
overrun holds does not begin the phase (R89). -/
def State.beginStep (s : State) : State :=
  let P := s.tik.phaseNo
  { s with clusters := s.clusters.map (fun p => (p.1, if (s.spn (spanOf p.1)).overrun then p.2 else p.2.beginStep P)),
           pts := s.pts.map (fun p => (p.1, p.2.begin_ P)),
           msq := s.msq.map (fun p => (p.1, { p.2 with str := p.2.str.begin_ P, halted := false })),
           olf := s.olf.map (fun p => (p.1, { p.2 with dropped := false })),
           tik := { s.tik with agree := [] }, job := { s.job with taken := [] }, cxl := { s.cxl with arms := [] } }

/-- At the edge of the take tick of a branch point its agreed value is passed on, and the staging list goes on at the arm that the value
selects (R175, R176, R281). Without a value no arm is taken: the list goes on past its end. -/
def State.takeBranch (s : State) (t : Nat) : State :=
  match takesAt s.job.img s.chipOr0 t with
  | none => s
  | some b =>
    match Tbl.get none (s.tik.agree.map (fun e => (e.1, some e.2))) b with
    | some v => { s with job := { s.job with taken := Tbl.set s.job.taken b v.toNat },
                         cxl := { s.cxl with arms := s.cxl.arms ++ [(b, stagingArm s.job.img s.chipOr0 b v.toNat)] } }
    | none => { s with cxl := { s.cxl with arms := s.cxl.arms ++ [(b, 1024)] } }

/-- Has the current step been aborted (R420)? -/
def State.stepAborted (s : State) : Bool := s.job.aborts.any (fun a => a.1 ≤ s.step)

/-- Does the job stop at the boundary that ends the current step (R178, R404, R420)? -/
def State.stopsHere (s : State) : Bool :=
  s.job.ended || s.stepAborted || (match s.job.stopAfter with
    | some n => decide (n ≤ s.step)
    | none => false)

/-- STEP_DIGEST_FORM and the start of the next step, or the end of the job's last one (R213, R214, R422). -/
def State.stepBoundary (s : State) : State :=
  let t := s.tim.now.toNat
  let s := s.updJob (fun j => { j with digests := j.digests ++ [(s.step, s.stepDigest)], ends := j.ends ++ [(s.step, t)] })
  let s := { s with digs := [], job := { s.job with lastStep := if s.stepAborted then s.job.lastStep else some s.step } }
  if s.stopsHere then s.updJob (fun j => { j with boundary := some t })
  else State.beginStep (s.updJob (fun j => { j with stepNo := j.stepNo + 1 }))

/-- PHASE_EDGE (R68, R89, R93, R176, R210, R213, R216). `upsets` are bit errors that have come to stand in memories (R109, R115, R264;
log 7). -/
def execPhaseEdge (upsets : List Upset) (s : State) : Host.Outcome State Fault Refusal :=
  let s := forEach s (List.range 100) State.spanEdge
  let P := s.tik.phaseNo + 1
  let s := s.updTik (fun t => { t with phaseNo := P, slotNo := P * 32 * s.k, running := s.job.running })
  let s := (s.advance (s.phaseTime P)).clearFrame P
  let s := { s with cwy := s.cwy.map (fun p => (p.1, p.2.turnPage P)), upsets := s.upsets ++ upsets }
  if !(s.job.running && s.job.boundary.isNone) then .next s
  else if P % (8 * s.stepTicks) == 0 then .next s.stepBoundary
  else if P % 8 = 0 then .next (s.takeBranch (P / 8 % s.stepTicks))
  else .next s

/-! ### Droop (R84 to R87) -/

/-- Stretched cycles of the current mode before running cycle `c`: a hold lasts eight (R85). -/
def Spn.stretchedTo (k : Spn) (c : Nat) : Nat :=
  match k.mode with
  | .nominal => 0
  | .hold => min (c - k.modeFrom) 8
  | _ => c - k.modeFrom

/-- A change of a span's cycle length at running cycle `c`, with the stretched cycles before it counted (R85, R86). -/
def Spn.setMode (k : Spn) (m : Stretch) (c : Nat) : Spn :=
  { k with mode := m, modeFrom := c, cleared := 0, cnt := satInc k.cnt 16 32 (k.stretchedTo c - k.cleared) }

/-- A change of a compute span's droop state at running cycle `cyc`. A fixed-clock span never stretches (R72). The new length counts from
machine time on, its first cycle lying as far ahead as the cycles between (R85). A span whose clock is stopped has no cycles to stretch. -/
def droopChange (span cyc : Nat) (s : State) (g : Spn → Spn) : Host.Outcome State Fault Refusal :=
  if 100 ≤ span then .next s
  else .next (s.updSpn span (fun k =>
    let n := g k
    if k.stopped then { n with mode := k.mode, modeFrom := k.modeFrom, cleared := k.cleared }
    else if n.modeFrom = k.modeFrom && n.mode = k.mode then n
    else { n with modeAt := max k.modeAt (s.tim.now.toNat + (n.modeFrom - cyc) * s.period) }))

/-- DROOP_TRIP (R84 to R86): a trip is set at running cycle `cyc`, and stretching begins on the second cycle after it. A voltage below
the level-2 threshold is below the level-1 threshold too (R87). -/
def execDroopTrip (span : Nat) (level2 : Bool) (cyc : Nat) (s : State) : Host.Outcome State Fault Refusal :=
  droopChange span cyc s (fun k =>
    let fresh := !k.l1 && !k.l2 && decide (k.clearAt.getD 0 + 64 ≤ cyc)
    let k := { k with cnt := if fresh then satInc k.cnt 0 16 1 else k.cnt, l1 := true, l2 := k.l2 || level2 }
    k.setMode (if k.l2 then .l2 else .l1) (cyc + 2))

/-- DROOP_LEVEL2_CLEAR (R85): cycles last 1.25 periods again, once the stretching has begun. -/
def execDroopLevel2Clear (span cyc : Nat) (s : State) : Host.Outcome State Fault Refusal :=
  droopChange span cyc s (fun k => if k.l2 then { k with l2 := false }.setMode .l1 (max cyc k.modeFrom) else k)

/-- DROOP_CLEAR (R85): the last trip clears and eight cycles at 1.25 periods follow. -/
def execDroopClear (span cyc : Nat) (s : State) : Host.Outcome State Fault Refusal :=
  droopChange span cyc s (fun k =>
    if k.l1 || k.l2 then { k with l1 := false, l2 := false, clearAt := some cyc }.setMode .hold (max cyc k.modeFrom) else k)

/-- STRETCH_HOLD_END (R85): the hold's eight cycles have run. -/
def execStretchHoldEnd (span cyc : Nat) (s : State) : Host.Outcome State Fault Refusal :=
  droopChange span cyc s (fun k => if k.mode = .hold && decide (k.modeFrom + 8 ≤ cyc) then k.setMode .nominal (k.modeFrom + 8) else k)

/-! ### Crossings (R93 to R96) -/

/-- A landing entry with the halves of a write that are still free, and the first half discarded (R95). -/
def LandEntry.put (e : LandEntry) (w : MeshWrite) : LandEntry × Option Nat :=
  let a := w.half0 && !e.w0
  let b := w.half1 && !e.w1
  ({ h0 := if a then w.data.take 64 else e.h0, h1 := if b then slice w.data 64 64 else e.h1,
     w0 := e.w0 || a, w1 := e.w1 || b, e0 := if a then w.empty else e.e0, e1 := if b then w.empty else e.e1,
     tag := if a || b then w.tag else e.tag, desc := if a || b then w.desc else e.desc },
    if w.half0 && e.w0 then some 0 else if w.half1 && e.w1 then some 1 else none)

/-- A crossing write reaches its landing buffer (R93, R95, R96), which forms new check bits for the words it writes (R109, R115). -/
def State.land (s : State) (w : MeshWrite) : State :=
  if w.phase + 2 ≤ s.tik.phaseNo then
    s.xqFault 0x1003 w.span 0xFF w.q w.entry (if w.half0 then 0 else 1) 2 w.phase
  else
    let key := landKey w.span w.q (w.phase % 3) w.entry
    let r := (Tbl.get {} s.landing key : LandEntry).put w
    let old : LandEntry := Tbl.get {} s.landing key
    let words := (if w.half0 && !old.w0 then List.range 8 else []) ++ (if w.half1 && !old.w1 then (List.range 8).map (· + 8) else [])
    let s := State.scrubWords { s with landing := Tbl.set s.landing key r.1 } .landing key words
    match r.2 with
    | some h => s.xqFault 0x1004 w.span 0xFF w.q w.entry h 3 w.phase
    | none => s

/-- CROSSING_WRITE_LAND: the `i`-th write on the mesh, counted from the oldest. A write of a later
phase waits for it (R252). -/
def execCrossingWriteLand (i : Nat) (s : State) : Host.Outcome State Fault Refusal :=
  match s.mesh.drop i with
  | [] => .next s
  | w :: r => if s.tik.phaseNo < w.phase then .next s else .next (State.land { s with mesh := s.mesh.take i ++ r } w)

end Sys2Proof.Machine
end

