-- ==== Sys2Proof/Machine/Keystone.lean ====
section
/-! DEFINITION. Keystones: shadow commit, rate step change and job start, in that order (03: R80 to R83; 13: R375; 16: R454). -/

namespace Sys2Proof.Machine

/-- A cluster at job start (R106, R188, R222): its matrix engine and vector registers are cleared, its fault marks too. -/
def Cluster.startJob (k : Cluster) : Cluster :=
  { k with me := {}, vregs := [], bankLog := 0, collided := false, eccUe := false, ops := [], fly := [] }.beginStep 0

/-- A span controller at job start: it runs, and what it holds until then clears (R100); SPN_OVR_LOG keeps the last overrun. -/
def Spn.startJob (k : Spn) : Spn :=
  { k with running := true, stopped := false, overrun := false, xqFault := false, xqLog := 0, cycle := 0, planDone := false }

/-- A memory sequencer at job start (R260, R263): the stream takes over with every debt at 0. -/
def Msq.startJob (m : Msq) (stream : Bool) : Msq :=
  let m := { m with faulted := false, fltLog := 0, halted := m.selfRef, owed := [] }
  if stream then
    Msq.noteDebt { m with running := true, auto := false, incs := 0, banks := [], pcs := [], str := m.str.begin_ 0 }
  else m

/-- A router at job start (R217, R333): page INITIAL and the pad placed by PT.PAD. -/
def Cwy.startJob (r : Cwy) : Cwy :=
  if r.loaded then { r with running := true, active := leAt r.hdr 8 2, next := none, turned := [(0, leAt r.hdr 8 2)], pad := r.padNew, log := 0 } else { r with log := 0 }

/-- JOB_START (R375, R403): tick 0 begins at the epoch `e` in ns. START completes OK, and STOPs that waited go to the job leader (R408). -/
def State.startJob (s : State) : State :=
  let e := s.tim.epoch.toNat
  let s := { s with
    clusters := s.clusters.map (fun (p : Nat × Cluster) => (p.1, p.2.startJob)),
    spans := (List.range 114).foldl (fun (t : Tbl Spn) p => Tbl.set t p (Tbl.get {} t p).startJob) s.spans,
    digs := [], landing := [], mesh := [],
    upsets := s.upsets.filter (fun u => u.area ≠ .landing),
    pts := s.pts.map (fun (p : Nat × Stream) => (p.1, p.2.begin_ 0)),
    cwy := s.cwy.map (fun (p : Nat × Cwy) => (p.1, p.2.startJob)),
    olf := s.olf.map (fun (p : Nat × Olf) => (p.1, { p.2 with dropped := false, hold := [], matched := 0, runTick := none, runMiss := 0 })) }
  let s := forEach s (List.range 4) (fun s st => s.updMs st (fun m => m.startJob (s.memStream st)))
  let s := { s with
    tik := { s.tik with running := true, phaseNo := 0, slotNo := 0, agree := [], keyArmed := false, held := false, heldAsked := false },
    cxl := { s.cxl with staging := (s.section_ 4 0).isSome, faulted := false, stgLog := 0, errLog := 0, sbuf := [], runs := [], arms := [], aborted := false },
    svc := { s.svc with abortLog := 0, abortSeen := false },
    plc := { s.plc with pairLog := 0, confirmed := 0, agreed := [], digs := [], own := [], twin := [], proposal := none, st := 9 },
    flt := { s.flt with first := 0, eccSeen := [] },
    job := { s.job with running := true, stepNo := 0, ended := false, requests := [], stopAsked := false, stopAfter := none, stopCause := 0, aborts := [],
                        abortSent := [], digests := [], ends := [], lastStep := none, qualified := 0, posted := 0, boundary := none,
                        withdrawn := 0, taken := [], runchk := none } }
  let s := s.setSt stRunning
  let s := s.finishAll isStart sOk 0 0 (leBytes e 8 ++ leBytes s.job.firstStep 8)
  (s.hst.running.filter (fun r => isStop r.cmd)).foldl (fun s r =>
    match r.cmd with
    | .stop _ last => s.requestStop last.toNat 0
    | _ => s) s

/-- Does a step abort stand, or has a phase overrun been detected, at this edge (R83)? -/
def State.keyBlocked (s : State) : Bool :=
  s.abortPending || (List.range 100).any (fun p => (s.spn p).running && (s.spn p).overrun)

/-- A keystone cancelled (R83): its commit is refused as cancelled with 0x6002, its start does not take place, its step change waits for the
next standing keystone. -/
def State.cancelKeystone (s : State) (commit start step : Bool) : State :=
  let s := s.updTik (fun t => { t with cnt := satInc t.cnt 16 16 1, carry := t.carry || step })
  let s := if commit then (s.uncapture 3 3 0 0 0).raise 0x6002 112 1 else s
  if start then
    let s := s.updPlc (fun p => { p with proposal := none, st := 6, cnt := satInc p.cnt 32 16 1 })
    let s := (s.updJob (fun j => { j with accepted := false, withdrawn := 0 })).setSt stArmed
    (s.finishAll isStart sCancelled 0 0 []).refuseStops
  else s

/-- A keystone's actions before a start (R82): commit, then step change. -/
def State.commitAndStep (s : State) (commit step : Bool) : State :=
  let s := if commit then s.commit else s
  if step then (s.updTik (fun t => { t with carry := false })).keystoneStep else s

/-- A keystone's actions in order (R82): commit, step change, start. -/
def State.fireKeystone (s : State) (commit start step : Bool) : State :=
  let s := s.commitAndStep commit step
  if start then s.startJob else s

/-- A keystone cancelled that would make a step change: one that waits is carried over. -/
def State.dropKeystone (s : State) (commit start step : Bool) : State :=
  s.cancelKeystone commit start (step && s.tik.stepSet.toNat ≠ s.tik.stepNow)

/-- The armed keystone fires (R81, R454), with its start where `start` says so: tick 0 of a job is a standing keystone too, so that a start
makes the step change that waits (R76, R80, R82). A start whose step change cannot reach the rated step, since the core rail has not
settled there, or whose module is unusable (log 100), is cancelled with the keystone (R75, R78; DESIGN CHOICE, log 78). -/
def State.namedKeystone (s : State) (start : Bool) : State :=
  let commit := bit s.tik.armAct 0
  let step := bit s.tik.armAct 2 || start
  let s := s.updTik (fun t => { t with keyArmed := false })
  if s.keyBlocked then (if start then s.dropKeystone commit true step else s.cancelKeystone commit false step)
  else
    let u := s.commitAndStep commit step
    if start && (decide (u.tik.stepNow < u.rated) || s.unusable) then s.dropKeystone commit true step
    else (s.updTik (fun t => { t with cnt := satInc t.cnt 0 16 1 })).fireKeystone commit start step

/-- KEYSTONE_TICK (R80 to R83, R454). A standing keystone, every 2^KP ticks, makes step changes only. START acts while a start that GO has
confirmed waits for its epoch. -/
def execKeystoneTick (s : State) : Host.Outcome State Fault Refusal :=
  let t := s.tik
  if t.keyArmed && bit t.armAct 1 && !s.job.running then
    match s.plc.proposal with
    | some p => if p.go then .next ((s.advance (p.epoch * ns)).namedKeystone true).pump else .next s
    | none => .next s
  else if s.phase ≠ 0 then .next s
  else
    let named := t.keyArmed && s.tick == t.armTick
    let standing := s.tick % 2 ^ s.kp == 0
    let s := if named then s.namedKeystone false else s
    if standing && !(named && bit t.armAct 2) then
      if s.keyBlocked then
        let want := s.tik.stepSet.toNat ≠ s.tik.stepNow
        .next (if want then s.cancelKeystone false false true else s).pump
      else .next (s.fireKeystone false false true).pump
    else .next s.pump

end Sys2Proof.Machine
end

