-- ==== Sys2Proof/Machine/Upkeep.lean ====
section
/-! DEFINITION. The store scrub (04: R112), the assize check (16: R456 to R460) and the journal (16: R461 to R467). -/

namespace Sys2Proof.Machine

/-! ### The store scrub (R112) -/

/-- Store lines in which a bit error stands: cluster and line. No other line is changed by a scrub. -/
def State.upsetLines (s : State) : List (Nat × Nat) :=
  ((s.upsets.filter (fun u => u.area == .store)).map (fun u => (u.line / 8192, u.line % 8192))).dedup

/-- Does a failed cell stand in a line, so that a rewrite does not clear its error (R112)? -/
def State.stuckLine (s : State) (cl line : Nat) : Bool :=
  s.upsets.any (fun u => u.hard && u.area == .store && u.line == storeKey cl line)

/-- One line read and, where it could be corrected, rewritten with what it held, which ends every error but those of failed cells (R112); a rewrite that fails to clear the error is a failure of the tile in
service (R119). -/
def State.scrubLine (s : State) (cl line : Nat) : State :=
  let r := s.readLine cl line
  let e := eccRead s.upsets .store (storeKey cl line) (memRead s.mem (storeAddr cl line) 128)
  if !e.bad.isEmpty || e.corr.isEmpty then r.2
  else
    let u := { r.2.writeWords cl line r.1 (List.range 16) with
      upsets := r.2.upsets.filter (fun u => u.hard || !(u.area == .store && u.line == storeKey cl line)) }
    if s.stuckLine cl line then u.tileFail (cl / 32) (u.physColOf cl) 3 else u

/-- STORE_SCRUB_PASS (R112, R119): lines of spans in which no job runs, through the control network (R27). "Between jobs" leaves out the time in which a job is armed (DESIGN
CHOICE, log 82). -/
def execStoreScrubPass (s : State) : Host.Outcome State Fault Refusal :=
  if s.busy then .next s
  else .next (s.upsetLines.foldl (fun s x =>
    if x.1 < 800 && !(s.spn (spanOf x.1)).running && !s.mute (spanOf x.1) then s.scrubLine x.1 x.2 else s) s)

/-! ### The assize check (R456 to R460) -/

/-- The registers of region 6 in increasing r, with their tunable bits (R458; DEDUCED, log 20: the bits that are RW). -/
def region6Regs : List (Nat × Reg) :=
  [(0x10000, 0x1F), (0x10058, 0xFF)] ++ (List.range 6).map (fun p => (0x100B0 + 8 * p, 0xFFFF)) ++ [(0x10110, 0xFFFFFFFF)] ++
    (List.range 100).map (fun p => (0x30008 + 0x100 * p, 0xFFFF)) ++ (List.range 6).map (fun p => (0x50000 + 0x100 * p, 7)) ++
    [(0x70000, 0xFFFF04), (0x90010, 0x3FFFF01), (0xC0000, 7), (0xE0000, 0x1FFF7FFFFFFF)] ++
    (List.range 6).map (fun p => (0xE0028 + 8 * p, 0xFFFF))

/-- The value of region 6. -/
def State.region6 (s : State) : Reg :=
  crc64 0 ([6, 0] ++ region6Regs.flatMap (fun x => leBytes (((s.regValue x.1).getD 0) &&& x.2).toNat 8))

/-- Is region 7 checked: from ARM to RELEASE, UNLOAD or reset (R456)? -/
def State.checks7 (s : State) : Bool := s.cfg.jLoaded

/-- The regions checked in a pass. -/
def State.regions (s : State) : List Nat := List.range 6 ++ (if s.cfg.tStale then [] else [6]) ++ (if s.checks7 then [7] else [])

/-- Does a region match its reference? -/
def State.regionOk (s : State) (n : Nat) : Bool :=
  if n < 6 then groupRef n (s.groupLive n) == s.grpLive n else if n = 6 then s.region6 == s.cfg.tRef else region7 s.parts7 == s.cfg.jRef

/-- The first portion of region 7 that differs from what firmware computed at ARM. -/
def State.badPortion (s : State) : Nat := ((List.range 111).find? (fun p => s.part7 p ≠ Tbl.get 0 s.cfg.jParts p)).getD 0

/-- ASSIZE_MISMATCH (R460). -/
def State.assizeBad (s : State) (n : Nat) : State :=
  let log := orAll [at_ n 0 3, at_ (if n = 7 then s.badPortion else 0) 3 7, flag true 10, at_ s.cfg.pass 11 32]
  let s := s.updCfg (fun c => { c with cnt := satInc c.cnt 48 8 1, aszLog := if bit c.aszLog 10 then c.aszLog else log,
                                       bad := if c.bad.contains n then c.bad else c.bad ++ [n] })
  s.raise 0x6003 113 0 s.cfg.aszLog

/-- Does the checker work: the compute die has been released since the reset began, the next one has not come to S, and the die has power (R430,
R457, R472)? -/
def State.assizeRuns (s : State) : Bool := s.rst.dieUp && s.rst.stage != .begun && !s.pwr.computeOff

/-- ASSIZE_PASS (R457, R460), at the next integer millisecond: the pass is whole, so that no write falls within it (log 20). -/
def execAssizePass (s : State) : Host.Outcome State Fault Refusal :=
  if !s.assizeRuns then .next s
  else
    let s := (s.alignedBeat beatAssize (1000000 * ns)).updCfg (fun c => { c with pass := c.pass + 1 })
    .next (forEach s s.regions (fun s n =>
      if s.regionOk n then s.updCfg (fun c => { c with bad := c.bad.filter (· ≠ n) }) else s.assizeBad n))

/-! ### The journal (R462 to R466) -/

/-- A record of the log with JOURNALED set (R414, R418). -/
def markJournaled (b : List Byte) : List Byte := sealRecord (b.take 3 ++ [nth 0 b 3 ||| 0x10] ++ slice b 4 56)

/-- JOURNAL_APPEND (R418, R462, R463, R466): a FAULT record that is taken has JOURNALED set in the log's copy. -/
def execJournalAppend (ty : BitVec 16) (payload : List Byte) (s : State) : Host.Outcome State Fault Refusal :=
  if 4064 < payload.length then .next s
  else
    let taken := s.cfg.takes ty payload.length
    let s := s.journal ty payload
    let seq := leAt payload 4 4
    if ty = jrFault then
      .next (s.updFlt (fun f => { f with toJournal := f.toJournal.filter (· ≠ seq),
                                         log := if taken && f.toJournal.contains seq then
                                             Tbl.set f.log (seq % faultLogSize) (markJournaled (Tbl.get (zeros 64) f.log (seq % faultLogSize)))
                                           else f.log }))
    else .next s

/-- COMPACTION_COMPLETE (R465: 3 to 5): what is kept is copied, the spare bank is sealed and becomes the active one. -/
def execCompactionComplete (s : State) : Host.Outcome State Fault Refusal :=
  if !s.cfg.compacting then .next s
  else
    let b := s.sealBank s.cfg.spare s.cfg.carried
    .next (s.updCfg (fun c => { (c.setSpare b) with active := !c.active, compacting := false, nextSeq := c.nextSeq + 1,
                                                    full := decide (bankReserve ≤ b.append) }))

/-- OLD_BANK_ERASED (R465): a bank that is neither active nor being written is erased; a compaction that waited begins. -/
def execOldBankErased (s : State) : Host.Outcome State Fault Refusal :=
  if s.cfg.spareReady || s.cfg.compacting then .next s
  else
    let s := s.updCfg (fun c => { (c.setSpare {}) with spareReady := true })
    .next (if s.cfg.compactDue then s.startCompact else s)

end Sys2Proof.Machine
end

