-- ==== Sys2Proof/Machine/ResetRows.lean ====
section
/-! DEFINITION. The reset sequence (15: R428 to R433; 18: R486 to R491; 09: R258, R268, R269; 04: R119, R122; 16: R464, R467). -/

namespace Sys2Proof.Machine

/-! ### Before S (R428 to R430) -/

/-- Twice the service timeout, in units of machine time: the longest that a drain lasts (R428). -/
def State.drainLimit (s : State) : Nat := 2 * field s.svc.ctl 8 16 * 1000 * ns

/-- DRAIN_END (R428): nothing is outstanding any more, or twice the timeout has passed. -/
def execDrainEnd (s : State) : Host.Outcome State Fault Refusal :=
  if s.rst.stage = .draining && s.flt.draining then
    .next (if s.drained then s.endDrain else (s.advance (s.rst.drainAt + s.drainLimit)).endDrain)
  else .next s

/-- RESET_HOLD_EXPIRY (R430, R500): 100 ms after the previous reset began, a planned reset starts its preparation, an unplanned one may
begin, whatever stage the previous one has come to. -/
def execResetHoldExpiry (s : State) : Host.Outcome State Fault Refusal :=
  if s.rst.stage ≠ .off ∧ s.rst.again ≠ none then
    let s := s.advance s.resetFrom
    .next { s with flt := { s.flt with draining := false }
                   rst := { s.rst with stage := .draining, planned := false, cause := s.rst.again.getD 0, again := none } }
  else if s.rst.stage = .held then
    let s := s.advance s.resetFrom
    .next (if s.rst.planned then s.prepareReset else { s with rst := { s.rst with stage := .draining } })
  else .next s

/-! ### S (R268, R406, R430) -/

/-- A reset request, or R471, at a memory sequencer (R268): its stream is abandoned, every bank is precharged and the stack goes to
self-refresh. -/
def Msq.selfRefresh (m : Msq) : Msq :=
  { m with running := false, auto := false, scrubbing := false, selfRef := true, halted := true, str := { m.str with dead := true }, banks := [] }

/-- Every stack enters self-refresh, where the stacks have power and have been initialised: before the die's release of a reset they stand as
that reset left them. -/
def State.selfRefreshAll (s : State) : State :=
  if s.pwr.computeOff || !s.rst.dieUp then s else forEach s (List.range 4) (fun s st => s.updMs st Msq.selfRefresh)

/-- RESET_BEGIN (R268, R396, R406, R430, R432): S. At a planned reset the commands consumed since the request end with SUPERSEDED too, and the
completions formed go out, before the rings are disabled. -/
def execResetBegin (s : State) : Host.Outcome State Fault Refusal :=
  if s.rst.stage = .draining && !s.flt.draining then
    let s := if s.rst.planned then s.supersedeAll.writeCompletions else s
    let s := { s.cutUpdates with rst := { s.rst with stage := .begun, last := s.tim.now.toNat, idle := false } }
    let s := s.selfRefreshAll
    let s := forEach s (List.range 6) (fun s p => s.updPort p (fun o => o.down s.tim.now.toNat))
    let s := s.updCxl (fun x => { x with linkUp := false, width := 0, speed := 0 })
    let s := s.updHst (fun h => { h.ringsOff with st := stResetting, ready := false, bufs := [], running := [], waiting := [], done := [] })
    .next (s.signal 3).ibi
  else .next s

/-- SELF_REFRESH_TIMEOUT (R269): the stack's contents are lost. -/
def execSelfRefreshTimeout (st : Nat) (s : State) : Host.Outcome State Fault Refusal :=
  if 4 ≤ st then .next s
  else if s.rst.stage = .begun then
    .next ((s.advance (s.rst.last + 10000 * ns).toNat).updMs st (fun m => { m with selfRef := false }))
  else .next s

/-! ### S + 10 µs (R430, R433) -/

/-- PLC_STRAPS as the pins are sensed at a reset (R362, R498): open pins read 0. -/
def Pins.sensed (p : Pins) : Reg := at_ (p.straps &&& ~~~p.opens).toNat 0 16 ||| at_ p.opens.toNat 16 16

/-- What no reset and no loss of power removes: fuses, flash, and what stands outside the module (R433, R484, R485); and the straps, which are
sensed at each reset (R362). -/
def State.lasting (s : State) : State :=
  let s := s.cutUpdates
  let top := if s.sec.fuses.gradeB then 7 else 10
  { State.reset with
    pending := s.pending, freeCtr := s.freeCtr
    hst := { vectors := s.hst.vectors, out := s.hst.out, compRing := s.hst.compRing, evtRing := s.hst.evtRing }
    cxl := { out := s.cxl.out }
    rows := (s.rows.filter (fun r => r.2.fused ≠ 33)).map (fun r => (r.1, { fused := r.2.fused }))
    cfg := { bankA := s.cfg.bankA, bankB := s.cfg.bankB }
    sec := { fuses := s.sec.fuses, boot := s.sec.boot, slotA := s.sec.slotA, slotB := s.sec.slotB, fabric := s.sec.fabric }
    plc := { straps := s.pins.sensed }
    pwr := { ctl := BitVec.ofNat 64 (0x500 + top), allowed := top, feedA := s.pwr.feedA, feedB := s.pwr.feedB, feedRevA := s.pwr.feedRevA,
             feedRevB := s.pwr.feedRevB, open_ := s.pwr.open_, good := s.pwr.good }
    pins := { s.pins with i3cAddr := BitVec.ofNat 7 (0x30 + field s.pins.sensed 12 3), i3cDyn := false, i3cAns := none, ppsRise := none } }

/-- A local offset of the HBM region. -/
def isHbm (a : Nat) : Bool := decide (hbmBase ≤ a)

/-- The board controller holds the flash once the tollhouse is held in reset (R504). -/
def State.joinFlash (s : State) : State :=
  if s.rst.stage = .inReset ∧ s.pins.resetN = false ∧ s.pins.flashOwn = true then { s with pins := { s.pins with flashOut := true } } else s

/-- The module with die and tollhouse cores held in reset (R430, R433): every register at its reset value, stacks in self-refresh as they
are, memory of the die still to be zeroed. A compute die without rails gets them back (R480). -/
def State.heldInReset (s : State) : State :=
  let b := s.lasting
  let b := { b with
    mem := s.mem, upsets := s.upsets.filter (fun u => u.area != Area.landing)
    msq := (List.range 4).map (fun st => (st, { selfRef := (s.ms st).selfRef }))
    rst := { planned := s.rst.planned, cause := s.rst.cause, again := s.rst.again } }
  b.joinFlash.ibi

/-- CORES_HELD_IN_RESET (R430, R433). -/
def execCoresHeldInReset (s : State) : Host.Outcome State Fault Refusal :=
  if s.rst.stage = .begun then .next s.heldInReset else .next s

/-! ### The boot chain (R486 to R491) -/

/-- The slot the boot ROM chooses, and whether it is in trial, with the record it appends (R488: 1 to 3). -/
def State.chooseSlot (s : State) : BootRec × State :=
  let r := s.sec.newest
  if r.trial && r.tries = 0 then
    let o : BootRec := ⟨1 - r.slot, false, 0⟩
    (o, s.bootAppend o)
  else if r.trial then
    let o := { r with tries := r.tries - 1 }
    (o, s.bootAppend o)
  else (r, s)

/-- The firmware of a verified slot is ready to start, and the attestation key is derived (R488: 5; R491). -/
def Sec.bootFrom (x : Sec) (r : BootRec) : Sec :=
  let img := x.slotImage r.slot
  { x with slot := r.slot, trial := r.trial, akValid := true, measure := measureOf img, version := BitVec.ofNat 32 (leAt img 8 4), fwSvn := leAt img 12 4 }

/-- The boot chain (R488): with neither slot verified the module has no firmware. -/
def State.bootChain (s : State) : State :=
  let (r, s) := s.chooseSlot
  if s.fwVerifies (s.sec.slotImage r.slot) then State.issueAk { s with sec := s.sec.bootFrom r }
  else
    let o : BootRec := ⟨1 - r.slot, false, 0⟩
    let s := s.badImage.bootAppend o
    if s.fwVerifies (s.sec.slotImage o.slot) then State.issueAk { s with sec := s.sec.bootFrom o }
    else
      let s := s.badImage
      { s with sec := { s.sec with noFw := true } }

/-- Are all rails good that this reset can have (R473): without those of the compute die where they were removed since it began (R480)? -/
def State.railsGood (s : State) : Bool := if s.pwr.computeOff then s.tollPowered else decide (s.pwr.rails.length = 11)

/-- TOLLHOUSE_RELEASE (R430, R473, R488, R500, R504): S + 2 ms, once RESET_N is high and the flash is the module's own. -/
def execTollhouseRelease (s : State) : Host.Outcome State Fault Refusal :=
  if s.rst.stage = .inReset && s.pins.resetN && !s.pins.flashOut && s.railsGood then
    let s := s.advance (s.rst.last + 2000000 * ns).toNat
    let s := s.bootChain
    .next (State.ibi { s with rst := { s.rst with stage := .bootRom } })
  else .next s

/-! ### Firmware start (R362, R363, R431, R464, R467) -/

/-- Is a bank valid (R464)? -/
def JBank.valid (b : JBank) : Bool := b.recs.head?.any (fun r => r.ty == jrBank) && b.recs.any (fun r => r.ty == jrSeal)

/-- A bank as its scan shows it (R464): its bank count and its append point. -/
def JBank.opened (b : JBank) : JBank :=
  let r := b.scan
  { b with count := (r.1.head?.map (fun x => leAt x.payload 0 8)).getD 0, append := r.2 }

/-- Is a bank erased: does every byte written in it read 0xFF? -/
def JBank.isErased (b : JBank) : Bool := b.cells.all (fun c => (areaRead b.cells c.1 c.2.length).all (· == 0xFF))

/-- The highest SEQ of the records of a bank that stand. -/
def JBank.lastSeq (b : JBank) : Nat := b.recs.foldl (fun q r => max q r.seq) 0

/-- The journal as firmware finds it (R464): the valid bank with the higher count, or bank A erased and begun anew. The next SEQ follows the
highest one found. -/
def State.openJournal (s : State) : State :=
  let a := s.cfg.bankA.opened
  let b := s.cfg.bankB.opened
  let q := max a.lastSeq b.lastSeq + 1
  let s := s.updCfg (fun c => { c with bankA := a, bankB := b, nextSeq := q })
  let s := if a.valid && (!b.valid || decide (b.count ≤ a.count)) then s
    else if b.valid then s.updCfg (fun c => { c with active := true })
    else s.updCfg (fun c => { c with bankA := s.sealBank (s.openBank 1) [], nextSeq := q + 1 })
  s.updCfg (fun c => { c with spareReady := c.spare.isErased })

/-- The records that stand in the active bank (R464). -/
def State.journalRecs (s : State) : List JRec := s.cfg.bank.recs

/-- The newest record of a type. -/
def newestRec (recs : List JRec) (ty : BitVec 16) : Option JRec := (recs.filter (fun r => r.ty == ty)).getLast?

/-- The new generation, and whether the reset was unplanned: no RESET record for the previous generation (R431, R464). -/
def nextGeneration (recs : List JRec) : BitVec 4 × Bool :=
  match newestRec recs jrGeneration with
  | none => (1, true)
  | some g =>
    let old := leAt g.payload 0 1
    (BitVec.ofNat 4 (old + 1),
      !recs.any (fun r => r.ty == jrReset && decide (g.seq < r.seq) && leAt r.payload 2 1 == old))

/-- F from the journal (R53, R463): the units of `ppb` to 0.01 ppb. -/
def State.restoreFreq (s : State) (recs : List JRec) : State :=
  match newestRec recs jrFreq with
  | none => s
  | some r => s.updTim (fun t => (t.setFreq ((BitVec.ofNat 32 (leAt r.payload 0 4)).toInt * (81920 * 64 * 180180000))).setRate)

/-- The REGISTER records that stand, in SEQ order, written back (R467). -/
def State.restoreRegs (s : State) (recs : List JRec) : State :=
  (recs.filter (fun r => r.ty == jrRegister && keeps recs r)).foldl (fun s r =>
    s.restoreReg (leAt r.payload 0 8) (BitVec.ofNat 64 (leAt r.payload 8 8))) s

/-- The straps as firmware judges them (R362, R498): an open pin, or an even number of high pins, is a fault. The operands are the levels of the
pins at this reset, and the next resets sense them too (DESIGN CHOICE, log 51). -/
def State.senseStraps (s : State) (straps opens : BitVec 16) : State :=
  let v := straps &&& ~~~opens
  let bad := opens ≠ 0 || ((List.range 16).filter v.getLsbD).length % 2 = 0
  let s := { s with pins := { s.pins with straps := straps, opens := opens } }
  let s := s.updPlc (fun p => { p with straps := s.pins.sensed, strapFault := bad })
  let s := if s.pins.i3cDyn then s else { s with pins := { s.pins with i3cAddr := BitVec.ofNat 7 (0x30 + field s.plc.straps 12 3) } }
  if bad then s.raise 0x6004 srcToll 0 else s

/-- The fault record of an unplanned reset (R431). The spec names no code for it: CODE is a free value (log 52). It only records, as severity
NOTE does. -/
def State.noteUnplanned (s : State) : State :=
  let x := s.freeBytes 2
  x.2.enterRecord { code := BitVec.ofNat 16 (leNat x.1), source := srcToll, agent := 0, tick := 0, step := 0, addr := none, detail := 0, aux := 0,
                    origin := none, remote := false, late := false } 0

/-- FIRMWARE_START (R20, R37, R62, R362, R430, R431, R464, R467): firmware opens the journal, writes the new generation, restores what the
journal keeps, forms the hall number and trains UCIe. -/
def execFirmwareStart (straps opens : BitVec 16) (s : State) : Host.Outcome State Fault Refusal :=
  if s.rst.stage = .bootRom && !s.sec.noFw then
    let s := { s with rst := { s.rst with stage := .firmware }
                      ucie := { up0 := !s.pwr.computeOff, up1 := !s.pwr.computeOff, fedAt := s.tim.now.toNat
                                downAt := if s.pwr.computeOff then some s.tim.now.toNat else none } }
    let s := s.openJournal
    let recs := s.journalRecs
    let (g, unplanned) := nextGeneration recs
    let s := s.updFlt (fun f => { f with gen := g, unplanned := unplanned,
                                         ueLines := (recs.filter (fun r => r.ty == jrUeLine)).map (fun r =>
                                           (leAt r.payload 0 1, leAt r.payload 1 1, leAt r.payload 4 4 / 128)) })
    let s := s.journal jrGeneration [BitVec.ofNat 8 g.toNat]
    let s := if unplanned then s.noteUnplanned else s
    let s := ((s.senseStraps straps opens).restoreFreq recs).restoreRegs recs
    .next (s.updPlc (fun p => { p with hall := s.hallNumber })).ibi
  else .next s

/-! ### The compute die (R258, R268, R269, R508) -/

/-- The interface training that the journal keeps for a stack (R268, R463). -/
def State.trainOf (s : State) (st : Nat) : List Byte :=
  match (s.journalRecs.filter (fun r => r.ty == jrTrain && leAt r.payload 0 1 == st)).getLast? with
  | some r => r.payload.drop 1
  | none => []

/-- A stack after the die's release (R268, R269): its interface is trained; it leaves self-refresh with its contents, every pseudo-channel
refreshed, or is initialised with every line zero. -/
def State.restoreStack (s : State) (st : Nat) (tact : List Reg) : State :=
  let act := (List.range 5).map (fun n => nth 0 tact n &&& (if n = 4 then fmask 0 24 else fmask 0 64))
  let nominal := ({} : Msq).ttab
  let above := (List.range 18).any (fun n => ttabGet nominal n < ttabGet act n)
  let kept := (s.ms st).selfRef
  let s := s.updMs st (fun m => Msq.refreshAll
    { m with selfRef := false, auto := true, kept := kept, tact := act, tactOver := above, halted := false, train := s.trainOf st,
             autoAt := s.tim.now.toNat } s.memNow)
  if kept then s
  else { s with mem := memZero s.mem (hbmBase + st * stackLines * 128) (stackLines * 128)
                upsets := s.upsets.filter (fun u => u.area != Area.hbm || u.line / stackLines != st) }

/-- COMPUTE_DIE_RELEASE (R258, R268, R269, R508). -/
def execComputeDieRelease (tact : List (List Reg)) (s : State) : Host.Outcome State Fault Refusal :=
  if s.rst.stage = .firmware && !s.pwr.computeOff then
    let s := forEach s (List.range 4) (fun s st => s.restoreStack st (nth [] tact st))
    .next { s with rst := { s.rst with stage := .die, dieUp := true }, pins := { s.pins with perstN := true } }
  else .next s

/-! ### IDLE (R112, R119, R122, R430, R489) -/

/-- The columns of a row known failed, in the order of R119: fused, journaled, found by the self-test. -/
def State.failedCols (s : State) (row : Nat) (failed : List (Nat × Nat)) : List Nat :=
  let fused := (s.row row).fused
  ((if fused = 33 then [] else [fused]) ++
    ((s.journalRecs.filter (fun r => r.ty == jrRepair && leAt r.payload 0 1 == row)).map (fun r => leAt r.payload 1 1)) ++
    ((failed.filter (fun f => f.1 == row)).map (·.2))).foldl (fun l c => if l.contains c then l else l ++ [c]) []

/-- The repair of a row (R30, R32, R119): its spare takes the first failed column, and a further one exhausts it. A failure that the
self-test found is journaled with its repair applied, unless a record names it. -/
def State.repairRow (s : State) (row : Nat) (failed : List (Nat × Nat)) : State :=
  let cols := s.failedCols row failed
  let active := (cols.head?).getD 33
  let known := s.failedCols row []
  let s := { s with rows := if cols.isEmpty then s.rows else
                      Tbl.set s.rows row { s.row row with active := active, pending := 33, exhausted := decide (2 ≤ cols.length) } }
  (cols.filter (fun c => !known.contains c)).foldl (fun s c =>
    s.journal jrRepair (leBytes row 1 ++ leBytes c 1 ++ [2, if c = active then 1 else 0])) s

/-- New firmware confirms itself (R489). -/
def State.confirmFirmware (s : State) : State :=
  if s.sec.trial then
    let u := s.bootAppend ⟨s.sec.slot, false, 0⟩
    { u with sec := { u.sec with trial := false, fuses := { s.sec.fuses with svn := max s.sec.fuses.svn (min s.sec.fwSvn 64) } } }
  else s

/-- SELF_TEST_DONE (R30, R112, R119, R122, R406, R430, R489): repair, spoke pads, a zeroed store, IDLE. `failed` names the tiles that the
self-test found failed, by row and physical column. -/
def execSelfTestDone (failed : List (Nat × Nat)) (s : State) : Host.Outcome State Fault Refusal :=
  if s.rst.stage = .die then
    let s := forEach s (List.range 25) (fun s row => s.repairRow row (failed.filter (fun f => decide (f.2 < 33))))
    let s := { s with padsSet := true, mem := s.mem.filter (fun c => isHbm c.1), upsets := s.upsets.filter (fun u => u.area == Area.hbm),
                      rst := { s.rst with stage := .none, idle := true } }
    let s := (s.confirmFirmware.setSt stIdle).updHst (fun h => { h with ready := true, resetDone := true })
    .next (s.signal 3).ibi
  else .next s

end Sys2Proof.Machine
end

