-- ==== Sys2Proof/Machine/PowerRows.lean ====
section
/-! DEFINITION. Input, rails and the thermal and power policy (17: R469 to R482). -/

namespace Sys2Proof.Machine

/-- The first power fault since clear (R483): code, kind and rail for 0x5005. -/
def State.pwrLog (s : State) (code kind rail : Nat) : State :=
  s.updPwr (fun p => if bit p.log 23 then p else
    { p with log := orAll [at_ code 0 16, at_ kind 16 3, at_ rail 19 4, flag true 23, at_ (s.nowNs / 1000) 24 40] })

/-- A power fault logged and raised, with the log as its DETAIL (R414). -/
def State.pwrFault (s : State) (code : BitVec 16) (src : Nat) (kind : Nat := 0) (rail : Nat := 0) : State :=
  let s := s.pwrLog code.toNat kind rail
  s.raise code src 0 s.pwr.log

/-- Row of the rail table (R472), from 0 (log 34). -/
def railRow : Rail → Nat
  | .core => 0
  | .fixed => 1
  | .serdesAnalog => 2
  | .serdesHigh => 3
  | .hbmVpp => 4
  | .hbmVdd | .hbmVddq => 5
  | .tollCore => 6
  | .tollIo | .tollMem | .tollFlash => 7

/-- The order of power-up (R473). -/
def railOrder : List Rail :=
  [.tollCore, .tollIo, .tollMem, .tollFlash, .hbmVpp, .hbmVdd, .hbmVddq, .fixed, .serdesAnalog, .serdesHigh, .core]

/-- A rail's turn in power-up (R473): fixed logic and the SerDes rails share one. -/
def railTurn : Rail → Nat
  | .tollCore => 0
  | .tollIo => 1
  | .tollMem => 2
  | .tollFlash => 3
  | .hbmVpp => 4
  | .hbmVdd => 5
  | .hbmVddq => 6
  | .fixed | .serdesAnalog | .serdesHigh => 7
  | .core => 8

/-- Does the module have power? -/
def State.powered (s : State) : Bool := s.rst.stage ≠ .off

/-! ### Power-up and power-down (R471, R473, R474, R508) -/

/-- The module without power: what lasts is the flash, the fuses and what stands outside (R433, R474). The next reset is unplanned. -/
def State.powerOff (s : State) : State :=
  let b := s.lasting.cutAppend s
  { b with rst := { stage := .off }, pwr := { b.pwr with rails := [], good := false } }

/-- T0 (R473, R508): the regulator stage starts; S = T0, where machine time begins (log 5). -/
def State.coldStart (s : State) : State :=
  let b := s.lasting
  State.joinFlash { b with
    rst := { stage := .inReset, last := 0 }
    pwr := { b.pwr with rails := [], good := true, open_ := false, railAt := b.tim.now.toNat }
    pins := { b.pins with perstN := false } }

/-- INPUT_GOOD (R471, R473, R501): the operands tell which feeds lie within 40 to 60 V. -/
def execInputGood (feedA feedB : Bool) (s : State) : Host.Outcome State Fault Refusal :=
  if s.powered || s.pins.pwrEnN || s.pwr.open_ then .next s
  else .next (s.updPwr (fun p => { p with feedA := feedA, feedB := feedB })).coldStart

/-- Has rail `r` started and is not good yet: every rail of the rows before its own is good (R473)? A rail that was removed does not (R480). -/
def State.railStarts (s : State) (r : Rail) : Bool :=
  s.rst.stage == .inReset && !(s.pwr.computeOff && !tollRails.contains r) && !s.pwr.rails.contains r && railOrder.all (fun x => s.pwr.rails.contains x || decide (railTurn r ≤ railTurn x))

/-- A feed loss or reversal counted (R483). -/
def State.countFeed (s : State) : State := s.updPwr (fun p => { p with cnt := satInc p.cnt 32 16 1 })

/-- A reversed feed beside a good one: 0x5004, once a record can be formed (R470). -/
def State.feedRecord (s : State) : State := s.countFeed.pwrFault 0x5004 srcReg

/-- The tollhouse rails come to stand: a feed that was reversed before then is recorded (R470). -/
def State.feedsAtStart (s : State) : State :=
  let p := s.pwr
  if p.feedRevA && p.feedB || p.feedRevB && p.feedA then s.feedRecord else s

/-- RAIL_GOOD (R473): a rail that has started is within its window; or a tollhouse rail that left its window is within it again (R499). -/
def execRailGood (r : Rail) (s : State) : Host.Outcome State Fault Refusal :=
  if s.railStarts r then
    let u := s.updPwr (fun p => { p with rails := p.rails ++ [r], railAt := s.tim.now.toNat })
    .next (if u.tollPowered && !s.tollPowered then u.feedsAtStart else u).ibi
  else if tollRails.contains r && s.pwr.rails.contains r then .next (s.updPwr (fun p => { p with tollBad := false })).ibi
  else .next s

/-- RAIL_START_TIMEOUT (R473): 1 ms after its start, which is when the rail before it was good (log 34), a rail is not good. The sequence stops,
and the rails started are removed. -/
def execRailStartTimeout (r : Rail) (s : State) : Host.Outcome State Fault Refusal :=
  if s.railStarts r then .next (s.advance (s.pwr.railAt + 1000000 * ns)).powerOff else .next s

/-- UNDERVOLTAGE (R268, R471): the module is unusable from here to a module reset (log 100). -/
def execUndervoltage (s : State) : Host.Outcome State Fault Refusal :=
  if s.tollPowered then .next ((s.selfRefreshAll.updPwr (fun p => { p with dead := true })).pwrFault 0x5003 srcReg) else .next s

/-- POWER_DOWN (R471, R474). -/
def execPowerDown (s : State) : Host.Outcome State Fault Refusal := if s.powered then .next s.powerOff else .next s

/-- OVERVOLTAGE (R471): the input stages open. -/
def execOvervoltage (s : State) : Host.Outcome State Fault Refusal :=
  .next (State.updPwr (if s.powered then s.powerOff else s) (fun p => { p with open_ := true, good := false }))

/-- OVERVOLTAGE_CLEAR (R471): the input stages close, and power-up starts again. -/
def execOvervoltageClear (s : State) : Host.Outcome State Fault Refusal :=
  if s.pwr.open_ then
    let s := s.updPwr (fun p => { p with open_ := false })
    .next (if s.pins.pwrEnN then s else s.coldStart)
  else .next s

/-! ### Loss of the compute-die rails (R471, R472, R480) -/

/-- The compute-die rails are removed (log 36): the die's units lose their state and answer nothing, stacks lose their contents, UCIe, the
Olfin links and the CXL link go down. -/
def State.removeCompute (s : State) : State :=
  let s := s.updPwr (fun p => { p with rails := p.rails.filter tollRails.contains, computeOff := true, settling := false })
  let s := { s with clusters := [], msq := [], landing := [], mesh := [], upsets := [], pts := [],
                    spans := (List.range 114).map (fun p => (p, { silent := true })) }
  let s := s.updCxl (fun x => { x with linkUp := false, width := 0, speed := 0, sbuf := [] })
  let s := forEach s (List.range 6) (fun s p => if (s.port p).st = 0 then s else s.linkDown p true)
  (s.setUcie false false).setUcie true false

/-- A fault that removes the compute-die rails: 0x5005 of a kind. -/
def State.railFault (s : State) (kind rail : Nat) : State := ((s.pwrFault 0x5005 srcReg kind rail).removeCompute).ibi

/-- OVERCURRENT (R471). -/
def execOvercurrent (s : State) : Host.Outcome State Fault Refusal := if s.tollPowered then .next (s.railFault 2 0) else .next s

/-- RAIL_WINDOW_FAULT (R472, R499): the tollhouse rails stay up, one that left its window is not good. -/
def execRailWindowFault (r : Rail) (s : State) : Host.Outcome State Fault Refusal :=
  if s.tollPowered && s.pwr.rails.contains r then
    .next ((s.updPwr (fun p => { p with tollBad := p.tollBad || tollRails.contains r })).railFault 1 (railRow r))
  else .next s

/-- THERMAL_TRIP (R480): on a compute-die sensor, or an HBM die. -/
def execThermalTrip (hbm : Bool) (s : State) : Host.Outcome State Fault Refusal :=
  if s.tollPowered && !s.pwr.computeOff then .next (s.railFault (if hbm then 4 else 3) 0) else .next s

/-! ### Feeds (R469, R470) -/

/-- A feed's state: within 40 to 60 V, and reversed. -/
def State.setFeed (s : State) (f : Feed) (good rev : Bool) : State :=
  s.updPwr (fun p => match f with
    | .a => { p with feedA := good, feedRevA := rev }
    | .b => { p with feedB := good, feedRevB := rev })

/-- FEED_REVERSED (R470): with the other feed good the module runs on, and records it once the tollhouse rails stand; otherwise every rail goes
off. -/
def execFeedReversed (f : Feed) (otherGood : Bool) (s : State) : Host.Outcome State Fault Refusal :=
  let s := s.setFeed f false true
  if !s.powered then .next s
  else if !otherGood then .next s.powerOff
  else if s.tollPowered then .next s.feedRecord.ibi
  else .next s

/-- FEED_LOSS (R469, R483, R505). -/
def execFeedLoss (f : Feed) (s : State) : Host.Outcome State Fault Refusal :=
  let s := s.setFeed f false (match f with
    | .a => s.pwr.feedRevA
    | .b => s.pwr.feedRevB)
  .next (if s.tollPowered then s.countFeed.ibi else s)

/-- FEED_RETURN (R469, R483, R505). -/
def execFeedReturn (f : Feed) (s : State) : Host.Outcome State Fault Refusal := .next (s.setFeed f true false).ibi

/-! ### The core rail (R475, R476) -/

/-- RAIL_SETTLED (R76, R475, R476): the rail, slewed at 2 mV per µs, stands at its set point; with no job a higher step waits no longer. -/
def execRailSettled (s : State) : Host.Outcome State Fault Refusal :=
  if !s.pwr.settling then .next s
  else
    let i := (field s.pwr.core 0 12 - 620) / 23
    let s := s.advance (s.pwr.lagAt + s.pwr.lag.natAbs)
    let s := s.updPwr (fun p => { p with settling := false, railStep := i, settledAt := s.tim.now.toNat })
    let w := s.tik.stepSet.toNat
    .next (State.ibi (if !s.busy && decide (s.tik.stepNow < w) && decide (w ≤ i) then s.applyStep w else s))

/-! ### Policy (R478, R479, R481, R482) -/

/-- The hottest of the sensors of a kind (R482): of the first `n` values, one for each sensor. -/
def hottest (n : Nat) (l : List Nat) : Nat := (l.take n).foldl max 0
/-- The hottest of the 50 compute-die sensors, and the first that reads so (R483). -/
def hottestDie (x : Sensors) : Nat := hottest 50 x.die
/-- Its index. -/
def hottestDieAt (x : Sensors) : Nat := x.die.findIdx (· == hottestDie x)

/-- The joined input's voltage in units of 10 mV (R469, R482): that of the higher feed, which the ideal diodes let through (DEDUCED, log 99). -/
def inputVolts (x : Sensors) : Nat := max x.voltsA x.voltsB
/-- Its current in units of 10 mA: both feeds' (R482; log 99). -/
def inputAmps (x : Sensors) : Nat := x.ampsA + x.ampsB
/-- Input power in units of 0.1 mW: each feed's voltage by its current (R478, R482; log 99). -/
def inputPower (x : Sensors) : Nat := x.voltsA * x.ampsA + x.voltsB * x.ampsB

/-- The hottest HBM die, as MSQ_TEMP of the stacks reports it (R270, R482). -/
def State.hottestHbm (s : State) : Nat := hottest 4 ((List.range 4).map (fun st => field (s.ms st).temp 0 8))

/-- The 10 ms mean of input power in W, rounded down: over the last ten evaluations, this one included (R478; log 99). -/
def State.meanPower (s : State) (x : Sensors) : Nat :=
  let l := (inputPower x :: s.pwr.powers).take 10
  l.sum / (l.length * 10000)

/-- Does a condition of R481 hold, with `p10` W of input power? Temperatures in units of 0.1 °C. -/
def coolantBad (x : Sensors) (p10 : Nat) : Bool :=
  decide (x.inlet < 150) || decide (400 < x.inlet) || decide (x.inlet + 100 < x.outlet) ||
    decide ((x.inlet + 20) * 2400 + 100 * p10 < x.outlet * 2400)

/-- The hot condition of R478; TDIE is in units of 0.25 °C. -/
def State.policyHot (s : State) (x : Sensors) : Bool :=
  let l := s.pwr.limits
  decide (4 * field l 0 8 ≤ hottestDie x) || decide (field l 16 8 ≤ s.hottestHbm) || decide (field l 32 16 < s.meanPower x)

/-- The cool condition of R478. -/
def State.policyCool (s : State) (x : Sensors) : Bool :=
  let l := s.pwr.limits
  let h := field s.pwr.ctl 8 4
  decide (hottestDie x + 4 * h < 4 * field l 0 8) && decide (s.hottestHbm + h < field l 16 8) && decide (s.meanPower x + 100 ≤ field l 32 16)

/-- The allowed step and n_cool after an evaluation (R478). -/
def State.policyAllowed (s : State) (x : Sensors) : Int × Nat :=
  let a := s.pwr.allowed
  if s.policyHot x then (min a (s.tik.stepNow - 1), 0)
  else if s.policyCool x then
    if s.pwr.nCool + 1 = 100 then (min (a + 1) s.topStep, 0) else (a, s.pwr.nCool + 1)
  else (a, 0)

/-- The sensors as the registers report them (R482, R483). -/
def State.readSensors (s : State) (x : Sensors) : State :=
  s.updPwr (fun p => { p with
    powers := (inputPower x :: p.powers).take 10
    input := orAll [at_ (inputVolts x) 0 16, at_ (inputAmps x) 16 16, at_ (s.meanPower x) 32 16]
    core := orAll [at_ (field p.core 0 12) 0 12, at_ x.coreMv 12 12, at_ x.coreAmps 24 12]
    temp := orAll [at_ (hottestDie x) 0 10, at_ (hottestDieAt x) 10 6, at_ s.hottestHbm 16 8, at_ (hottest 2 x.toll) 24 8, at_ (hottest 4 x.reg) 32 8]
    cool := orAll [at_ x.inlet 0 12, at_ x.outlet 12 12]
    coolant := p.coolant && coolantBad x (s.meanPower x) })

/-- Must the job stop (R479)? -/
def State.policyStops (s : State) (x : Sensors) : Bool :=
  let l := s.pwr.limits
  s.job.running && s.tik.stepNow == s.rated && !s.pwr.stopReq &&
    (decide (4 * field l 8 8 ≤ hottestDie x) || decide (field l 24 8 ≤ s.hottestHbm) || decide (100 ≤ s.pwr.nOver))

/-- POWER_POLICY_EVAL (R478, R479, R481, R482). -/
def execPowerPolicyEval (x : Sensors) (s : State) : Host.Outcome State Fault Refusal :=
  if !s.fwUp then .next s
  else
    let s₀ := s.beat beatPolicy (1000000 * ns)
    let (a, n) := s₀.policyAllowed x
    let over1 := decide (field s₀.pwr.limits 32 16 < s₀.meanPower x)
    let s := s₀.readSensors x
    let s := s.updPwr (fun p => { p with hot := s₀.policyHot x, allowed := a, nCool := n, nOver := if over1 then p.nOver + 1 else 0,
                                         cnt := if a < p.allowed then satInc p.cnt 0 16 1 else p.cnt })
    let want := min (field s.pwr.ctl 0 4 : Int) a
    let want := if s.busy then max want s.jobRated else want
    let s := s.wantStep want.toNat
    let s := if s.policyStops x then
        (((s.updPwr (fun p => { p with stopReq := true, cnt := satInc p.cnt 16 16 1 })).pwrFault 0x5002 srcToll).updTik
          (fun t => { t with cnt := satInc t.cnt 48 16 1 })).requestStop (2 ^ 64 - 1) 3
      else s
    .next s.ibi

/-- COOLANT_FAULT (R481): a condition has held for 1 s. -/
def execCoolantFault (s : State) : Host.Outcome State Fault Refusal :=
  if s.tollPowered then
    .next ((s.updPwr (fun p => { p with coolant := true, cnt := satInc p.cnt 48 16 1 })).pwrFault 0x5006 srcToll).ibi
  else .next s

end Sys2Proof.Machine
end

