-- ==== Sys2Proof/Machine/PinRows.lean ====
section
/-! DEFINITION. The pins of J2, the I3C target and the debug port (19: R500, R501, R504, R505; 18: R493). -/

namespace Sys2Proof.Machine

/-! ### RESET_N and the flash (R500, R504) -/

/-- RESET_N_ASSERT (R430, R500, R504): RESET_N has been low for 10 µs. -/
def execResetNAssert (s : State) : Host.Outcome State Fault Refusal :=
  .next (State.joinFlash (State.unplannedReset { s with pins := { s.pins with resetN := false } } 3))

/-- RESET_N_RELEASE (R500, R504): the reset sequence may continue once the flash is the module's own. -/
def execResetNRelease (s : State) : Host.Outcome State Fault Refusal := .next { s with pins := { s.pins with resetN := true } }

/-- FLASH_OWN_RISE (R504): ignored while RESET_N is high; with RESET_N low, the flash is joined once the tollhouse is held in reset, at
S + 10 µs (DEDUCED, log 113). -/
def execFlashOwnRise (s : State) : Host.Outcome State Fault Refusal :=
  .next (State.joinFlash { s with pins := { s.pins with flashOwn := true } })

/-- What the board controller has written in the flash while it held it (R504): free values (log 8), a write cut short among them. It keeps the
layout of R484, so that certificates stand. -/
def State.flashWritten (s : State) : State :=
  let ws := Config.flashWrites s.freeCtr
  { s with
    freeCtr := s.freeCtr + 1
    sec := { s.sec with boot := areaWrites s.sec.boot 0 bootBytes ws, slotA := slotWrites s.sec.slotA 0x1000000 ws
                        slotB := slotWrites s.sec.slotB 0x8000000 ws }
    cfg := { s.cfg with bankA := { s.cfg.bankA with cells := areaWrites s.cfg.bankA.cells 0x10000000 bankBytes ws }
                        bankB := { s.cfg.bankB with cells := areaWrites s.cfg.bankB.cells 0x12000000 bankBytes ws } } }

/-- FLASH_OWN_FALL (R504): the flash is isolated again, with what the board controller wrote. -/
def execFlashOwnFall (s : State) : Host.Outcome State Fault Refusal :=
  let s := if s.pins.flashOut then s.flashWritten else s
  .next { s with pins := { s.pins with flashOwn := false, flashOut := false } }

/-! ### PWR_EN_N (R501) -/

/-- PWR_EN_N_ASSERT (R501): the module follows its input from here on. -/
def execPwrEnNAssert (s : State) : Host.Outcome State Fault Refusal := .next { s with pins := { s.pins with pwrEnN := false } }

/-- PWR_EN_N_RELEASE (R471, R474, R501): released for 2 µs, the module powers down. -/
def execPwrEnNRelease (s : State) : Host.Outcome State Fault Refusal :=
  let s := { s with pins := { s.pins with pwrEnN := true } }
  .next (if s.powered then s.powerOff else s)

/-! ### The I3C target (R505) -/

/-- Does the target answer: `rom` tells whether the boot ROM serves the command? Every other command is not acknowledged while
RESETTING. -/
def State.i3cServes (s : State) (rom : Bool) : Bool :=
  s.tollPowered && (if s.rst.stage = .bootRom then rom else s.hst.st ≠ stResetting)

/-- A read transfer: its bytes, or NACK. -/
def State.i3cRead (s : State) (rom : Bool) (bytes : List Byte) : State :=
  { s with pins := { s.pins with i3cAns := if s.i3cServes rom then some bytes else none } }

/-- I3C_STATUS (R505). -/
def execI3cStatus (s : State) : Host.Outcome State Fault Refusal :=
  .next (s.i3cRead true (leBytes s.hst.st 1 ++ leBytes s.flt.gen.toNat 1 ++ leBytes (field s.pwrStatus 0 16) 2 ++
    leBytes (s.flt.modCode.getD 0).toNat 2 ++ [(if s.faultN then 1 else 0) + (if s.flt.wedged then 2 else 0), 0]))

/-- I3C_SENSORS (R505). -/
def execI3cSensors (s : State) : Host.Outcome State Fault Refusal :=
  .next (s.i3cRead false (leBytes s.pwr.input.toNat 8 ++ leBytes s.pwr.temp.toNat 8))

/-- I3C_IDENT (R363, R505): the boot ROM gives the hall number with bit 15 as 0. -/
def execI3cIdent (s : State) : Host.Outcome State Fault Refusal :=
  let hall := if s.rst.stage = .bootRom then field s.plc.straps 0 12 * 8 + field s.plc.straps 12 3 else s.plc.hall
  .next (s.i3cRead true (leBytes s.sec.fuses.physId.toNat 8 ++ [if s.sec.fuses.gradeB then 1 else 0, BitVec.ofNat 8 s.topStep] ++
    leBytes hall 2 ++ leBytes s.sec.version.toNat 4))

/-- I3C_RESET (R406, R505): not acknowledged where the target does not serve it; a planned reset, as the RESET command; another second byte is ignored. -/
def execI3cReset (second : Byte) (s : State) : Host.Outcome State Fault Refusal :=
  let s := { s with pins := { s.pins with i3cAns := if s.i3cServes false then some [] else none } }
  .next (if second = 0xA5 && s.i3cServes false && s.rst.stage = .none then s.supersedeAll.requestReset 0 else s)

/-- The low 32 bits of the target's provisional ID (R505). -/
def State.provisionalId (s : State) : BitVec 32 := s.sec.fuses.physId.setWidth 32

/-- I3C_ADDRESS_ASSIGN (R505): SETDASA or ENTDAA, in which the target shows `provisionalId`. -/
def execI3cAddressAssign (addr : BitVec 7) (s : State) : Host.Outcome State Fault Refusal :=
  if s.tollPowered then .next { s with pins := { s.pins with i3cAddr := addr, i3cDyn := true } } else .next s

/-! ### The debug port (R493) -/

/-- Does the unlocked level grant an access (R493)? Scan chains are served while the spans are stopped. -/
def State.debugGrants (s : State) (a : DbgAccess) : Bool :=
  let stopped := (List.range 114).all (fun p => !(s.spn p).running)
  match a with
  | .scanRead => decide (1 ≤ s.sec.debug) && stopped
  | .scanWrite => decide (2 ≤ s.sec.debug) && stopped
  | .coreHalt | .coreStep | .coreRun => decide (3 ≤ s.sec.debug)

/-- What an access does (R493): halted cores run no firmware until they run on, save one instruction for each step. What a scan chain holds, and
what an instruction does, the spec does not say (log 114). -/
def State.debugDone (s : State) (a : DbgAccess) : State :=
  let s := { s with sec := { s.sec with dbgDone := s.sec.dbgDone ++ [a] } }
  match a with
  | .coreHalt => { s with sec := { s.sec with halted := true } }
  | .coreRun => State.pump { s with sec := { s.sec with halted := false } }
  | .scanRead | .scanWrite | .coreStep => s

/-- DEBUG_PORT_ACCESS (R493). -/
def execDebugPortAccess (a : DbgAccess) (s : State) : Host.Outcome State Fault Refusal :=
  if s.debugGrants a then .next (s.debugDone a)
  else .next (s.raise 0x7003 srcToll 0)

end Sys2Proof.Machine
end

