-- ==== Sys2Proof/Machine/PlaceRows.lean ====
section
/-! DEFINITION. Rows of placement and start that may end a host command (13: R364 to R377). -/

namespace Sys2Proof.Machine

/-- A row of a placement before the map: `f` at an admissible candidate. One that is no candidate is not concerned, and one that is not
admissible any more drops out (R365, log 93). -/
def asCandidate (s : State) (f : State → State) : Host.Outcome State Fault Refusal :=
  if !s.electing then .next s else if s.admitRow false ≠ 0 then .next s.loseAdmission.pump else .next (f s)

/-- CLAIM_SEND (R366). -/
def execClaimSend (s : State) : Host.Outcome State Fault Refusal :=
  asCandidate s (fun s => forEach (s.beat beatClaim (10000 * ns)) (List.range 6) (fun s p =>
    if (s.port p).st == linkUp then s.sendPlc p 1 (leBytes s.plc.claim.1 2 ++ leBytes s.plc.claim.2 2) else s))

/-- CLAIM_RECEIVE (R366, R367). -/
def execClaimReceive (p hall depth : Nat) (digest8 : List Byte) (s : State) : Host.Outcome State Fault Refusal :=
  if 6 ≤ p then .next s
  else asCandidate s (fun s =>
    if digest8 != s.imgDigest8 then s
    else if s.plc.st = 2 || s.plc.heard.contains p && !(decide (hall < s.plc.claim.1)) then s.takeClaim p hall depth
    else s.restartElection.takeClaim p hall depth)

/-- QUIET_US in units of machine time. -/
def State.quiet (s : State) : Nat := field s.plc.ctl 0 16 * 1000 * ns

/-- ELECTION_CLOSE (R367). -/
def execElectionClose (s : State) : Host.Outcome State Fault Refusal :=
  asCandidate s (fun s => if s.plc.st = 2 then (s.advance (s.plc.claimAt + s.quiet)).closeElection.pump else s)

/-- SWITCH_REGATHER (R370): one second after the report the leader gathers again. It takes its own record anew; those of the others stand
until they send new ones (log 96). -/
def execSwitchRegather (s : State) : Host.Outcome State Fault Refusal :=
  asCandidate s (fun s =>
    if s.plc.st = 5 && s.plc.leader && s.plc.switch.isNone then
      let s := s.advance (s.plc.switchAt + 1000000000 * ns)
      s.updPlc (fun p => { p with st := 3, health := s.ownHealth :: p.health.filter (fun h => h.physId != s.sec.fuses.physId) })
    else s)

/-- HEALTH_RECEIVE (R364, R367): a parent forwards the record unchanged; the leader gathers it. -/
def execHealthReceive (p : Nat) (r : Health) (digest8 : List Byte) (s : State) : Host.Outcome State Fault Refusal :=
  if 6 ≤ p then .next s
  else asCandidate s (fun s =>
    if digest8 != s.imgDigest8 then s
    else
      let s := s.updPlc (fun x => { x with kidPorts := if x.kidPorts.contains p then x.kidPorts else x.kidPorts ++ [p] })
      let gather := fun (s : State) => s.updPlc (fun x => { x with health := x.health.filter (fun h => h.physId != r.physId) ++ [r] })
      if s.plc.leader then (gather s).dropTwins.pump
      else if s.plc.parent < 6 then s.sendPlc s.plc.parent 2 (healthBytes r)
      else gather s)

/-- MAP_COMPUTE (R368 to R370, R374, R382): the leader distributes the map, or asks for switching, or finds no fit; a leader whose map has
gone out unrefused takes its own place (log 94). -/
def execMapCompute (s : State) : Host.Outcome State Fault Refusal :=
  asCandidate s (fun s =>
    match s.plc.given with
    | some x => (s.takeMap x.1 x.2).pump
    | none =>
      if s.plc.st = 3 && s.plc.leader then
        let s := s.updPlc (fun p => { p with st := 4 })
        match s.findMap with
        | some seats => (s.distribute seats).pump
        | none => s.askSwitch.pump
      else s)

/-- MAP_RECEIVE (R374): the map goes on down the tree; one whose digest is wrong raises 0x6002 and REFUSE goes up. -/
def execMapReceive (p : Nat) (m : List MapEntry) (digest : List Byte) (s : State) : Host.Outcome State Fault Refusal :=
  if 6 ≤ p then .next s
  else asCandidate s (fun s =>
    if s.plc.leader then s
    else if sha256 (mapBytes m) == digest then ((s.passMap m digest).takeMap m digest).pump
    else
      let s := (s.raise 0x6002 srcToll 0).sendPlc s.plc.parent 8 (leBytes s.plc.hall 2 ++ leBytes 0x6002 2)
      (s.endPlace 0 sPlaceFailed 0x6002 s.plc.hall).pump)

/-- RELEASE_RECEIVE (R369): not used. A release that comes without a map goes on to the candidates below. -/
def execReleaseReceive (s : State) : Host.Outcome State Fault Refusal :=
  asCandidate s (fun s => ((forEach s s.plc.kidPorts (fun s p => s.sendPlc p 4 [])).endPlace 10 sNotUsed 0 0).pump)

/-- EXCLUDE_RECEIVE (R364, R365): the message goes on down the tree; the module that it names is not admissible. Cause 1 is a hall number
that another candidate presents too. -/
def execExcludeReceive (x : Exclusion) (s : State) : Host.Outcome State Fault Refusal :=
  asCandidate s (fun s =>
    let s := s.passExclude x.cause x.hall
    if x.hall ≠ s.plc.hall then s
    else if x.cause = 1 then (((s.updPlc (fun p => { p with duplicate := true })).raise 0x6004 srcToll 0).endPlace 0 sNotAdmissible 0x6004 1).pump
    else (s.endPlace 0 sNotAdmissible 0 x.cause).pump)

/-- PROPOSE_RECEIVE (R375, R376, R453). A module that holds no place, or whose job runs, refuses on the port of arrival. -/
def execProposeReceive (x : Proposer) (epoch : Nat) (s : State) : Host.Outcome State Fault Refusal :=
  if 6 ≤ x.port then .next s
  else if !s.job.loaded || s.plc.placed && s.isJobLeader then .next s
  else if s.plc.placed && !s.job.running then .next (s.takePropose x.digest8 epoch).pump
  else .next (s.sendPlc x.port 8 (leBytes s.plc.hall 2 ++ leBytes 0x6002 2))

/-- READY_RECEIVE (R375). -/
def execReadyReceive (p count : Nat) (s : State) : Host.Outcome State Fault Refusal :=
  if 6 ≤ p then .next s
  else
    match s.plc.proposal with
    | none => .next s
    | some x => .next ((s.updPlc (fun y => { y with proposal := some { x with kids := Tbl.set x.kids p count } })).tryReady).pump

/-- REFUSE_RECEIVE (R374, R375): up the tree; the leader cancels the start, or fails the placement. A module that the map has released, or placed,
still passes it on; a candidate that is not admissible any more does not (R365). -/
def execRefuseReceive (p hall : Nat) (code : BitVec 16) (s : State) : Host.Outcome State Fault Refusal :=
  if 6 ≤ p then .next s
  else
    let body := leBytes hall 2 ++ leBytes code.toNat 2
    if s.plc.proposal.isSome then .next (if s.isJobLeader then s.leaderCancel else s.sendParent 8 body).pump
    else if s.electing then
      asCandidate s (fun s => if s.plc.leader then (s.endPlace 0 sPlaceFailed 0x6002 hall).pump else s.sendPlc s.plc.parent 8 body)
    else if s.hst.st = stPlaced && s.isJobLeader then .next (s.dropPlace.endPlace 0 sPlaceFailed 0x6002 hall).pump
    else if (s.plc.placed && !s.isJobLeader || s.plc.st = 10) && decide (s.plc.parent < 6) then .next (s.sendPlc s.plc.parent 8 body)
    else .next s

/-- GO_RECEIVE (R375, R377, R405). -/
def execGoReceive (digest8 : List Byte) (epoch : Nat) (s : State) : Host.Outcome State Fault Refusal :=
  if digest8 == slice s.plc.jobDigest 0 8 && s.plc.placed then
    .next ((s.sendChildren 9 (s.epochBody epoch)).takeGo epoch).pump
  else .next s

/-- CANCEL_RECEIVE (R375, R403, R405). -/
def execCancelReceive (digest8 : List Byte) (epoch : Nat) (s : State) : Host.Outcome State Fault Refusal :=
  if digest8 == slice s.plc.jobDigest 0 8 && s.plc.placed then
    let s := s.sendChildren 10 (s.epochBody epoch)
    match s.plc.proposal with
    | some p => if p.epoch = epoch && !p.go then .next s.cancelStart.pump else .next s
    | none => .next s
  else .next s

/-- READY_DEADLINE (R375): E − 1 ms at the job leader with READY incomplete. -/
def execReadyDeadline (s : State) : Host.Outcome State Fault Refusal :=
  match s.plc.proposal with
  | some p => if s.isJobLeader && !p.go then .next ((s.advance ((p.epoch - 1000000) * ns)).leaderCancel).pump else .next s
  | none => .next s

/-- GO_DEADLINE (R377): E − 200 µs without GO. -/
def execGoDeadline (s : State) : Host.Outcome State Fault Refusal :=
  match s.plc.proposal with
  | some p => if p.go then .next s else .next (s.advance ((p.epoch - 200000) * ns)).cancelStart.pump
  | none => .next s

/-- PLACE_TIMEOUT (R401): PLACE_TIMEOUT_S after the placement began. -/
def execPlaceTimeout (s : State) : Host.Outcome State Fault Refusal :=
  if s.hst.st = stPlacing then
    .next ((s.advance (s.plc.placeAt + field s.plc.ctl 32 12 * 1000000000 * ns)).endPlace 0 sPlaceFailed 0 0).pump
  else .next s

end Sys2Proof.Machine
end

