-- ==== Sys2Proof/Machine/Router.lean ====
section
/-! DEFINITION. One slot at the routers (12: R328 to R342; 11: R310, R313, R314). -/

namespace Sys2Proof.Machine

/-- A source of a slot (R335, R336): a cell presented on logical port `lport` or injected there, the egresses it names, whether it is to be
delivered here, and the target of a delivery: span, queue, entry and half. -/
structure SlotSrc where
  injected : Bool
  lport    : Nat
  mask     : Nat
  here     : Bool
  target   : Nat × Nat × Nat × Nat
  cell     : Cell
  deriving DecidableEq, Repr

/-- Is a cell a combine cell (R303)? -/
def cellCombines (c : Cell) : Bool := c.kind == 2 || c.kind == 3

/-- Does a scheduled cell carry the empty mark (R303)? -/
def cellEmpty (c : Cell) : Bool := c.kind == 1 || c.kind == 3

/-- The routers that run, by logical port: (logical, physical). A logical port without a link injects and delivers too (R337, and the
reduction that chapter 12 works out). -/
def State.routers (s : State) : List (Nat × Nat) :=
  (List.range 6).filterMap (fun lp => let p := s.physPort lp; if (s.rtr p).running then some (lp, p) else none)

/-- The first router fault since the job started is logged in CWY_LOG (R337, R360). -/
def State.cwyLog (s : State) (p code source tag : Nat) : State :=
  let log := orAll [at_ code 0 16, at_ (s.tik.slotNo % (256 * s.k)) 16 14, at_ source 30 3, at_ tag 33 12, flag true 45, at_ s.tick 46 18]
  s.updRtr p (fun r => { r with log := if bit r.log 45 then r.log else log })

/-- A router fault of physical port `p` (R337): logged, and raised by the router's agent. -/
def State.cwyFault (s : State) (p : Nat) (code : BitVec 16) (source tag : Nat) : State :=
  let s := s.cwyLog p code.toNat source tag
  s.raise code (104 + p) 1 (s.rtr p).log

/-- One count of CWY_CNT. -/
def State.cwyCount (s : State) (p lo len : Nat) : State := s.updRtr p (fun r => { r with cnt := satInc r.cnt lo len 1 })

/-- One count of CWY_CNT2. -/
def State.cwyCount2 (s : State) (p lo len : Nat) : State := s.updRtr p (fun r => { r with cnt2 := satInc r.cnt2 lo len 1 })

/-! ### Sources (R313, R314, R335, R340) -/

/-- The tag and kind check (R340). -/
def tagOk (w0 : Reg) (c : Cell) : Bool :=
  decide (c.tag.toNat = field w0 0 12) && (cellCombines c) == bit w0 19 && (decide (field w0 21 7 ≠ 112) || c.kind == 4)

/-- CELL_PRESENTATION, MISSED_CELL and TAG_CHECK (R313, R314, R340): the cell that logical port `lp`, on physical port `p`, presents in the
current slot. A head of the hold that was checked after its slot is late: the slot is missed and the cell discarded (R314). -/
def State.present (s : State) (lp p : Nat) (w0 : Reg) : Option SlotSrc × State :=
  if !bit w0 20 then (none, s)
  else
    match (s.port p).hold with
    | [] => (none, (s.updPort p (fun o => { o with matched := o.matched + 1 })).raise 0x1008 (104 + p) 3)
    | x :: rest =>
      if s.tik.slotNo < x.at_ then
        let s := s.updPort p (fun o => { o with hold := rest, cnt2 := satInc o.cnt2 48 8 1 })
        (none, (s.raise 0x1008 (104 + p) 3).olfFault p 0x2002 0 x.cell.seq.toNat)
      else
        let s := s.updPort p (fun o => { o with hold := rest })
        if tagOk w0 x.cell then
          (some ⟨false, lp, field w0 12 6, bit w0 18, (field w0 21 7, field w0 28 2, field w0 30 9, field w0 39 1), x.cell⟩, s.cwyCount p 0 32)
        else (none, (s.cwyCount p 56 8).cwyFault p 0x1007 lp x.cell.tag.toNat)

/-- INJECTION (R335): the cell that the port span of physical port `p` injects; one from an unwritten half is empty. -/
def State.inject (s : State) (lp p : Nat) (w1 : Reg) : Option SlotSrc × State :=
  let isrc := field w1 0 2
  if isrc = 0 then (none, s)
  else
    let q := field w1 2 2
    let entry := field w1 4 9
    let half := field w1 13 1
    let e := s.landAt (104 + p) q (readFrame s.tik.phaseNo) entry
    let written := if half = 0 then e.w0 else e.w1
    let empty := !written || (if half = 0 then e.e0 else e.e1)
    let data := if written then padTo (if half = 0 then e.h0 else e.h1) 64 else zeros 64
    let kind : BitVec 4 := if isrc = 3 then 4 else BitVec.ofNat 4 ((if isrc = 1 then 0 else 2) + (if empty then 1 else 0))
    let c : Cell := { seq := 0, ack := 0, cls := 0, kind := kind, gen := s.flt.gen, credit := 0, tag := BitVec.ofNat 12 (field w1 21 12),
                      payload := data }
    let s := if written then s else (s.xqNote (104 + p) q entry half 1 (s.tik.phaseNo - 2)).cwyFault p 0x1003 6 0
    (some ⟨true, lp, field w1 14 6, bit w1 20, (0, 0, 0, 0), c⟩, s)

/-- The sources of the current slot in order: presented cells, then injected ones, each by logical port. -/
def State.sources (s : State) (rs : List (Nat × Nat)) (ws : List (Reg × Reg)) : List SlotSrc × State :=
  let pick := fun (x : List SlotSrc × State) (y : Option SlotSrc × State) => (x.1 ++ y.1.toList, y.2)
  let x := (rs.zip ws).foldl (fun (x : List SlotSrc × State) e => pick x (x.2.present e.1.1 e.1.2 e.2.1)) ([], s)
  (rs.zip ws).foldl (fun (x : List SlotSrc × State) e => pick x (x.2.inject e.1.1 e.1.2 e.2.2)) x

/-! ### Combining (R338, R339) -/

/-- Lane `l` of a payload (R338). -/
def laneOf (c : Cell) (l : Nat) : Fw := BitVec.ofNat 128 (leAt c.payload (16 * l) 16)

/-- The window code of a combine cell. -/
def cellWcode (c : Cell) : Nat := c.tag.toNat / 64

/-- The sum of two combine cells (R338), with the window fault and the overflow that it raises. -/
def combineCells (a b : Cell) : Cell × Bool × Bool :=
  let empty := (cellEmpty a) && (cellEmpty b)
  let bad := decide ((cellWcode a) ≠ (cellWcode b))
  let sums := (List.range 4).map (fun l => if bad then (fwNan, false) else fwAdd2 (laneOf a l) (laneOf b l))
  ({ a with kind := if empty then 3 else 2, payload := sums.flatMap (fun x => leBytes x.1.toNat 16) }, bad, sums.any (·.2))

/-! ### Sinks (R336, R337) -/

/-- What reaches a sink. -/
inductive Outcome1 where
  | nothing
  /-- The cell, unchanged, and its source. -/
  | cell (x : SlotSrc)
  /-- The sum of two cells, delivered to the target of `x` where the sink is local delivery. -/
  | sum (x y : SlotSrc)
  | collision
  deriving DecidableEq, Repr

/-- The outcome at a sink (R336); `deliver` for local delivery. -/
def outcome (deliver : Bool) : List SlotSrc → Outcome1
  | [] => .nothing
  | [x] => if deliver && x.injected && (cellCombines x.cell) then .collision else .cell x
  | [x, y] =>
    if (cellCombines x.cell) && (cellCombines y.cell) && !(x.injected && y.injected) then
      if deliver && !x.injected && !y.injected && x.target ≠ y.target then .collision else .sum x y
    else .collision
  | _ => .collision

/-- SOURCE of a router fault (R337). -/
def sourceOf (l : List SlotSrc) : Nat := ((l.filter (fun x => !x.injected)).map (·.lport)).foldl min 6

/-- Adds the two cells of a sink, counted and logged at physical port `p` (R337, R338). -/
def State.combine (s : State) (p : Nat) (x y : SlotSrc) : Cell × State :=
  let r := combineCells x.cell y.cell
  let s := s.cwyCount p 32 16
  let s := if r.2.1 then (s.cwyCount2 p 0 16).cwyFault p 0x100D (sourceOf [x, y]) 0 else s
  (r.1, if r.2.2 then (s.cwyCount2 p 16 16).cwyFault p 0x1005 (sourceOf [x, y]) 0 else s)

/-- Scheduled cells in the replay buffer (R310). -/
def Olf.scheduled (o : Olf) : Nat := (o.replay.filter (fun x => x.cell.cls == 0)).length

/-- A scheduled cell formed on the link of physical port `p` (R310, R342). -/
def State.formCell (s : State) (p : Nat) (c : Cell) : State :=
  let o := s.port p
  if o.st ≠ linkUp || !o.sched || o.svcOnly || o.dropped || !(s.rtr p).loaded then s.cwyCount2 p 32 16
  else if 448 ≤ o.scheduled then
    (s.updPort p (fun o => { o with dropped := true, cnt2 := satInc o.cnt2 48 8 1 })).olfFault p 0x2002 0 0
  else
    let s := if (cellEmpty c) then s.cwyCount2 p 48 16 else s
    let x : TxCell := { cell := { c with seq := 0, cls := 0, gen := s.flt.gen }, sent := false, slot := s.tik.slotNo, fresh := true }
    s.updPort p (fun o => { o with replay := o.replay ++ [x] })

/-- A collision at physical port `p` (R337). -/
def State.sinkClash (s : State) (p : Nat) (l : List SlotSrc) : State := (s.cwyCount p 48 8).cwyFault p 0x1006 (sourceOf l) 0

/-- One egress, logical port `e` (R336, R339, R342). -/
def State.egress (s : State) (l : List SlotSrc) (e : Nat) (w0 : Reg) : State :=
  let p := s.physPort e
  let l := l.filter (fun x => x.mask.testBit e)
  match outcome false l with
  | .nothing => s
  | .cell x => s.formCell p x.cell
  | .sum x y =>
    let r := s.combine p x y
    r.2.formCell p { r.1 with tag := BitVec.ofNat 12 (64 * (cellWcode r.1) + field w0 40 6) }
  | .collision => s.sinkClash p l

/-- A cell delivered to a target (R94, R339, R341) with its 64 bytes and its empty mark: an agreement cell goes to the tick sequencer. -/
def State.deliverCell (s : State) (p : Nat) (c : Cell) (t : Nat × Nat × Nat × Nat) : State :=
  if c.kind = 4 then
    s.updTik (fun k => { k with agree := Tbl.set k.agree (nth 0 c.payload 1).toNat ((nth 0 c.payload 0).setWidth 2) })
  else
    let s := if (cellEmpty c) then s.cwyCount2 p 48 16 else s
    let half := t.2.2.2
    s.put (s.destSpan t.1) t.2.1 t.2.2.1 (half == 0) (half == 1) (if half = 0 then padTo c.payload 64 else zeros 64 ++ padTo c.payload 64)
      (cellEmpty c) none none s.tik.phaseNo

/-- Local delivery (R336, R341). -/
def State.deliver (s : State) (l : List SlotSrc) : State :=
  let l := l.filter (fun x => x.here)
  let p := s.physPort ((l.map (·.lport)).foldl min 6)
  match outcome true l with
  | .nothing => s
  | .cell x => s.deliverCell p x.cell x.target
  | .sum x y =>
    let r := s.combine p x y
    r.2.deliverCell p r.1 (if x.injected then y.target else x.target)
  | .collision => s.sinkClash p l

/-- ROUTER_SLOT (R336): the current slot, once its phase has begun. -/
def execRouterSlot (s : State) : Host.Outcome State Fault Refusal :=
  let n := 32 * s.k
  if !s.job.running || s.job.boundary.isSome || (s.tik.phaseNo + 1) * n ≤ s.tik.slotNo then .next s
  else
    let s := s.advance (s.slotTime s.tik.slotNo)
    let rs := s.routers
    let ws := rs.map (fun x => ((s.rtr x.2).entry s.k (s.tik.slotNo % n) 0, (s.rtr x.2).entry s.k (s.tik.slotNo % n) 1))
    let r := s.sources rs ws
    let s := (List.range 6).foldl (fun s e =>
      s.egress r.1 e (((rs.zip ws).find? (fun x => x.1.1 == e)).map (fun x => x.2.1) |>.getD 0)) r.2
    let s := s.deliver r.1
    .next (s.updTik (fun t => { t with slotNo := t.slotNo + 1 }))

end Sys2Proof.Machine
end

