-- ==== Sys2Proof/Machine/Time.lean ====
section
/-! DEFINITION. Rows of machine time: beacons, windows, roots and parents, the follower, 1PPS and the management Ethernet (02; 19: R502,
R503). Timestamps are in units of 2^-16 ns. -/

namespace Sys2Proof.Machine

/-! ### Beacons (R38 to R42) -/

/-- A timestamp of a beacon: 64 bits of nanoseconds, 16 of fraction (R40). -/
def stampBytes (t : Nat) : List Byte := leBytes (t / 65536) 8 ++ leBytes (t % 65536) 2
/-- The timestamp in ten bytes. -/
def stampAt (l : List Byte) (o : Nat) : Nat := leAt l o 8 * 65536 + leAt l (o + 8) 2

/-- The offset that the module advertises: 0 at the root, else θ (R40, R52). -/
def Tim.residualOut (t : Tim) : Int := if t.isRoot then 0 else divRound t.theta 180180000

/-- The next beacon of a port (R40). PREV_TX of a port's first beacon, and ECHO_SEQ and ECHO_RX before one has come, are 0 (DESIGN CHOICE,
log 76). -/
def State.beacon (s : State) (p : Nat) : List Byte :=
  let t := s.tim
  let b := s.bcn p
  let ver := 0x1000 + (if t.good then 0x800 else 0) + (if t.holdover then 0x400 else 0) + (if t.tai then 0x200 else 0) + (if t.isRoot then 0x100 else 0)
  let prev := (b.sent.headD (0, 0)).2
  let echo := b.lastRx.getD (0, 0)
  let body := leBytes ver 2 ++ leBytes b.txSeq.toNat 2 ++ leBytes t.rootId.toNat 8 ++ leBytes t.curPrio.toNat 1 ++ leBytes t.depth 1 ++
    leBytes t.announce.toNat 2 ++ stampBytes prev ++ leBytes echo.1.toNat 2 ++ stampBytes echo.2 ++
    leBytes (t.residualOut % 2 ^ 32).toNat 4 ++ zeros 2
  body ++ leBytes (crc32 body).toNat 4

/-- Do beacons flow on port `p` (R38; R295: MEASURE needs them)? -/
def State.beacons (s : State) (p : Nat) : Bool := (s.port p).st == linkUp || (s.port p).st == 5

/-- One beacon sent: it waits for the next control blocks, before every other message (R301); its timestamp is the measured one (R39). -/
def State.sendBeacon (s : State) (p tx : Nat) : State :=
  if 6 ≤ p || !s.beacons p then s
  else
    let msg : LinkMsg := ⟨1, padTo (s.beacon p) 66⟩
    (s.updPort p (fun o => { o with msgs := o.msgs.filter (fun m => m.msg == 1) ++ msg :: o.msgs.filter (fun m => m.msg != 1) })).updTim (fun t =>
      { t with ports := Tbl.upd {} t.ports p (fun b => { b with txSeq := b.txSeq + 1, sent := ((b.txSeq, tx) :: b.sent).take 8 }) })

/-- The transmit timestamp of a port's beacon: the measured one, or, where none is given, the instant of sending. -/
def State.stampOf (s : State) (tx : List (Nat × Nat)) (p : Nat) : Nat :=
  match tx.find? (fun x => x.1 == p) with
  | some x => x.2
  | none => s.now16

/-- BEACON_SEND (R38 to R40) at the next multiple of 2,048 ns, one beacon on every port whose link carries them; `tx` gives the measured
transmit timestamps. -/
def execBeaconSend (tx : List (Nat × Nat)) (s : State) : Host.Outcome State Fault Refusal :=
  let s := s.alignedBeat beatBeacon (2048 * ns)
  .next (forEach s (List.range 6) (fun u p => u.sendBeacon p (s.stampOf tx p)))

/-- The advertisement in a beacon. -/
def advertOf (b : List Byte) : Advert :=
  let v := BitVec.ofNat 64 (leAt b 0 2)
  { good := bit v 11, holdover := bit v 10, tai := bit v 9, root := bit v 8, rootId := BitVec.ofNat 64 (leAt b 4 8),
    prio := BitVec.ofNat 8 (leAt b 12 1), depth := leAt b 13 1, announce := BitVec.ofNat 16 (leAt b 14 2), residual := signed (leAt b 38 4) 32 }

/-- The beacons that a port sent within the last 8 periods (R41). -/
def State.sentLately (s : State) (p : Nat) : List (BitVec 16 × Nat) :=
  (s.bcn p).sent.filter (fun x => decide (s.now16 ≤ x.2 + 8 * 2048 * 65536))

/-- The exchange that a beacon completes (R42): t1 and t2 from its echo, t3 from PREV_TX and t4 from the beacon before it. Twice φ and twice
d, in units of 2^-16 ns ÷ 125. -/
def exchangeOf (b : BeaconPort) (bytes : List Byte) (asym : Int) : Option (Int × Int) :=
  let seq := BitVec.ofNat 16 (leAt bytes 2 2)
  match b.sent.find? (fun x => x.1.toNat == leAt bytes 26 2), b.lastOk with
  | some (_, t1), some (m, t4) =>
    if m + 1 = seq then
      let out : Int := (stampAt bytes 28 : Int) - t1
      let back : Int := (t4 : Int) - stampAt bytes 16
      some (125 * (out - back) - 8192 * asym, 125 * (out + back))
    else none
  | _, _ => none

/-- The declared asymmetry of a port in ps (R44). -/
def State.asymOf (s : State) (p : Nat) : Int := signed (field (Tbl.get 0 s.tim.asym p) 0 16) 16

/-- BEACON_RECEIVE (R41, R42, R45 to R47): `rx` is the receive timestamp. A beacon whose echo names none sent in the last eight periods gives no
sample and no advertisement, and is still echoed, or no link could begin (log 16). -/
def execBeaconReceive (port : Nat) (bytes : List Byte) (rx : Nat) (s : State) : Host.Outcome State Fault Refusal :=
  if 6 ≤ port then .next s
  else if !s.beacons port then .next s
  else
    let old := s.tim
    let discard := fun (s : State) => s.updTim (fun t => { t with cnt := satInc t.cnt 32 16 1 })
    let b := s.bcn port
    let seq := BitVec.ofNat 16 (leAt bytes 2 2)
    if bytes.length ≠ 48 || crc32 (bytes.take 44) ≠ BitVec.ofNat 32 (leAt bytes 44 4) || leAt bytes 0 2 / 4096 ≠ 1 then .next (discard s)
    else
      let noted := fun (s : State) => s.updTim (fun t => { t with ports := Tbl.upd {} t.ports port (fun b => { b with lastRx := some (seq, rx) }) })
      if !((s.sentLately port).any (fun x => x.1.toNat == leAt bytes 26 2)) then .next (noted (discard s))
      else
        let ex := (exchangeOf b bytes (s.asymOf port)).toList
        let a := advertOf bytes
        let s := noted s
        let s := s.updTim (fun t =>
          { t with ports := Tbl.upd {} t.ports port (fun b => { b with lastOk := some (seq, rx), exch := b.exch ++ ex, adv := some (a, s.now16) }),
                   dead := t.dead.filter (fun d => !(d.1 == a.rootId && laterCount a.announce d.2)),
                   parentSeen := if t.parent = port then t.now.toNat else t.parentSeen })
        let s := s.electRoot
        let s := if !s.tim.isRoot && s.tim.rootId = a.rootId && laterCount a.announce s.tim.announce then
            s.updTim (fun t => { t with announce := a.announce, announceAt := t.now.toNat })
          else s
        .next (s.timeEvent old)

/-! ### Windows (R43, R52 to R60) -/

/-- The means of a port over the window that ends: fewer than 8 exchanges give no result (R43). A port in MEASURE counts its valid
windows (R295). -/
def State.windowPort (s : State) (p : Nat) : State :=
  let b := s.bcn p
  let n := b.exch.length
  if n < 8 then s.updTim (fun t => { t with ports := Tbl.upd {} t.ports p (fun b => { b with exch := [], phi := none }) })
  else
    let phi := divRound ((b.exch.map (·.1)).sum * 720720) n
    let d := divRound ((b.exch.map (·.2)).sum * 720720) n
    let half := s.asymOf p * 8192 * 720720
    State.updTim (s.updPort p (fun o => { o with windows := if o.st = 5 then o.windows + 1 else o.windows })) (fun t =>
      { t with ports := Tbl.upd {} t.ports p (fun b => { b with exch := [], phi := some phi }),
               delay := Tbl.set t.delay p (orAll [atInt (divRound (d + half) 180180000) 0 32, atInt (divRound (d - half) 180180000) 32 32]),
               nbr := Tbl.set t.nbr p (atInt (divRound phi 180180000) 0 32) })

/-- Steering at the end of a window (R52, R60, R65). A root follows its PTP estimate, each in one window (DESIGN CHOICE, log 77), and is
itself at offset 0 to the root; any other module follows its parent. -/
def State.windowSteer (s : State) : State :=
  if s.manual then s
  else if s.tim.isRoot then
    match s.tim.ptpOfs with
    | some o => if s.tim.good && field s.tim.ctl 2 2 ≠ 0 then s.updTim (fun t => { t.steer (o * 180180000) with ptpOfs := none, theta := 0 }) else s
    | none => s
  else if 6 ≤ s.tim.parent then s.windowMissed
  else
    match (s.bcn s.tim.parent).phi, (s.bcn s.tim.parent).adv with
    | some phi, some (a, _) => s.windowFollow a.residual phi
    | _, _ => s.windowMissed

/-- TIME_WINDOW_END (R43, R52 to R60) at the next multiple of 32.768 µs. -/
def execTimeWindowEnd (s : State) : Host.Outcome State Fault Refusal :=
  let old := s.tim
  let s := s.alignedBeat beatWindow (32768 * ns)
  .next ((forEach s (List.range 6) State.windowPort).windowSteer.boundaryRate.timeEvent old)

/-! ### Roots, parents, holdover (R46, R50, R57) -/

/-- ANNOUNCE_INCREMENT (R46). -/
def execAnnounceIncrement (s : State) : Host.Outcome State Fault Refusal :=
  if s.tim.isRoot then .next ((s.beat beatAnnounce (1048576 * ns)).updTim (fun t => { t with announce := t.announce + 1 })) else .next s

/-- ROOT_LOSS (R45, R46, R51): 8.388608 ms without a later count; the root's advertisements are discarded and a new election runs. -/
def execRootLoss (s : State) : Host.Outcome State Fault Refusal :=
  if s.tim.isRoot || s.tim.rootId = 0 then .next s
  else
    let old := s.tim
    let s := s.advance (s.tim.announceAt + 8388608 * ns)
    let s := s.updTim (fun t => { t with dead := t.dead.filter (fun d => d.1 != t.rootId) ++ [(t.rootId, t.announce)] })
    let none_ := s.bestRoot.isNone
    let s := s.electRoot
    let s := if none_ then (s.updTim (fun t => { t with rootId := 0, curPrio := 0, depth := 255, depthLimit := false })).noParent else s
    .next (s.timeEvent old)

/-- PARENT_LOSS (R47, R50): 16.384 µs without a valid beacon from the parent. The root itself is not lost by this (R46). -/
def execParentLoss (s : State) : Host.Outcome State Fault Refusal :=
  if 6 ≤ s.tim.parent then .next s
  else
    let old := s.tim
    let s := s.advance (s.tim.parentSeen + 16384 * ns)
    let s := s.updTim (fun t => { t with ports := Tbl.upd {} t.ports t.parent (fun b => { b with adv := none }) })
    let none_ := s.bestRoot.isNone
    let s := s.electRoot
    .next ((if none_ then s.noParent else s).timeEvent old)

/-- HOLDOVER_EXPIRY (R57): 4.194304 ms in holdover end time-good with 0x4004. -/
def execHoldoverExpiry (s : State) : Host.Outcome State Fault Refusal :=
  if s.tim.holdover && s.tim.good then
    let old := s.tim
    .next (((s.advance (s.tim.holdSince + 4194304 * ns)).leaveGood (some 0x4004)).timeEvent old)
  else .next s

/-! ### The follower and 1PPS (R37, R65, R66, R502, R503) -/

/-- FOLLOWER_STEER (R37): `err` is the error left, in units of 2^-16 ns. Without UCIe module 0 the follower runs in holdover. -/
def execFollowerSteer (err : Int) (s : State) : Host.Outcome State Fault Refusal :=
  if !s.ucie.up0 then .next s
  else
    let old := s.tim
    .next (((s.beat beatFollower (1024000 * ns)).updTim (fun t => { t with folErr := err, followerOk := decide (err.natAbs ≤ 65536) })).timeEvent old)

/-- One second, in units of 2^-48 ns. -/
def second : Nat := 1000000000 * ns

/-- The level of 1PPS out: high for 1 µs after it rose (R66), and held low while FOLLOWER_OK is clear (R502). -/
def State.ppsOut (s : State) : Bool :=
  match s.pins.ppsRise with
  | some t => s.tim.followerOk && decide (t ≤ s.tim.now.toNat) && decide (s.tim.now.toNat < t + 1000 * ns)
  | none => false

/-- PPS_OUT_EDGE (R66, R502) at the next integer second: the output goes high for 1 µs when its conditions hold, and is held low otherwise. -/
def execPpsOutEdge (s : State) : Host.Outcome State Fault Refusal :=
  let s := s.alignedBeat beatPulse second
  let on := bit s.tim.ctl 4 && s.tim.good && s.tim.followerOk
  .next { s with pins := { s.pins with ppsRise := if on then some s.tim.now.toNat else none } }

/-- The follower counter in units of 2^-32 ns (R37, R64). -/
def State.follower32 (s : State) : Nat := ((s.tim.now.toNat / 2 ^ 16 : Nat) + s.tim.folErr * 65536).toNat
/-- The follower counter in units of 2^-16 ns (R37). -/
def State.follower (s : State) : Nat := ((s.now16 : Int) + s.tim.folErr).toNat

/-- An offset estimate of firmware at the root in PTP mode (R65), local − TAI: the first writes the increment to TAI and qualifies the root;
later ones go to steering, and one above 1 µs raises 0x4003. -/
def State.ptpEstimate (s : State) (o : Int) : State :=
  if !s.tim.isRoot || field s.tim.ctl 2 2 = 0 || s.manual then s
  else if s.tim.good then
    if 65536 * 1000 < o.natAbs then s.raise 0x4003 srcToll 0 else s.updTim (fun t => { t with ptpOfs := some o, ptpLock := true, tai := true })
  else if s.busy then s
  else (s.addIncrement (-o)).updTim (fun t => { t with ptpLock := true, tai := true, good := true, holdover := false, acq := .settled, theta := 0 })

/-- PPS_IN_EDGE (R65, R66, R503): `quarterNs` is the edge on the follower counter in units of 0.25 ns. -/
def execPpsInEdge (quarterNs : Nat) (s : State) : Host.Outcome State Fault Refusal :=
  let old := s.tim
  let t := quarterNs * 16384
  let early := match s.tim.ppsIn with
    | some u => decide (t < u + second16 / 2)
    | none => false
  if early then .next (s.raise 0x4003 srcToll 0)
  else
    let s := s.updTim (fun x => { x with ppsIn := some t, ppsPhase := subSecond t })
    .next ((if field s.tim.ctl 2 2 = 2 && s.tim.ptpLock then s.ptpEstimate s.tim.ppsPhase else s).timeEvent old)

/-- PPS_IN_TIMEOUT (R503): 2.5 s without an edge at a root with ROOT_SRC = 2. PTP_LOCK ends, and TAI stays until the next election (DESIGN
CHOICE, log 73). -/
def execPpsInTimeout (s : State) : Host.Outcome State Fault Refusal :=
  if s.tim.isRoot && field s.tim.ctl 2 2 = 2 then
    let old := s.tim
    let s := match s.tim.ppsIn with
      | some u => s.advance (u * 2 ^ 32 + 2500000000 * ns)
      | none => s
    .next ((s.updTim (fun t => { t with ptpLock := false, ppsIn := none })).timeEvent old)
  else .next s

/-! ### Management Ethernet (R61 to R65) -/

/-- Where the payload of an Ethernet frame starts, and its type; one VLAN tag is passed over. -/
def etherType (f : List Byte) : Nat × Nat :=
  let t := beNat (slice f 12 2)
  if t = 0x8100 then (18, beNat (slice f 16 2)) else (14, t)

/-- Where the UDP header of a frame starts, and whether it is IPv6. -/
def udpAt (f : List Byte) : Option (Nat × Bool) :=
  let e := etherType f
  if e.2 = 0x0800 && leAt f (e.1 + 9) 1 = 17 then some (e.1 + leAt f e.1 1 % 16 * 4, false)
  else if e.2 = 0x86DD && leAt f (e.1 + 6) 1 = 17 then some (e.1 + 40, true)
  else none

/-- Where a PTP message starts in a frame: IEEE 802.3 or UDP ports 319 and 320 (R61). -/
def ptpAt (f : List Byte) : Option Nat :=
  let e := etherType f
  let o := if e.2 = 0x88F7 then some e.1 else
    match udpAt f with
    | some (u, _) => if beNat (slice f (u + 2) 2) = 319 || beNat (slice f (u + 2) 2) = 320 then some (u + 8) else none
    | none => none
  o.filter (fun o => decide (o + 34 ≤ f.length))

/-- Bytes of a frame replaced. -/
def patch (f : List Byte) (o : Nat) (b : List Byte) : List Byte := f.take o ++ b ++ f.drop (o + b.length)

/-- The sum of the 16-bit words from `o` on, as the checksum of UDP forms it. -/
def sum16 (f : List Byte) (o : Nat) : Nat := ((List.range ((f.length - o + 1) / 2)).map (fun i => beNat (padTo (slice f (o + 2 * i) 2) 2))).sum

/-- What one-step insertion writes, with the transmit timestamp `ts` (R63); `rx` is when the request came. Both are in units of 2^-16 ns, as
correctionField is. -/
def insertStep (f : List Byte) (one : OneStep) (ts : Nat) : List Byte :=
  match one with
  | .none => f
  | .sync o => patch f o (beBytes (ts / 65536 / 1000000000) 6 ++ beBytes (ts / 65536 % 1000000000) 4)
  | .pdelayResp o rx => patch f o (beBytes ((beNat (slice f o 8) + ((ts : Int) - rx)) % 2 ^ 64).toNat 8)

/-- The checksum of UDP after the insertion (R63): zero over IPv4; over IPv6 the last two bytes of the payload make up for it. -/
def fixChecksum (old new : List Byte) : List Byte :=
  match udpAt new with
  | none => new
  | some (u, false) => patch new (u + 6) [0, 0]
  | some (u, true) =>
    let n := new.length - 2
    let last := beNat (slice new n 2)
    patch new n (beBytes ((last + sum16 old u % 0xFFFF + 0xFFFF - sum16 new u % 0xFFFF) % 0xFFFF) 2)

/-- ERR_KIND (R64). -/
def ethKind : EthErr → Nat
  | .none => 0
  | .fcs => 1
  | .length => 2
  | .fec => 3
  | .underrun => 4

/-- A descriptor write-back (R64), with a timestamp in units of 2^-32 ns. LEN counts the frame without its FCS (DESIGN CHOICE, log 105). -/
def State.writeBack (s : State) (frame : List Byte) (tag : BitVec 16) (oneStep : Bool) (err : EthErr) (ts : Nat) : List Byte :=
  let t := s.tim
  let w0 := orAll [at_ frame.length 0 16, flag true 16, flag true 17, flag true 18, flag oneStep 19, flag (err ≠ .none) 20, at_ (ethKind err) 21 3,
    at_ tag.toNat 32 16]
  let st := orAll [at_ (ts % 2 ^ 32) 0 32, flag t.good 32, flag (t.holdover || !s.ucie.up0) 33, flag t.tai 34, flag t.followerOk 35]
  let ptp := match ptpAt frame with
    | some o => orAll [at_ (beNat (slice frame (o + 30) 2)) 0 16, at_ (leAt frame o 1 % 16) 16 4, at_ (leAt frame (o + 4) 1) 20 8, flag true 28]
    | none => 0
  leBytes w0.toNat 8 ++ leBytes (ts / 2 ^ 32) 8 ++ leBytes st.toNat 8 ++ leBytes ptp.toNat 8

/-- ETH_FRAME_TRANSMIT (R62 to R64). The frame is given without its FCS, which the MAC computes. -/
def execEthFrameTransmit (frame : List Byte) (tag : BitVec 16) (one : OneStep) (err : EthErr) (s : State) : Host.Outcome State Fault Refusal :=
  let ts := s.follower
  let f := if one = .none then frame else fixChecksum frame (insertStep frame one ts)
  .next { s with eth := { s.eth with out := s.eth.out ++ [f ++ leBytes (crc32 f).toNat 4],
                                     txWb := s.eth.txWb ++ [s.writeBack f tag (one ≠ .none) err s.follower32] } }

/-- Is a frame a PTP message that the module's clock takes (R61): a good frame, version 2, domain 0 to 127, a message of the two profiles with
an interval within the table's (or the unicast value 0x7F), and neither signalling nor management (log 9)? -/
def ptpTakes (f : List Byte) (err : EthErr) : Bool :=
  match ptpAt f with
  | none => false
  | some o =>
    let ty := leAt f o 1 % 16
    let iv := signed (leAt f (o + 33) 1) 8
    let range := fun (lo hi : Int) => iv == 0x7F || decide (lo ≤ iv) && decide (iv ≤ hi)
    err == .none && leAt f (o + 1) 1 % 16 == 2 && decide (leAt f (o + 4) 1 < 128) &&
      (match ty with
       | 0 => range (-7) 1
       | 8 => range (-7) 1
       | 9 => range (-7) 5
       | 11 => range (-3) 4
       | t => t == 1 || t == 2 || t == 3 || t == 10)

/-- The estimate with both latencies of TIM_ETH_LAT applied (R62): the receive timestamp lessened by the one and the transmit timestamp
raised by the other, which half the difference of the two directions carries into the offset. -/
def State.referred (s : State) (o : Int) : Int := o + divRound (((field s.tim.ethLat 0 16 : Nat) - (field s.tim.ethLat 16 16 : Nat) : Int) * 65536) 20

/-- ETH_FRAME_RECEIVE (R61, R62, R64, R65): `ptpOffset` is the offset that the timestamps at the MAC/PHY boundary give, in units of 2^-16 ns.
With 1PPS, PTP gives the time of day and the input the phase (R66). -/
def execEthFrameReceive (frame : List Byte) (tag : BitVec 16) (err : EthErr) (ptpOffset : Option Int) (s : State) :
    Host.Outcome State Fault Refusal :=
  let old := s.tim
  let s := { s with eth := { s.eth with rxWb := s.eth.rxWb ++ [s.writeBack frame tag false err s.follower32] } }
  match (if ptpTakes frame err then ptpOffset else none).map s.referred with
  | none => .next s
  | some o =>
    if field s.tim.ctl 2 2 = 2 then
      if s.tim.ppsIn.isNone then .next s
      else
        let ph := s.tim.ppsPhase
        .next ((s.ptpEstimate (ph + divRound (o - ph) second16 * second16)).timeEvent old)
    else .next ((s.ptpEstimate o).timeEvent old)

/-- The row of R62 for a FEC mode, as TIM_ETH_LAT holds it. -/
def latRow : FecMode → Reg
  | .none => orAll [at_ 256 0 16, at_ 320 16 16]
  | .clause74 => orAll [at_ 320 0 16, at_ 704 16 16]
  | .clause108 => orAll [at_ 448 0 16, at_ 1280 16 16]

/-- MGMT_LANE_TRAIN (R62, R458). -/
def execMgmtLaneTrain (fec : FecMode) (s : State) : Host.Outcome State Fault Refusal :=
  let s := { s with eth := { s.eth with fec := some fec } }
  .next (if bit s.tim.ctl 5 then s else (s.updTim (fun t => { t with ethLat := latRow fec })).stale)

end Sys2Proof.Machine
end

