-- ==== Sys2Proof/Machine/UnitWords.lean ====
section
/-! DEFINITION. The meanings of the words of the matrix engine, the data mover, the vector unit and the cluster sequencer whose work is
all in the pipeline (07, 08): each issues under R161 and R166, and its accesses and results fall in the cycles of the timing tables. -/

namespace Sys2Proof.Machine

/-- ME_WIN (R190, R196). -/
def execMeWin (cl : Nat) (w : Wd) (b : Bool) (wcode : BitVec 6) (ta tw : Int) (s : State) :
    Host.Outcome State Fault Refusal := issueWord (.meWin cl w b wcode ta tw) s

/-- ME_CLEAR (R190, R197). -/
def execMeClear (cl : Nat) (w : Wd) (b : Bool) (s : State) :
    Host.Outcome State Fault Refusal := issueWord (.meClear cl w b) s

/-- ME_LOADW (R193). -/
def execMeLoadw (cl : Nat) (w : Wd) (t : Bool) (wfmt : Fmt) (tline : Nat) (s : State) :
    Host.Outcome State Fault Refusal := issueWord (.meLoadw cl w t wfmt tline) s

/-- ME_MAC (R194). -/
def execMeMac (cl : Nat) (w : Wd) (b t : Bool) (afmt wfmt : Fmt) (aline m row : Nat) (s : State) :
    Host.Outcome State Fault Refusal := issueWord (.meMac cl w b t afmt wfmt aline m row) s

/-- ME_MACS (R194). -/
def execMeMacs (cl : Nat) (w : Wd) (b t : Bool) (afmt wfmt : Fmt) (aline m row : Nat) (s : State) :
    Host.Outcome State Fault Refusal := issueWord (.meMacs cl w b t afmt wfmt aline m row) s

/-- ME_MACV (R195). -/
def execMeMacv (cl : Nat) (w : Wd) (b : Bool) (fmt : Fmt) (wgrp agrp ic g row : Nat) (s : State) :
    Host.Outcome State Fault Refusal := issueWord (.meMacv cl w b fmt wgrp agrp ic g row) s

/-- ME_ADDX (R198, R135). -/
def execMeAddx (cl : Nat) (w : Wd) (b : Bool) (wcode : BitVec 6) (sline r row : Nat) (s : State) :
    Host.Outcome State Fault Refusal := issueWord (.meAddx cl w b wcode sline r row) s

/-- ME_ROUND (R199). -/
def execMeRound (cl : Nat) (w : Wd) (b : Bool) (ofmt : Fmt) (tOut : Int) (dline r row : Nat) (s : State) :
    Host.Outcome State Fault Refusal := issueWord (.meRound cl w b ofmt tOut dline r row) s

/-- ME_DRAIN (R200). -/
def execMeDrain (cl : Nat) (w : Wd) (b : Bool) (dline r row : Nat) (s : State) :
    Host.Outcome State Fault Refusal := issueWord (.meDrain cl w b dline r row) s

/-- MV_COPY (R202, R114). -/
def execMvCopy (cl : Nat) (w : Wd) (sline dline dpos n : Nat) (s : State) :
    Host.Outcome State Fault Refusal := issueWord (.mvCopy cl w sline dline dpos n) s

/-- MV_SEND (R202, R203). -/
def execMvSend (cl : Nat) (w : Wd) (sline dspan q entry n : Nat) (s : State) :
    Host.Outcome State Fault Refusal := issueWord (.mvSend cl w sline dspan q entry n) s

/-- MV_RECV (R202, R205, R206). -/
def execMvRecv (cl : Nat) (w : Wd) (q entry : Nat) (dst : RecvDst) (n : Nat) (s : State) :
    Host.Outcome State Fault Refusal := issueWord (.mvRecv cl w q entry dst n) s

/-- MV_HBM (R202, R204). -/
def execMvHbm (cl : Nat) (w : Wd) (sline stack q entry n tagb : Nat) (s : State) :
    Host.Outcome State Fault Refusal := issueWord (.mvHbm cl w sline stack q entry n tagb) s

/-- MV_STAGE (R202, R204). -/
def execMvStage (cl : Nat) (w : Wd) (sline q entry n desc : Nat) (s : State) :
    Host.Outcome State Fault Refusal := issueWord (.mvStage cl w sline q entry n desc) s

/-- MV_FILL (R202). -/
def execMvFill (cl : Nat) (w : Wd) (dline n : Nat) (pat : BitVec 16) (s : State) :
    Host.Outcome State Fault Refusal := issueWord (.mvFill cl w dline n pat) s

/-- SQ_FLAG (R211). -/
def execSqFlag (cl delta : Nat) (act : FlagAct) (s : State) :
    Host.Outcome State Fault Refusal := issueWord (.sqFlag cl delta act) s

/-- SQ_AGREE (R212). -/
def execSqAgree (cl delta port q entry bp : Nat) (vs : Bool) (val : BitVec 2) (p1 p0 : Nat) (s : State) :
    Host.Outcome State Fault Refusal := issueWord (.sqAgree cl delta port q entry bp vs val p1 p0) s

/-- SQ_DIGEST (R213). -/
def execSqDigest (cl delta line n : Nat) (s : State) :
    Host.Outcome State Fault Refusal := issueWord (.sqDigest cl delta line n) s

/-- VU_LD (R227, R229). -/
def execVuLd (cl : Nat) (w : Wd) (vd : Nat) (src : LdSrc) (nl : Nat) (tag : Option (BitVec 6)) (s : State) :
    Host.Outcome State Fault Refusal := issueWord (.vuLd cl w vd src nl tag) s

/-- VU_ST (R228). -/
def execVuSt (cl : Nat) (w : Wd) (va line nl : Nat) (s : State) :
    Host.Outcome State Fault Refusal := issueWord (.vuSt cl w va line nl) s

/-- VU_ADD (R231). -/
def execVuAdd (cl : Nat) (w : Wd) (ty : FTy) (vd va vb : Nat) (s : State) :
    Host.Outcome State Fault Refusal := issueWord (.vuAdd cl w ty vd va vb) s

/-- VU_SUB (R231). -/
def execVuSub (cl : Nat) (w : Wd) (ty : FTy) (vd va vb : Nat) (s : State) :
    Host.Outcome State Fault Refusal := issueWord (.vuSub cl w ty vd va vb) s

/-- VU_MUL (R231). -/
def execVuMul (cl : Nat) (w : Wd) (ty : FTy) (vd va vb : Nat) (s : State) :
    Host.Outcome State Fault Refusal := issueWord (.vuMul cl w ty vd va vb) s

/-- VU_FMA (R231). -/
def execVuFma (cl : Nat) (w : Wd) (ty : FTy) (vd va vb vc : Nat) (s : State) :
    Host.Outcome State Fault Refusal := issueWord (.vuFma cl w ty vd va vb vc) s

/-- VU_MIN (R231, R141). -/
def execVuMin (cl : Nat) (w : Wd) (ty : VTy) (vd va vb : Nat) (s : State) :
    Host.Outcome State Fault Refusal := issueWord (.vuMin cl w ty vd va vb) s

/-- VU_MAX (R231, R141). -/
def execVuMax (cl : Nat) (w : Wd) (ty : VTy) (vd va vb : Nat) (s : State) :
    Host.Outcome State Fault Refusal := issueWord (.vuMax cl w ty vd va vb) s

/-- VU_CMP (R232). -/
def execVuCmp (cl : Nat) (w : Wd) (ty : VTy) (cond : Cond) (vd va vb : Nat) (s : State) :
    Host.Outcome State Fault Refusal := issueWord (.vuCmp cl w ty cond vd va vb) s

/-- VU_SEL (R233). -/
def execVuSel (cl : Nat) (w : Wd) (vd va vb vc : Nat) (s : State) :
    Host.Outcome State Fault Refusal := issueWord (.vuSel cl w vd va vb vc) s

/-- VU_IADD (R234). -/
def execVuIadd (cl : Nat) (w : Wd) (vd va : Nat) (b : Opnd) (li neg : Bool) (s : State) :
    Host.Outcome State Fault Refusal := issueWord (.vuIadd cl w vd va b li neg) s

/-- VU_AND (R234). -/
def execVuAnd (cl : Nat) (w : Wd) (vd va : Nat) (b : Opnd) (s : State) :
    Host.Outcome State Fault Refusal := issueWord (.vuAnd cl w vd va b) s

/-- VU_OR (R234). -/
def execVuOr (cl : Nat) (w : Wd) (vd va : Nat) (b : Opnd) (s : State) :
    Host.Outcome State Fault Refusal := issueWord (.vuOr cl w vd va b) s

/-- VU_XOR (R234). -/
def execVuXor (cl : Nat) (w : Wd) (vd va : Nat) (b : Opnd) (s : State) :
    Host.Outcome State Fault Refusal := issueWord (.vuXor cl w vd va b) s

/-- VU_SHL (R234). -/
def execVuShl (cl : Nat) (w : Wd) (vd va : Nat) (b : ShOp) (s : State) :
    Host.Outcome State Fault Refusal := issueWord (.vuShl cl w vd va b) s

/-- VU_SHR (R234). -/
def execVuShr (cl : Nat) (w : Wd) (vd va : Nat) (b : ShOp) (arith : Bool) (s : State) :
    Host.Outcome State Fault Refusal := issueWord (.vuShr cl w vd va b arith) s

/-- VU_CVT (R236, R237). -/
def execVuCvt (cl : Nat) (w : Wd) (vd va vb mode : Nat) (h : Bool) (t : Int) (pos : Nat) (s : State) :
    Host.Outcome State Fault Refusal := issueWord (.vuCvt cl w vd va vb mode h t pos) s

/-- VU_QMX (R239). -/
def execVuQmx (cl : Nat) (w : Wd) (vd va ve : Nat) (fmt : Fmt) (sb : Nat) (s : State) :
    Host.Outcome State Fault Refusal := issueWord (.vuQmx cl w vd va ve fmt sb) s

/-- VU_EXP2 (R238, R147). -/
def execVuExp2 (cl : Nat) (w : Wd) (ty : FTy) (vd va : Nat) (s : State) :
    Host.Outcome State Fault Refusal := issueWord (.vuExp2 cl w ty vd va) s

/-- VU_LOG2 (R238, R148). -/
def execVuLog2 (cl : Nat) (w : Wd) (ty : FTy) (vd va : Nat) (s : State) :
    Host.Outcome State Fault Refusal := issueWord (.vuLog2 cl w ty vd va) s

/-- VU_RCP (R238, R149). -/
def execVuRcp (cl : Nat) (w : Wd) (ty : FTy) (vd va : Nat) (s : State) :
    Host.Outcome State Fault Refusal := issueWord (.vuRcp cl w ty vd va) s

/-- VU_RSQ (R238, R150). -/
def execVuRsq (cl : Nat) (w : Wd) (ty : FTy) (vd va : Nat) (s : State) :
    Host.Outcome State Fault Refusal := issueWord (.vuRsq cl w ty vd va) s

/-- VU_TANH (R238, R151). -/
def execVuTanh (cl : Nat) (w : Wd) (ty : FTy) (vd va : Nat) (s : State) :
    Host.Outcome State Fault Refusal := issueWord (.vuTanh cl w ty vd va) s

/-- VU_SIN (R238, R152). -/
def execVuSin (cl : Nat) (w : Wd) (ty : FTy) (vd va : Nat) (s : State) :
    Host.Outcome State Fault Refusal := issueWord (.vuSin cl w ty vd va) s

/-- VU_COS (R238, R152). -/
def execVuCos (cl : Nat) (w : Wd) (ty : FTy) (vd va : Nat) (s : State) :
    Host.Outcome State Fault Refusal := issueWord (.vuCos cl w ty vd va) s

/-- VU_XSUM (R240). -/
def execVuXsum (cl : Nat) (w : Wd) (ty : VTy) (vd va seg : Nat) (wcode : BitVec 6) (acc : Bool) (s : State) :
    Host.Outcome State Fault Refusal := issueWord (.vuXsum cl w ty vd va seg wcode acc) s

/-- VU_TOPK (R242). -/
def execVuTopk (cl : Nat) (w : Wd) (s32 : Bool) (vd va vb : Nat) (two : Bool) (k : Nat) (s : State) :
    Host.Outcome State Fault Refusal := issueWord (.vuTopk cl w s32 vd va vb two k) s

/-- VU_RNG (R243, R145). -/
def execVuRng (cl : Nat) (w : Wd) (vd va : Nat) (uni : Bool) (ofs : Nat) (s : State) :
    Host.Outcome State Fault Refusal := issueWord (.vuRng cl w vd va uni ofs) s

/-- VU_PERM (R235). -/
def execVuPerm (cl : Nat) (w : Wd) (vd va vb vc : Nat) (s : State) :
    Host.Outcome State Fault Refusal := issueWord (.vuPerm cl w vd va vb vc) s

end Sys2Proof.Machine
end

