-- ==== Sys2Proof/Machine/Dispatch.lean ====
section
/-! DEFINITION. Which meaning each command has: one arm per constructor of `Instr`. -/

namespace Sys2Proof.Machine

def exec (i : Instr) (s : State) : Host.Outcome State Fault Refusal :=
  match i with
  | .meWin cl w b wcode ta tw => Sys2Proof.Machine.execMeWin cl w b wcode ta tw s
  | .meClear cl w b => Sys2Proof.Machine.execMeClear cl w b s
  | .meLoadw cl w t wfmt tline => Sys2Proof.Machine.execMeLoadw cl w t wfmt tline s
  | .meMac cl w b t afmt wfmt aline m row => Sys2Proof.Machine.execMeMac cl w b t afmt wfmt aline m row s
  | .meMacs cl w b t afmt wfmt aline m row => Sys2Proof.Machine.execMeMacs cl w b t afmt wfmt aline m row s
  | .meMacv cl w b fmt wgrp agrp ic g row => Sys2Proof.Machine.execMeMacv cl w b fmt wgrp agrp ic g row s
  | .meAddx cl w b wcode sline r row => Sys2Proof.Machine.execMeAddx cl w b wcode sline r row s
  | .meRound cl w b ofmt tOut dline r row => Sys2Proof.Machine.execMeRound cl w b ofmt tOut dline r row s
  | .meDrain cl w b dline r row => Sys2Proof.Machine.execMeDrain cl w b dline r row s
  | .mvCopy cl w sline dline dpos n => Sys2Proof.Machine.execMvCopy cl w sline dline dpos n s
  | .mvSend cl w sline dspan q entry n => Sys2Proof.Machine.execMvSend cl w sline dspan q entry n s
  | .mvRecv cl w q entry dst n => Sys2Proof.Machine.execMvRecv cl w q entry dst n s
  | .mvHbm cl w sline stack q entry n tagb => Sys2Proof.Machine.execMvHbm cl w sline stack q entry n tagb s
  | .mvStage cl w sline q entry n desc => Sys2Proof.Machine.execMvStage cl w sline q entry n desc s
  | .mvFill cl w dline n pat => Sys2Proof.Machine.execMvFill cl w dline n pat s
  | .sqWait cl delta q => Sys2Proof.Machine.execSqWait cl delta q s
  | .sqBr cl delta sel n l0 l1 => Sys2Proof.Machine.execSqBr cl delta sel n l0 l1 s
  | .sqFlag cl delta act => Sys2Proof.Machine.execSqFlag cl delta act s
  | .sqAgree cl delta port q entry bp vs val p1 p0 => Sys2Proof.Machine.execSqAgree cl delta port q entry bp vs val p1 p0 s
  | .sqDigest cl delta line n => Sys2Proof.Machine.execSqDigest cl delta line n s
  | .sqEnd cl delta => Sys2Proof.Machine.execSqEnd cl delta s
  | .ptPage lport delta page => Sys2Proof.Machine.execPtPage lport delta page s
  | .ptPad lport pad => Sys2Proof.Machine.execPtPad lport pad s
  | .phaseMark st advance bp => Sys2Proof.Machine.execPhaseMark st advance bp s
  | .idleWord st delta => Sys2Proof.Machine.execIdleWord st delta s
  | .vuLd cl w vd src nl tag => Sys2Proof.Machine.execVuLd cl w vd src nl tag s
  | .vuSt cl w va line nl => Sys2Proof.Machine.execVuSt cl w va line nl s
  | .vuAdd cl w ty vd va vb => Sys2Proof.Machine.execVuAdd cl w ty vd va vb s
  | .vuSub cl w ty vd va vb => Sys2Proof.Machine.execVuSub cl w ty vd va vb s
  | .vuMul cl w ty vd va vb => Sys2Proof.Machine.execVuMul cl w ty vd va vb s
  | .vuFma cl w ty vd va vb vc => Sys2Proof.Machine.execVuFma cl w ty vd va vb vc s
  | .vuMin cl w ty vd va vb => Sys2Proof.Machine.execVuMin cl w ty vd va vb s
  | .vuMax cl w ty vd va vb => Sys2Proof.Machine.execVuMax cl w ty vd va vb s
  | .vuCmp cl w ty cond vd va vb => Sys2Proof.Machine.execVuCmp cl w ty cond vd va vb s
  | .vuSel cl w vd va vb vc => Sys2Proof.Machine.execVuSel cl w vd va vb vc s
  | .vuIadd cl w vd va b li neg => Sys2Proof.Machine.execVuIadd cl w vd va b li neg s
  | .vuAnd cl w vd va b => Sys2Proof.Machine.execVuAnd cl w vd va b s
  | .vuOr cl w vd va b => Sys2Proof.Machine.execVuOr cl w vd va b s
  | .vuXor cl w vd va b => Sys2Proof.Machine.execVuXor cl w vd va b s
  | .vuShl cl w vd va b => Sys2Proof.Machine.execVuShl cl w vd va b s
  | .vuShr cl w vd va b arith => Sys2Proof.Machine.execVuShr cl w vd va b arith s
  | .vuCvt cl w vd va vb mode h t pos => Sys2Proof.Machine.execVuCvt cl w vd va vb mode h t pos s
  | .vuQmx cl w vd va ve fmt sb => Sys2Proof.Machine.execVuQmx cl w vd va ve fmt sb s
  | .vuExp2 cl w ty vd va => Sys2Proof.Machine.execVuExp2 cl w ty vd va s
  | .vuLog2 cl w ty vd va => Sys2Proof.Machine.execVuLog2 cl w ty vd va s
  | .vuRcp cl w ty vd va => Sys2Proof.Machine.execVuRcp cl w ty vd va s
  | .vuRsq cl w ty vd va => Sys2Proof.Machine.execVuRsq cl w ty vd va s
  | .vuTanh cl w ty vd va => Sys2Proof.Machine.execVuTanh cl w ty vd va s
  | .vuSin cl w ty vd va => Sys2Proof.Machine.execVuSin cl w ty vd va s
  | .vuCos cl w ty vd va => Sys2Proof.Machine.execVuCos cl w ty vd va s
  | .vuXsum cl w ty vd va seg wcode acc => Sys2Proof.Machine.execVuXsum cl w ty vd va seg wcode acc s
  | .vuTopk cl w s32 vd va vb two k => Sys2Proof.Machine.execVuTopk cl w s32 vd va vb two k s
  | .vuRng cl w vd va uni ofs => Sys2Proof.Machine.execVuRng cl w vd va uni ofs s
  | .vuPerm cl w vd va vb vc => Sys2Proof.Machine.execVuPerm cl w vd va vb vc s
  | .act st delta pclo pcn bank row => Sys2Proof.Machine.execAct st delta pclo pcn bank row s
  | .pre st delta pclo pcn bank all => Sys2Proof.Machine.execPre st delta pclo pcn bank all s
  | .rd st delta pclo pcn bank col dspan q entry ph => Sys2Proof.Machine.execRd st delta pclo pcn bank col dspan q entry ph s
  | .wr st delta pclo pcn bank col q entry => Sys2Proof.Machine.execWr st delta pclo pcn bank col q entry s
  | .refa st delta pclo pcn => Sys2Proof.Machine.execRefa st delta pclo pcn s
  | .refb st delta pclo pcn bank => Sys2Proof.Machine.execRefb st delta pclo pcn bank s
  | .phaseEdge upsets => Sys2Proof.Machine.execPhaseEdge upsets s
  | .planEndReached span leftPs => Sys2Proof.Machine.execPlanEndReached span leftPs s
  | .keystoneTick => Sys2Proof.Machine.execKeystoneTick s
  | .droopTrip span level2 cyc => Sys2Proof.Machine.execDroopTrip span level2 cyc s
  | .droopClear span cyc => Sys2Proof.Machine.execDroopClear span cyc s
  | .stretchHoldEnd span cyc => Sys2Proof.Machine.execStretchHoldEnd span cyc s
  | .crossingWriteLand n => Sys2Proof.Machine.execCrossingWriteLand n s
  | .beaconSend tx => Sys2Proof.Machine.execBeaconSend tx s
  | .beaconReceive port bytes rx => Sys2Proof.Machine.execBeaconReceive port bytes rx s
  | .timeWindowEnd => Sys2Proof.Machine.execTimeWindowEnd s
  | .announceIncrement => Sys2Proof.Machine.execAnnounceIncrement s
  | .rootLoss => Sys2Proof.Machine.execRootLoss s
  | .parentLoss => Sys2Proof.Machine.execParentLoss s
  | .holdoverExpiry => Sys2Proof.Machine.execHoldoverExpiry s
  | .followerSteer err => Sys2Proof.Machine.execFollowerSteer err s
  | .ppsOutEdge => Sys2Proof.Machine.execPpsOutEdge s
  | .ppsInEdge quarterNs => Sys2Proof.Machine.execPpsInEdge quarterNs s
  | .ppsInTimeout => Sys2Proof.Machine.execPpsInTimeout s
  | .ethFrameTransmit frame tag one err => Sys2Proof.Machine.execEthFrameTransmit frame tag one err s
  | .ethFrameReceive frame tag err ptpOffset => Sys2Proof.Machine.execEthFrameReceive frame tag err ptpOffset s
  | .mgmtLaneTrain fec => Sys2Proof.Machine.execMgmtLaneTrain fec s
  | .timStep v => Sys2Proof.Machine.execTimStep v s
  | .timCtlWrite v => Sys2Proof.Machine.execTimCtlWrite v s
  | .timEthLatWrite v => Sys2Proof.Machine.execTimEthLatWrite v s
  | .timClear v => Sys2Proof.Machine.execTimClear v s
  | .tikKeyArm => Sys2Proof.Machine.execTikKeyArm s
  | .tikKeyDisarm => Sys2Proof.Machine.execTikKeyDisarm s
  | .tikStepSetWrite fw v => Sys2Proof.Machine.execTikStepSetWrite fw v s
  | .tikClear v => Sys2Proof.Machine.execTikClear v s
  | .spnClear span v => Sys2Proof.Machine.execSpnClear span v s
  | .cluClear cl v => Sys2Proof.Machine.execCluClear cl v s
  | .msqClear st v => Sys2Proof.Machine.execMsqClear st v s
  | .msqScrub st v => Sys2Proof.Machine.execMsqScrub st v s
  | .msqScrubDone st => Sys2Proof.Machine.execMsqScrubDone st s
  | .cxlClear v => Sys2Proof.Machine.execCxlClear v s
  | .olfRetrainCmd p => Sys2Proof.Machine.execOlfRetrainCmd p s
  | .olfDownCmd p => Sys2Proof.Machine.execOlfDownCmd p s
  | .olfCtlWrite p v => Sys2Proof.Machine.execOlfCtlWrite p v s
  | .olfClear p v => Sys2Proof.Machine.execOlfClear p v s
  | .cwyClear p v => Sys2Proof.Machine.execCwyClear p v s
  | .svcCtlWrite v => Sys2Proof.Machine.execSvcCtlWrite v s
  | .svcClear v => Sys2Proof.Machine.execSvcClear v s
  | .plcClear v => Sys2Proof.Machine.execPlcClear v s
  | .hstCtlWrite v => Sys2Proof.Machine.execHstCtlWrite v s
  | .hstClear v => Sys2Proof.Machine.execHstClear v s
  | .fltClear v => Sys2Proof.Machine.execFltClear v s
  | .cfgPersist => Sys2Proof.Machine.execCfgPersist s
  | .cfgForget => Sys2Proof.Machine.execCfgForget s
  | .cfgCompact => Sys2Proof.Machine.execCfgCompact s
  | .cfgClear v => Sys2Proof.Machine.execCfgClear v s
  | .cfgGrpRefWrite fw g v => Sys2Proof.Machine.execCfgGrpRefWrite fw g v s
  | .cfgAszTRefWrite v => Sys2Proof.Machine.execCfgAszTRefWrite v s
  | .shadowWrite fw r v => Sys2Proof.Machine.execShadowWrite fw r v s
  | .pwrClear v => Sys2Proof.Machine.execPwrClear v s
  | .secDbgChallenge => Sys2Proof.Machine.execSecDbgChallenge s
  | .secDbgUnlock => Sys2Proof.Machine.execSecDbgUnlock s
  | .secClear v => Sys2Proof.Machine.execSecClear v s
  | .registerWrite r v => Sys2Proof.Machine.execRegisterWrite r v s
  | .diagWindowAccess write ofs size v => Sys2Proof.Machine.execDiagWindowAccess write ofs size v s
  | .transferAreaAccess write ofs len data => Sys2Proof.Machine.execTransferAreaAccess write ofs len data s
  | .controlRequestTimeout n => Sys2Proof.Machine.execControlRequestTimeout n s
  | .identify h => Sys2Proof.Machine.execIdentify h s
  | .bufReg h hbuf mask addr len => Sys2Proof.Machine.execBufReg h hbuf mask addr len s
  | .bufFree h hbuf => Sys2Proof.Machine.execBufFree h hbuf s
  | .load h hbuf ofs len res => Sys2Proof.Machine.execLoad h hbuf ofs len res s
  | .unload h => Sys2Proof.Machine.execUnload h s
  | .place h => Sys2Proof.Machine.execPlace h s
  | .switchGet h req page => Sys2Proof.Machine.execSwitchGet h req page s
  | .switchDone h req => Sys2Proof.Machine.execSwitchDone h req s
  | .arm h => Sys2Proof.Machine.execArm h s
  | .start h first => Sys2Proof.Machine.execStart h first s
  | .stop h last => Sys2Proof.Machine.execStop h last s
  | .abort h => Sys2Proof.Machine.execAbort h s
  | .release h => Sys2Proof.Machine.execRelease h s
  | .dma h hbuf toHost bufOfs loc len => Sys2Proof.Machine.execDma h hbuf toHost bufOfs loc len s
  | .regRead h r count => Sys2Proof.Machine.execRegRead h r count s
  | .regWrite h r count vals => Sys2Proof.Machine.execRegWrite h r count vals s
  | .dump h hbuf force ofs space => Sys2Proof.Machine.execDump h hbuf force ofs space s
  | .reset h => Sys2Proof.Machine.execReset h s
  | .attest h hbuf ofs nonce => Sys2Proof.Machine.execAttest h hbuf ofs nonce s
  | .fwUpdate h hbuf ofs len => Sys2Proof.Machine.execFwUpdate h hbuf ofs len s
  | .hostDmaComplete ref res => Sys2Proof.Machine.execHostDmaComplete ref res s
  | .commandRingDoorbell ring1 v => Sys2Proof.Machine.execCommandRingDoorbell ring1 v s
  | .completionDoorbell v => Sys2Proof.Machine.execCompletionDoorbell v s
  | .eventDoorbell v => Sys2Proof.Machine.execEventDoorbell v s
  | .completionWrite => Sys2Proof.Machine.execCompletionWrite s
  | .eventsLost => Sys2Proof.Machine.execEventsLost s
  | .mailboxDoorbell v => Sys2Proof.Machine.execMailboxDoorbell v s
  | .interruptCoalesceEnd vector => Sys2Proof.Machine.execInterruptCoalesceEnd vector s
  | .pcieReset kind => Sys2Proof.Machine.execPcieReset kind s
  | .frameSend p => Sys2Proof.Machine.execFrameSend p s
  | .linkWordReceive p bytes => Sys2Proof.Machine.execLinkWordReceive p bytes s
  | .cellReceive p slot bytes fecOk => Sys2Proof.Machine.execCellReceive p slot bytes fecOk s
  | .routerSlot => Sys2Proof.Machine.execRouterSlot s
  | .detectRetest p peer lanes => Sys2Proof.Machine.execDetectRetest p peer lanes s
  | .equaliseDone p => Sys2Proof.Machine.execEqualiseDone p s
  | .alignDone p lanes skewPs => Sys2Proof.Machine.execAlignDone p lanes skewPs s
  | .identReceive p bytes => Sys2Proof.Machine.execIdentReceive p bytes s
  | .measureDone p => Sys2Proof.Machine.execMeasureDone p s
  | .trainingTimeout p => Sys2Proof.Machine.execTrainingTimeout p s
  | .auditSend p => Sys2Proof.Machine.execAuditSend p s
  | .auditReceive p bytes => Sys2Proof.Machine.execAuditReceive p bytes s
  | .runchkSend => Sys2Proof.Machine.execRunchkSend s
  | .runchkReceive p bytes => Sys2Proof.Machine.execRunchkReceive p bytes s
  | .runchkMissing p => Sys2Proof.Machine.execRunchkMissing p s
  | .lockLoss p => Sys2Proof.Machine.execLockLoss p s
  | .lockLossTimeout p => Sys2Proof.Machine.execLockLossTimeout p s
  | .lockRegain p => Sys2Proof.Machine.execLockRegain p s
  | .laneLockLoss p lane => Sys2Proof.Machine.execLaneLockLoss p lane s
  | .retrainReceive p width => Sys2Proof.Machine.execRetrainReceive p width s
  | .widthReceive p width => Sys2Proof.Machine.execWidthReceive p width s
  | .downHoldExpiry p => Sys2Proof.Machine.execDownHoldExpiry p s
  | .serviceRequestSend r => Sys2Proof.Machine.execServiceRequestSend r s
  | .serviceRequestReceive p c => Sys2Proof.Machine.execServiceRequestReceive p c s
  | .serviceResponseReceive p c => Sys2Proof.Machine.execServiceResponseReceive p c s
  | .serviceCellForward p c => Sys2Proof.Machine.execServiceCellForward p c s
  | .serviceMessageReceive p c => Sys2Proof.Machine.execServiceMessageReceive p c s
  | .serviceRequestTimeout slot => Sys2Proof.Machine.execServiceRequestTimeout slot s
  | .faultRecord => Sys2Proof.Machine.execFaultRecord s
  | .foldMillisecondEnd => Sys2Proof.Machine.execFoldMillisecondEnd s
  | .stepAbort => Sys2Proof.Machine.execStepAbort s
  | .abortCellReceive p c => Sys2Proof.Machine.execAbortCellReceive p c s
  | .abortStop => Sys2Proof.Machine.execAbortStop s
  | .jobStop => Sys2Proof.Machine.execJobStop s
  | .stopRequestReceive last cause => Sys2Proof.Machine.execStopRequestReceive last cause s
  | .stopStepReceive step => Sys2Proof.Machine.execStopStepReceive step s
  | .stepDigestHandover => Sys2Proof.Machine.execStepDigestHandover s
  | .stepDonePost => Sys2Proof.Machine.execStepDonePost s
  | .claimSend => Sys2Proof.Machine.execClaimSend s
  | .claimReceive p hall depth digest8 => Sys2Proof.Machine.execClaimReceive p hall depth digest8 s
  | .electionClose => Sys2Proof.Machine.execElectionClose s
  | .healthReceive p r digest8 => Sys2Proof.Machine.execHealthReceive p r digest8 s
  | .mapCompute => Sys2Proof.Machine.execMapCompute s
  | .switchRegather => Sys2Proof.Machine.execSwitchRegather s
  | .mapReceive p m digest => Sys2Proof.Machine.execMapReceive p m digest s
  | .releaseReceive => Sys2Proof.Machine.execReleaseReceive s
  | .excludeReceive x => Sys2Proof.Machine.execExcludeReceive x s
  | .proposeReceive x epoch => Sys2Proof.Machine.execProposeReceive x epoch s
  | .readyReceive p count => Sys2Proof.Machine.execReadyReceive p count s
  | .refuseReceive p hall code => Sys2Proof.Machine.execRefuseReceive p hall code s
  | .goReceive digest8 epoch => Sys2Proof.Machine.execGoReceive digest8 epoch s
  | .cancelReceive digest8 epoch => Sys2Proof.Machine.execCancelReceive digest8 epoch s
  | .readyDeadline => Sys2Proof.Machine.execReadyDeadline s
  | .goDeadline => Sys2Proof.Machine.execGoDeadline s
  | .stepdigReceive p step digest => Sys2Proof.Machine.execStepdigReceive p step digest s
  | .confirmReceive step agree => Sys2Proof.Machine.execConfirmReceive step agree s
  | .pairTimeout step => Sys2Proof.Machine.execPairTimeout step s
  | .placeTimeout => Sys2Proof.Machine.execPlaceTimeout s
  | .stagingIssue desc => Sys2Proof.Machine.execStagingIssue desc s
  | .stagingLineArrive desc step line data => Sys2Proof.Machine.execStagingLineArrive desc step line data s
  | .stagingDeadline desc => Sys2Proof.Machine.execStagingDeadline desc s
  | .stagingDelivery desc => Sys2Proof.Machine.execStagingDelivery desc s
  | .stagingCapture desc => Sys2Proof.Machine.execStagingCapture desc s
  | .stagingExternalWrite desc step => Sys2Proof.Machine.execStagingExternalWrite desc step s
  | .stagingWriteAck desc step line => Sys2Proof.Machine.execStagingWriteAck desc step line s
  | .cxlAccessError desc step line kind => Sys2Proof.Machine.execCxlAccessError desc step line kind s
  | .cxlLinkTrain width speed devices hdm => Sys2Proof.Machine.execCxlLinkTrain width speed devices hdm s
  | .cxlHotAdd devices hdm => Sys2Proof.Machine.execCxlHotAdd devices hdm s
  | .refreshDebtIncrease st => Sys2Proof.Machine.execRefreshDebtIncrease st s
  | .forcedRefresh st pc bank => Sys2Proof.Machine.execForcedRefresh st pc bank s
  | .msqAutoRefresh st => Sys2Proof.Machine.execMsqAutoRefresh st s
  | .msqRecoveryPrecharge st => Sys2Proof.Machine.execMsqRecoveryPrecharge st s
  | .hbmTempRead st temp die => Sys2Proof.Machine.execHbmTempRead st temp die s
  | .storeScrubPass => Sys2Proof.Machine.execStoreScrubPass s
  | .assizePass => Sys2Proof.Machine.execAssizePass s
  | .journalAppend ty payload => Sys2Proof.Machine.execJournalAppend ty payload s
  | .compactionComplete => Sys2Proof.Machine.execCompactionComplete s
  | .oldBankErased => Sys2Proof.Machine.execOldBankErased s
  | .tollhousePoll => Sys2Proof.Machine.execTollhousePoll s
  | .tollhousePollTimeout => Sys2Proof.Machine.execTollhousePollTimeout s
  | .spanPoll => Sys2Proof.Machine.execSpanPoll s
  | .stopCheck => Sys2Proof.Machine.execStopCheck s
  | .ucieTrainFail m => Sys2Proof.Machine.execUcieTrainFail m s
  | .ucieDownTimeout => Sys2Proof.Machine.execUcieDownTimeout s
  | .watchdogFeed => Sys2Proof.Machine.execWatchdogFeed s
  | .watchdogExpiry => Sys2Proof.Machine.execWatchdogExpiry s
  | .autoResetTimer => Sys2Proof.Machine.execAutoResetTimer s
  | .drainEnd => Sys2Proof.Machine.execDrainEnd s
  | .resetHoldExpiry => Sys2Proof.Machine.execResetHoldExpiry s
  | .resetBegin => Sys2Proof.Machine.execResetBegin s
  | .selfRefreshTimeout st => Sys2Proof.Machine.execSelfRefreshTimeout st s
  | .tollhouseRelease => Sys2Proof.Machine.execTollhouseRelease s
  | .firmwareStart straps opens => Sys2Proof.Machine.execFirmwareStart straps opens s
  | .computeDieRelease tact => Sys2Proof.Machine.execComputeDieRelease tact s
  | .selfTestDone failed => Sys2Proof.Machine.execSelfTestDone failed s
  | .inputGood feedA feedB => Sys2Proof.Machine.execInputGood feedA feedB s
  | .railGood r => Sys2Proof.Machine.execRailGood r s
  | .railStartTimeout r => Sys2Proof.Machine.execRailStartTimeout r s
  | .undervoltage => Sys2Proof.Machine.execUndervoltage s
  | .powerDown => Sys2Proof.Machine.execPowerDown s
  | .overvoltage => Sys2Proof.Machine.execOvervoltage s
  | .overvoltageClear => Sys2Proof.Machine.execOvervoltageClear s
  | .overcurrent => Sys2Proof.Machine.execOvercurrent s
  | .railWindowFault r => Sys2Proof.Machine.execRailWindowFault r s
  | .feedReversed f otherGood => Sys2Proof.Machine.execFeedReversed f otherGood s
  | .railSettled => Sys2Proof.Machine.execRailSettled s
  | .powerPolicyEval x => Sys2Proof.Machine.execPowerPolicyEval x s
  | .thermalTrip hbm => Sys2Proof.Machine.execThermalTrip hbm s
  | .coolantFault => Sys2Proof.Machine.execCoolantFault s
  | .resetNAssert => Sys2Proof.Machine.execResetNAssert s
  | .resetNRelease => Sys2Proof.Machine.execResetNRelease s
  | .pwrEnNAssert => Sys2Proof.Machine.execPwrEnNAssert s
  | .pwrEnNRelease => Sys2Proof.Machine.execPwrEnNRelease s
  | .flashOwnRise => Sys2Proof.Machine.execFlashOwnRise s
  | .flashOwnFall => Sys2Proof.Machine.execFlashOwnFall s
  | .i3cStatus => Sys2Proof.Machine.execI3cStatus s
  | .i3cSensors => Sys2Proof.Machine.execI3cSensors s
  | .i3cIdent => Sys2Proof.Machine.execI3cIdent s
  | .i3cReset second => Sys2Proof.Machine.execI3cReset second s
  | .i3cAddressAssign addr => Sys2Proof.Machine.execI3cAddressAssign addr s
  | .debugPortAccess a => Sys2Proof.Machine.execDebugPortAccess a s
  | .ucieModuleDown m => Sys2Proof.Machine.execUcieModuleDown m s
  | .ucieModuleReturn m => Sys2Proof.Machine.execUcieModuleReturn m s
  | .feedLoss f => Sys2Proof.Machine.execFeedLoss f s
  | .feedReturn f => Sys2Proof.Machine.execFeedReturn f s
  | .cxlLinkDown => Sys2Proof.Machine.execCxlLinkDown s
  | .controlAcknowledgement n => Sys2Proof.Machine.execControlAcknowledgement n s
  | .droopLevel2Clear span cyc => Sys2Proof.Machine.execDroopLevel2Clear span cyc s
  | .coresHeldInReset => Sys2Proof.Machine.execCoresHeldInReset s

end Sys2Proof.Machine
end

