-- ==== Sys2Proof/Machine/Step.lean ====
section
/-! DEFINITION. One step of the block: the command at the front of the queue, or one oscillator cycle. -/

namespace Sys2Proof.Machine

/-- One step. On an empty queue the block idles for one cycle of the 156.25 MHz oscillator (R33; DESIGN CHOICE, log 1). -/
def step (s : State) : Host.Outcome State Fault Refusal :=
  match s.pending with
  | [] => .next (oscillatorCycle s)
  | i :: rest => exec i { s with pending := rest }

/-- The state with the command that a word spells put at the front of the queue; no row of the table gives bits, so no word
spells one. -/
def State.withFetchWord (s : State) (nbits w : Nat) : State :=
  match decodeTableWord nbits w with
  | some i => { s with pending := i :: s.pending }
  | none => s

end Sys2Proof.Machine
end

