-- ==== Sys2Proof/WellFormed.lean ====
section
/-! DEFINITION. Well-formed commands: a word passes the word checks of R179. -/

namespace Sys2Proof

/-- The word checks on a command; a command that is no word of a stream is well-formed. -/
def Instr.wf (i : Instr) : Bool := Machine.wordOk i

end Sys2Proof
end

