-- ==== Sys2Proof/Safety.lean ====
section
/-! DEFINITION. The terms in which the statements speak of the block: sound memories, units that exist, words of the pipeline. -/

namespace Sys2Proof.Machine

/-- Both memories are in canonical form. -/
def State.memOk (s : State) : Bool := memWf s.mem && memWf s.xfer

/-- A word whose work falls in later cycles of its span: every cluster unit word but SQ.WAIT, SQ.BR and SQ.END. -/
def pipelined (i : Instr) : Bool :=
  match i with
  | .sqWait .. | .sqBr .. | .sqEnd .. => false
  | i => (unitOf i).isSome

/-- The state with a write's reserved bits counted, those outside `mask` (R448). -/
def State.notedRsvd (s : State) (v mask : Reg) : State := if v &&& ~~~mask = 0 then s else s.rsvdWrite

/-- A unit of a cluster issues its next word: the cluster exists, nothing holds its span or its stream, no work of an earlier word waits,
and the window holds the line that the stream expects (R89, R163, R166). -/
def State.issues (s : State) (cl : Nat) (u : Unit4) : Bool :=
  decide (cl < 800) && s.mayIssue cl u && s.spanIdle (spanOf cl) && ((s.clu cl).stale ((s.clu cl).stream u)).isNone

/-- A memory word goes through on every pseudo-channel of its range: its stream has not stopped, no forced refresh takes its cycle `j`,
and each bank is in a state and at a distance that the timing table permits (R250, R256, R257, R261). -/
def Msq.free (m : Msq) (c : MemCmd) (pclo pcn : Nat) (banks : List Nat) (j : Nat) : Bool :=
  !m.halted && (range' pclo pcn).all (fun pc => (m.pc pc).forced != some (j : Int) && banks.all (fun b => (m.wrong c pc b j).isNone))

/-- Only memory sequencer `st` differs between two states. -/
def onlyMsq (s t : State) (st : Nat) : Prop := t = { s with msq := t.msq } ∧ ∀ x, x ≠ st → t.ms x = s.ms x

/-- Only memory sequencer `st` differs between two states, and machine time, which is that of `u`. -/
def onlyMsqTime (s t u : State) (st : Nat) : Prop := t = { s with msq := t.msq, tim := u.tim } ∧ ∀ x, x ≠ st → t.ms x = s.ms x

/-- Only span controller `p` differs between two states. -/
def onlySpan (s t : State) (p : Nat) : Prop := t = { s with spans := t.spans } ∧ ∀ x, x ≠ p → t.spn x = s.spn x

/-- Only cluster `c` differs between two states. -/
def onlyCluster (s t : State) (c : Nat) : Prop := t = { s with clusters := t.clusters } ∧ ∀ x, x ≠ c → t.clu x = s.clu x

/-- Only Olfin port `p` differs between two states. -/
def onlyPort (s t : State) (p : Nat) : Prop := t = { s with olf := t.olf } ∧ ∀ x, x ≠ p → t.port x = s.port x

/-- Only the router of port `p` differs between two states. -/
def onlyRouter (s t : State) (p : Nat) : Prop := t = { s with cwy := t.cwy } ∧ ∀ x, x ≠ p → t.rtr x = s.rtr x

/-- The faults raised in `t` are those of `s` and one of code `code` and source `src` after them (R414). -/
def raisedOne (s t : State) (code : BitVec 16) (src : Nat) : Prop :=
  ∃ r : Raised, t.flt.raised = s.flt.raised ++ [r] ∧ r.code = code ∧ r.source = src

/-- The one operation that waits in the span of cluster `cl` is work of instruction `iid` of unit `u`, due in the span's next cycle. -/
def State.soleWork (s : State) (cl : Nat) (u : Unit4) (iid : Nat) : Prop :=
  cl < 800 ∧ (s.clu cl).ops = [⟨(s.spn (spanOf cl)).cycle, u, iid, .work 0⟩] ∧
    ∀ c ∈ clustersOf (spanOf cl), c ≠ cl → (s.clu c).ops = []

/-- One operation is due in the next cycle of the span of cluster `cl`: `act` of instruction `iid` of unit `u`. Those of `later` come after it, and
so do the other clusters' operations. -/
def State.loneOp (s : State) (cl : Nat) (u : Unit4) (iid : Nat) (act : Micro) (later : List Op) : Prop :=
  let m := (s.spn (spanOf cl)).cycle
  cl < 800 ∧ (s.clu cl).ops = ⟨m, u, iid, act⟩ :: later ∧ (∀ o ∈ later, m < o.cyc) ∧
    ∀ c ∈ clustersOf (spanOf cl), c ≠ cl → ∀ o ∈ (s.clu c).ops, m < o.cyc

/-- A cycle changes cluster `cl` into `k`, which holds the operations `later`, but for instructions in flight that are done with, and no other
cluster; `u` is the state with whatever else it changes. -/
def cycleLeaves (u t : State) (cl : Nat) (k : Cluster) (later : List Op) : Prop :=
  t = { u with clusters := t.clusters, spans := t.spans } ∧ t.clu cl = { k with ops := later, fly := (t.clu cl).fly } ∧
    ∀ c, c ≠ cl → t.clu c = { u.clu c with fly := (t.clu c).fly }

/-- The entries `d` are added into row `row` of buffer `b` of cluster `cl`, entry by entry, the buffer is DIRTY, and nothing else of the
engine changes; an addition that leaves the window, or `out`, raises 0x1005 once (R133, R188, R194). -/
def addsRow (s t : State) (cl : Nat) (b : Bool) (row : Nat) (d : List Fw) (out : Bool) : Prop :=
  let m := (s.clu cl).me
  let n := (t.clu cl).me
  (∀ j, j < 64 → n.entry b row j = (fwAdd2 (m.entry b row j) (nth 0 d j)).1) ∧
    (∀ c r j, r < 64 → (c, r) ≠ (b, row) → n.entry c r j = m.entry c r j) ∧
    n = ({ m with acc := n.acc }.setBuf b { m.buf b with dirty := true }) ∧
    (let left := out || (List.range 64).any (fun j => (fwAdd2 (m.entry b row j) (nth 0 d j)).2)
     if left then raisedOne s t 0x1005 (spanOf cl) else t.flt = s.flt)

/-- The value of a finite operand (R130): (−1)^s × m × 2^e. -/
def Dec.val (d : Dec) : ℚ := (if d.s then -1 else 1) * d.m * (2 : ℚ) ^ d.e

/-- IEEE 754-2019 minimum or maximum of two codes (R141): one of the two, no other beyond it, −0 below +0; a NaN in either gives the
canonical NaN. -/
def minmaxOk (f : FF) (isMax : Bool) (a b r : Nat) : Prop :=
  let d := f.decode
  if (d a).isNan || (d b).isNan then r = f.nan
  else (r = a ∨ r = b) ∧
    (∀ x ∈ [a, b], (if isMax then (d r).lt (d x) else (d x).lt (d r)) = false) ∧
    ((d a).lt (d b) = false → (d b).lt (d a) = false → (d r).s = if isMax then (d a).s && (d b).s else (d a).s || (d b).s)

/-- A vector word issues, and `p` holds of the register writes that it will make. -/
def vuMakes (i : Instr) (s : State) (cl : Nat) (p : List (Nat × Vreg) → Prop) : Prop :=
  ∃ t f, exec i s = .next t ∧ t.flyOf cl (s.clu cl).nextIid = some f ∧ f.ins = i ∧ p f.res

/-- Byte `n` of a register (R218). -/
def Vreg.byte (v : Vreg) (n : Nat) : Nat := (v.lane (n / 4)).toNat / 2 ^ (8 * (n % 4)) % 256

/-- Element `n` of a register of BF16 values (R219). -/
def Vreg.half (v : Vreg) (n : Nat) : Nat := (v.lane (n / 2)).toNat / 2 ^ (16 * (n % 2)) % 2 ^ 16

/-- The arithmetic of FW128: a product is exact and floored to the window base (R130), a sum of numbers is exact while it stays within
±(2^127 − 1) and FW_NAN beyond, and sums whose parts all stay within do not depend on anything but the terms (R133). -/
def fwArithmetic : Prop :=
  (∀ (a b : Dec) (W : Int), a.kind = .fin → b.kind = .fin → productFloor a b W = some ⌊a.val * b.val * (2 : ℚ) ^ (-W)⌋) ∧
  (∀ (a b : Dec) (W : Int), a.kind ≠ .fin ∨ b.kind ≠ .fin → productFloor a b W = none) ∧
  (∀ x y : Fw, x ≠ fwNan → y ≠ fwNan →
    fwAdd2 x y = if |x.toInt + y.toInt| ≤ fwLim then (BitVec.ofInt 128 (x.toInt + y.toInt), false) else (fwNan, true)) ∧
  (∀ x y : Fw, x = fwNan ∨ y = fwNan → fwAdd2 x y = (fwNan, false)) ∧
  (∀ l : List Int, (∀ x ∈ l, |x| ≤ fwLim) → (∀ n, |(l.take n).sum| ≤ fwLim) → fwSum 0 (l.map some) = (BitVec.ofInt 128 l.sum, false))

/-! ### Counts and bounds that every step keeps -/

/-- The debt increases that are due by the cycle of a refresh (R260). -/
def dueBy (c : Option Int) : Int := (c.map (fun j => (increasesBy j.toNat : Int))).getD 0

/-- The refresh debts of a stack (R260): none above the increases since the start, and none below −8 once the increases that are due by the
bank's last refresh have been counted. -/
def Msq.debtsOk (m : Msq) : Prop :=
  0 ≤ m.incs ∧ ∀ pc, pc < 64 → ∀ b, b < 48 →
    m.debtOf pc b ≤ m.incs ∧ -8 ≤ max m.incs (max (dueBy (m.bank pc b).refb) (dueBy (m.pc pc).refa)) + (m.bank pc b).debt

/-- The queues of a port (R306, R310, R316, R346): in its replay buffer the cells sent, which carry consecutive numbers up to the last one given,
stand before the scheduled cells that wait to be first sent; no receive entry is overfilled, and no more credits are held than there are
entries. -/
def Olf.queuesOk (o : Olf) : Prop :=
  (∃ a b, o.replay = a ++ b ∧
    (∀ i x, a[i]? = some x → x.fresh = false ∧ x.cell.seq = BitVec.ofNat 10 o.txSeq - BitVec.ofNat 10 (a.length - i)) ∧
    (∀ x ∈ b, x.fresh = true ∧ x.sent = false ∧ x.cell.cls = 0)) ∧
  o.rxSvc.length ≤ 56 ∧ o.rxFoot.length ≤ 8 ∧ (o.rxFoot.filter (fun c => c.kind != 8)).length ≤ 6 ∧ o.credSvc ≤ 56 ∧ o.credFoot ≤ 8

/-- The outstanding requests (R350): one in a slot, in the slot that its tag names. -/
def Svc.slotsOk (v : Svc) : Prop :=
  (v.out.map (·.1)).Pairwise (· < ·) ∧ ∀ x ∈ v.out, x.1 < 64 ∧ x.2.rtag.toNat % 64 = x.1

/-- The counts and bounds of every stack, every port and the service agent. -/
def State.countsOk (s : State) : Prop := (∀ st, (s.ms st).debtsOk) ∧ (∀ p, (s.port p).queuesOk) ∧ s.svc.slotsOk

/-- A vector word issues, and its one register write is `r` into register `vd`, untagged. -/
def vuWrites (i : Instr) (s : State) (cl vd : Nat) (r : Vreg → Prop) : Prop :=
  ∃ t f v, exec i s = .next t ∧ t.flyOf cl (s.clu cl).nextIid = some f ∧ f.ins = i ∧ f.res = [(vd, v)] ∧ v.tag = none ∧ r v

/-- A command of the host consumed: the state after it, with the ring's head moved on or the mailbox busy (R393, R411), and the command with
its ring index. -/
def State.taken (s : State) (i : Instr) (h : Hdr) : State × RunCmd :=
  let x := s.hst
  match h.via with
  | .mbox =>
    ({ s with hst := { x with mboxBusy := true, mboxCpl := Tbl.set x.mboxCpl 0 (Tbl.get 0 x.mboxCpl 0 &&& ~~~(flag true 56)) } }, ⟨i, 0⟩)
  | .ring1 => ({ s with hst := { x with cr1Head := (x.cr1Head + 1) % ringSize x.cring1 } }, ⟨i, x.cr1Head⟩)
  | .ring0 => ({ s with hst := { x with cr0Head := (x.cr0Head + 1) % ringSize x.cring0 } }, ⟨i, x.cr0Head⟩)

/-- A command of the host is consumed and starts at once: firmware runs, its ring has a descriptor and room for completions, or the mailbox is free; nothing
waits before it, and nothing that runs holds it back (R393, R395, R397, R411). -/
def State.takes (s : State) (i : Instr) (h : Hdr) : Bool :=
  !s.sec.halted && hdrOf i == some h && s.hst.waiting.isEmpty && s.mayStart ⟨i, 0⟩ && !s.hst.orphans.contains (s.taken i h).2 &&
    (match h.via with
      | .mbox => decide (s.hst.st ≠ stResetting) && !s.hst.mboxBusy
      | .ring1 => s.ringReady true
      | .ring0 => s.ringReady false && !s.ringReady true)

/-- The opcode is listed, and its ring or the mailbox takes it (R397, R398, R411). -/
def pathTakes (i : Instr) (h : Hdr) : Bool :=
  (rawOpcode h).isNone && match h.via with
  | .mbox => mailboxTakes i
  | .ring1 => ring1Takes i
  | .ring0 => true

/-- A command that is consumed is also one that the module accepts where it stands (R397, R398, R411, R426). -/
def State.accepts (s : State) (i : Instr) (h : Hdr) : Bool :=
  s.takes i h && pathTakes i h && acceptedIn i s.hst.st && (!s.unusable || wedgedTakes i)

/-- The state in which a command of the host has completed at once: consumed, its effect `f`, its completion formed. -/
def State.ended (s : State) (i : Instr) (h : Hdr) (f : State → State) (status : Nat) (fault : BitVec 16) (detail : Nat)
    (result : List Byte) : State :=
  (f (s.taken i h).1).finish (s.taken i h).2 status fault detail result

/-- The state in which a command of the host runs on: consumed, and among those that run. -/
def State.begun (s : State) (i : Instr) (h : Hdr) : State := (s.taken i h).1.runs (s.taken i h).2

end Sys2Proof.Machine
end

