-- ==== Sys2Proof/Certificates/Slice0/Obligations.lean ====
section
/-! DEFINITION. The statements about the block, for the provers. -/

open Sys2Proof Sys2Proof.Machine

/-- A step of a state with a command at the front of its queue is that command's meaning on the state with the queue's rest (the queue and its
order are the model's, log 2). On an empty queue one step is one oscillator cycle: machine time moves on by the increment, and nothing else
changes. That an idle step is one oscillator cycle is the model's choice (log 1); that a cycle adds the increment is R33. -/
def Obligations.StepRunsFrontCommand : Prop :=
  (∀ (c : Instr) (rest : List Instr) (s : State), s.pending = c :: rest → step s = exec c { s with pending := rest }) ∧
  (∀ s : State, s.pending = [] →
    ∃ t, step s = .next t ∧ t.tim.now.toNat = (s.tim.now.toNat + s.tim.inc.toNat) % 2 ^ 112 ∧
      t = { s with tim := { s.tim with now := t.tim.now } })

/-- Registers right after a module reset, at the reset values of the register tables: K 16, KP 10 and RATED 0 (R99), DROOP_THR and SLACK_MIN
(R100), the nominal timing table and REFRESH_MAX (R270), ENABLE of every Olfin port (R327), SVC_CTL (R361), PLC_CTL (R384), GEN 1 (R440),
PWR_CTL and PWR_LIMITS and the lowest core set point (R483), and the repair columns (R123); the host interface is RESETTING and not ready
(R398, R413). Both memories are in canonical form (log 7), and the counts and bounds of the refresh debts, of the ports' queues and of the
outstanding requests hold. -/
def Obligations.ResetGivesTheResetValues : Prop :=
  let s := State.reset
  s.k = 16 ∧ s.kp = 10 ∧ s.rated = 0 ∧ s.tik.running = false ∧
  (∀ p, (s.spn p).droopThr = 0x371E ∧ (s.spn p).slackMin = 0xFFFF ∧ (s.spn p).cnt = 0 ∧ (s.spn p).running = false ∧ (s.spn p).stopped = true) ∧
  (∀ st, (s.ms st).refMax = 0x18 ∧ (s.ms st).cnt = 0 ∧
    (s.ms st).ttab = [0x0074005000240024, 0x0008001E000A0005, 0x00240030000A0030, 0x01800348000E0039, 0x0000000000400014]) ∧
  (∀ p, (s.port p).ctl = 1 ∧ (s.port p).st = 0 ∧ (s.port p).sched = false ∧ (s.rtr p).running = false) ∧
  (∀ r, (s.row r).fused = 33 ∧ (s.row r).active = 33 ∧ (s.row r).pending = 33) ∧
  (∀ c, (s.clu c).p = 0xFF ∧ (s.clu c).bankLog = 0 ∧ (s.clu c).eccCnt = 0) ∧
  s.svc.ctl = 0x6400 ∧ s.plc.ctl = 0x0000003C200A07D0 ∧ s.flt.gen = 1 ∧ s.pwr.ctl = 0x50A ∧ s.pwr.core = 620 ∧
  s.pwr.limits = 0x000009605C58645F ∧ s.hst.st = 0 ∧ s.hst.ready = false ∧ s.tim.good = false ∧ s.pending = [] ∧
  s.memOk = true ∧ s.countsOk

/-- Every step keeps both memories in canonical form: addresses rise, and no cell holds what an unlisted address reads as (R103, R390; the
form itself is the model's, log 7). -/
def Obligations.EveryStepKeepsMemoryCanonical : Prop :=
  ∀ s t : State, s.memOk = true → step s = .next t → t.memOk = true

/-- Every step keeps the counts and bounds of the hardware's queues and counters. Refresh debts (R260): a bank's debt is at most the increases
since the start, and at least −8 once those due by its last refresh are counted. Ports (R306, R310, R316, R346): in the replay buffer the
cells sent stand first and carry consecutive numbers up to the last one given, the scheduled cells that wait follow; at most 56 service and 8
footway entries are taken, 6 of them by cells that are no step aborts, and no more credits are held. Outstanding requests (R350): at most 64,
each in a slot of its own that its tag names. -/
def Obligations.EveryStepKeepsCountsInBounds : Prop :=
  ∀ s t : State, s.countsOk → step s = .next t → t.countsOk

/-- After a write of some bytes, each of them reads back, and every other address reads as before (R103, R245: a memory of bytes). -/
def Obligations.MemoryReadsBackWhatWasWritten : Prop :=
  ∀ (m : List Host.Cell) (a : Nat) (bs : List Byte), memWf m = true →
    memWf (memWrite m a bs) = true ∧ memRead (memWrite m a bs) a bs.length = bs ∧
    ∀ x, (x < a ∨ a + bs.length ≤ x) → memGet (memWrite m a bs) x = memGet m x

/-- Every well-formed command answers a next state, and a word that breaks the word checks, or that no unit of the module issues, is refused,
as the image that would carry it is (R179, R183). No command stops the block otherwise. -/
def Obligations.EveryCommandCompletes : Prop :=
  ∀ (i : Instr) (s : State),
    (i.wf = true → ∃ t, exec i s = .next t) ∧
    (i.wf = false → exec i s = .refused .wordRefused)

/-! ### Words of cluster streams (06 to 08) -/

/-- A word of a cluster unit other than SQ.WAIT, SQ.BR and SQ.END issues in cycle DELTA after the phase's start or the last word's issue
(R161). Its stream moves on by one word. Its work waits for the cycles that the timing tables give it (R184, R189, R226), with the sources,
results, window and predicate it takes at its issue (R167, R190, R220). Its cluster's registers, flags and accumulators are as before, and so
are memory and every other cluster. -/
def Obligations.PipelinedWordsIssue : Prop :=
  ∀ (i : Instr) (s : State) (cl : Nat) (u : Unit4) (w : Wd),
    pipelined i = true → i.wf = true → unitOf i = some (cl, u, w) → s.issues cl u = true →
    let k := s.clu cl
    let c := (k.stream u).issue w.delta
    ∃ t f, exec i s = .next t ∧
      (t.clu cl).stream u = { k.stream u with pos := hopOver (k.stream u).hop ((k.stream u).pos + 1), last := c, first := false } ∧
      (t.clu cl).ops.map (fun o => (o.cyc, o.act)) = opsOf i u c (posOf cl) ∧ (∀ o ∈ (t.clu cl).ops, o.iid = k.nextIid) ∧
      t.flyOf cl k.nextIid = some f ∧ f.ins = i ∧ f.on = (!w.pred || k.p.getLsbD w.pidx) ∧ f.phase = s.tik.phaseNo ∧
      f.src = (atIssue k i).1 ∧ f.res = (atIssue k i).2.1 ∧ f.win = k.me.issueWin i ∧
      (t.clu cl).vregs = k.vregs ∧ (t.clu cl).p = k.p ∧ (t.clu cl).fs = k.fs ∧ (t.clu cl).me.acc = k.me.acc ∧
      (∀ c', c' ≠ cl → t.clu c' = s.clu c') ∧
      t = { s with clusters := t.clusters, spans := t.spans, flt := t.flt }

/-- SQ.WAIT only issues: it changes no bit (R209). SQ.BR takes three words and puts its branch in force: the arms begin at the next phase, and
the predicate bit it names at its issue chooses between them (R171, R210). SQ.END ends the job at the step's boundary (R178, R214). An idle
word issues nothing and carries its DELTA (R160). Each moves its stream on and changes nothing else. A PT.PAGE sets the page that its port's
router activates at the next phase (R216); a PT.PAD sets the pad that takes effect at the start keystone, and occupies no slot (R217). -/
def Obligations.SteeringAndPortWordsIssue : Prop :=
  (∀ (s : State) (cl delta : Nat),
     let k := s.clu cl
     let c := k.sSq.issue delta
     let P := s.tik.phaseNo
     (∀ q, (Instr.sqWait cl delta q).wf = true → s.issues cl .sq = true →
       ∃ t, exec (.sqWait cl delta q) s = .next t ∧
         t.clu cl = { k with sSq := { k.sSq with pos := hopOver k.sSq.hop (k.sSq.pos + 1), last := c, first := false } } ∧
         (∀ x, x ≠ cl → t.clu x = s.clu x) ∧ t = { s with clusters := t.clusters, spans := t.spans }) ∧
     (∀ sel n l0 l1, (Instr.sqBr cl delta sel n l0 l1).wf = true → s.issues cl .sq = true → k.staleIn k.sSq 3 = none →
       ∃ t, exec (.sqBr cl delta sel n l0 l1) s = .next t ∧
         t.clu cl = { k with sSq := { k.sSq with pos := hopOver k.sSq.hop (k.sSq.pos + 3), last := c + 2, first := false },
                             br := k.br.filter (fun b => P < b.2.2.2.2) ++ [(l0, l1, k.p.getLsbD sel, P + 1, P + n + 1)] } ∧
         (∀ x, x ≠ cl → t.clu x = s.clu x) ∧ t = { s with clusters := t.clusters, spans := t.spans }) ∧
     ((Instr.sqEnd cl delta).wf = true → s.issues cl .sq = true →
       ∃ t, exec (.sqEnd cl delta) s = .next t ∧ t.job.ended = true ∧
         t.clu cl = { k with sSq := { k.sSq with pos := hopOver k.sSq.hop (k.sSq.pos + 1), last := c, first := false } } ∧
         t = { s with clusters := t.clusters, spans := t.spans, job := { s.job with ended := true } }) ∧
     (∀ u, (Instr.idleWord (.unit cl u) delta).wf = true → s.issues cl u = true →
       ∃ t, exec (.idleWord (.unit cl u) delta) s = .next t ∧
         t.clu cl = k.setStream u { k.stream u with pos := hopOver (k.stream u).hop ((k.stream u).pos + 1), last := (k.stream u).issue delta, first := false } ∧
         (∀ x, x ≠ cl → t.clu x = s.clu x) ∧ t = { s with clusters := t.clusters, spans := t.spans })) ∧
  (∀ (s : State) (p : Nat), p < 6 →
     let q := s.physPort p
     let r := s.rtr q
     (∀ delta page, (Instr.ptPage p delta page).wf = true →
       ∃ t, exec (.ptPage p delta page) s = .next t ∧ t.rtr q = { r with next := some page } ∧ (∀ x, x ≠ q → t.rtr x = s.rtr x) ∧
         t.pt p = { s.pt p with pos := hopOver (s.pt p).hop ((s.pt p).pos + 1), last := (s.pt p).issue delta, first := false } ∧
         (∀ x, x ≠ p → t.pt x = s.pt x) ∧ t = { s with cwy := t.cwy, pts := t.pts }) ∧
     (∀ pad, (Instr.ptPad p pad).wf = true →
       ∃ t, exec (.ptPad p pad) s = .next t ∧ t.rtr q = { r with padNew := pad } ∧ onlyRouter s t q))

/-- A phase mark moves the time base of its stream on by ADVANCE phases, makes the next word's DELTA count from the phase's start, and takes
the stream to the word that R162, R171 and R176 name next (R159, R161): word 0 at a step's start; with a branch point, the arm that its agreed
value selects; where a fixed-length branch begins, the first word of the arm taken; else the word after the mark. The second arm is passed
over where the first ends (the model's reading, log 108). An idle word of a port or memory stream only carries its DELTA (R160). -/
def Obligations.PhaseMarksMoveTheTimeBase : Prop :=
  ∀ (s : State) (st : StreamId), streamOk st = true → s.streamRuns st = true →
    (∀ advance bp, (Instr.phaseMark st advance bp).wf = true →
      let r := s.stream st
      let P := r.base + advance
      let inStep := s.stepTicks = 0 ∨ P % (8 * s.stepTicks) ≠ 0
      ∃ t, exec (.phaseMark st advance bp) s = .next t ∧
        (t.stream st).base = P ∧ (t.stream st).first = true ∧ (t.stream st).last = r.last ∧
        (0 < s.stepTicks → P % (8 * s.stepTicks) = 0 → (t.stream st).pos = 0 ∧ (t.stream st).hop = []) ∧
        (∀ v, inStep → bp ≠ 0 → s.job.taken.find? (fun e => e.1 == bp) = some (bp, v) →
          (t.stream st).pos = Config.armOffset s.job.img s.chipOr0 (streamCode st) bp v ∧ (t.stream st).hop = []) ∧
        (∀ v, inStep → bp ≠ 0 → s.job.taken.find? (fun e => e.1 == bp) = none → s.tik.agree.find? (fun e => e.1 == bp) = some (bp, v) →
          (t.stream st).pos = Config.armOffset s.job.img s.chipOr0 (streamCode st) bp v.toNat ∧ (t.stream st).hop = []) ∧
        (inStep → bp ≠ 0 → s.job.taken.find? (fun e => e.1 == bp) = none → s.tik.agree.find? (fun e => e.1 == bp) = none →
          (t.stream st).pos = r.pos + 1 ∧ (t.stream st).hop = r.hop) ∧
        (inStep → bp = 0 → (∀ c u, st = .unit c u → ∀ b ∈ (s.clu c).br, b.2.2.2.1 ≠ P) →
          (t.stream st).pos = hopOver r.hop (r.pos + 1) ∧ (t.stream st).hop = r.hop) ∧
        (∀ c u l0 l1 taken Q x y, inStep → bp = 0 → st = .unit c u → (s.clu c).br = x ++ [(l0, l1, taken, P, Q)] ++ y →
          (∀ b ∈ x ++ y, b.2.2.2.1 ≠ P) → r.hop = [] →
          (taken = false → (t.stream st).pos = r.pos + 1 + Sys2Proof.Machine.ArmLens.of l0 u ∧ (t.stream st).hop = []) ∧
          (taken = true → Sys2Proof.Machine.ArmLens.of l0 u ≠ 0 → (t.stream st).pos = r.pos + 1 ∧
            (t.stream st).hop = [(r.pos + 1 + Sys2Proof.Machine.ArmLens.of l0 u, r.pos + 1 + Sys2Proof.Machine.ArmLens.of l0 u + Sys2Proof.Machine.ArmLens.of l1 u)]) ∧
          (taken = true → Sys2Proof.Machine.ArmLens.of l0 u = 0 → (t.stream st).pos = r.pos + 1 + Sys2Proof.Machine.ArmLens.of l1 u)) ∧
        (∀ x, x ≠ st → t.stream x = s.stream x) ∧ t = { s with clusters := t.clusters, pts := t.pts, msq := t.msq }) ∧
    (∀ delta, (Instr.idleWord st delta).wf = true → (∀ c u, st ≠ .unit c u) →
      ∃ t, exec (.idleWord st delta) s = .next t ∧
        t.stream st = { s.stream st with pos := hopOver (s.stream st).hop ((s.stream st).pos + 1), last := (s.stream st).issue delta, first := false } ∧
        (∀ x, x ≠ st → t.stream x = s.stream x) ∧ t = { s with pts := t.pts, msq := t.msq })

/-- VU.AND, VU.OR, VU.XOR, VU.IADD, VU.SHL, VU.SHR, VU.SEL and VU.PERM compute each lane as R233, R234 and R235 say, with wrapping arithmetic,
from the registers at their issue (R220). -/
def Obligations.IntegerVectorResults : Prop :=
  ∀ (s : State) (cl : Nat) (w : Wd) (vd va : Nat), s.issues cl .vu = true →
    let k := s.clu cl
    let x := fun (i : Nat) => (k.vreg va).lane i
    let b := fun (o : Opnd) (sext : Bool) (i : Nat) => match o with
      | .reg v => (k.vreg v).lane i
      | .imm n => if sext then n.signExtend 32 else n.setWidth 32
    let n := fun (o : ShOp) (i : Nat) => match o with
      | .reg v => ((k.vreg v).lane i).toNat % 32
      | .imm a => a
    (∀ o, (Instr.vuAnd cl w vd va o).wf = true →
      vuWrites (.vuAnd cl w vd va o) s cl vd (fun r => ∀ i, i < 128 → r.lane i = x i &&& b o false i)) ∧
    (∀ o, (Instr.vuOr cl w vd va o).wf = true →
      vuWrites (.vuOr cl w vd va o) s cl vd (fun r => ∀ i, i < 128 → r.lane i = x i ||| b o false i)) ∧
    (∀ o, (Instr.vuXor cl w vd va o).wf = true →
      vuWrites (.vuXor cl w vd va o) s cl vd (fun r => ∀ i, i < 128 → r.lane i = x i ^^^ b o false i)) ∧
    (∀ o li neg, (Instr.vuIadd cl w vd va o li neg).wf = true →
      vuWrites (.vuIadd cl w vd va o li neg) s cl vd (fun r => ∀ i, i < 128 →
        r.lane i = (if neg then x i - b o true i else x i + b o true i) + (if li then BitVec.ofNat 32 i else 0))) ∧
    (∀ o, (Instr.vuShl cl w vd va o).wf = true →
      vuWrites (.vuShl cl w vd va o) s cl vd (fun r => ∀ i, i < 128 → (r.lane i).toNat = (x i).toNat * 2 ^ n o i % 2 ^ 32)) ∧
    (∀ o, (Instr.vuShr cl w vd va o false).wf = true →
      vuWrites (.vuShr cl w vd va o false) s cl vd (fun r => ∀ i, i < 128 → (r.lane i).toNat = (x i).toNat / 2 ^ n o i)) ∧
    (∀ o, (Instr.vuShr cl w vd va o true).wf = true →
      vuWrites (.vuShr cl w vd va o true) s cl vd (fun r => ∀ i, i < 128 → (r.lane i).toInt = (x i).toInt / 2 ^ n o i)) ∧
    (∀ vb vc, (Instr.vuSel cl w vd va vb vc).wf = true →
      vuWrites (.vuSel cl w vd va vb vc) s cl vd (fun r => ∀ i, i < 128 → ∀ j, j < 32 →
        (r.lane i).getLsbD j = if ((k.vreg vc).lane i).getLsbD j then (x i).getLsbD j else ((k.vreg vb).lane i).getLsbD j)) ∧
    (∀ vb vc, (Instr.vuPerm cl w vd va vb vc).wf = true →
      vuWrites (.vuPerm cl w vd va vb vc) s cl vd (fun r => ∀ i, i < 128 →
        let y := ((k.vreg vb).lane i).toNat
        r.lane i = if 2 ^ 31 ≤ y then 0 else if y / 128 % 2 = 1 then (k.vreg vc).lane (y % 128) else x (y % 128)))

/-- The floating-point vector instructions work on each of 128 FP32 lanes or 256 BF16 elements by itself: sums, differences, products and
fused products of the decoded values, rounded once (R231, R136, R140); the minimum, maximum and comparison of FP32, BF16 and S32 (R231, R232,
R141). -/
def Obligations.FloatVectorResults : Prop :=
  ∀ (s : State) (cl : Nat) (w : Wd) (vd va vb vc : Nat), s.issues cl .vu = true →
    let k := s.clu cl
    let n := fun (v i : Nat) => ((k.vreg v).lane i).toNat
    let z := fun (v i : Nat) => ((k.vreg v).lane i).toInt
    let d := fun (v i : Nat) => FF.fp32.decode (n v i)
    let h := fun (v i : Nat) => FF.bf16.decode ((k.vreg v).half i)
    let f32 := fun (r : Vreg) (g : Nat → Dec) => ∀ i, i < 128 → (r.lane i).toNat = FF.fp32.ofDec (g i) % 2 ^ 32
    let b16 := fun (r : Vreg) (g : Nat → Dec) => ∀ i, i < 256 → r.half i = FF.bf16.ofDec (g i) % 2 ^ 16
    ((Instr.vuAdd cl w .fp32 vd va vb).wf = true →
      vuWrites (.vuAdd cl w .fp32 vd va vb) s cl vd (fun r => f32 r (fun i => Dec.add (d va i) (d vb i))) ∧
      vuWrites (.vuAdd cl w .bf16 vd va vb) s cl vd (fun r => b16 r (fun i => Dec.add (h va i) (h vb i))) ∧
      vuWrites (.vuSub cl w .fp32 vd va vb) s cl vd (fun r => f32 r (fun i => Dec.add (d va i) (Dec.neg (d vb i)))) ∧
      vuWrites (.vuSub cl w .bf16 vd va vb) s cl vd (fun r => b16 r (fun i => Dec.add (h va i) (Dec.neg (h vb i)))) ∧
      vuWrites (.vuMul cl w .fp32 vd va vb) s cl vd (fun r => f32 r (fun i => Dec.mul (d va i) (d vb i))) ∧
      vuWrites (.vuMul cl w .bf16 vd va vb) s cl vd (fun r => b16 r (fun i => Dec.mul (h va i) (h vb i))) ∧
      (∀ g i, (g, i) ∈ [(false, Instr.vuMin cl w .fp32 vd va vb), (true, Instr.vuMax cl w .fp32 vd va vb)] →
        vuWrites i s cl vd (fun r => ∀ x, x < 128 → minmaxOk .fp32 g (n va x) (n vb x) (r.lane x).toNat)) ∧
      (∀ g i, (g, i) ∈ [(false, Instr.vuMin cl w .bf16 vd va vb), (true, Instr.vuMax cl w .bf16 vd va vb)] →
        vuWrites i s cl vd (fun r => ∀ x, x < 256 → minmaxOk .bf16 g ((k.vreg va).half x) ((k.vreg vb).half x) (r.half x))) ∧
      vuWrites (.vuMin cl w .s32 vd va vb) s cl vd (fun r => ∀ x, x < 128 → (r.lane x).toInt = min (z va x) (z vb x)) ∧
      vuWrites (.vuMax cl w .s32 vd va vb) s cl vd (fun r => ∀ x, x < 128 → (r.lane x).toInt = max (z va x) (z vb x)) ∧
      (∀ c, vuWrites (.vuCmp cl w .s32 c vd va vb) s cl vd (fun r => ∀ x, x < 128 →
        r.lane x = if cmpInt c (z va x) (z vb x) then BitVec.allOnes 32 else 0)) ∧
      (∀ c, vuWrites (.vuCmp cl w .fp32 c vd va vb) s cl vd (fun r => ∀ x, x < 128 →
        r.lane x = if FF.fp32.cmp c (n va x) (n vb x) then BitVec.allOnes 32 else 0)) ∧
      (∀ c, vuWrites (.vuCmp cl w .bf16 c vd va vb) s cl vd (fun r => ∀ x, x < 256 →
        r.half x = if FF.bf16.cmp c ((k.vreg va).half x) ((k.vreg vb).half x) then 0xFFFF else 0))) ∧
    ((Instr.vuFma cl w .fp32 vd va vb vc).wf = true →
      vuWrites (.vuFma cl w .fp32 vd va vb vc) s cl vd (fun r => f32 r (fun i => Dec.add (Dec.mul (d va i) (d vb i)) (d vc i))) ∧
      vuWrites (.vuFma cl w .bf16 vd va vb vc) s cl vd (fun r => b16 r (fun i => Dec.add (Dec.mul (h va i) (h vb i)) (h vc i))))

/-- VU.EXP2, LOG2, RCP, RSQ, TANH, SIN and COS compute in each FP32 lane the function of R147 to R152 (R238), and in each BF16 element that
function of the element converted exactly to FP32, rounded once to BF16 (R153). Their special inputs (R147): NaN, the infinities, the zeros,
and values below zero of VU.LOG2 and VU.RSQ. -/
def Obligations.SpecialFunctionResults : Prop :=
  (∀ (s : State) (cl : Nat) (w : Wd) (vd va : Nat), s.issues cl .vu = true → (Instr.vuExp2 cl w .fp32 vd va).wf = true →
    ∀ (g : Special) (i : FTy → Instr),
      (g, i) ∈ [(Special.exp2, fun ty => Instr.vuExp2 cl w ty vd va), (.log2, fun ty => .vuLog2 cl w ty vd va), (.rcp, fun ty => .vuRcp cl w ty vd va),
        (.rsq, fun ty => .vuRsq cl w ty vd va), (.tanh, fun ty => .vuTanh cl w ty vd va), (.sin, fun ty => .vuSin cl w ty vd va),
        (.cos, fun ty => .vuCos cl w ty vd va)] →
      vuWrites (i .fp32) s cl vd (fun r => ∀ x, x < 128 → (r.lane x).toNat = special32 g (((s.clu cl).vreg va).lane x).toNat % 2 ^ 32) ∧
      vuWrites (i .bf16) s cl vd (fun r => ∀ x, x < 256 →
        r.half x = FF.bf16.ofDec (FF.fp32.decode (special32 g (((s.clu cl).vreg va).half x * 2 ^ 16))) % 2 ^ 16)) ∧
  (∀ g x, x < 2 ^ 32 → 0x7F800000 < x % 2 ^ 31 → special32 g x = 0x7FC00000) ∧
  [Special.exp2, .log2, .rcp, .rsq, .tanh, .sin, .cos].map (fun g => special32 g 0x7F800000) =
    [0x7F800000, 0x7F800000, 0, 0, 0x3F800000, 0x7FC00000, 0x7FC00000] ∧
  [Special.exp2, .log2, .rcp, .rsq, .tanh, .sin, .cos].map (fun g => special32 g 0xFF800000) =
    [0, 0x7FC00000, 0x80000000, 0x7FC00000, 0xBF800000, 0x7FC00000, 0x7FC00000] ∧
  [Special.exp2, .log2, .rcp, .rsq, .tanh, .sin, .cos].map (fun g => special32 g 0) =
    [0x3F800000, 0xFF800000, 0x7F800000, 0x7F800000, 0, 0, 0x3F800000] ∧
  [Special.exp2, .log2, .rcp, .rsq, .tanh, .sin, .cos].map (fun g => special32 g 0x80000000) =
    [0x3F800000, 0xFF800000, 0xFF800000, 0xFF800000, 0x80000000, 0x80000000, 0x3F800000] ∧
  (∀ x, 0x80000000 < x → x < 0xFF800000 → special32 .log2 x = 0x7FC00000 ∧ special32 .rsq x = 0x7FC00000)

/-- VU.CVT in every mode (R236, R237): narrowing divides by 2^t and rounds once, widening multiplies by 2^t, the integer modes saturate
(R139), modes 12 and 13 take the window from VA's tag (R137) and give NaN and 0x100D without one; bytes that a mode does not name are kept.
VU.QMX quantises 16 blocks of 32 values, whose scale follows the greatest magnitude (R239, R143). VU.XSUM sums each segment's products with 1
from 0 or from VD's values, and gives FW_NAN and 0x100D where the tag is another (R240). VU.TOPK writes, in lane j, the candidate before which
exactly j others rank (R242). VU.RNG gives the words of the counter generator, or their top 24 bits × 2^−24 (R243, R145). -/
def Obligations.ConversionsAndReductions : Prop :=
  ∀ (s : State) (cl : Nat) (w : Wd) (vd va vb : Nat), s.issues cl .vu = true →
    let k := s.clu cl
    let a := k.vreg va
    let o := k.vreg vd
    let n := fun (v i : Nat) => ((k.vreg v).lane i).toNat
    let d := fun (i : Nat) => FF.fp32.decode (n va i)
    let nib := fun (v : Vreg) (i : Nat) => v.byte (i / 2) / 16 ^ (i % 2) % 16
    let raises := fun (i : Instr) (code : BitVec 16) => k.enabled w = true → ∃ t, exec i s = .next t ∧ raisedOne s t code (spanOf cl)
    (∀ mode h t pos, (Instr.vuCvt cl w vd va vb mode h t pos).wf = true →
      let at_ := fun (m i : Nat) => m * pos ≤ i ∧ i < m * pos + m
      vuWrites (.vuCvt cl w vd va vb mode h t pos) s cl vd (fun r =>
        (mode = 0 → ∀ i, i < 256 → r.half i = FF.bf16.ofDec (FF.fp32.decode (if i < 128 then n va i else n vb (i - 128))) % 2 ^ 16) ∧
        (mode = 1 → ∀ i, i < 128 → (r.lane i).toNat = FF.fp32.ofDec (FF.bf16.decode (a.half ((if h then 128 else 0) + i))) % 2 ^ 32) ∧
        (∀ g, (mode, g) ∈ [(2, FF.e4m3.ofDec), (3, FF.e5m2.ofDec), (4, fun x => (intOfDec 8 x % 256).toNat)] →
          ∀ i, i < 512 → (at_ 128 i → r.byte i = g ((d (i - 128 * pos)).scale (-t)) % 256) ∧ (¬ at_ 128 i → r.byte i = o.byte i)) ∧
        (mode = 5 → ∀ i, i < 1024 → (at_ 128 i → nib r i = (intOfDec 4 ((d (i - 128 * pos)).scale (-t)) % 16).toNat) ∧
          (¬ at_ 128 i → nib r i = nib o i)) ∧
        (∀ g, (mode, g) ∈ [(6, fun i => FF.e4m3.decode (a.byte (128 * pos + i))), (7, fun i => FF.e5m2.decode (a.byte (128 * pos + i))),
            (8, fun i => decInt (signed (a.byte (128 * pos + i)) 8)), (9, fun i => decInt (signed (nib a (128 * pos + i)) 4))] →
          ∀ i, i < 128 → (r.lane i).toNat = FF.fp32.ofDec ((g i).scale t) % 2 ^ 32) ∧
        (mode = 10 → ∀ i, i < 128 → (r.lane i).toInt = intOfDec 32 (d i)) ∧
        (mode = 11 → ∀ i, i < 128 → (r.lane i).toNat = FF.fp32.ofDec (decInt (a.lane i).toInt) % 2 ^ 32) ∧
        (∀ wc, a.tag = some wc →
          (mode = 12 → ∀ i, i < 128 → (at_ 32 i → (r.lane i).toNat = fwToFF FF.fp32 (a.fw (i - 32 * pos)) (winBase wc) t % 2 ^ 32) ∧
            (¬ at_ 32 i → r.lane i = o.lane i)) ∧
          (mode = 13 → ∀ i, i < 256 → (at_ 32 i → r.half i = fwToFF FF.bf16 (a.fw (i - 32 * pos)) (winBase wc) t % 2 ^ 16) ∧
            (¬ at_ 32 i → r.half i = o.half i))) ∧
        (a.tag = none → (mode = 12 → ∀ i, i < 128 → at_ 32 i → r.lane i = 0x7FC00000) ∧
          (mode = 13 → ∀ i, i < 256 → at_ 32 i → r.half i = 0x7FC0))) ∧
      (a.tag = none → 12 ≤ mode → raises (.vuCvt cl w vd va vb mode h t pos) 0x100D)) ∧
    (∀ ve f sb, (Instr.vuQmx cl w vd va ve f sb).wf = true →
      vuMakes (.vuQmx cl w vd va ve f sb) s cl (fun l => ∃ r e, l = [(vd, r), (ve, e)] ∧ r.tag = none ∧ e.tag = none ∧
        (∀ b, b < 16 →
          let q := qmxBlock f ((List.range 32).map (fun i => n (va + b / 4) (32 * (b % 4) + i)))
          e.byte (16 * sb + b) = q.1 % 256 ∧ ∀ i, i < 32 → elemCode f.bits r.bytes (32 * b + i) = nth 0 q.2 i % 2 ^ f.bits) ∧
        (∀ x, x < 512 → ¬ (16 * sb ≤ x ∧ x < 16 * sb + 16) → e.byte x = (k.vreg ve).byte x))) ∧
    (∀ (f : Fmt) (vs : List Nat), (∀ v ∈ vs, (FF.fp32.decode v).kind = .fin) → (∃ v ∈ vs, (FF.fp32.decode v).m ≠ 0) →
      ∃ lg : Int, (∃ v ∈ vs, (2 : ℚ) ^ lg ≤ |(FF.fp32.decode v).val|) ∧ (∀ v ∈ vs, |(FF.fp32.decode v).val| < (2 : ℚ) ^ (lg + 1)) ∧
        (qmxBlock f vs).1 = (max (-127) (min (lg - mxEmax f) 127) + 127).toNat) ∧
    (∀ ty seg wc acc, (Instr.vuXsum cl w ty vd va seg wc acc).wf = true →
      let S := 2 ^ (seg + 4)
      let R := (if ty = .bf16 then 256 else 128) / S
      let x := fun (i : Nat) => match ty with
        | .fp32 => d i
        | .bf16 => FF.bf16.decode (a.half i)
        | .s32 => decInt (a.lane i).toInt
      vuMakes (.vuXsum cl w ty vd va seg wc acc) s cl (fun l => ∃ r, l = [(vd, r)] ∧ r.tag = some wc ∧
        (∀ q, q < R → r.fw q = (fwSum (if acc then (if o.tag = some wc then o.fw q else fwNan) else 0)
          ((List.range S).map (fun j => productFloor (x (q * S + j)) Dec.one (winBase wc)))).1) ∧
        ∀ i, 4 * R ≤ i → i < 128 → r.lane i = 0) ∧
      (acc = true → o.tag ≠ some wc → raises (.vuXsum cl w ty vd va seg wc acc) 0x100D)) ∧
    (∀ s32 two kk, (Instr.vuTopk cl w s32 vd va vb two kk).wf = true →
      let cs := (List.range (if two then 256 else 128)).map (fun p =>
        let v := if p < 128 then va else vb
        (n v (p % 128), n (v + 1) (p % 128), p))
      vuMakes (.vuTopk cl w s32 vd va vb two kk) s cl (fun l => ∃ r x, l = [(vd, r), (vd + 1, x)] ∧ r.tag = none ∧ x.tag = none ∧
        (∀ j, j < kk → ∃ c ∈ cs, (cs.filter (fun b => ranksBefore s32 b c)).length = j ∧
          (r.lane j).toNat = (if !s32 && (FF.fp32.decode c.1).isNan then 0x7FC00000 else c.1) ∧ (x.lane j).toNat = c.2.1) ∧
        ∀ j, kk ≤ j → j < 128 → r.lane j = (if s32 then 0x80000000 else 0x7FC00000) ∧ x.lane j = 0xFFFFFFFF)) ∧
    (∀ uni ofs, (Instr.vuRng cl w vd va uni ofs).wf = true →
      vuWrites (.vuRng cl w vd va uni ofs) s cl vd (fun r => ∀ i, i < 128 →
        let x := nth 0 (rngBlock [a.lane 0, a.lane 1, a.lane 2, a.lane 3] (a.lane 6)
          (BitVec.ofNat 64 (n va 4 + 2 ^ 32 * n va 5 + 32 * ofs + i / 4))) (i % 4)
        (uni = false → r.lane i = x) ∧
        (uni = true → (FF.fp32.decode (r.lane i).toNat).kind = .fin ∧
          (FF.fp32.decode (r.lane i).toNat).val = ((x.toNat / 256 : Nat) : ℚ) / 2 ^ 24)))

/-- Work takes effect in its cycle (R184, R190, R211, R226). A vector instruction's registers are written unless its predicate is false
(R168). SQ.FLAG SET and IMM change only the masked bits of P. ME.CLEAR zeroes its buffer, clears DIRTY and leaves the window (R197). ME.WIN
sets the window, and on a dirty buffer writes every entry FW_NAN and raises 0x100D once (R196). -/
def Obligations.WorkTakesEffectInItsCycle : Prop :=
  ∀ (s : State) (cl iid : Nat) (f : Fly), s.flyOf cl iid = some f →
    let k := s.clu cl
    let t := runCycle s (spanOf cl)
    let k' := t.clu cl
    (∀ i w d v, s.soleWork cl .vu iid → f.ins = i → unitOf i = some (cl, .vu, w) → (∀ a b c e g h, i ≠ .vuLd a b c e g h) → f.res = [(d, v)] →
      (∀ x, k'.vreg x = if f.on && x == d then v else k.vreg x) ∧ k'.ops = [] ∧ k'.fly = [] ∧ t.mem = s.mem) ∧
    (∀ a b mask inv, s.soleWork cl .sq iid → f.ins = .sqFlag a b (.set mask inv) →
      (∀ i, i < 8 → k'.p.getLsbD i = if mask.getLsbD i then (k.fs.getLsbD i != inv) else k.p.getLsbD i) ∧ k'.fs = k.fs) ∧
    (∀ a b mask val, s.soleWork cl .sq iid → f.ins = .sqFlag a b (.imm mask val) →
      (∀ i, i < 8 → k'.p.getLsbD i = if mask.getLsbD i then val.getLsbD i else k.p.getLsbD i) ∧ k'.fs = k.fs) ∧
    (∀ a b line byte, s.soleWork cl .sq iid → f.ins = .sqFlag a b (.loads line byte) →
      k'.fs = nth 0 (Tbl.get (zeros 128) f.lines 0) byte ∧ k'.p = k.p) ∧
    (∀ a w b, s.soleWork cl .me iid → f.ins = .meClear a w b → f.on = true →
      (∀ r j, r < 64 → k'.me.entry b r j = 0) ∧ (∀ r j, r < 64 → k'.me.entry (!b) r j = k.me.entry (!b) r j) ∧
        k'.me.buf b = { k.me.buf b with dirty := false }) ∧
    (∀ a w b wc ta tw, s.soleWork cl .me iid → f.ins = .meWin a w b wc ta tw → f.on = true → f.raised = [] →
      (k'.me.buf b).wcode = wc ∧ (k'.me.buf b).ta = ta ∧ (k'.me.buf b).tw = tw ∧
        (if (k.me.buf b).dirty then (∀ r j, r < 64 → j < 64 → k'.me.entry b r j = fwNan) ∧ raisedOne s t 0x100D (spanOf cl)
         else k'.me.acc = k.me.acc ∧ t.flt = s.flt))

/-- A store line, a landing entry, a spoke or a register is used in the cycle of its access (R106, R115, R202, R226). A read takes the line, a
landing read the entry with its marks; VU.ST, MV.FILL, MV.COPY and MV.RECV write the store line (R202, R228); MV.SEND, MV.HBM, MV.STAGE and
SQ.AGREE put a crossing write of the phase of their issue on the mesh, empty with a false predicate (R203, R204, R207, R212); MV.COPY sends
the line to another cluster, where it is written 7 cycles after the spoke (R114, R202). MV.RECV refills instruction memory from a written
entry without the empty mark (R205, R206). VU.LD fills its register and sets its tag (R227). SQ.DIGEST folds a line (R213); SQ.FLAG LOADE sets
one bit of FS, and 0x1003 where the entry was not written (R211; that the bit is then 0 is the model's, log 68). The accesses meet no other
and no bit error. -/
def Obligations.AccessesTakeEffectInTheirCycles : Prop :=
  ∀ (s : State) (cl iid : Nat) (later : List Op), s.upsets = [] →
    let k := s.clu cl
    let t := runCycle s (spanOf cl)
    let m := (s.spn (spanOf cl)).cycle
    let wrote := fun (ln : Nat) (d : List Byte) => cycleLeaves { s with mem := memWrite s.mem (storeAddr cl ln) d } t cl k later
    (∀ u idx src ln d keep, s.loneOp cl u iid (.arrive idx src ln d keep) later → ln < 6144 →
      cycleLeaves s t cl k (later ++ [⟨m + 3, u, iid, .arrWr ln d keep⟩])) ∧
    (∀ u ln d, s.loneOp cl u iid (.arrWr ln d true) later → ln < 6144 → d.length = 128 → wrote ln d) ∧
    (∀ u ln d, s.loneOp cl u iid (.arrWr ln d false) later → cycleLeaves s t cl k later) ∧
    (∀ f, s.flyOf cl iid = some f →
      let line := fun (j : Nat) => Tbl.get (zeros 128) f.lines j
      let sends := fun (span q entry : Nat) (d : List Byte) (empty : Bool) (tag : Option (BitVec 12)) (desc : Option Nat) =>
        cycleLeaves (s.put span q entry true true d empty tag desc f.phase) t cl k later
      let out := fun (j : Nat) => if f.on then line j else zeros 128
      (∀ u idx ln, s.loneOp cl u iid (.rd idx ln) later → ln < 6144 → (∃ o ∈ later, o.iid = iid) →
        cycleLeaves s t cl k later ∧ t.flyOf cl iid = some { f with lines := Tbl.set f.lines idx (memRead s.mem (storeAddr cl ln) 128) }) ∧
      (∀ u idx q e, s.loneOp cl u iid (.land idx q e) later → (∃ o ∈ later, o.iid = iid) →
        let x := s.landAt (spanOf cl) q (readFrame s.tik.phaseNo) e
        x.w0 = true → x.w1 = true →
        cycleLeaves s t cl k later ∧
          t.flyOf cl iid = some { f with lines := Tbl.set f.lines idx x.bytes, marks := Tbl.set f.marks idx (true, x.e0 || x.e1) }) ∧
      (∀ u idx ln, s.loneOp cl u iid (.wr idx ln) later → ln < 6144 →
        (f.on = false → cycleLeaves s t cl k later) ∧
        (∀ d, f.on = true → d.length = 128 →
          (∀ c w va l0 nl, f.ins = .vuSt c w va l0 nl → (∀ i, i < 32 → leAt d (4 * i) 4 = (nth 0 f.src (32 * idx + i)).toNat) → wrote ln d) ∧
          (∀ c w dl nn pat, f.ins = .mvFill c w dl nn pat → (∀ i, i < 64 → leAt d (2 * i) 2 = pat.toNat) → wrote ln d) ∧
          (∀ c w sl dl dpos nn, f.ins = .mvCopy c w sl dl dpos nn → d = line idx → wrote ln d) ∧
          (∀ c w q e dst nn, f.ins = .mvRecv c w q e dst nn → d = line idx → wrote ln d))) ∧
      (∀ u idx, s.loneOp cl u iid (.spokeOut idx) later →
        (∀ c w sl sp q e nn, f.ins = .mvSend c w sl sp q e nn → sends (s.destSpan sp) q (e + idx) (out idx) (!f.on) none none) ∧
        (∀ c w sl st q e nn tagb, f.ins = .mvHbm c w sl st q e nn tagb →
          sends (100 + st) q (e + idx) (out idx) (!f.on) (some (BitVec.ofNat 12 (tagb + idx))) none) ∧
        (∀ c w sl q e nn desc, f.ins = .mvStage c w sl q e nn desc → sends 110 q (e + idx) (out idx) (!f.on) none (some desc)) ∧
        (∀ c dl p q e bp vs val p1 p0, f.ins = .sqAgree c dl p q e bp vs val p1 p0 →
          sends (s.destSpan (104 + p)) q e ([BitVec.ofNat 8 (nth 0 f.src 0).toNat, BitVec.ofNat 8 bp] ++ leBytes (s.step % 2 ^ 32) 4) false none none) ∧
        (∀ c w sl dl dpos nn, f.ins = .mvCopy c w sl dl dpos nn → dpos < 8 → cluAt (spanOf cl) dpos ≠ cl →
          let to_ := cluAt (spanOf cl) dpos
          (t.clu to_).ops = (s.clu to_).ops ++ [⟨m + 4, .mv, iid, .arrive idx (posOf cl) (dl + idx) (line idx) f.on⟩] ∧
            (t.clu cl).ops = later ∧ t = { s with clusters := t.clusters, spans := t.spans })) ∧
      (∀ idx c w q e wl sln nn, s.loneOp cl .mv iid (.work idx) later → f.ins = .mvRecv c w q e (.imem wl sln) nn →
        cycleLeaves s t cl (if f.on = true ∧ Tbl.get (false, false) f.marks idx = (true, false)
          then { k with imem := Tbl.set k.imem (wl + idx) ⟨line idx, (sln + idx) % 65536⟩ } else k) later) ∧
      (∀ c w vd src nl tag idx, s.loneOp cl .vu iid (.work idx) later → f.ins = .vuLd c w vd src nl tag → f.on = false →
        cycleLeaves s t cl k later) ∧
      (∀ c w vd ln nl tag, s.loneOp cl .vu iid (.work 0) later → f.ins = .vuLd c w vd (.store ln) nl tag → f.on = true → nl ≤ 4 →
        (∀ j, (line j).length = 128) →
        ∃ r, cycleLeaves s t cl { k with vregs := Tbl.set k.vregs vd r } later ∧ r.tag = tag ∧
          ∀ i, i < 128 → (r.lane i).toNat = if i < 32 * nl then leAt (line (i / 32)) (4 * (i % 32)) 4 else 0) ∧
      (∀ c w vd q e nl tag idx, s.loneOp cl .vu iid (.work idx) later → f.ins = .vuLd c w vd (.landing q e) nl tag → f.on = true → nl ≤ 4 →
        idx < nl → (line idx).length = 128 →
        ∃ r, cycleLeaves s t cl { k with vregs := Tbl.set k.vregs vd r } later ∧
          r.tag = (if idx + 1 = nl then tag else if idx = 0 then none else (k.vreg vd).tag) ∧
          ∀ i, i < 128 → (r.lane i).toNat = if i / 32 = idx then leAt (line idx) (4 * (i % 32)) 4
            else if idx = 0 ∧ 32 * nl ≤ i then 0 else ((k.vreg vd).lane i).toNat) ∧
      (∀ c dl ln nn idx, s.loneOp cl .sq iid (.work idx) later → f.ins = .sqDigest c dl ln nn →
        cycleLeaves { s with digs := Tbl.set s.digs cl (crc64 (s.dig cl) (line idx)) } t cl k later) ∧
      (∀ c dl q e half db, s.loneOp cl .sq iid (.work 0) later → f.ins = .sqFlag c dl (.loade q e half db) → db < 8 →
        let x := s.landAt (spanOf cl) q (readFrame s.tik.phaseNo) e
        let half_ := fun (x0 x1 both : Bool) => match half with
          | .first => x0
          | .second => x1
          | .both => both
        (∀ i, i < 8 → (t.clu cl).fs.getLsbD i =
          if i = db then half_ x.w0 x.w1 (x.w0 && x.w1) && !(half_ x.e0 x.e1 (x.e0 || x.e1)) else k.fs.getLsbD i) ∧ (t.clu cl).p = k.p ∧
        (half_ x.w0 x.w1 (x.w0 && x.w1) = true → cycleLeaves s t cl { k with fs := (t.clu cl).fs } later) ∧
        (half_ x.w0 x.w1 (x.w0 && x.w1) = false → raisedOne s t 0x1003 (spanOf cl))))

/-- The matrix engine's words beyond their issue. Products are exact, floored to the window base, and summed without order (R130, R133).
ME.LOADW fills a tile slot from its lines, rows and then block scales (R193). ME.MAC and ME.MACS form for each row its 64 dot products with
the tile as it stands, with the scales of the tensors or of the blocks, and add them into the row of the buffer (R194). ME.MACV fills the
streaming registers and adds the products of each fetch (R195). ME.ADDX adds FW128 values, or on another window code writes FW_NAN and raises
0x100D (R198). ME.ROUND writes converted entries, packed, ME.DRAIN the raw ones (R199, R200); a false predicate writes nothing (R192). The
accesses meet no other. -/
def Obligations.MatrixWorkAccumulates : Prop :=
  fwArithmetic ∧
  ∀ (s : State) (cl iid : Nat) (f : Fly) (later : List Op), s.flyOf cl iid = some f → s.upsets = [] →
    let k := s.clu cl
    let me := k.me
    let t := runCycle s (spanOf cl)
    let W := winBase f.win.1
    let bytes := fun (i : Nat) => nth 0 (Tbl.get (zeros 128) f.lines (i / 128)) (i % 128)
    let work := fun (i : Nat) => s.loneOp cl .me iid (.work i) later
    let full := fun (b : Bool) (r : Nat) => (me.row b r).length = 64 ∧ f.raised = [] ∧ f.on = true ∧ r < 64
    (∀ i, work i → f.on = false → (t.clu cl).me = me ∧ t.flt = s.flt) ∧
    (∀ c w ts fmt ln, work 0 → f.ins = .meLoadw c w ts fmt ln → f.on = true → (∀ j, (Tbl.get (zeros 128) f.lines j).length = 128) →
      ∃ x : Tile, cycleLeaves s t cl { k with me := me.setTile ts x } later ∧ (∀ i, i < 64 * fmt.rb → nth 0 x.raw i = bytes i) ∧
        (fmt.isMx = true → ∀ i, i < 2 * fmt.kw → nth 0 x.scales i = bytes (64 * fmt.rb + i)) ∧ (fmt.isMx = false → x.scales = (me.tile ts).scales)) ∧
    (∀ c w b ts fa fw ln mm row r (scaled : Bool), work (2 * r) → (∃ o ∈ later, o.iid = iid) →
      f.ins = (if scaled then .meMacs c w b ts fa fw ln mm row else .meMac c w b ts fa fw ln mm row) →
      let nb := fa.kw / 32
      let xa := fun (i : Nat) => if scaled then ((nth 0 (f.bytes 1000 ((mm * nb + 127) / 128)) (r * nb + i)).toNat : Int) else f.win.2.1
      let dots := (List.range 64).map (fun j =>
        let xw := fun (i : Nat) => if scaled then ((nth 0 (me.tile ts).scales (j * (fw.kw / 32) + i)).toNat : Int) else f.win.2.2
        fwSum 0 (List.zipWith (fun x y => productFloor x y W) (decRow fa (f.actRow fa r) xa) (decRow fw (slice (me.tile ts).raw (j * fw.rb) fw.rb) xw)))
      cycleLeaves s t cl k later ∧ t.flyOf cl iid = some { f with sums := Tbl.set f.sums r (dots.map (·.1), dots.any (·.2)) }) ∧
    (∀ c w b ts fa fw ln mm row r (scaled : Bool) d out, work (2 * r + 1) → full b (row + r) →
      f.ins = (if scaled then .meMacs c w b ts fa fw ln mm row else .meMac c w b ts fa fw ln mm row) →
      Tbl.get ([], false) f.sums r = (d, out) → d.length = 64 → addsRow s t cl b (row + r) d out) ∧
    (∀ c w b fmt wg ag ic g row, f.ins = .meMacv c w b fmt wg ag ic g row →
      let act := f.bytes 0 (macvAL fmt ic)
      let actX := f.bytes (macvAL fmt ic) 1
      let wX := f.bytes 100 (16 * macvSG fmt (ic * g))
      (work 0 → f.on = true → cycleLeaves s t cl { k with me := { me with sAct := act, sActX := if fmt.isMx then actX else [], sWX := wX } } later) ∧
      (∀ n, work (1 + n) → full b (row + n / ic) → 0 < ic →
        let dots := (List.range 64).map (fun r =>
          fwSum 0 ((List.range fmt.chunk).map (fun i =>
            let e := n % ic * fmt.chunk + i
            productFloor (decElem fmt (elemCode fmt.bits act e) (if fmt.isMx then ((nth 0 actX (e / 32)).toNat : Int) else f.win.2.1))
              (decElem fmt (elemCode fmt.bits (slice (f.bytes (10000 + 16 * n) 16) (r * (fmt.chunk * fmt.bits / 8)) (fmt.chunk * fmt.bits / 8)) i)
                (if fmt.isMx then ((nth 0 wX ((64 * n + r) * macvNb fmt + i / 32)).toNat : Int) else f.win.2.2)) W)))
        addsRow s t cl b (row + n / ic) (dots.map (·.1)) (dots.any (·.2)))) ∧
    (∀ c w b wc ln r row n, work n → f.ins = .meAddx c w b wc ln r row → full b (row + n) →
      (wc = f.win.1 → addsRow s t cl b (row + n)
        ((List.range 64).map (fun j => BitVec.ofNat 128 (leAt (f.bytes (8 * n) 8) (16 * j) 16))) false) ∧
      (wc ≠ f.win.1 → (∀ j, j < 64 → (t.clu cl).me.entry b (row + n) j = fwNan) ∧ ((t.clu cl).me.buf b).dirty = true ∧
        (∀ x r j, r < 64 → (x, r) ≠ (b, row + n) → (t.clu cl).me.entry x r j = me.entry x r j) ∧ raisedOne s t 0x100D (spanOf cl))) ∧
    (∀ idx ln, s.loneOp cl .me iid (.wr idx ln) later → ln < 6144 → memWf s.mem = true →
      (f.on = false → cycleLeaves s t cl k later) ∧
      (∀ c w b l0 r row, f.ins = .meDrain c w b l0 r row → f.on = true →
        cycleLeaves { s with mem := t.mem } t cl k later ∧
        (∀ j, j < 8 → leAt (memRead t.mem (storeAddr cl ln) 128) (16 * j) 16 = (me.entry b (row + idx / 8) (8 * (idx % 8) + j)).toNat) ∧
        ∀ a, ¬ (storeAddr cl ln ≤ a ∧ a < storeAddr cl ln + 128) → memGet t.mem a = memGet s.mem a) ∧
      (∀ c w b fmt x l0 r row, f.ins = .meRound c w b fmt x l0 r row → (Instr.meRound c w b fmt x l0 r row).wf = true → f.on = true →
        let wid := fmt.bits
        cycleLeaves { s with mem := t.mem } t cl k later ∧
        (∀ e, e < 1024 / wid → idx * (1024 / wid) + e < 64 * r →
          let g := idx * (1024 / wid) + e
          leNat (memRead t.mem (storeAddr cl ln) 128) / 2 ^ (wid * e) % 2 ^ wid = roundOut fmt (me.entry b (row + g / 64) (g % 64)) W x % 2 ^ wid) ∧
        ∀ a, ¬ (storeAddr cl ln ≤ a ∧ a < storeAddr cl ln + min 128 (8 * r * wid - 128 * idx)) → memGet t.mem a = memGet s.mem a))

/-! ### Memory sequencers (09) -/

/-- ACT, PRE, REFA and REFB that the timing table permits take effect in their cycle on each pseudo-channel of their range (R246, R249, R250,
R259, R260): ACT opens the row and counts the activation, PRE closes the open bank (or all), a refresh zeroes the activation count and lowers
the debt by 1 down to −8, after the increases that are due by its cycle. Forced refreshes whose cycles have come are carried out first, and
the command is checked against them like any other (R261). The stream moves on by one word, and nothing else changes. -/
def Obligations.MemoryCommandsTakeEffect : Prop :=
  ∀ (s : State) (st delta pclo pcn bank : Nat), st < 4 →
    let cyc := (s.ms st).str.issue delta
    let j := s.memEdge s.tik.phaseNo + cyc
    let m := (s.ms st).paid j
    let str0 := (s.ms st).str
    let str := { str0 with pos := hopOver str0.hop (str0.pos + 1), last := cyc, first := false }
    let hit := fun (pc : Nat) => pclo ≤ pc ∧ pc < pclo + pcn
    (∀ row, (Instr.act st delta pclo pcn bank row).wf = true → m.free .act pclo pcn [bank] j = true →
      ∃ t, exec (.act st delta pclo pcn bank row) s = .next t ∧ onlyMsq s t st ∧ (t.ms st).str = str ∧
        (∀ pc, hit pc → (t.ms st).bank pc bank =
          { m.bank pc bank with row := some row, act := some (j : Int), acts := (m.bank pc bank).acts + 1 }) ∧
        (∀ pc b, b < 48 → ¬ (hit pc ∧ b = bank) → (t.ms st).bank pc b = m.bank pc b)) ∧
    ((Instr.pre st delta pclo pcn bank false).wf = true → m.free .pre pclo pcn [bank] j = true →
      ∃ t, exec (.pre st delta pclo pcn bank false) s = .next t ∧ onlyMsq s t st ∧ (t.ms st).str = str ∧
        (∀ pc, hit pc → ((t.ms st).bank pc bank).row = none ∧
          ((t.ms st).bank pc bank).pre = if (m.bank pc bank).row.isSome then some (j : Int) else (m.bank pc bank).pre) ∧
        (∀ pc b, b < 48 → ¬ (hit pc ∧ b = bank) → (t.ms st).bank pc b = m.bank pc b)) ∧
    ((Instr.pre st delta pclo pcn bank true).wf = true → m.halted = false →
      (∀ pc, hit pc → (m.pc pc).forced ≠ some (j : Int) ∧ ∀ b, b < 48 → m.wrongAll pc b j = none) →
      ∃ t, exec (.pre st delta pclo pcn bank true) s = .next t ∧ onlyMsq s t st ∧ (t.ms st).str = str ∧
        (∀ pc b, b < 48 → hit pc → ((t.ms st).bank pc b).row = none) ∧
        (∀ pc b, b < 48 → ¬ hit pc → (t.ms st).bank pc b = m.bank pc b)) ∧
    ((Instr.refb st delta pclo pcn bank).wf = true → m.free .refb pclo pcn [bank] j = true →
      ∃ t, exec (.refb st delta pclo pcn bank) s = .next t ∧ onlyMsq s t st ∧ (t.ms st).str = str ∧
        (∀ pc, hit pc → ((t.ms st).bank pc bank).acts = 0 ∧ ((t.ms st).bank pc bank).refb = some (j : Int) ∧
          (t.ms st).debtOf pc bank = max (m.incs - m.due j - 8) (m.debtOf pc bank - 1)) ∧
        (∀ pc b, b < 48 → ¬ (hit pc ∧ b = bank) → (t.ms st).bank pc b = m.bank pc b)) ∧
    ((Instr.refa st delta pclo pcn).wf = true → m.free .refa pclo pcn [0] j = true →
      ∃ t, exec (.refa st delta pclo pcn) s = .next t ∧ onlyMsq s t st ∧ (t.ms st).str = str ∧
        (∀ pc, hit pc → ((t.ms st).pc pc).refa = some (j : Int)) ∧
        (∀ pc b, b < 48 → hit pc → ((t.ms st).bank pc b).acts = 0 ∧ (t.ms st).debtOf pc b = max (m.incs - m.due j - 8) (m.debtOf pc b - 1)) ∧
        (∀ pc b, b < 48 → ¬ hit pc → (t.ms st).bank pc b = m.bank pc b))

/-- RD sends each line of its range to the landing entries it names, in the frame of phase p + PH, when the lines arrive in time (R251, R252);
WR stores each entry's 128 bytes at the line that the open row names (R245, R253). Lines without bit errors; for WR, entries with both halves
written, no tag and no empty mark. That RD takes a line's data at its issue is the model's reading (log 33). -/
def Obligations.MemoryReadsAndWritesMoveLines : Prop :=
  ∀ (s : State) (st delta pclo pcn bank col q entry : Nat), st < 4 → s.upsets = [] →
    let j := s.memEdge s.tik.phaseNo + (s.ms st).str.issue delta
    let m := (s.ms st).paid j
    let line := fun (pc : Nat) => hbmAddr (hbmKey st (hbmLs pc col bank ((m.bank pc bank).row.getD 0)))
    (∀ dspan ph, (Instr.rd st delta pclo pcn bank col dspan q entry ph).wf = true → m.free .rd pclo pcn [bank] j = true →
      (∀ i, i < pcn → let P := s.memPhase (j + m.tt 8 + 12 + i / 8); P = s.tik.phaseNo + ph ∨ P = s.tik.phaseNo + ph + 1) →
      ∃ t, exec (.rd st delta pclo pcn bank col dspan q entry ph) s = .next t ∧
        t.mesh = s.mesh ++ (List.range pcn).map (fun i =>
          { span := s.destSpan dspan, q := q, entry := entry + i, half0 := true, half1 := true,
            data := memRead s.mem (line (pclo + i)) 128, empty := false, tag := none, desc := none, phase := s.tik.phaseNo + ph }) ∧
        (∀ pc, pclo ≤ pc → pc < pclo + pcn → (t.ms st).bank pc bank = { m.bank pc bank with rd := some (j : Int) }) ∧
        t = { s with msq := t.msq, mesh := t.mesh }) ∧
    ((Instr.wr st delta pclo pcn bank col q entry).wf = true → m.free .wr pclo pcn [bank] j = true →
      (∀ i, i < pcn → let e := s.landAt (100 + st) q (readFrame s.tik.phaseNo) (entry + i)
        e.w0 = true ∧ e.w1 = true ∧ e.e0 = false ∧ e.e1 = false ∧ e.tag = none) →
      ∃ t, exec (.wr st delta pclo pcn bank col q entry) s = .next t ∧
        t.mem = (List.range pcn).foldl (fun mem i =>
          memWrite mem (line (pclo + i)) (s.landAt (100 + st) q (readFrame s.tik.phaseNo) (entry + i)).bytes) s.mem ∧
        (∀ pc, pclo ≤ pc → pc < pclo + pcn → (t.ms st).bank pc bank = { m.bank pc bank with wr := some (j : Int) }) ∧
        t = { s with msq := t.msq, mem := t.mem })

/-- A memory command that breaks the timing table or meets the wrong bank state is suppressed: its stream stops for the step, MSQ_FLT_LOG and
FAULTED hold the first fault, MSQ_CNT counts it, and 0x1009 is raised (R250, R257). The refresh duty (R260 to R263): while a stream plays,
every bank's debt rises by 1 at the time of its next increase; in autonomous mode every bank is refreshed and closed, the due time after the
refresh before, and no debt stands; a bank whose debt has reached 9 is refreshed by force with 0x100A, at the earliest cycles that the table
permits. After a suppression every open bank is precharged (R257). HBM_TEMP_READ stores the hottest die (R270). Which break is named, the bus
of a forced command and the time from which the autonomous refresh counts are the model's choices (logs 12, 88). -/
def Obligations.MemoryFaultsAndUpkeep : Prop :=
  (∀ (s : State) (st delta pc bank row : Nat), st < 4 →
     let j := s.memEdge s.tik.phaseNo + (s.ms st).str.issue delta
     let m := (s.ms st).paid j
     m.halted = false → (m.pc pc).forced ≠ some (j : Int) →
     ∀ (i : Instr) (c : MemCmd),
       (i, c) ∈ [(Instr.act st delta pc 1 bank row, MemCmd.act), (.pre st delta pc 1 bank false, .pre), (.refb st delta pc 1 bank, .refb)] →
       i.wf = true → (m.wrong c pc bank j).isSome = true →
       ∃ t, exec i s = .next t ∧ (t.ms st).halted = true ∧ (t.ms st).faulted = true ∧ (t.ms st).cnt = satInc m.cnt 0 16 1 ∧
         (∀ kind param, m.wrong c pc bank j = some (kind, param) → let P := s.memPhase j
           (t.ms st).fltLog = if m.faulted then m.fltLog else orAll [at_ kind 0 4, at_ pc 4 6, at_ bank 10 6, at_ param 16 5,
             at_ (P % 8) 21 3, at_ (j - s.memEdge P) 24 11, at_ (P / 8) 35 29]) ∧
         (∀ p b, (t.ms st).bank p b = m.bank p b) ∧ raisedOne s t 0x1009 (100 + st) ∧
         (∀ x, x ≠ st → t.ms x = s.ms x) ∧ t = { s with msq := t.msq, flt := t.flt }) ∧
  (∀ (s : State) (st : Nat), st < 4 →
     let m := s.ms st
     (m.running = true → ∃ t, exec (.refreshDebtIncrease st) s = .next t ∧
       onlyMsqTime s t (s.advance (s.tim.epoch.toNat * ns + (m.incs + 1).toNat * (15625 * 2 ^ 45))) st ∧
       (let m := m.paid (increaseCycle (m.incs + 1).toNat - 1)
        ∀ pc b, (t.ms st).debtOf pc b = m.debtOf pc b + 1 ∧ ((t.ms st).bank pc b).row = (m.bank pc b).row) ∧ (t.ms st).str = m.str) ∧
     (m.auto = true → ∃ t, exec (.msqAutoRefresh st) s = .next t ∧
       onlyMsqTime s t (s.advance (m.autoAt + s.autoTime m)) st ∧ (t.ms st).autoAt = t.tim.now.toNat ∧
       ∀ pc b, pc < 64 → b < 48 → (t.ms st).debtOf pc b = 0 ∧ ((t.ms st).bank pc b).acts = 0 ∧ ((t.ms st).bank pc b).row = none) ∧
     (m.halted = true → ∃ t, exec (.msqRecoveryPrecharge st) s = .next t ∧ onlyMsq s t st ∧
       ∀ pc b, pc < 64 → b < 48 → ((t.ms st).bank pc b).row = none ∧ (t.ms st).debtOf pc b = m.debtOf pc b) ∧
     (∀ pc b, pc < 64 → b < 48 → m.running = true → 9 ≤ m.debtOf pc b → m.owed = [] →
       let j : Int := increaseCycle m.incs.toNat
       let isOpen := (m.bank pc b).row.isSome
       ∃ t, exec (.forcedRefresh st pc b) s = .next t ∧ ((t.ms st).pc pc).forced = some j ∧ (t.ms st).faulted = true ∧
         (t.ms st).cnt = satInc m.cnt 16 16 1 ∧ raisedOne s t 0x100A (100 + st) ∧ t = { s with msq := t.msq, flt := t.flt } ∧
         (isOpen = false → m.earliest .refb pc b j = j → ((t.ms st).bank pc b).acts = 0 ∧ ((t.ms st).bank pc b).refb = some j ∧
           (t.ms st).debtOf pc b = m.debtOf pc b - 1 ∧ (t.ms st).owed = []) ∧
         (isOpen = true → m.earliest .pre pc b j = j → ((t.ms st).bank pc b).row = none ∧ ((t.ms st).bank pc b).pre = some j) ∧
         (j < m.earliest (if isOpen then .pre else .refb) pc b j →
           (t.ms st).bank pc b = m.bank pc b ∧ (t.ms st).owed = [(48 * pc + b, j)])) ∧
     (∀ pc b (j0 j : Int), pc < 64 → b < 48 → m.owed = [(48 * pc + b, j0)] →
       (j < m.earliest (if (m.bank pc b).row.isSome then .pre else .refb) pc b j0 → m.paid j = m) ∧
       ((m.bank pc b).row = none → m.earliest .refb pc b j0 ≤ j →
         m.paid j = { m.apply .refb pc b 0 (m.earliest .refb pc b j0) with owed := [] })) ∧
     (∀ temp die, temp < 256 → die < 16 → ∃ t, exec (.hbmTempRead st temp die) s = .next t ∧
       onlyMsqTime s t (s.beat (beatTemp st) (1000000 * ns)) st ∧
       field (t.ms st).temp 0 8 = temp ∧ field (t.ms st).temp 8 4 = die ∧ bit (t.ms st).temp 12 = true ∧
       (t.ms st).hot = decide (85 ≤ temp)))

/-! ### Ticks, spans and crossings (03) -/

/-- A phase edge opens the next phase at its machine time (R68, R69), clears the landing frame that the phase will write (R93), turns the
router pages that PT.PAGE named (R216), and begins cycle 0 of each running compute span, or holds the span and raises 0x1002 when it has not
reached PLAN_END (R89). At the take tick of a branch point the agreed value is passed on, and the staging list goes on at its arm (R175, R176,
R281). At the end of a step that is not the job's last, the step digest is formed and the next step begins with P all ones and FS zero (R167,
R211, R213); at the end of the last one the job stops there (R178, R404, R420). With no work waiting in the spans. -/
def Obligations.PhaseEdgesOpenPhasesAndSteps : Prop :=
  ∀ (s : State) (us : List Upset), (∀ p, p < 100 → s.spanIdle p = true) →
    let P := s.tik.phaseNo + 1
    let stepEnd := s.job.running = true ∧ s.job.boundary = none ∧ P % (8 * s.stepTicks) = 0
    ∃ t, exec (.phaseEdge us) s = .next t ∧ t.tik.phaseNo = P ∧ t.tik.slotNo = P * 32 * s.k ∧
      (s.phaseTime P < 2 ^ 112 → t.tim.now.toNat = max s.tim.now.toNat (s.phaseTime P)) ∧
      (∀ sp q e, q < 4 → e < 512 → t.landAt sp q (P % 3) e = {}) ∧
      (∀ x, (t.rtr x).active = (s.rtr x).next.getD (s.rtr x).active ∧ (t.rtr x).next = none) ∧
      (∀ p, p < 100 → (s.spn p).overrun = false → (s.spn p).running = true → s.reached p = true →
        (t.spn p).cycle = 0 ∧ (t.spn p).planDone = false ∧ (t.spn p).overrun = false) ∧
      (∀ p, p < 100 → (s.spn p).overrun = false → (s.spn p).running = true → s.reached p = false →
        (t.spn p).overrun = true ∧ field (t.spn p).ovrLog 61 3 = s.phase ∧
          ∃ r, r ∈ t.flt.raised ∧ r.code = 0x1002 ∧ r.source = p) ∧
      (¬ stepEnd → t.job = { s.job with taken := t.job.taken } ∧ t.clusters = s.clusters ∧ t.digs = s.digs) ∧
      (¬ stepEnd → (s.job.running = false ∨ s.job.boundary ≠ none ∨ P % 8 ≠ 0 ∨ takesAt s.job.img s.chipOr0 (P / 8 % s.stepTicks) = none) →
        t.job = s.job ∧ t.cxl = s.cxl) ∧
      (∀ b v, ¬ stepEnd → s.job.running = true → s.job.boundary = none → P % 8 = 0 →
        takesAt s.job.img s.chipOr0 (P / 8 % s.stepTicks) = some b → s.tik.agree.find? (fun e => e.1 == b) = some (b, v) →
        Tbl.get 0 t.job.taken b = v.toNat ∧
          t.cxl = { s.cxl with arms := s.cxl.arms ++ [(b, stagingArm s.job.img s.chipOr0 b v.toNat)] }) ∧
      (stepEnd → s.stopsHere = false → t.job.stepNo = s.job.stepNo + 1 ∧
        t.job.digests = s.job.digests ++ [(s.step, s.stepDigest)] ∧ t.digs = [] ∧
        ∀ c, (t.spn (spanOf c)).overrun = false → (t.clu c).p = 0xFF ∧ (t.clu c).fs = 0 ∧ ∀ u, ((t.clu c).stream u).pos = 0 ∧ ((t.clu c).stream u).first = true) ∧
      (stepEnd → s.stopsHere = true → t.job.stepNo = s.job.stepNo ∧ t.job.boundary = some t.tim.now.toNat ∧ t.clusters = s.clusters) ∧
      t = { s with tik := t.tik, tim := t.tim, landing := t.landing, upsets := t.upsets, cwy := t.cwy, spans := t.spans, flt := t.flt,
                   job := t.job, digs := t.digs, clusters := t.clusters, pts := t.pts, msq := t.msq, olf := t.olf, cxl := t.cxl }

/-- PLAN_END_REACHED carries the span to PLAN_END and keeps the smallest slack, in quarter periods of the current step rounded down (R90). A
trip after 64 untripped cycles is one droop event (without an earlier trip, those since the clock went on count: the model's choice, log 35),
and stretching begins on the second cycle after it, also in a hold (R85, R86); a stopped clock does not stretch; after level 2 clears cycles
last 1.25 periods, once the stretching has begun; after the last trip clears the hold of eight cycles begins; at its end the period is nominal
again, with the stretched cycles since the last clear counted (R85, R86). Each changes only that span. -/
def Obligations.PlanEndsAndDroop : Prop :=
  ∀ (s : State) (p : Nat), p < 100 →
    let k := s.spn p
    (∀ left, k.running = true → k.overrun = false → s.spanIdle p = true →
      ∃ t, exec (.planEndReached p left) s = .next t ∧ onlySpan s t p ∧ (t.spn p).planDone = true ∧
        (t.spn p).cycle = max k.cycle (s.planEnd p s.tik.phaseNo) ∧
        (t.spn p).slackMin.toNat = min k.slackMin.toNat (min (left * (12 + s.tik.stepNow) / 2500) 0xFFFF)) ∧
    (∀ l2 cyc, k.stopped = false → k.l1 = false → k.l2 = false → k.mode = .nominal →
      ∃ t, exec (.droopTrip p l2 cyc) s = .next t ∧ onlySpan s t p ∧ (t.spn p).l1 = true ∧ (t.spn p).l2 = l2 ∧
        (t.spn p).mode = (if l2 then .l2 else .l1) ∧ (t.spn p).modeFrom = cyc + 2 ∧
        (t.spn p).cnt = if k.clearAt.getD 0 + 64 ≤ cyc then satInc k.cnt 0 16 1 else k.cnt) ∧
    (∀ l2 cyc, k.stopped = true →
      ∃ t, exec (.droopTrip p l2 cyc) s = .next t ∧ onlySpan s t p ∧ (t.spn p).l1 = true ∧ (t.spn p).l2 = (k.l2 || l2) ∧
        (t.spn p).mode = k.mode ∧ (t.spn p).modeFrom = k.modeFrom) ∧
    (∀ cyc, k.stopped = false → k.l2 = true → k.mode = .l2 →
      ∃ t, exec (.droopLevel2Clear p cyc) s = .next t ∧ onlySpan s t p ∧ (t.spn p).l2 = false ∧ (t.spn p).l1 = k.l1 ∧
        (t.spn p).mode = .l1 ∧ (t.spn p).modeFrom = max cyc k.modeFrom ∧
        (t.spn p).cnt = satInc k.cnt 16 32 (cyc - k.modeFrom - k.cleared)) ∧
    (∀ cyc, k.stopped = false → (k.l1 || k.l2) = true → k.mode = .l1 ∨ k.mode = .l2 →
      ∃ t, exec (.droopClear p cyc) s = .next t ∧ onlySpan s t p ∧ (t.spn p).l1 = false ∧ (t.spn p).l2 = false ∧
        (t.spn p).mode = .hold ∧ (t.spn p).clearAt = some cyc ∧ (t.spn p).modeFrom = max cyc k.modeFrom ∧
        (t.spn p).cnt = satInc k.cnt 16 32 (cyc - k.modeFrom - k.cleared)) ∧
    (∀ cyc, k.stopped = false → k.mode = .hold → cyc < k.modeFrom + 8 → k.l1 = false → k.l2 = false →
      ∃ t, exec (.droopTrip p false cyc) s = .next t ∧ onlySpan s t p ∧ (t.spn p).mode = .l1 ∧ (t.spn p).modeFrom = cyc + 2 ∧
        (t.spn p).cnt = satInc (if k.clearAt.getD 0 + 64 ≤ cyc then satInc k.cnt 0 16 1 else k.cnt) 16 32
          (min (cyc + 2 - k.modeFrom) 8 - k.cleared)) ∧
    (∀ cyc, k.stopped = false → k.mode = .hold → k.modeFrom + 8 ≤ cyc →
      ∃ t, exec (.stretchHoldEnd p cyc) s = .next t ∧ onlySpan s t p ∧ (t.spn p).mode = .nominal ∧
        (t.spn p).cnt = satInc k.cnt 16 32 (8 - k.cleared))

/-- A crossing write that lands in time writes its free halves, with its empty mark, tag and descriptor (R93, R94); a half that is written
already keeps its first data and 0x1004 is raised (R95); a write that lands after its frame's phases raises 0x1003 and writes nothing (R96).
The write leaves the mesh. -/
def Obligations.CrossingWritesLand : Prop :=
  ∀ (s : State) (i : Nat) (w : MeshWrite), s.mesh[i]? = some w → w.phase ≤ s.tik.phaseNo →
    let e := s.landAt w.span w.q (w.phase % 3) w.entry
    ∃ t, exec (.crossingWriteLand i) s = .next t ∧ t.mesh = s.mesh.eraseIdx i ∧
      (s.tik.phaseNo < w.phase + 2 → (w.half0 = true → e.w0 = false) → (w.half1 = true → e.w1 = false) →
        let e' := t.landAt w.span w.q (w.phase % 3) w.entry
        e'.w0 = (e.w0 || w.half0) ∧ e'.w1 = (e.w1 || w.half1) ∧
          (w.half0 = true → e'.h0 = w.data.take 64 ∧ e'.e0 = w.empty ∧ e'.tag = w.tag ∧ e'.desc = w.desc) ∧
          (w.half1 = true → e'.h1 = slice w.data 64 64 ∧ e'.e1 = w.empty ∧ e'.tag = w.tag ∧ e'.desc = w.desc) ∧
          (∀ u ∈ t.upsets, u ∈ s.upsets) ∧
          (∀ u ∈ s.upsets, u ∉ t.upsets → u.area = .landing ∧ u.line = landKey w.span w.q (w.phase % 3) w.entry) ∧
          t = { s with mesh := t.mesh, landing := t.landing, upsets := t.upsets }) ∧
      (s.tik.phaseNo < w.phase + 2 → w.half0 = true → e.w0 = true →
        (t.landAt w.span w.q (w.phase % 3) w.entry).h0 = e.h0 ∧ raisedOne s t 0x1004 w.span ∧ (t.spn w.span).xqFault = true) ∧
      (w.phase + 2 ≤ s.tik.phaseNo →
        t.landing = s.landing ∧ t.upsets = s.upsets ∧ raisedOne s t 0x1003 w.span ∧ (t.spn w.span).xqFault = true) ∧
      t = { s with mesh := t.mesh, landing := t.landing, upsets := t.upsets, spans := t.spans, flt := t.flt }

/-- Keystones (R76, R77, R80 to R83). An arm takes TIK_KEY_TICK and TIK_KEY_ACT when the tick's edge lies at least 100 µs ahead, and is
refused with 0x6002 otherwise; a disarm drops it. A wanted step is clamped to the top step, and held while it lies below the rated step of a
running job. A standing keystone lowers the step of a running job and the rail follows; a pending abort or an overrun carries the change over;
an armed start fires once GO has come, after the commit and the step change of its keystone, and tick 0 begins, where these leave the step no
lower than the rated step (R75, R78). That standing keystones are not counted as fired, and a blocked one only where a change was due, is the
model's choice (log 38), and so is SOURCE 112 of fault 0x6002 (log 70). -/
def Obligations.KeystonesAct : Prop :=
  ∀ s : State, s.hst.st ≠ stResetting → s.hst.waiting = [] →
    (s.silentAt 0x20030 = false → s.tim.now.toNat + 100000 * ns ≤ s.tickTime s.tik.keyTick.toNat →
      exec .tikKeyArm s = .next { s with tik := { s.tik with keyArmed := true, armTick := s.tik.keyTick.toNat, armAct := s.tik.keyAct } }) ∧
    (s.silentAt 0x20030 = false → s.tickTime s.tik.keyTick.toNat < s.tim.now.toNat + 100000 * ns →
      ∃ t, exec .tikKeyArm s = .next t ∧ raisedOne s t 0x6002 112 ∧ t = { s with flt := t.flt }) ∧
    (s.silentAt 0x20030 = false → exec .tikKeyDisarm s = .next { s with tik := { s.tik with keyArmed := false } }) ∧
    (∀ fw v, s.silentAt 0x20038 = false → ∃ t, exec (.tikStepSetWrite fw v) s = .next t ∧
      t.tik.stepSet.toNat = min (field v 0 4) s.topStep ∧ t.tik.held = (s.job.running && decide (min (field v 0 4) s.topStep < s.rated)) ∧
      (t.tik.held = true → t.tik.stepNow = s.tik.stepNow) ∧
      t = { s with tik := t.tik, pwr := t.pwr, pins := t.pins, cfg := t.cfg, flt := t.flt }) ∧
    (s.tik.keyArmed = false → s.phase = 0 → s.tick % 2 ^ s.kp = 0 → s.keyBlocked = false → s.job.running = true →
      s.rated ≤ s.tik.stepSet.toNat → s.tik.stepSet.toNat < s.tik.stepNow → s.tik.stepNow ≤ 10 →
      ∃ t, exec .keystoneTick s = .next t ∧ t.tik.stepNow = s.tik.stepSet.toNat ∧ t.tik.cnt = satInc s.tik.cnt 32 16 1 ∧
        field t.pwr.core 0 12 = 620 + 23 * s.tik.stepSet.toNat ∧ t = { s with tik := t.tik, pwr := t.pwr, pins := t.pins }) ∧
    (s.tik.keyArmed = false → s.phase = 0 → s.tick % 2 ^ s.kp = 0 → s.keyBlocked = true → s.tik.stepSet.toNat ≠ s.tik.stepNow →
      exec .keystoneTick s = .next { s with tik := { s.tik with cnt := satInc s.tik.cnt 16 16 1, carry := true } }) ∧
    (∀ p, s.tik.keyArmed = true → bit s.tik.armAct 1 = true → s.job.running = false → s.plc.proposal = some p → p.go = true →
      (s.advance (p.epoch * ns)).keyBlocked = false →
      (let u := ((s.advance (p.epoch * ns)).updTik (fun t => { t with keyArmed := false })).commitAndStep (bit s.tik.armAct 0) true
       u.rated ≤ u.tik.stepNow) →
      ∃ t, exec .keystoneTick s = .next t ∧ t.job.running = true ∧ t.job.stepNo = 0 ∧ t.hst.st = stRunning ∧ t.tik.running = true ∧
        t.tik.phaseNo = 0 ∧ t.tik.keyArmed = false ∧ t.landing = [] ∧ t.mesh = [] ∧ (∀ x, x < 114 → (t.spn x).running = true) ∧
        t = { s with
          tim := t.tim
          tik := t.tik
          spans := t.spans
          clusters := t.clusters
          digs := t.digs
          landing := t.landing
          mesh := t.mesh
          upsets := t.upsets
          pts := t.pts
          cwy := t.cwy
          olf := t.olf
          msq := t.msq
          cxl := t.cxl
          svc := t.svc
          plc := t.plc
          flt := t.flt
          job := t.job
          hst := t.hst
          pwr := t.pwr
          pins := t.pins
          cfg := t.cfg })

/-! ### Registers (02, 03, 16) -/

/-- The clear commands (R17): bit 0 clears the counters and logs that each block's table names, and bit 0 at 0 clears nothing. Reserved bits
written as 1 are counted, in one place for every register (R448; log 43). While the module is RESETTING every write of its host is dropped
(R432). -/
def Obligations.ClearCommandsClear : Prop :=
  (∀ (s : State) (v : Reg), s.hst.st ≠ stResetting →
    let s' := s.notedRsvd v 1
    let clears := fun (i : Instr) (f : State → State) => exec i s = .next (if bit v 0 then f s' else s')
    (s.silentAt 0x10120 = false → clears (.timClear v) (fun u => { u with tim := { u.tim with cnt := 0 } })) ∧
    (s.silentAt 0x20048 = false → clears (.tikClear v) (fun u => { u with tik := { u.tik with cnt := 0 } })) ∧
    (∀ p, p < 114 → s.silentAt (0x30020 + p * 0x100) = false →
      clears (.spnClear p v) (fun u => u.setSpn p { s.spn p with cnt := 0, slackMin := 0xFFFF, cleared := s.stretched (s.spn p) })) ∧
    (∀ c, c < 800 → s.silentAt (0x100020 + c * 0x100) = false →
      clears (.cluClear c v) (fun u => u.setClu c { s.clu c with eccCnt := 0, eccLog := 0 })) ∧
    (∀ st, st < 4 → s.silentAt (0x40060 + st * 0x1000) = false →
      clears (.msqClear st v) (fun u => u.setMs st { s.ms st with cnt := 0, eccCnt := 0, eccLog := 0, refMax := 0x18 })) ∧
    (s.silentAt 0x80040 = false → clears (.cxlClear v) (fun u => { u with cxl := { u.cxl with stgCnt := 0 } })) ∧
    (∀ p, p < 6 → s.silentAt (0x50040 + p * 0x100) = false →
      ∃ t, exec (.olfClear p v) s = .next t ∧ t = { s' with olf := t.olf } ∧ (bit v 0 = false → t = s') ∧
        (bit v 0 = true → (t.port p).cnt = 0 ∧ (t.port p).cnt2 = 0)) ∧
    (∀ p, p < 6 → s.silentAt (0x60018 + p * 0x100) = false →
      clears (.cwyClear p v) (fun u => u.setRtr p { s.rtr p with cnt := 0, cnt2 := 0 })) ∧
    clears (.svcClear v) (fun u => { u with svc := { u.svc with cnt := 0, cnt2 := 0 } }) ∧
    clears (.plcClear v) (fun u => { u with plc := { u.plc with cnt := 0 } }) ∧
    clears (.hstClear v) (fun u => { u with hst := { u.hst with cnt := 0, diagLog := 0 } }) ∧
    clears (.fltClear v) (fun u => { u with flt := { u.flt with cnt := 0, cnt2 := 0 } }) ∧
    clears (.cfgClear v) (fun u => { u with cfg := { u.cfg with cnt := 0, aszLog := 0, violLog := 0, clampLog := 0 } }) ∧
    clears (.pwrClear v) (fun u => { u with pwr := { u.pwr with cnt := 0, log := 0 } }) ∧
    clears (.secClear v) (fun u => { u with sec := { u.sec with cnt := 0 } })) ∧
  (∀ (s : State) (v : Reg), s.hst.st = stResetting →
    (∀ i ∈ [Instr.timStep v, .timCtlWrite v, .timEthLatWrite v, .timClear v, .tikKeyArm, .tikKeyDisarm, .tikStepSetWrite false v, .tikClear v,
        .cxlClear v, .svcCtlWrite v, .svcClear v, .plcClear v, .hstCtlWrite v, .hstClear v, .fltClear v, .cfgPersist, .cfgForget, .cfgCompact,
        .cfgClear v, .cfgAszTRefWrite v, .pwrClear v, .secDbgChallenge, .secDbgUnlock, .secClear v, .commandRingDoorbell false v,
        .commandRingDoorbell true v, .completionDoorbell v, .eventDoorbell v, .mailboxDoorbell v],
      exec i s = .next s) ∧
    (∀ r, exec (.registerWrite r v) s = .next s ∧ exec (.shadowWrite false r v) s = .next s) ∧
    (∀ p, p < 6 → exec (.olfClear p v) s = .next s ∧ exec (.olfCtlWrite p v) s = .next s ∧ exec (.olfDownCmd p) s = .next s ∧
      exec (.olfRetrainCmd p) s = .next s ∧ exec (.cwyClear p v) s = .next s ∧ exec (.cfgGrpRefWrite false p v) s = .next s) ∧
    (∀ st, st < 4 → exec (.msqClear st v) s = .next s ∧ exec (.msqScrub st v) s = .next s) ∧
    (∀ ofs size, exec (.diagWindowAccess true ofs size v) s = .next s ∧
      exec (.diagWindowAccess false ofs size v) s = .next { s with hst := { s.hst with diagAns := some 0 } }) ∧
    (∀ ofs len d, exec (.transferAreaAccess true ofs len d) s = .next s))

/-- TIM_STEP adds its value to machine time when no job is armed or running and the module is not time-good or in manual mode; any other write
is refused with 0x7002 and writes no increment (R54, R55). TIM_CTL takes its fields, and entry to manual mode ends time-good; manual mode is
refused while a job is armed or running (R56). TIM_ETH_LAT is stored and marked as set by the host (R62). -/
def Obligations.MachineTimeRegisterWrites : Prop :=
  ∀ (s : State) (v : Reg), s.hst.st ≠ stResetting →
    (s.silentAt 0x10020 = false → s.busy = false → (s.tim.good = false ∨ field s.tim.ctl 0 2 = 1) →
      ∃ t, exec (.timStep v) s = .next t ∧ t.tim.now = BitVec.ofInt 112 ((s.tim.now.toNat : Int) + v.toInt * 2 ^ 32) ∧
        t.tim.cnt = satInc s.tim.cnt 0 16 1 ∧ t.tim.inc = s.tim.inc ∧ t = { s with tim := t.tim, hst := t.hst }) ∧
    (s.silentAt 0x10020 = false → (s.busy = true ∨ s.tim.good = true ∧ field s.tim.ctl 0 2 ≠ 1) →
      ∃ t, exec (.timStep v) s = .next t ∧ raisedOne s t 0x7002 srcToll ∧ bit t.cfg.violLog 63 = true ∧
        t = { s with cfg := t.cfg, flt := t.flt }) ∧
    (s.silentAt 0x10000 = false → v.toNat < 32 → field v 0 2 ≤ 1 → field v 2 2 ≤ 2 → (field v 0 2 = 1 → s.busy = false) →
      ∃ t, exec (.timCtlWrite v) s = .next t ∧ field t.tim.ctl 0 5 = v.toNat ∧ bit t.tim.ctl 5 = bit s.tim.ctl 5 ∧
        t.tim.good = (s.tim.good && !(field v 0 2 == 1 && field s.tim.ctl 0 2 == 0)) ∧ t.tim.now = s.tim.now ∧
        t = { s with tim := t.tim, cfg := t.cfg, hst := t.hst }) ∧
    (s.silentAt 0x10000 = false → field v 0 2 = 1 → s.busy = true →
      ∃ t, exec (.timCtlWrite v) s = .next t ∧ raisedOne s t 0x7002 srcToll ∧ t = { s with cfg := t.cfg, flt := t.flt }) ∧
    (s.silentAt 0x10110 = false →
      ∃ t, exec (.timEthLatWrite v) s = .next t ∧ t.tim.ethLat = v &&& 0xFFFFFFFF ∧ bit t.tim.ctl 5 = true ∧ t.cfg.tStale = true ∧
        t = { s with tim := t.tim, cfg := t.cfg })

/-! ### Machine time (02) -/

/-- A beacon is 48 bytes with version 1, the sender's SEQ and a CRC-32 over bytes 0 to 43 (R40); at the next multiple of 2,048 ns one goes out
on every port whose link carries beacons, before the messages of other kinds that wait there (R301), its SEQ rises by 1, and its transmit
timestamp is kept (R38 to R41). -/
def Obligations.BeaconsAreSent : Prop :=
  ∀ (s : State) (p x : Nat), p < 6 →
    (s.beacon p).length = 48 ∧ leAt (s.beacon p) 0 2 / 4096 = 1 ∧ leAt (s.beacon p) 2 2 = (s.bcn p).txSeq.toNat ∧
    BitVec.ofNat 32 (leAt (s.beacon p) 44 4) = crc32 ((s.beacon p).take 44) ∧
    (s.beacons p = true →
      ∃ t, exec (.beaconSend [(p, x)]) s = .next t ∧ (t.bcn p).txSeq = (s.bcn p).txSeq + 1 ∧
        (t.bcn p).sent = (((s.bcn p).txSeq, x) :: (s.bcn p).sent).take 8 ∧
        (∃ b, (t.port p).msgs = (s.port p).msgs.filter (fun m => m.msg == 1) ++ ⟨1, b⟩ :: (s.port p).msgs.filter (fun m => m.msg != 1) ∧
          b.take 48 = s.beacon p) ∧
        (∀ q, q < 6 → s.beacons q = true → (t.bcn q).txSeq = (s.bcn q).txSeq + 1) ∧
        (∀ q, s.beacons q = false → t.bcn q = s.bcn q ∧ t.port q = s.port q) ∧
        (let r := roundUp s.tim.now.toNat (2048 * ns)
         r + 2048 * ns < 2 ^ 112 → t.tim.now.toNat = if (beatBeacon, r) ∈ s.tim.beats then r + 2048 * ns else r) ∧
        t = { s with tim := t.tim, olf := t.olf })

/-- A beacon with a bad CRC, version or length is discarded and counted, and gives no sample (R41); so is one whose echo names no beacon sent
within the last eight periods, which is still echoed next (log 16). One whose echo names such a beacon gives the port's advertisement and,
when it completes one, an exchange (R41, R42); it is echoed next (R40). The exchange of R42: with no asymmetry declared, the offset is half
the difference of the two directions and the delay half their sum. In the model's units both are twice the value, times 125. -/
def Obligations.BeaconsGiveExchanges : Prop :=
  (∀ (s : State) (p rx : Nat) (b : List Byte), p < 6 → s.beacons p = true →
     let good := b.length = 48 ∧ crc32 (b.take 44) = BitVec.ofNat 32 (leAt b 44 4) ∧ leAt b 0 2 / 4096 = 1
     (¬ good → exec (.beaconReceive p b rx) s = .next { s with tim := { s.tim with cnt := satInc s.tim.cnt 32 16 1 } }) ∧
     (good → (∀ x ∈ (s.bcn p).sent, x.1.toNat = leAt b 26 2 → x.2 + 8 * 2048 * 65536 < s.now16) →
       ∃ t, exec (.beaconReceive p b rx) s = .next t ∧ t.bcn p = { s.bcn p with lastRx := some (BitVec.ofNat 16 (leAt b 2 2), rx) } ∧
         t.tim.cnt = satInc s.tim.cnt 32 16 1 ∧ t = { s with tim := { s.tim with cnt := t.tim.cnt, ports := t.tim.ports } }) ∧
     (good → (∃ x ∈ (s.bcn p).sent, x.1.toNat = leAt b 26 2 ∧ s.now16 ≤ x.2 + 8 * 2048 * 65536) →
       ∃ t, exec (.beaconReceive p b rx) s = .next t ∧ (t.bcn p).lastRx = some (BitVec.ofNat 16 (leAt b 2 2), rx) ∧
         (t.bcn p).lastOk = some (BitVec.ofNat 16 (leAt b 2 2), rx) ∧
         (t.bcn p).adv = some (advertOf b, s.now16) ∧
         (t.bcn p).exch = (s.bcn p).exch ++ (exchangeOf (s.bcn p) b (s.asymOf p)).toList ∧ t.tim.now = s.tim.now ∧
         t = { s with tim := t.tim, hst := t.hst, flt := t.flt })) ∧
  (∀ (b : BeaconPort) (bytes : List Byte) (q m : BitVec 16) (t1 t4 : Nat),
     b.sent = [(q, t1)] → b.lastOk = some (m, t4) → leAt bytes 26 2 = q.toNat → m + 1 = BitVec.ofNat 16 (leAt bytes 2 2) →
     let t2 : Int := stampAt bytes 28
     let t3 : Int := stampAt bytes 16
     exchangeOf b bytes 0 = some (125 * ((t2 - t1) - (t4 - t3)), 125 * ((t2 - t1) + (t4 - t3))))

/-- The end of a window (R43, R52, R53, R57, R58): each port's exchanges are averaged, fewer than 8 give no result; a port in MEASURE counts
the windows that give one (R295); a settled module steers: F moves by at most 0.1 ppb, P stays within 50 ppb, and a θ above 2 ns ends
time-good with 0x4001. -/
def Obligations.WindowsAverageAndSteer : Prop :=
  ∀ s : State, ∃ t, exec .timeWindowEnd s = .next t ∧
    (∀ p, p < 6 → (t.bcn p).exch = [] ∧
      (t.bcn p).phi = if (s.bcn p).exch.length < 8 then none
        else some (divRound (((s.bcn p).exch.map (·.1)).sum * 720720) (s.bcn p).exch.length)) ∧
    (∀ a at_ phi, s.manual = false → s.tim.isRoot = false → s.tim.parent < 6 → s.tim.acq = .settled → s.tim.good = true →
      (s.bcn s.tim.parent).adv = some (a, at_) → (t.bcn s.tim.parent).phi = some phi →
      let theta := a.residual * 180180000 - phi
      t.tim.theta = theta ∧ t.tim.slew = clampInt (-50 * ppb) (50 * ppb) (-1000000 * theta) ∧
      t.tim.freq = clampInt (-10000 * ppb) (10000 * ppb) (s.tim.freq + clampInt (-(ppb / 10)) (ppb / 10) (-256 * theta)) ∧
      t.tim.inc = incOf (t.tim.freq + t.tim.slew) ∧
      (theta.natAbs ≤ 2 * thetaNs.toNat → t.tim.good = true ∧ t.tim.offsetWide = decide (thetaNs.toNat < 2 * theta.natAbs)) ∧
      (2 * thetaNs.toNat < theta.natAbs → t.tim.good = false ∧ raisedOne s t 0x4001 112)) ∧
    (∀ p, p < 6 → t.port p = { s.port p with
      windows := if (s.port p).st = 5 ∧ 8 ≤ (s.bcn p).exch.length then (s.port p).windows + 1 else (s.port p).windows }) ∧
    t = { s with tim := t.tim, hst := t.hst, flt := t.flt, olf := t.olf }

/-- Roots, parents and holdover (R45 to R50, R57): a root raises its count when that is due; a parent that is lost, with no root and no other
parent in sight, leaves holdover with 0x4002; 4.194304 ms in holdover end time-good with 0x4004; a lost root's advertisements are discarded.
Which of the lost root's advertisements are discarded (log 45), what the module gives in holdover (log 72) and the times of periodic work (log
97) are the model's. -/
def Obligations.RootsParentsAndHoldover : Prop :=
  ∀ s : State,
    (s.tim.isRoot = true → exec .announceIncrement s =
      .next { s with tim := { (s.beat beatAnnounce (1048576 * ns)).tim with announce := s.tim.announce + 1 } }) ∧
    (s.tim.parent < 6 → s.tim.isRoot = false → s.tim.holdover = false → field s.tim.prio 0 8 = 0 → (∀ p, p ≠ s.tim.parent → (s.bcn p).adv = none) →
      ∃ t, exec .parentLoss s = .next t ∧ t.tim.holdover = true ∧ t.tim.parent = 7 ∧ t.tim.good = s.tim.good ∧ raisedOne s t 0x4002 112 ∧
        t = { s with tim := t.tim, flt := t.flt, hst := t.hst }) ∧
    (s.tim.holdover = true → s.tim.good = true →
      ∃ t, exec .holdoverExpiry s = .next t ∧ t.tim.good = false ∧ raisedOne s t 0x4004 112 ∧
        (s.tim.holdSince + 4194304 * ns < 2 ^ 112 → s.tim.holdSince + 4194304 * ns ≤ t.tim.now.toNat) ∧
        t = { s with tim := t.tim, flt := t.flt, hst := t.hst }) ∧
    (s.tim.isRoot = false → s.tim.rootId ≠ 0 →
      ∃ t, exec .rootLoss s = .next t ∧ (s.tim.rootId, s.tim.announce) ∈ t.tim.dead ∧
        t = { s with tim := t.tim, flt := t.flt, hst := t.hst })

/-- The follower and 1PPS (R37, R65, R66, R502, R503): the follower is good within 1.0 ns; 1PPS out rises at the integer second when PPS_OUT,
time-good and the follower permit, and falls 1 µs later, or with FOLLOWER_OK; an edge in less than half a second after the last is discarded
with 0x4003; 2.5 s without one at a root with ROOT_SRC 2 leave PTP_LOCK clear. -/
def Obligations.FollowerAndPulsePerSecond : Prop :=
  ∀ s : State,
    (∀ err, s.ucie.up0 = true → ∃ t, exec (.followerSteer err) s = .next t ∧ t.tim.followerOk = decide (-65536 ≤ err ∧ err ≤ 65536) ∧
      t.tim.folErr = err ∧ t = { s with tim := t.tim, hst := t.hst }) ∧
    (∃ t, exec .ppsOutEdge s = .next t ∧ t.ppsOut = (bit s.tim.ctl 4 && s.tim.good && s.tim.followerOk) ∧
      (∀ u : State, u.pins = t.pins → t.tim.now.toNat ≤ u.tim.now.toNat →
        u.ppsOut = (t.ppsOut && u.tim.followerOk && decide (u.tim.now.toNat < t.tim.now.toNat + 1000 * ns))) ∧
      (roundUp s.tim.now.toNat (1000000000 * ns) + 1000000000 * ns < 2 ^ 112 →
        t.tim.now.toNat % (1000000000 * ns) = 0 ∧ s.tim.now.toNat ≤ t.tim.now.toNat) ∧
      t = { s with tim := (s.alignedBeat beatPulse (1000000000 * ns)).tim, pins := { s.pins with ppsRise := t.pins.ppsRise } }) ∧
    (∀ q u, s.tim.ppsIn = some u → q * 16384 < u + 500000000 * 65536 →
      ∃ t, exec (.ppsInEdge q) s = .next t ∧ raisedOne s t 0x4003 srcToll ∧ t = { s with flt := t.flt }) ∧
    (∀ q, (∀ u, s.tim.ppsIn = some u → u + 500000000 * 65536 ≤ q * 16384) →
      ∃ t, exec (.ppsInEdge q) s = .next t ∧ t.tim.ppsIn = some (q * 16384) ∧ t = { s with tim := t.tim, hst := t.hst, flt := t.flt }) ∧
    (s.tim.isRoot = true → field s.tim.ctl 2 2 = 2 →
      ∃ t, exec .ppsInTimeout s = .next t ∧ t.tim.ptpLock = false ∧ t.tim.ppsIn = none ∧ t = { s with tim := t.tim, hst := t.hst })

/-- The management Ethernet (R62 to R64): a frame of any length goes out with its FCS, and every frame sent or received is completed by a
32-byte write-back with its length, tag, timestamp, error kind, time status and, where it parses as PTP, PTP_PARSED; a one-step Sync carries
its own timestamp at the offset asked for, here in a frame without UDP; a trained lane sets TIM_ETH_LAT by the FEC mode unless the host has
set it. That LEN leaves the FCS out is the model's choice (log 105). -/
def Obligations.ManagementEthernetFrames : Prop :=
  ∀ (s : State) (f : List Byte) (tag : BitVec 16) (e : EthErr),
    let completes := fun (wb : List Byte) =>
      wb.length = 32 ∧ leAt wb 0 2 = f.length % 65536 ∧ leAt wb 4 2 = tag.toNat ∧
      leAt wb 8 8 = s.follower32 / 2 ^ 32 % 2 ^ 64 ∧ leAt wb 16 4 = s.follower32 % 2 ^ 32 ∧
      leAt wb 2 1 = 7 + (match e with
        | .none => 0
        | .fcs => 16 + 32
        | .length => 16 + 64
        | .fec => 16 + 96
        | .underrun => 16 + 128) ∧
      leAt wb 20 1 = (if s.tim.good then 1 else 0) + (if s.tim.holdover || !s.ucie.up0 then 2 else 0) + (if s.tim.tai then 4 else 0) +
        (if s.tim.followerOk then 8 else 0) ∧
      (leAt wb 27 1 / 16 % 2 = 1 ↔ (ptpAt f).isSome = true)
    (∃ t wb, exec (.ethFrameTransmit f tag .none e) s = .next t ∧ t.eth.out = s.eth.out ++ [f ++ leBytes (crc32 f).toNat 4] ∧
      t.eth.txWb = s.eth.txWb ++ [wb] ∧ completes wb ∧ t = { s with eth := t.eth }) ∧
    (∀ o, udpAt f = none → o + 10 ≤ f.length →
      let g := f.take o ++ (beBytes (s.follower / 65536 / 1000000000) 6 ++ beBytes (s.follower / 65536 % 1000000000) 4) ++ f.drop (o + 10)
      udpAt g = none →
      ∃ t, exec (.ethFrameTransmit f tag (.sync o) e) s = .next t ∧ t.eth.out = s.eth.out ++ [g ++ leBytes (crc32 g).toNat 4] ∧
        t = { s with eth := t.eth }) ∧
    (∃ t wb, exec (.ethFrameReceive f tag e none) s = .next t ∧ t.eth.rxWb = s.eth.rxWb ++ [wb] ∧ completes wb ∧
      t = { s with eth := t.eth }) ∧
    (∀ fec, ∃ t, exec (.mgmtLaneTrain fec) s = .next t ∧ t.eth.fec = some fec ∧
      t.tim.ethLat = (if bit s.tim.ctl 5 then s.tim.ethLat else match fec with
        | .none => 0x01400100
        | .clause74 => 0x02C00140
        | .clause108 => 0x050001C0) ∧ t = { s with eth := t.eth, tim := t.tim })

/-! ### Registers, configuration and security (11, 12, 16, 18) -/

/-- OLF_CMD retrains a link that is up, with 0x2003, or takes a link down; it is refused while a job is armed or running (R320, R327). A
cleared ENABLE takes the port down (R327). SVC_CTL keeps its read-write fields; its read-only bits are those of the loaded page sets (R361). -/
def Obligations.LinkAndServiceControlWrites : Prop :=
  ∀ (s : State) (v : Reg), s.hst.st ≠ stResetting →
    (∀ p, p < 6 → s.silentAt (0x50050 + p * 0x100) = false → s.busy = false →
      ((s.port p).st = linkUp → (s.port p).retrains = [] → ∃ t, exec (.olfRetrainCmd p) s = .next t ∧ (t.port p).st = 7 ∧
        (t.port p).retrain = true ∧ (t.port p).replay = [] ∧ (∃ r ∈ t.flt.raised, r.code = 0x2003 ∧ r.source = 104 + p) ∧
        (t.port p).cnt = satInc (s.port p).cnt 32 8 1 ∧ (∀ x, x ≠ p → s.svc.waiting = [] → t.port x = s.port x) ∧
        (s.svc.waiting = [] → t = { s with olf := t.olf, svc := t.svc, flt := t.flt })) ∧
      ((s.port p).st ≠ 0 → ∃ t, exec (.olfDownCmd p) s = .next t ∧ (t.port p).st = 0 ∧ (t.port p).lock = false ∧ (t.port p).replay = [] ∧
        (t.bcn p).adv = none ∧ (s.svc.waiting = [] → s.electing = false → t = { s with olf := t.olf, svc := t.svc, tim := t.tim }))) ∧
    (∀ p, p < 6 → s.silentAt (0x50050 + p * 0x100) = false → s.busy = true →
      (∃ t, exec (.olfRetrainCmd p) s = .next t ∧ raisedOne s t 0x7002 srcToll ∧ t = { s with cfg := t.cfg, flt := t.flt }) ∧
      (∃ t, exec (.olfDownCmd p) s = .next t ∧ raisedOne s t 0x7002 srcToll ∧ t = { s with cfg := t.cfg, flt := t.flt })) ∧
    (∀ p, p < 6 → s.silentAt (0x50000 + p * 0x100) = false → v.toNat < 8 →
      ∃ t, exec (.olfCtlWrite p v) s = .next t ∧ (t.port p).ctl = v ∧ (bit v 0 = false → (t.port p).st = 0) ∧
        (bit v 0 = true → (t.port p).st = (s.port p).st) ∧ t.cfg.tStale = true ∧
        (bit v 0 = true → (∀ x, x ≠ p → t.port x = s.port x) ∧ t = { s with olf := t.olf, cfg := { s.cfg with tStale := true } })) ∧
    (v &&& ~~~0xFFFF07 = 0 → 10 ≤ field v 8 16 → field v 8 16 ≤ 10000 →
      exec (.svcCtlWrite v) s = .next { s with
        svc := { s.svc with ctl := v &&& 0xFFFF04 }
        cfg := { s.cfg with tStale := true } }) ∧
    s.regValue 0x70000 = some (s.svc.ctl ||| at_ s.svcRes 0 2)

/-- The configuration commands (R450, R451, R458, R465, R467): PERSIST and FORGET append their records for a register of region 6, COMPACT
begins or waits for the spare bank, a group's reference and shadow are stored and mark the group dirty, the shadow's acknowledgement with the
number of its commit (R28), and host software may not write groups 0 and 1. -/
def Obligations.ConfigurationWrites : Prop :=
  ∀ s : State, s.hst.st ≠ stResetting →
    let r := field s.cfg.persistOfs 0 36
    (inRegion6 r = true → s.cfg.takes jrRegister 16 = true →
      ∃ t x, exec .cfgPersist s = .next t ∧ t.cfg.bank = s.cfg.bank.add x ∧ x.ty = jrRegister ∧ x.seq = s.cfg.nextSeq ∧
        x.payload = leBytes r 8 ++ leBytes ((s.regValue r).getD 0).toNat 8 ∧ t = { s with cfg := t.cfg }) ∧
    (inRegion6 r = true → s.cfg.takes jrForget 8 = true →
      ∃ t x, exec .cfgForget s = .next t ∧ t.cfg.bank = s.cfg.bank.add x ∧ x.ty = jrForget ∧ x.payload = leBytes r 8 ∧ t = { s with cfg := t.cfg }) ∧
    (s.cfg.compacting = false →
      ∃ t, exec .cfgCompact s = .next t ∧
        (s.cfg.spareReady = true → t.cfg.compacting = true ∧ t.cfg.spareReady = false ∧ t.cfg.compactSeq = s.cfg.nextSeq ∧ t.cfg.bank = s.cfg.bank ∧
          t.cfg.spare = s.openBank (s.cfg.bank.count + 1) ∧ t = { s with cfg := t.cfg }) ∧
        (s.cfg.spareReady = false → t = { s with cfg := { s.cfg with compactDue := true } })) ∧
    (s.cfg.compacting = true → exec .cfgCompact s = .next s) ∧
    (∀ v, exec (.cfgAszTRefWrite v) s = .next { s with cfg := { s.cfg with tRef := v, tStale := false } }) ∧
    (∀ fw g v, g < 6 → (fw = true ∨ 2 ≤ g) →
      ∃ t, exec (.cfgGrpRefWrite fw g v) s = .next t ∧ Tbl.get 0 t.cfg.grpRef g = v ∧ g ∈ t.cfg.dirty ∧ t.cfg.shadow = s.cfg.shadow ∧
        t = { s with cfg := t.cfg }) ∧
    (∀ g v, g < 2 → ∃ t, exec (.cfgGrpRefWrite false g v) s = .next t ∧ t.cfg.grpRef = s.cfg.grpRef ∧ raisedOne s t 0x7002 srcToll ∧
      t = { s with cfg := t.cfg, flt := t.flt }) ∧
    (∀ fw r g i v, groupOf r = some (g, i) → (fw = true ∨ 2 ≤ g) → (fw = true ∨ s.silentAt r = false) → i < (s.groupShadow g).length →
      ∃ t, exec (.shadowWrite fw r v) s = .next t ∧ (t.groupShadow g)[i]? = some (v &&& nth 0 (shMasks g) i) ∧ g ∈ t.cfg.dirty ∧
        t.cfg.ackNo = s.cfg.commitNo + (if s.cfg.capturing then 2 else 1) ∧ (∀ x, t.groupLive x = s.groupLive x) ∧ t = { s with cfg := t.cfg }) ∧
    (∀ r g i v, groupOf r = some (g, i) → g < 2 → s.silentAt r = false →
      ∃ t, exec (.shadowWrite false r v) s = .next t ∧ t.cfg.shadow = s.cfg.shadow ∧ raisedOne s t 0x7002 srcToll ∧
        t = { s with cfg := t.cfg, flt := t.flt })

/-- The debug port's unlock (R493): a challenge is 32 fresh random bytes; a good token for a permitted level unlocks it until the next reset,
uses the challenge and is journaled, and a level 3 unlock erases the attestation key; a bad token, a level above the fused one, level 0, or a
fourth failure is refused with 0x7003 and leaves the level. -/
def Obligations.DebugUnlockNeedsAToken : Prop :=
  ∀ s : State, s.hst.st ≠ stResetting →
    (exec .secDbgChallenge s = .next { s with
        freeCtr := s.freeCtr + 32
        sec := { s.sec with chal := (range' s.freeCtr 32).map Config.freeByte, fresh := true } }) ∧
    (let level := field s.sec.level 0 2
     let may := s.sec.fails < 3 ∧ s.busy = false ∧ level ≤ s.sec.fuses.dbgMax ∧ 1 ≤ level
     (may → s.tokenGood level = true → s.cfg.takes jrSecurity 1 = true →
       ∃ t x, exec .secDbgUnlock s = .next t ∧ t.sec.debug = max s.sec.debug level ∧ t.sec.fresh = false ∧ t.sec.fails = s.sec.fails ∧
         t.cfg.bank = s.cfg.bank.add x ∧ x.ty = jrSecurity ∧ (level = 3 → t.sec.akValid = false) ∧ t = { s with sec := t.sec, cfg := t.cfg }) ∧
     (¬ (may ∧ s.tokenGood level = true) →
       ∃ t, exec .secDbgUnlock s = .next t ∧ t.sec.debug = s.sec.debug ∧ t.sec.fresh = false ∧
         t.sec.fails = (if may then min 3 (s.sec.fails + 1) else s.sec.fails) ∧ raisedOne s t 0x7003 srcToll ∧
         t = { s with sec := t.sec, flt := t.flt }))

/-! ### The host interface (14) -/

/-- A completion carries the tag, opcode, STATUS, fault code, index, detail and result of its command (R396). A ring command's waits to be
posted; a mailbox command's stands in HST_MBOX_CPL with vector 2 (R411, R412); one consumed before the interface was reset is discarded
(R387). The oldest completion goes to its ring when there is room, and vector 0 is signalled where the command asks (R394, R412). -/
def Obligations.CompletionsAreFormedAndPosted : Prop :=
  ∀ s : State,
    (∀ i h n st f d r, hdrOf i = some h → h.via ≠ .mbox → ⟨i, n⟩ ∉ s.hst.orphans →
      s.finish ⟨i, n⟩ st f d r = { s with hst := { s.hst with
        running := s.hst.running.erase ⟨i, n⟩
        orphans := s.hst.orphans.erase ⟨i, n⟩
        done := s.hst.done ++ [⟨h.via, h.tag, h.irq, (rawOpcode h).getD (opcodeOf i), st, f, n, d, r⟩] } }) ∧
    (∀ i h n st f d r, hdrOf i = some h → h.via = .mbox → ⟨i, n⟩ ∉ s.hst.orphans →
      let t := s.finish ⟨i, n⟩ st f d r
      let b := leBytes h.tag.toNat 4 ++ leBytes ((rawOpcode h).getD (opcodeOf i)).toNat 2 ++ leBytes st 1 ++ [1] ++ leBytes f.toNat 2 ++ leBytes n 2 ++ leBytes d 4 ++
        padTo r 48
      t.hst.mboxBusy = false ∧ (∀ k, k < 8 → Tbl.get 0 t.hst.mboxCpl k = BitVec.ofNat 64 (leAt b (8 * k) 8)) ∧
        t.hst.vectors = s.hst.vectors ++ [2] ∧ t.hst.done = s.hst.done ∧ t = { s with hst := t.hst }) ∧
    (∀ i h n st f d r, hdrOf i = some h → ⟨i, n⟩ ∈ s.hst.orphans →
      s.finish ⟨i, n⟩ st f d r = { s with hst := { s.hst with
        running := s.hst.running.erase ⟨i, n⟩, orphans := s.hst.orphans.erase ⟨i, n⟩ } }) ∧
    (∀ c rest, s.hst.done = c :: rest → bit s.hst.ctl 0 = true → s.compFull = false →
      ∃ t, exec .completionWrite s = .next t ∧ t.hst.done = rest ∧ Tbl.get [] t.hst.compRing s.hst.compTail = c.bytes s.hst.compPhase ∧
        t.hst.compTail = (s.hst.compTail + 1) % ringSize s.hst.comp ∧
        t.hst.compPhase = (if t.hst.compTail = 0 then !s.hst.compPhase else s.hst.compPhase) ∧
        t.hst.cnt = satInc s.hst.cnt 0 32 1 ∧
        (c.irq = true → s.hst.coal0 = false → t.hst.vectors = s.hst.vectors ++ [0]) ∧ (c.irq = false → t.hst.vectors = s.hst.vectors) ∧
        t = { s with hst := t.hst })

/-- Events lost are counted in one event with 0x8004 once there is room (R394, R409). The end of a coalescing interval signals what it held
back (R412), COAL_US after the vector was signalled. A reset of the PCIe interface empties the rings, the buffers and the mailbox, and nothing
else; the commands that it finds are orphans (R387, R508). That a coalescing end with nothing held back leaves the state as it is (log 3) and
that commands found by the reset are kept as orphans (log 62) are the model's. -/
def Obligations.InterruptsEventsAndPcieReset : Prop :=
  ∀ s : State,
    (0 < s.hst.evtLost → bit s.hst.ctl 0 = true → s.evtFull = false →
      ∃ t, exec .eventsLost s = .next t ∧ t.hst.evtLost = 0 ∧ t.hst.evtTail = (s.hst.evtTail + 1) % ringSize s.hst.evt ∧
        Tbl.get [] t.hst.evtRing s.hst.evtTail = leBytes 8 2 ++ [if s.hst.evtPhase then 1 else 0, 0] ++ leBytes s.hst.evtSeq 4 ++
          leBytes s.nowNs 8 ++ padTo (leBytes s.hst.evtLost 4) 48 ∧
        raisedOne s t 0x8004 srcToll ∧ t = { s with hst := t.hst, flt := t.flt }) ∧
    (s.hst.coal0 = false → exec (.interruptCoalesceEnd 0) s = .next s) ∧
    (s.hst.coal0 = true →
      let u := s.advance (s.hst.coalAt0 + field s.hst.ctl 16 10 * 1000 * ns)
      exec (.interruptCoalesceEnd 0) s = .next { u with hst := if s.hst.owed0
        then { s.hst with
          vectors := s.hst.vectors ++ [0], coal0 := decide (field s.hst.ctl 16 10 ≠ 0), coalAt0 := u.tim.now.toNat, owed0 := false }
        else { s.hst with coal0 := false } }) ∧
    (s.hst.coal1 = false → exec (.interruptCoalesceEnd 1) s = .next s) ∧
    (s.hst.coal1 = true →
      let u := s.advance (s.hst.coalAt1 + field s.hst.ctl 16 10 * 1000 * ns)
      exec (.interruptCoalesceEnd 1) s = .next { u with hst := if s.hst.owed1
        then { s.hst with
          vectors := s.hst.vectors ++ [1], coal1 := decide (field s.hst.ctl 16 10 ≠ 0), coalAt1 := u.tim.now.toNat, owed1 := false }
        else { s.hst with coal1 := false } }) ∧
    (∀ k, ∃ t, exec (.pcieReset k) s = .next t ∧ bit t.hst.ctl 0 = false ∧ t.hst.bufs = [] ∧ t.hst.done = [] ∧ t.hst.mboxBusy = false ∧
      t.hst.cr0Head = 0 ∧ t.hst.cr0Tail = 0 ∧ t.hst.cr1Head = 0 ∧ t.hst.cr1Tail = 0 ∧ t.hst.compTail = 0 ∧ t.hst.evtTail = 0 ∧
      t.hst.orphans = s.hst.orphans ++ s.hst.waiting ++ s.hst.running ∧ t.hst.st = s.hst.st ∧ t.hst.running = s.hst.running ∧
      t = { s with hst := t.hst })

/-- Doorbells while nothing waits (R393, R394, R411): a tail within its ring moves it, a bad tail stops the ring with 0x8004; the host's read
indices; a busy mailbox counts the doorbell, and a mailbox command with an opcode it does not take completes BAD_OPCODE with 0x8001. -/
def Obligations.DoorbellsMoveTheRings : Prop :=
  ∀ (s : State) (v : Reg), s.hst.st ≠ stResetting → s.hst.waiting = [] → bit s.hst.ctl 0 = true →
    (s.hst.err0 = false → badTail (ringSize s.hst.cring0) s.hst.cr0Head s.hst.cr0Tail (field v 0 12) = false →
      exec (.commandRingDoorbell false v) s = .next { s with hst := { s.hst with cr0Tail := field v 0 12 } }) ∧
    (s.hst.err1 = false → badTail (ringSize s.hst.cring1) s.hst.cr1Head s.hst.cr1Tail (field v 0 12) = false →
      exec (.commandRingDoorbell true v) s = .next { s with hst := { s.hst with cr1Tail := field v 0 12 } }) ∧
    (s.hst.err0 = false → badTail (ringSize s.hst.cring0) s.hst.cr0Head s.hst.cr0Tail (field v 0 12) = true →
      ∃ t, exec (.commandRingDoorbell false v) s = .next t ∧ t.hst.err0 = true ∧ t.hst.cr0Tail = s.hst.cr0Tail ∧ raisedOne s t 0x8004 srcToll ∧
        t = { s with hst := { s.hst with err0 := true, cnt := satInc s.hst.cnt 32 8 1 }, flt := t.flt }) ∧
    (s.hst.err1 = false → badTail (ringSize s.hst.cring1) s.hst.cr1Head s.hst.cr1Tail (field v 0 12) = true →
      ∃ t, exec (.commandRingDoorbell true v) s = .next t ∧ t.hst.err1 = true ∧ raisedOne s t 0x8004 srcToll ∧
        t = { s with hst := { s.hst with err1 := true, cnt := satInc s.hst.cnt 32 8 1 }, flt := t.flt }) ∧
    (exec (.completionDoorbell v) s = .next { s with hst := { s.hst with compRead := field v 0 12 % ringSize s.hst.comp } }) ∧
    (exec (.eventDoorbell v) s = .next { s with hst := { s.hst with evtRead := field v 0 12 % ringSize s.hst.evt } }) ∧
    (bit v 0 = true → s.hst.mboxBusy = true →
      exec (.mailboxDoorbell v) s = .next { s with hst := { s.hst with cnt := satInc s.hst.cnt 56 8 1 } }) ∧
    (bit v 0 = true → s.hst.mboxBusy = false → mboxDecode s.hst.mboxBytes = none →
      ∃ t, exec (.mailboxDoorbell v) s = .next t ∧ t.hst.mboxBusy = false ∧ raisedOne s t 0x8001 srcToll ∧
        t.hst.vectors = s.hst.vectors ++ [2] ∧ t = { s with hst := t.hst, flt := t.flt }) ∧
    (∀ i h, bit v 0 = true → mboxDecode s.hst.mboxBytes = some i → hdrOf i = some h → s.takes i h = true →
      exec (.mailboxDoorbell v) s = exec i s)

/-- A command of the host with an opcode that R398 does not list, or on a path that does not take its opcode, completes BAD_OPCODE with 0x8001
(R397, R411); one outside the states that accept it, or in a wedged module, or one unusable after 0x5003 (the model's choice, log 100), that
does not, completes WRONG_STATE with 0x8003 and the state in its detail (R398, R399, R426). IDENTIFY gives the identity block (R398). BUF_REG
and BUF_FREE change a buffer that nothing holds, and refuse a bad parameter with its byte offset (R391, R399). SWITCH_GET gives eight entries
of the switch list, SWITCH_DONE ends it (R401). UNLOAD and RELEASE give the placement up, and the image with it for UNLOAD (R398). -/
def Obligations.RefusedAndPlainCommands : Prop :=
  (∀ (i : Instr) (h : Hdr) (s : State), s.takes i h = true →
     (pathTakes i h = false → exec i s = .next (s.ended i h (fun x => x.raise 0x8001 srcToll 0) sBadOpcode 0x8001 0 [])) ∧
     (pathTakes i h = true → (acceptedIn i s.hst.st = false ∨ s.unusable = true ∧ wedgedTakes i = false) →
       exec i s = .next (s.ended i h (fun x => x.raise 0x8003 srcToll 0) sWrongState 0x8003 s.hst.st []))) ∧
  (∀ (s : State) (h : Hdr),
     (s.accepts (.identify h) h = true →
       exec (.identify h) s = .next (s.ended (.identify h) h id sOk 0 0
         (leBytes s.sec.fuses.physId.toNat 8 ++ [if s.sec.fuses.gradeB then 1 else 0] ++ leBytes (if s.sec.fuses.gradeB then 7 else 10) 1 ++
           leBytes s.sec.fabric 2 ++ leBytes s.sec.version.toNat 4 ++ leBytes s.plc.hall 2 ++ leBytes s.hst.st 1 ++ leBytes s.flt.gen.toNat 1))) ∧
     (∀ b mask addr len, s.accepts (.bufReg h b mask addr len) h = true →
       (b ≤ 4094 → addr % 4096 = 0 → len % 4096 = 0 → 0 < len → len ≤ 2 ^ 40 → s.bufHeld b = false →
         exec (.bufReg h b mask addr len) s = .next (s.ended (.bufReg h b mask addr len) h
           (fun x => { x with hst := { x.hst with bufs := Tbl.set x.hst.bufs b ⟨addr, len, mask⟩ } }) sOk 0 0 [])) ∧
       (4094 < b → exec (.bufReg h b mask addr len) s = .next (s.ended (.bufReg h b mask addr len) h
           (fun x => x.raise 0x8002 srcToll 0) sBadParam 0x8002 8 [])) ∧
       (b ≤ 4094 → addr % 4096 ≠ 0 → exec (.bufReg h b mask addr len) s = .next (s.ended (.bufReg h b mask addr len) h
           (fun x => x.raise 0x8002 srcToll 0) sBadParam 0x8002 16 []))) ∧
     (∀ b, s.accepts (.bufFree h b) h = true → b ≤ 4094 → s.bufHeld b = false →
       exec (.bufFree h b) s = .next (s.ended (.bufFree h b) h (fun x => { x with hst := { x.hst with bufs := Tbl.del x.hst.bufs b } }) sOk 0 0 [])) ∧
     (∀ q page l, s.plc.switch = some (q, l) → s.accepts (.switchGet h q page) h = true → (page = 0 ∨ 8 * page < l.length) →
       exec (.switchGet h q page) s = .next (s.ended (.switchGet h q page) h id sOk 0 0
         (((l.drop (8 * page)).take 8).flatMap (fun e => leBytes e.1 2 ++ leBytes e.2.1 1 ++ leBytes e.2.2.1 2 ++ leBytes e.2.2.2 1)))) ∧
     (∀ q l, s.plc.switch = some (q, l) → s.accepts (.switchDone h q) h = true →
       exec (.switchDone h q) s = .next (s.ended (.switchDone h q) h 
         (fun x => { x with plc := { x.plc with switch := none, switchAt := x.tim.now.toNat } }) sOk 0 0 [])) ∧
     (s.accepts (.unload h) h = true →
       let x := s.taken (.unload h) h
       ∃ t : State, exec (.unload h) s = .next (t.finish x.2 sOk 0 0 []) ∧
         t.hst = { x.1.hst with st := stIdle } ∧ t.job = {} ∧ t.plc.st = 0 ∧ t.plc.placed = false ∧ t.plc.chip = 0 ∧ t.plc.map = [] ∧
         (∀ p, p < 6 → (t.rtr p).mapped = false ∧ (t.port p).sched = false ∧ (t.port p).tollOver = false) ∧
         t.flt = { s.flt with abortWin := 0 } ∧ t.cfg = { s.cfg with jLoaded := false } ∧
         t = { s with hst := t.hst, job := t.job, plc := t.plc, cwy := t.cwy, olf := t.olf, flt := t.flt, cfg := t.cfg }) ∧
     (s.accepts (.release h) h = true →
       let x := s.taken (.release h) h
       ∃ t : State, exec (.release h) s = .next (t.finish x.2 sOk 0 0 []) ∧
         t.hst = { x.1.hst with st := stLoaded } ∧ t.job = { s.job with armed := false, accepted := false, withdrawn := 0 } ∧ t.plc.st = 10 ∧
         t.plc.placed = false ∧ t.plc.chip = 0 ∧ t.plc.map = [] ∧ (∀ p, p < 6 → (t.rtr p).mapped = false ∧ (t.port p).sched = false) ∧
         (∀ p, p < 100 → (s.spn p).silent = false → t.spn p = s.clockOff (s.spn p)) ∧ (∀ p, 100 ≤ p → t.spn p = s.spn p) ∧
         t.flt = { s.flt with abortWin := 0 } ∧ t.cfg = { s.cfg with jLoaded := false } ∧
         t = { s with
           hst := t.hst, job := t.job, plc := t.plc, cwy := t.cwy, olf := t.olf, flt := t.flt, cfg := t.cfg, spans := t.spans, tik := t.tik,
           pwr := t.pwr, pins := t.pins }))

/-- LOAD checks the image and answers its digest, or the check that it fails and the offset (R179, R400). PLACE makes the module a candidate
of an election in which it claims itself, or completes NOT_ADMISSIBLE with the row that fails and the fault behind it (R365, R366, R399,
R401); ARM places the image into the units (R402); START of a module other than the leader waits for the leader's proposal (R403); STOP while
RUNNING asks for the last step (R404); ABORT while RUNNING aborts the current step and answers it (R405, R419). The offset given where words
conflict (log 63) and the record that an ABORT's code forms (log 71) are the model's. -/
def Obligations.JobCommandsTakeEffect : Prop :=
  ∀ (s : State) (h : Hdr),
    (∀ b ofs len data, s.accepts (.load h b ofs len (.ok data)) h = true → s.badRange b ofs len true 128 8 16 24 = none → ofs % 128 = 0 →
      let i := Instr.load h b ofs len (.ok data)
      let img := if b = 4095 then memRead s.xfer ofs len else padTo data len
      (loadBad s.cxl.hdm img len = none →
        exec i s = .next (s.ended i h (fun x => { x with job := { img := img, loaded := true }, hst := { x.hst with st := stLoaded } }) sOk 0 0
          (slice img 32 32))) ∧
      (∀ n o, loadBad s.cxl.hdm img len = some (n, o) → armsUnequal s.cxl.hdm img len = false →
        exec i s = .next (s.ended i h id sImageRefused 0 n (leBytes o 8))) ∧
      (∀ n o, loadBad s.cxl.hdm img len = some (n, o) → armsUnequal s.cxl.hdm img len = true →
        exec i s = .next (s.ended i h (fun x => x.raise 0x100F srcToll 0 0 none 9) sImageRefused 0 n (leBytes o 8)))) ∧
    (s.accepts (.place h) h = true → State.admitRow { s with plc := { s.plc with duplicate := false } } false = 0 → ¬ (s.imgAt 11 1 % 2 = 1 ∧ 32 < s.imgAt 12 1) →
      ∃ t, exec (.place h) s = .next t ∧ t.hst = { (s.begun (.place h) h).hst with st := stPlacing } ∧ t.plc.st = 2 ∧
        t.plc.claim = (s.plc.hall, 0) ∧ t.plc.claimAt = s.tim.now.toNat ∧ t.plc.placeAt = s.tim.now.toNat ∧ t.plc.parent = 7 ∧
        t.plc.health = [] ∧ t.plc.rounds = 0 ∧ t.plc.switch = none ∧ t.plc.duplicate = false ∧ t.plc.map = s.plc.map ∧ t.plc.placed = s.plc.placed ∧
        t = { s with hst := t.hst, plc := t.plc }) ∧
    (s.accepts (.place h) h = true → ¬ (s.imgAt 11 1 % 2 = 1 ∧ 32 < s.imgAt 12 1) →
      let x := { s with plc := { s.plc with duplicate := false } }
      let row := x.admitRow false
      row ≠ 0 → exec (.place h) s = .next (s.ended (.place h) h (fun y => { y with plc := { y.plc with duplicate := false } }) sNotAdmissible
        (if row = 1 then 0x6004 else if row = 2 then s.tim.leftBy else 0) row [])) ∧
    (s.accepts (.arm h) h = true → s.buffersOk = true →
      exec (.arm h) s = .next (s.ended (.arm h) h (fun x => x.armUnits.digestsAgree.setSt stArmed) sOk 0 0 [])) ∧
    (s.accepts (.arm h) h = true → s.buffersOk = false →
      exec (.arm h) s = .next (s.ended (.arm h) h (fun x => x.raise 0x8002 srcToll 0) sBadParam 0x8002 0 [])) ∧
    (∀ first, s.accepts (.start h first) h = true → s.isJobLeader = false → s.plc.proposal = none →
      exec (.start h first) s = .next { s with
        hst := { (s.begun (.start h first) h).hst with aborted := false, doneStep := 0, st := stStarting }
        job := { s.job with accepted := true, firstStep := first.toNat, stepNo := 0, withdrawn := 0, aborts := [], abortSent := [],
                            digests := [], ends := [], qualified := 0, posted := 0 } }) ∧
    (∀ last, s.accepts (.stop h last) h = true → s.hst.st = stStarting →
      exec (.stop h last) s = .next (s.begun (.stop h last) h)) ∧
    (∀ last, s.accepts (.stop h last) h = true → s.hst.st = stRunning → s.isJobLeader = true → last.toNat < 2 ^ 64 - 1 →
      ∃ t, exec (.stop h last) s = .next t ∧ t.hst = (s.begun (.stop h last) h).hst ∧
        t.job.requests = s.job.requests ++ [(last.toNat, 0, s.nowNs)] ∧
        (∃ n, t.job.stopAfter = some n ∧ (∀ m, s.job.stopAfter = some m → n ≤ m) ∧
          (s.job.stopAfter = none → s.job.requests = [] → n = max last.toNat s.earliestStop)) ∧
        t = { s with hst := t.hst, job := t.job, olf := t.olf }) ∧
    (s.accepts (.abort h) h = true → s.hst.st = stRunning → s.job.abortSent.contains s.step = false →
      let w := s.taken (.abort h) h
      ∃ t : State, exec (.abort h) s = .next (t.finish w.2 sOk 0 0 (leBytes s.step 8)) ∧ t.hst = w.1.hst ∧
        t.job = { s.job with aborts := s.job.aborts ++ [(s.step, 0x9002, s.selfOrigin)], abortSent := s.job.abortSent ++ [s.step] } ∧
        t.cxl.aborted = true ∧ t.svc.abortSeen = true ∧
        (∀ p, p < 6 → s.sharesJob p = true → (t.port p).qAbort = (s.port p).qAbort ++ [s.abortCell s.step 0x9002 s.selfOrigin]) ∧
        t = { s with hst := t.hst, job := t.job, cxl := { s.cxl with aborted := true }, svc := t.svc, flt := t.flt, olf := t.olf })

/-- A transfer command runs until its host transfer completes (R285, R388, R435, R489, R492). DMA moves whole lines between the buffer and the
store, the HBM region or a mapped CXL range; ATTEST gives a report; DUMP writes the records of the six items in the order of R436, each in a
transfer of its own (the model's choice, log 104), then its header; it ends PARTIAL with 0x9003 where a unit has no answer (R437), and what it
reads of stores and landing banks is counted and reported (R109, R110); FW_UPDATE writes the slot that did not boot and verifies it. A failed
host transfer completes HOST_DMA; a FW_UPDATE that fails so leaves free bytes in that slot (log 8). DMA crosses no UCIe that is down (R19;
that it waits there is the model's choice, log 95), and DMA to a CXL range whose link is down fails with 0x3005 (R282; log 89). -/
def Obligations.TransferCommandsRunToTheirEnd : Prop :=
  ∀ s : State,
    (∀ h b toHost bo loc len, s.accepts (.dma h b toHost bo loc len) h = true → s.badRange b bo len (!toHost) 128 10 16 32 = none → bo % 128 = 0 →
      loc % 128 = 0 → s.localOk loc len = true → len % 128 = 0 →
      exec (.dma h b toHost bo loc len) s = .next (s.begun (.dma h b toHost bo loc len) h)) ∧
    (∀ h b ofs nonce, s.accepts (.attest h b ofs nonce) h = true → s.sec.debug < 3 →
      s.badRange b ofs (336 + s.certChain.length) false 1 8 16 16 = none →
      exec (.attest h b ofs nonce) s = .next (s.begun (.attest h b ofs nonce) h)) ∧
    (∀ h b ofs len, s.accepts (.fwUpdate h b ofs len) h = true → (∀ r ∈ s.hst.running, opcodeOf r.cmd ≠ 0x0061) →
      s.badRange b ofs len true 1 8 16 24 = none → exec (.fwUpdate h b ofs len) s = .next (s.begun (.fwUpdate h b ofs len) h)) ∧
    (∀ h b force ofs space, s.accepts (.dump h b force ofs space) h = true → s.badRange b ofs space false 1 8 16 24 = none →
      (s.taken (.dump h b force ofs space) h).1.dumpSize ≤ space → (force = false ∨ s.job.running = false ∧ s.hst.st ≠ stStarting) →
      exec (.dump h b force ofs space) s = .next { s.begun (.dump h b force ofs space) h with
        dmp := { s.dmp with running := true, stage := 1, noAns := 0, records := 0, lines := 0, startSt := s.hst.st, body := [], deaf := [] } }) ∧
    (∀ k f r data, s.hst.waiting = [] → (s.hst.running.filter (fun r => isTransfer r.cmd))[k]? = some r →
      (∀ h b toHost ofs loc len res, r.cmd = .dma h b toHost ofs loc len → s.ucieCut = true →
        exec (.hostDmaComplete (.command k f) res) s = .next s) ∧
      (∀ h b toHost ofs loc len, r.cmd = .dma h b toHost ofs loc len → s.ucieCut = false → s.cxlFails loc len = true →
        ∃ t : State, exec (.hostDmaComplete (.command k f) (.ok data)) s = .next (t.finish r sHostDma 0 0 []) ∧ raisedOne s t 0x3005 110 ∧
          t = { s with cxl := t.cxl, flt := t.flt }) ∧
      (∀ h b ofs loc len, r.cmd = .dma h b false ofs loc len → s.ucieCut = false → s.cxlFails loc len = false →
        exec (.hostDmaComplete (.command k f) (.ok data)) s =
          .next ((s.localWrites loc (if b = 4095 then memRead s.xfer ofs len else padTo data len) (len / 128)).finish r sOk 0 0 (leBytes len 8))) ∧
      (∀ h b ofs loc len, r.cmd = .dma h b true ofs loc len → b ≠ 4095 → s.ucieCut = false → s.cxlFails loc len = false →
        let x := s.localReads loc (len / 128)
        exec (.hostDmaComplete (.command k f) (.ok data)) s =
          .next (State.finish { x.2 with hst := { x.2.hst with out := x.2.hst.out ++ [(b, ofs, x.1)] } } r sOk 0 0 (leBytes len 8))) ∧
      (∀ h b ofs nonce, r.cmd = .attest h b ofs nonce → 3 ≤ s.sec.debug →
        ∃ t : State, exec (.hostDmaComplete (.command k f) (.ok data)) s = .next (t.finish r sAccess 0x7002 0 []) ∧ raisedOne s t 0x7002 srcToll ∧
          t = { s with flt := t.flt }) ∧
      (∀ h b ofs nonce, r.cmd = .attest h b ofs nonce → b ≠ 4095 → s.sec.debug < 3 →
        let x := s.report nonce
        exec (.hostDmaComplete (.command k f) (.ok data)) s =
          .next (State.finish { x.2 with hst := { x.2.hst with out := x.2.hst.out ++ [(b, ofs, x.1)] } } r sOk 0 0 (leBytes x.1.length 8))) ∧
      (∀ h b ofs len, r.cmd = .fwUpdate h b ofs len → b ≠ 4095 → s.sec.slot ≤ 1 → len ≤ slotBytes → s.fwVerifies (padTo data len) = true →
        ∃ t : State, exec (.hostDmaComplete (.command k f) (.ok data)) s = .next (t.finish r sOk 0 0 [BitVec.ofNat 8 (1 - s.sec.slot)]) ∧
          (if s.sec.slot = 1 then t.sec.slotA else t.sec.slotB) = padTo data len ∧
          (if s.sec.slot = 1 then t.sec.slotB = s.sec.slotB else t.sec.slotA = s.sec.slotA) ∧
          t.sec.boot = (s.sec.bootAppend ⟨1 - s.sec.slot, true, 3⟩).boot ∧
          t = { s with sec := t.sec, hst := { s.hst with fwSlot := 1 - s.sec.slot } }) ∧
      (∀ h b force ofs space, r.cmd = .dump h b force ofs space → s.job.running = false → b ≠ 4095 → s.dmp.deaf = [] →
        let l := s.dumpPart s.mute s.dmp.stage
        let x := l.flatMap (fun q => q.bytes s.nowNs)
        let no := s.dmp.noAns + (l.filter (fun q => q.status ≠ 0)).length
        let d := { s.dmp with noAns := no, records := s.dmp.records + l.length, body := s.dmp.body ++ x,
                              start := if s.dmp.stage = 1 then s.nowNs else s.dmp.start }
        (1 ≤ s.dmp.stage → s.dmp.stage < 6 →
          exec (.hostDmaComplete (.command k []) (.ok data)) s = .next { s with
            hst := { s.hst with out := s.hst.out ++ [(b, ofs + 128 + s.dmp.body.length, x)] }
            dmp := { d with stage := s.dmp.stage + 1, lines := (s.dmp.body ++ x).length / 128 } }) ∧
        (s.dmp.stage = 6 → s.rst.autoDue = false →
          let u := s.dumpReads
          let n := 128 + (s.dmp.body ++ x).length
          let hdr := State.dumpHeader { s with dmp := d } force
          (bit s.dmp.ctl 3 = false ∧ bit s.dmp.ctl 4 = false ∨ s.upsets = [] → u = s) ∧ ∃ t : State,
            t.hst = { s.hst with out := s.hst.out ++ [(b, ofs + 128 + s.dmp.body.length, x), (b, ofs, hdr)] } ∧
            t.dmp = { d with running := false, stage := 0, noAns := 0, lines := n / 128, body := [],
                             last := orAll [at_ no 0 16, flag true 16, flag (no ≠ 0) 17] } ∧
            exec (.hostDmaComplete (.command k []) (.ok data)) s = .next (t.finish r (if no = 0 then sOk else sPartial) (if no = 0 then 0 else 0x9003)
              no (leBytes n 8)) ∧
            (no ≠ 0 → raisedOne u t 0x9003 srcToll) ∧ (no = 0 → t.flt = u.flt) ∧ t = { u with hst := t.hst, dmp := t.dmp, flt := t.flt }) ∧
        (∀ c, s.dmp.stage = 5 → c < 800 → s.mute (spanOf c) = false →
          ∃ t, exec (.hostDmaComplete (.command k [(spanOf c, s.agentOf c 4)]) (.ok data)) s = .next t ∧
            t.dmp.deaf = [(spanOf c, s.agentOf c 4)] ∧ t.dmp.noAns = no + 1 ∧ t.dmp.stage = 6 ∧ t = { s with hst := t.hst, dmp := t.dmp })) ∧
      (∀ e, (∀ d, e ≠ .ok d) → (∀ h b force ofs space, r.cmd ≠ .dump h b force ofs space) → (∀ h b ofs len, r.cmd ≠ .fwUpdate h b ofs len) →
        s.transferHeld r = false → s.rst.autoDue = false →
        exec (.hostDmaComplete (.command k f) e) s = .next (s.finish r sHostDma 0 0 [])) ∧
      (∀ e h b ofs len, (∀ d, e ≠ .ok d) → r.cmd = .fwUpdate h b ofs len → s.sec.slot ≤ 1 → s.rst.autoDue = false →
        ∃ t : State, exec (.hostDmaComplete (.command k f) e) s = .next (t.finish r sHostDma 0 0 []) ∧
          (if s.sec.slot = 1 then t.sec.slotA else t.sec.slotB) =
            ((range' s.freeCtr len).map Config.freeByte ++ (if s.sec.slot = 1 then s.sec.slotA else s.sec.slotB).drop len).take slotBytes ∧
          (if s.sec.slot = 1 then t.sec.slotB = s.sec.slotB else t.sec.slotA = s.sec.slotA) ∧
          t = { s with sec := t.sec, freeCtr := s.freeCtr + len }))

/-- REG_READ and REG_WRITE of one register whose span answers give or take its value, and complete ACCESS with the code of a refusal (R446,
R514). RESET completes OK, supersedes every other command and is prepared for, or held until 100 ms after the last reset began (R406, R430);
in STARTING the start is kept from firing by a step abort (R419). -/
def Obligations.RegisterAndResetCommands : Prop :=
  ∀ (s : State) (h : Hdr),
    (∀ a v, s.accepts (.regRead h a 1) h = true →
      let x := s.taken (.regRead h a 1) h
      x.1.silentAt a = false → x.1.readReg a x.1.chipOr0 = (.ok v, x.1) →
      exec (.regRead h a 1) s = .next (x.1.finish x.2 sOk 0 0 (leBytes v.toNat 8))) ∧
    (∀ a c t, s.accepts (.regRead h a 1) h = true →
      let x := s.taken (.regRead h a 1) h
      x.1.silentAt a = false → x.1.readReg a x.1.chipOr0 = (.refused c, t) → t.hst.waiting = [] →
      exec (.regRead h a 1) s = .next (t.finish x.2 sAccess c 0 [])) ∧
    (∀ a, s.accepts (.regRead h a 1) h = true →
      let x := s.taken (.regRead h a 1) h
      x.1.silentAt a = true → exec (.regRead h a 1) s = .next { s.begun (.regRead h a 1) h with
        ctl := s.ctl ++ [(.cmd x.2 0 [], s.tim.now.toNat)] }) ∧
    (∀ a v u t, s.accepts (.regWrite h a 1 [v]) h = true →
      let x := s.taken (.regWrite h a 1 [v]) h
      x.1.silentAt a = false → x.1.writeReg a v = (.ok u, t) → t.hst.waiting = [] →
      exec (.regWrite h a 1 [v]) s = .next (t.finish x.2 sOk 0 0 [])) ∧
    (∀ a v c t, s.accepts (.regWrite h a 1 [v]) h = true →
      let x := s.taken (.regWrite h a 1 [v]) h
      x.1.silentAt a = false → x.1.writeReg a v = (.refused c, t) → t.hst.waiting = [] →
      exec (.regWrite h a 1 [v]) s = .next (t.finish x.2 sAccess c 0 [])) ∧
    (∀ a count, (count = 0 ∨ 4 < count) → s.accepts (.regRead h a count) h = true →
      exec (.regRead h a count) s = .next (s.ended (.regRead h a count) h (fun x => x.raise 0x8002 srcToll 0) sBadParam 0x8002 16 [])) ∧
    (s.accepts (.reset h) h = true → s.hst.running = [] → s.dmp.running = false → s.rst.stage = .none →
      let x := s.taken (.reset h) h
      (s.resetWait ≠ 0 →
        exec (.reset h) s = .next { x.1.finish x.2 sOk 0 s.resetWait [] with rst := { s.rst with planned := true, cause := 0, stage := .held } }) ∧
      (s.resetWait = 0 → ∃ t, exec (.reset h) s = .next t ∧ t.rst.planned = true ∧ t.rst.cause = 0 ∧ t.rst.stage = .draining ∧
        t.rst.drainAt = s.tim.now.toNat ∧
        (s.hst.st ≠ stStarting ∨ s.job.running = true → t.hst = (x.1.finish x.2 sOk 0 0 []).hst ∧ t.plc = s.plc ∧ t.tik = s.tik) ∧
        (s.hst.st = stStarting → s.job.running = false → t.hst.st = stStopped ∧ t.plc.proposal = none ∧
          ∃ a ∈ t.job.aborts, a.1 = s.job.firstStep ∧ a.2.1 = 0x9002) ∧
        t = { s with
          hst := t.hst, rst := t.rst, cfg := t.cfg, flt := t.flt, svc := t.svc, olf := t.olf, job := t.job, cxl := t.cxl, plc := t.plc, tik := t.tik }))

/-- MSQ_SCRUB starts a scrub of a stack outside a job, and its end clears the bit, its lines read through the corrector and counted (R265,
R266), with every other error untouched (R267). Enabling the rings empties them, clearing ENABLE stops them (R392, R413). A register takes its
value, held to its range with 0x6001 and its reserved bits dropped and counted (R447, R448); one that does not exist refuses with 0x7002 and
is logged (R446). The window reads a register, and turns away an access of another size (R389); the transfer area is a memory of bytes (R390). -/
def Obligations.RegisterAndWindowAccesses : Prop :=
  ∀ (s : State) (v : Reg), s.hst.st ≠ stResetting → s.hst.waiting = [] →
    (∀ st, st < 4 → s.silentAt (0x40090 + st * 0x1000) = false →
      (s.busy = false → v = 1 →
        ∃ t, exec (.msqScrub st v) s = .next t ∧ t.ms st = { s.ms st with scrubbing := true } ∧ onlyMsq s t st) ∧
      (s.busy = true → ∃ t, exec (.msqScrub st v) s = .next t ∧ raisedOne s t 0x7002 srcToll ∧ t = { s with cfg := t.cfg, flt := t.flt }) ∧
      ((s.ms st).scrubbing = true →
        ∃ t, exec (.msqScrubDone st) s = .next t ∧ (t.ms st).scrubbing = false ∧
          (∀ u ∈ s.upsets, (u.area ≠ .hbm ∨ u.line / stackLines ≠ st) → u ∈ t.upsets) ∧ (∀ u ∈ t.upsets, u ∈ s.upsets) ∧
          (memWf s.mem = true → ∀ a, (∀ u ∈ s.upsets, u.area = .hbm → u.line / stackLines = st → a < hbmAddr u.line ∨ hbmAddr u.line + 128 ≤ a) →
            memGet t.mem a = memGet s.mem a) ∧
          ((∀ u ∈ s.upsets, u.area = .hbm → u.line / stackLines ≠ st) → t.mem = s.mem ∧ t.upsets = s.upsets ∧ t.flt = s.flt ∧
            t.ms st = { s.ms st with scrubbing := false }) ∧
          (∀ x, x ≠ st → t.ms x = s.ms x) ∧ t = { s with msq := t.msq, upsets := t.upsets, mem := t.mem, flt := t.flt })) ∧
    (v &&& ~~~0x3FFFF01 = 0 → field v 16 10 ≤ 1000 → s.hst.resetDone = false →
      (bit v 0 = true → bit s.hst.ctl 0 = false →
        ∃ t, exec (.hstCtlWrite v) s = .next t ∧ t.hst = { s.hst with
            ctl := v, cr0Head := 0, cr0Tail := 0, cr1Head := 0, cr1Tail := 0, compTail := 0, compRead := 0, evtTail := 0, evtRead := 0,
            compPhase := true, evtPhase := true, err0 := false, err1 := false } ∧
          t = { s with hst := t.hst, cfg := { s.cfg with tStale := true } }) ∧
      (bit v 0 = false → bit s.hst.ctl 0 = true →
        ∃ t, exec (.hstCtlWrite v) s = .next t ∧ bit t.hst.ctl 0 = false ∧ t.hst.err0 = false ∧ t.hst.err1 = false ∧ t.hst.cr0Tail = s.hst.cr0Tail ∧
          t = { s with hst := t.hst, cfg := { s.cfg with tStale := true } })) ∧
    (s.silentAt 0x20020 = false → exec (.registerWrite 0x20020 v) s = .next { s with tik := { s.tik with keyTick := v } }) ∧
    (∀ r, placeOf r = .none →
      ∃ t, exec (.registerWrite r v) s = .next t ∧ raisedOne s t 0x7002 srcToll ∧ bit t.cfg.violLog 63 = true ∧
        t = { s with cfg := t.cfg, flt := t.flt }) ∧
    (∀ p, p < 100 → s.mute p = false → max 30 (field v 0 8 + 10) ≤ field v 8 8 → field v 8 8 ≤ 90 → 15 ≤ field v 0 8 → field v 0 8 ≤ 60 →
      ∃ t, exec (.registerWrite (0x30008 + p * 0x100) v) s = .next t ∧ (t.spn p).droopThr = v &&& 0xFFFF ∧
        t.cfg.cnt = (if v &&& ~~~0xFFFF = 0 then s.cfg.cnt else satInc s.cfg.cnt 56 8 1) ∧ (∀ x, x ≠ p → t.spn x = s.spn x) ∧
        t = { s with spans := t.spans, cfg := t.cfg }) ∧
    (∀ p, p < 100 → s.mute p = false → 30 ≤ field v 8 8 → field v 8 8 ≤ 90 → field v 0 8 < 15 → v.toNat < 2 ^ 16 →
      ∃ t, exec (.registerWrite (0x30008 + p * 0x100) v) s = .next t ∧ (t.spn p).droopThr = setField v 0 8 15 ∧ raisedOne s t 0x6001 srcToll ∧
        (∀ x, x ≠ p → t.spn x = s.spn x) ∧ t = { s with spans := t.spans, cfg := t.cfg, flt := t.flt }) ∧
    (∀ ofs x, ofs < 0x400000 → ofs % 8 = 0 →
      let r := field s.hst.diagBase 0 14 * 0x400000 + ofs
      s.silentAt r = false → r ≠ 0x10010 → s.regValue r = some x →
        exec (.diagWindowAccess false ofs 8 v) s = .next { s with hst := { s.hst with diagAns := some x } }) ∧
    (∀ ofs size, size ≠ 8 → ∃ t, exec (.diagWindowAccess false ofs size v) s = .next t ∧ t.hst.diagAns = none ∧ bit t.hst.diagLog 39 = true ∧
      t = { s with hst := t.hst }) ∧
    (∀ ofs len data, ofs + len ≤ 2 ^ 30 →
      exec (.transferAreaAccess true ofs len data) s = .next { s with xfer := memWrite s.xfer ofs (padTo data len) } ∧
      exec (.transferAreaAccess false ofs len data) s = .next { s with hst := { s.hst with xferAns := memRead s.xfer ofs len } })

/-- The control network (R25 to R27, R425). A poll asks every span controller; an acknowledgement ends its request and shows that its span
answers; a request that times out 10 µs after it was made reads as all ones, ends its command NO_ANSWER, or, for a poll, raises 0x9001 for its
span and wedges the module (R426). A span that runs on after its job's end raises 0x9001 too, and so does a missed poll of the tollhouse.
UCIe, the watchdog and the automatic reset (R19, R20, R37, R425, R426). A lost module narrows UCIe, and module 0's takes the follower to
holdover; with both down nothing is acknowledged, and fault records of the compute die wait for the first to return; both down for 100 µs
raise 0x9001. The watchdog starts an unplanned reset one second after it was fed last; one second after a hang the module resets itself,
unless a dump runs. SOURCE 113 and the poll's answer (logs 47, 48), and what both modules down leave waiting and unacknowledged (log 95), are
the model's choice. -/
def Obligations.ControlNetworkAndWatches : Prop :=
  (∀ (s : State) (i : Nat),
     (let u := s.beat beatSpans (1000000 * ns)
      exec .spanPoll s = .next { u with ctl := s.ctl.filter (fun q => match q.1 with
         | .poll _ => false
         | _ => true) ++ (List.range 114).map (fun p => (CtlReq.poll p, u.tim.now.toNat)) }) ∧
     (s.ucieCut = true → exec (.controlAcknowledgement i) s = .next s) ∧
     (∀ p q, s.ctl[i]? = some (.poll p, q) →
       (s.ucieCut = false → ∃ t, exec (.controlAcknowledgement i) s = .next t ∧ t.spn p = { s.spn p with silent := false } ∧ (∀ x, x ≠ p → t.spn x = s.spn x) ∧
         t = { s with ctl := s.ctl.eraseIdx i, spans := t.spans }) ∧
       (∃ t, exec (.controlRequestTimeout i) s = .next t ∧ (t.spn p).silent = true ∧ t.flt.wedged = true ∧ raisedOne s t 0x9001 p ∧
         t = { s.advance (q + 10000 * ns) with ctl := s.ctl.eraseIdx i, spans := t.spans, flt := t.flt })) ∧
     (∀ r v q, s.ctl[i]? = some (.diag false r v, q) →
       ∃ t, exec (.controlRequestTimeout i) s = .next t ∧ t.hst.diagAns = some (BitVec.allOnes 64) ∧ bit t.hst.diagLog 39 = true ∧
         t = { s.advance (q + 10000 * ns) with ctl := s.ctl.eraseIdx i, hst := t.hst }) ∧
     (∀ r j l q, s.ctl[i]? = some (.cmd r j l, q) → s.hst.waiting = [] →
       (r ∈ s.hst.running → exec (.controlRequestTimeout i) s =
         .next (State.finish { s.advance (q + 10000 * ns) with ctl := s.ctl.eraseIdx i } r sNoAnswer 0 j [])) ∧
       (r ∉ s.hst.running → exec (.controlRequestTimeout i) s = .next { s.advance (q + 10000 * ns) with ctl := s.ctl.eraseIdx i })) ∧
     (∀ p c q, s.ctl[i]? = some (.svc p c, q) → svcNbr c = true → (s.port p).st = linkUp →
       ∃ t, exec (.controlRequestTimeout i) s = .next t ∧ t.svc.accepted = s.svc.accepted - 1 ∧ t.svc.cnt = satInc s.svc.cnt 0 16 1 ∧
         (t.port p).qFoot = (s.port p).qFoot ++ [s.response (nbrDest (s.nport p) (svcOfs c)) c 2 []] ∧
         t = { s.advance (q + 10000 * ns) with ctl := s.ctl.eraseIdx i, svc := t.svc, olf := t.olf }) ∧
     (∀ e, s.job.running = false → s.job.ends.getLast? = some e →
       ∃ t, exec .stopCheck s = .next t ∧ t.job = s.job ∧
         (∀ p, p < 114 → (s.spn p).running = true → ∃ r ∈ t.flt.raised, r.code = 0x9001 ∧ r.source = p) ∧
         ((∀ p, p < 114 → (s.spn p).running = false) → t.flt = s.flt) ∧ t = { s with tim := { s.tim with now := t.tim.now }, flt := t.flt }) ∧
     (let u := s.beat beatPoll (1000000 * ns)
      s.sec.halted = false → exec .tollhousePoll s = .next { u with ucie := { s.ucie with
        pollAt := some (if s.ucieCut then s.ucie.pollAt.getD u.tim.now.toNat else u.tim.now.toNat) } }) ∧
     (∀ at_, s.ucie.pollAt = some at_ →
       ∃ t, exec .tollhousePollTimeout s = .next t ∧ t.ucie.pollAt = none ∧ t.flt.wedged = true ∧ raisedOne s t 0x9001 113 ∧
         t = { s with tim := { s.tim with now := t.tim.now }, ucie := { s.ucie with pollAt := none }, flt := t.flt })) ∧
  (∀ s : State,
     (∀ m, ∃ t, exec (.ucieModuleDown m) s = .next t ∧ exec (.ucieTrainFail m) s = .next t ∧
       t.ucie.up0 = (if m then s.ucie.up0 else false) ∧ t.ucie.up1 = (if m then false else s.ucie.up1) ∧ t.ucie.narrow = true ∧
       (t.ucie.up0 = false → t.ucie.up1 = false → s.ucie.downAt = none → t.ucie.downAt = some s.tim.now.toNat) ∧
       (m = false → t.tim.followerOk = false) ∧ (m = true → t.tim = s.tim) ∧
       t = { s with ucie := t.ucie, tim := { s.tim with followerOk := t.tim.followerOk }, hst := t.hst }) ∧
     (∀ m, exec (.ucieModuleReturn m) s = .next { s with
       ucie := { s.ucie with
         up0 := if m then s.ucie.up0 else true
         up1 := if m then true else s.ucie.up1
         narrow := if m then !s.ucie.up0 else !s.ucie.up1
         downAt := none }
       flt := { s.flt with raised := s.flt.parked ++ s.flt.raised, parked := [] } }) ∧
     (∀ at_, s.ucie.downAt = some at_ →
       ∃ t, exec .ucieDownTimeout s = .next t ∧ t.flt.wedged = true ∧ raisedOne s t 0x9001 113 ∧
         t = { s with tim := { s.tim with now := t.tim.now }, flt := t.flt }) ∧
     (let u := s.advance (s.ucie.fedAt + 10000000 * ns)
      s.sec.halted = false → exec .watchdogFeed s = .next { u with ucie := { s.ucie with fedAt := u.tim.now.toNat } }) ∧
     (s.rst.stage = .none → s.ucie.fedAt + 1000000000 * ns ≤ s.tim.now.toNat → s.resetWait = 0 →
       exec .watchdogExpiry s = .next { s with
         rst := { s.rst with planned := false, cause := 2, stage := .draining }, flt := { s.flt with draining := false } }) ∧
     (s.rst.stage = .none → s.ucie.fedAt + 1000000000 * ns ≤ s.tim.now.toNat → s.resetWait ≠ 0 →
       exec .watchdogExpiry s = .next { s with
         rst := { s.rst with planned := false, cause := 2, stage := .held }, flt := { s.flt with draining := false } }) ∧
     (∀ at_, bit s.flt.ctl 2 = true → s.flt.hangAt = some at_ → at_ + 1000000000 * ns ≤ s.tim.now.toNat →
       (s.dmp.running = true → exec .autoResetTimer s = .next { s with rst := { s.rst with autoDue := true } }) ∧
       (s.dmp.running = false → s.rst.stage = .none → ∃ t, exec .autoResetTimer s = .next t ∧ t.rst.planned = true ∧ t.rst.cause = 1 ∧
         t.rst.stage = (if s.resetWait = 0 then .draining else .held) ∧
         (s.hst.st ≠ stStarting ∨ s.job.running = true → t.hst = s.hst ∧ t.plc = s.plc ∧ t.tik = s.tik) ∧
         t = { s with
           rst := t.rst, cfg := t.cfg, flt := t.flt, svc := t.svc, olf := t.olf, job := t.job, cxl := t.cxl, hst := t.hst, plc := t.plc, tik := t.tik })))

/-- Services (R347 to R356). A request takes the lowest free slot, a new tag and a deadline, and goes out on its port; with no slot it waits,
with no route it is answered at once (R349, R350). A request for a register is answered on the footway (R354, R445); one to write it is a
violation (R446). A response ends its request (R351); a timeout answers it (R353). A cell for another chip goes on with one hop fewer, and its
entry's credit goes back (R316, R348). A message goes to firmware, or is dropped when its buffer is full (R345). That the free slot taken is the lowest (log 116), and that the buffer may be full for
any message, a free value (log 8), are the model's choice. -/
def Obligations.ServicesRequestsAndMessages : Prop :=
  ∀ (s : State) (p slot : Nat) (c : Cell) (q : SvcReq), p < 6 →
    (s.freeSlot = none → exec (.serviceRequestSend q) s = .next { s with svc := { s.svc with waiting := s.svc.waiting ++ [q] } }) ∧
    (s.freeSlot = some slot →
      let use := (Tbl.get 0 s.svc.use slot + 1) % 1024
      let tag := use * 64 + slot
      (s.requestHop q = .via p →
        ∃ t, exec (.serviceRequestSend q) s = .next t ∧ Tbl.get 0 t.svc.use slot = use ∧
          (t.svc.out.find? (fun x => x.1 == slot)) = some (slot, ⟨BitVec.ofNat 16 tag, p, (s.port p).epoch,
            s.tim.now.toNat + field s.svc.ctl 8 16 * 1000 * ns, q.nbr, q.dest⟩) ∧
          (t.port p).qSvc = (s.port p).qSvc ++ [s.requestCell q tag (s.port p).epoch.toNat] ∧ (∀ x, x ≠ p → t.port x = s.port x) ∧
          t = { s with svc := t.svc, olf := t.olf }) ∧
      (s.requestHop q = .noRoute →
        ∃ t, exec (.serviceRequestSend q) s = .next t ∧ t.svc.answers = s.svc.answers ++ [⟨BitVec.ofNat 16 tag, 4, []⟩] ∧ t.svc.out = s.svc.out ∧
          t = { s with svc := t.svc })) ∧
    (let u := s.takeCell p c
     (∀ r v, c.kind = 0 → svcNbr c = true → svcOfs c = regBase + r → svcLen c = 0 → r % 8 = 0 → r ≠ 0x10010 → s.freshGen p c = true →
       bit s.svc.ctl 2 = false → u.silentAt r = false → u.regValue r = some v → (s.port p).st = linkUp →
       ∃ t, exec (.serviceRequestReceive p c) s = .next t ∧ t.svc.cnt = satInc s.svc.cnt 0 16 1 ∧
         (t.port p).qFoot = (s.port p).qFoot ++ [s.response (nbrDest (s.nport p) (svcOfs c)) c 0 (leBytes v.toNat 8)] ∧
         t = { s with svc := t.svc, olf := t.olf }) ∧
     (∀ r, c.kind = 1 → svcNbr c = true → svcOfs c = regBase + r → svcLen c = 0 → r % 8 = 0 → s.freshGen p c = true → bit s.svc.ctl 2 = false →
       ∃ t, exec (.serviceRequestReceive p c) s = .next t ∧ raisedOne s t 0x7002 srcToll ∧
         t = { s with svc := t.svc, olf := t.olf, flt := t.flt, cfg := t.cfg }) ∧
     (c.kind = 0 → svcNbr c = true → s.freshGen p c = false →
       ∃ t, exec (.serviceRequestReceive p c) s = .next t ∧ t.svc.cnt = satInc s.svc.cnt 32 16 1 ∧ t = { s with svc := t.svc, olf := t.olf }) ∧
     (svcNbr c = true → (c.kind = 2 ∨ c.kind = 3 ∨ c.kind = 4) → (u.takesResponse p c).1 = true → s.svc.waiting = [] →
       ∃ t, exec (.serviceResponseReceive p c) s = .next t ∧ t.svc.out = s.svc.out.filter (fun x => x.2.rtag ≠ BitVec.ofNat 16 (svcRtag c)) ∧
         t.svc.answers = s.svc.answers ++ [⟨BitVec.ofNat 16 (svcRtag c), leAt c.payload 14 1,
           if c.kind = 2 then slice c.payload 32 (lenBytes (svcLen c)) else []⟩] ∧ t = { s with svc := t.svc, olf := t.olf }) ∧
     (∀ e, s.forHere c = false → s.hop (svcChip c) = .via e → c.cls = 1 → 1 < (nth 0 c.payload 15).toNat →
       ∃ t, exec (.serviceCellForward p c) s = .next t ∧ (t.port e).qSvc = (s.port e).qSvc ++ [lessTtl c] ∧
         (c ∈ (s.port p).rxSvc → (t.port p).rxSvc = (s.port p).rxSvc.erase c ∧ (t.port p).retSvc = (s.port p).retSvc + 1) ∧
         t = { s with olf := t.olf }) ∧
     (s.forHere c = true → c.kind = 5 → s.freshGen p c = true →
       ∃ t, exec (.serviceMessageReceive p c) s = .next t ∧
         (if Config.bufferFull s.freeCtr then t.svc.msgDrop = s.svc.msgDrop + 1 ∧ t.svc.inbox = s.svc.inbox
          else t.svc.inbox = s.svc.inbox ++ [(p, c.payload)]) ∧
         t = { s with svc := t.svc, olf := t.olf, freeCtr := s.freeCtr + 1 })) ∧
    (∀ o, s.svc.out.find? (fun x => x.1 == slot) = some (slot, o) → s.svc.waiting = [] →
      ∃ t, exec (.serviceRequestTimeout slot) s = .next t ∧ t.svc.answers = s.svc.answers ++ [⟨o.rtag, 6, []⟩] ∧
        t.svc.out = Tbl.del s.svc.out slot ∧ t.svc.cnt2 = satInc s.svc.cnt2 16 16 1 ∧
        t = { s with svc := t.svc, tim := { s.tim with now := t.tim.now } })

/-! ### Faults and step aborts (15) -/

/-- A raised fault is recorded with the next sequence number in the log (R414, R418), asks for a step abort where its severity does (R419), or
is folded after 64 of its code in the millisecond (R417), whose end, at the latest, puts the count into the record. A record of the compute
die waits while no UCIe module is up (R19), though the die acts on it. An abort is issued once for a step to every port of the job (R357,
R420); one that comes from a neighbour raises 0x9002 and goes on to the other ports, also after the job has stopped, and a copy is only
counted. That a folded record asks for no abort (log 40), SOURCE 104 + p (log 70), the records that wait (log 95) and a state left as it is
(log 3) are the model's. -/
def Obligations.FaultsAreRecordedAndStepsAborted : Prop :=
  ∀ s : State,
    (∀ r rest, s.flt.raised = r :: rest → r.code ≠ 0x2008 → r.code ≠ 0x5001 → s.ucieCut = true → r.source < 114 →
      ∃ t, exec .faultRecord s = .next t ∧ t.flt.raised = rest ∧ t.flt.parked = s.flt.parked ++ [r] ∧ t.flt.log = s.flt.log ∧
        t.flt.nextSeq = s.flt.nextSeq ∧
        (s.job.running = true → severity r.code r.run r.aux = 3 → s.secondary r = false → r.code ≠ 0x9002 →
          t.flt.asked = s.flt.asked ++ [(r.step, r.code, s.selfOrigin)]) ∧
        t = { s with flt := t.flt }) ∧
    (∀ r rest, s.flt.raised = r :: rest → r.code ≠ 0x2008 → r.code ≠ 0x5001 → (s.ucieCut = false ∨ 114 ≤ r.source) →
      let x := if s.flt.foldMs = s.msNow then Tbl.get ⟨0, 0, 0⟩ s.flt.folds r.code.toNat else ⟨0, 0, 0⟩
      let sev := severity r.code r.run r.aux
      (x.formed < 64 →
        ∃ t, exec .faultRecord s = .next t ∧ t.flt.raised = rest ∧ t.flt.nextSeq = s.flt.nextSeq + 1 ∧
          Tbl.get [] t.flt.log (s.flt.nextSeq % 65536) = s.recordBytes r sev r.sec ∧
          Tbl.get ⟨0, 0, 0⟩ t.flt.folds r.code.toNat = ⟨x.formed + 1, s.flt.nextSeq, 0⟩ ∧
          (s.job.running = true → (sev = 3 ∨ sev = 5) → s.secondary r = false → r.code ≠ 0x9002 →
            t.flt.asked = s.flt.asked ++ [(r.step, r.code, s.selfOrigin)]) ∧
          (s.job.running = false → t.flt.asked = s.flt.asked) ∧
          t = { s with flt := t.flt, hst := t.hst, pins := t.pins }) ∧
      (64 ≤ x.formed →
        exec .faultRecord s = .next { s with flt := { s.flt with
          raised := rest
          folds := Tbl.set s.flt.folds r.code.toNat { x with folded := x.folded + 1 }
          cnt := satInc s.flt.cnt 48 16 1 } })) ∧
    (∀ c x, s.flt.folds = [(c, x)] →
      ∃ t, exec .foldMillisecondEnd s = .next t ∧ t.flt.folds = [] ∧
        ((s.flt.foldMs + 1) * 1000000 * ns < 2 ^ 112 → (s.flt.foldMs + 1) * 1000000 * ns ≤ t.tim.now.toNat) ∧
        (0 < x.folded → Tbl.get [] t.flt.log (x.seq % 65536) = recount (Tbl.get (zeros 64) s.flt.log (x.seq % 65536)) (1 + x.folded)) ∧
        t = { s with flt := t.flt, hst := t.hst, tim := { s.tim with now := t.tim.now } }) ∧
    (s.flt.folds = [] → exec .foldMillisecondEnd s = .next s) ∧
    (∀ a rest, s.flt.asked = a :: rest → s.busy = true → s.job.abortSent.contains a.1 = false →
      ∃ t, exec .stepAbort s = .next t ∧ t.flt.asked = rest ∧ t.job.aborts = s.job.aborts ++ [a] ∧ t.job.abortSent = s.job.abortSent ++ [a.1] ∧
        (∀ p, p < 6 → s.sharesJob p = true → (t.port p).qAbort = (s.port p).qAbort ++ [s.abortCell a.1 a.2.1 a.2.2]) ∧
        (∀ p, p < 6 → s.sharesJob p = false → t.port p = s.port p) ∧ t.cxl.aborted = true ∧
        t = { s with flt := t.flt, job := t.job, olf := t.olf, cxl := { s.cxl with aborted := true }, svc := t.svc }) ∧
    (∀ p c, p < 6 → s.plc.placed = true → slice c.payload 16 4 = s.plc.jobDigest.take 4 →
      let org := leAt c.payload 8 2
      let step := s.stepNear (leAt c.payload 10 4)
      c.gen.toNat = s.genOf (org / 2 ^ 15) (org % 2 ^ 15) →
      (s.job.abortSent.contains step = false → s.job.aborts.any (fun a => a.1 == step) = false →
        ∃ t, exec (.abortCellReceive p c) s = .next t ∧ raisedOne s t 0x9002 (104 + p) ∧
          t.job.aborts = s.job.aborts ++ [(step, BitVec.ofNat 16 (leAt c.payload 14 2), org)] ∧
          (∀ x, x < 6 → x ≠ p → s.sharesJob x = true → (t.port x).qAbort = (s.port x).qAbort ++ [c]) ∧
          t = { s with flt := t.flt, job := t.job, olf := t.olf, cxl := { s.cxl with aborted := true }, svc := t.svc }) ∧
      (s.job.abortSent.contains step = true →
        ∃ t, exec (.abortCellReceive p c) s = .next t ∧ t.job = s.job ∧ t.flt = s.flt ∧ t.svc.cnt2 = satInc s.svc.cnt2 48 16 1 ∧
          t = { s with svc := t.svc, olf := t.olf }))

/-! ### Olfin links (11) and routers (12) -/

/-- Training (R293 to R299, R312, R325): DETECT without a fault goes on to EQUALISE, each lane fault raises 0x2009; ALIGN gives the lanes and
an IDENT; the first IDENT of the peer is answered and gives the leader and its epoch; the leader's exchange ends with the smaller width in
MEASURE; after two valid beacon windows the measured delays give B and H (8,191 for one above its field), and the link is up with full
credits. A state that times out goes back to DETECT, a retrain down with 0x2004. State 4 after a retrain's alignment (log 22), and a skew
above 4 ns that leaves the port where it is (logs 3, 23), are the model's. -/
def Obligations.LinksTrain : Prop :=
  ∀ (s : State) (p : Nat), p < 6 →
    let o := s.port p
    (o.st = 1 → ∀ peer lanes,
      let bad := ((List.range 8).filter (fun i => nth (0 : BitVec 3) lanes i ≠ 0)).length
      ∃ t, exec (.detectRetest p peer lanes) s = .next t ∧ t.flt.raised.length = s.flt.raised.length + bad ∧
        (bad = 0 → peer = true → (t.port p).st = 2 ∧ (t.port p).propose = 3) ∧ (peer = false → (t.port p).st = 1) ∧
        (∀ x, x ≠ p → t.port x = s.port x) ∧
        t = { s with olf := t.olf, flt := t.flt, tim := (s.beat (beatDetect p) (10000000 * ns)).tim }) ∧
    (o.st = 2 → ∃ t, exec (.equaliseDone p) s = .next t ∧ t.port p = { o with st := 3, stAt := s.tim.now.toNat } ∧ onlyPort s t p) ∧
    (∀ lanes skew, (o.st = 3 ∨ o.st = 7) → skew ≤ 4000 →
      let g := Olf.goodLanes { o with lane := o.aligned lanes }
      1 ≤ g → ∃ t, exec (.alignDone p lanes skew) s = .next t ∧ (t.port p).st = 4 ∧ (t.port p).lock = true ∧ (t.port p).lane = o.aligned lanes ∧
        (t.port p).propose = min o.propose (widthCode g) ∧ (t.port p).gotPeer = false ∧
        (t.port p).msgs = [⟨2, s.identBytes p false false o.epoch.toNat (min o.propose (widthCode g))⟩] ∧ onlyPort s t p) ∧
    (∀ lanes skew, 4000 < skew → exec (.alignDone p lanes skew) s = .next s) ∧
    (∀ b : List Byte, o.st = 4 → b.length = 66 →
      let leads := s.sec.fuses.physId.toNat < leAt b 0 8
      (o.gotPeer = false → leAt b 50 1 = 0 → o.gotGot = false →
        ∃ t, exec (.identReceive p b) s = .next t ∧ (t.port p).st = 4 ∧ (t.port p).gotPeer = true ∧
          (t.port p).peerId = BitVec.ofNat 64 (leAt b 0 8) ∧ ((t.port p).leader = true ↔ leads) ∧ (t.port p).peerWidth = leAt b 11 1 % 4 ∧
          (leads → (t.port p).epoch = BitVec.ofNat 4 (max o.epoch.toNat (leAt b 10 1 % 16) + 1)) ∧
          (t.port p).msgs = o.msgs.filter (fun m => m.msg ≠ 2) ++ [⟨2, if s.sec.fuses.physId.toNat < leAt b 0 8
            then s.identBytes p true true (t.port p).epoch.toNat (min o.propose (leAt b 11 1 % 4))
            else s.identBytes p true false o.epoch.toNat o.propose⟩] ∧ onlyPort s t p) ∧
      (o.gotPeer = true → o.leader = true → leads → leAt b 50 1 % 2 = 1 → slice b 18 32 = s.ownDigest → leAt b 12 2 = s.sec.fabric →
        o.minWidth ≤ min o.propose o.peerWidth → o.retrain = false → (s.rtr p).mapped = false → s.electing = false →
        ∃ t, exec (.identReceive p b) s = .next t ∧ (t.port p).st = 5 ∧ (t.port p).width = min o.propose o.peerWidth ∧
          (t.port p).svcOnly = decide (min o.propose o.peerWidth < 3) ∧ (t.port p).revDown = false ∧ (t.port p).miswired = false ∧
          (t.port p).digOnly = false ∧ (t.port p).windows = 0 ∧ (t.bcn p).exch = [] ∧ (∀ x, x ≠ p → t.port x = s.port x) ∧
          t = { s with olf := t.olf, tim := { s.tim with ports := t.tim.ports } })) ∧
    (o.st = 5 → o.windows < 2 → exec (.measureDone p) s = .next s) ∧
    (o.st = 5 → 2 ≤ o.windows → o.admitted = none →
      let d := Tbl.get 0 s.tim.delay p
      ∃ t, exec (.measureDone p) s = .next t ∧ (t.port p).st = 6 ∧ (t.port p).retrain = false ∧
        (t.port p).baseHold = (min 8191 ((30 * 65536 + field d 32 32 + 24575) / 24576),
          min 8191 ((3956736 + field d 32 32 + field d 0 32 + 24575) / 24576)) ∧
        (t.port p).credSvc = 56 ∧ (t.port p).credFoot = 8 ∧ (t.port p).txSeq = 0 ∧ (t.port p).rxSeq = 0 ∧ onlyPort s t p) ∧
    (2 ≤ o.st → o.st ≤ 5 → o.retrain = false →
      ∃ t, exec (.trainingTimeout p) s = .next t ∧ (t.port p).st = 1 ∧ (t.port p).lock = false ∧ (t.port p).lane = o.unlocked ∧
        (∀ x, x ≠ p → t.port x = s.port x) ∧ t = { s.advance o.dueAt with olf := t.olf }) ∧
    (o.st = 7 → s.svc.waiting = [] → s.electing = false →
      ∃ t, exec (.trainingTimeout p) s = .next t ∧ (t.port p).st = 0 ∧ raisedOne s t 0x2004 (104 + p) ∧ (t.bcn p).adv = none ∧
        t = { s with olf := t.olf, flt := t.flt, tim := t.tim, svc := t.svc })

/-- A link that is up (R317 to R324). Audits tell the occupancy, and a leak found twice is put right with 0x2007. Run checks go to every port
of the job, once at a tick, a difference raises 0x2006, equal digests end a port's service-only use for them (R298), a missing one is counted.
Loss of lock on all active lanes, from EXCHANGE on, raises 0x2001 and after 2 µs takes the link down with 0x2004; loss of one lane proposes a
width, which a smaller WIDTH brings in with 0x2005 and a retrain; a RETRAIN is followed. After 100 ms an enabled port that is down starts
again. Which ports are those of the job (log 26) and the times of the first audit and run check (log 97) are the model's. -/
def Obligations.LinksAreKeptUp : Prop :=
  ∀ (s : State) (p : Nat), p < 6 →
    let o := s.port p
    (o.st = linkUp →
      (∃ t, exec (.auditSend p) s = .next t ∧ (∀ x, x ≠ p → t.port x = s.port x) ∧
        t = { s with olf := t.olf, tim := (s.beat (beatAudit p) (1048576 * ns)).tim } ∧ t.port p = { o with
        msgs := o.msgs ++ [⟨6, leBytes o.rxSvc.length 1 ++ leBytes o.rxFoot.length 1 ++ leBytes o.rxSeq 2 ++ zeros 18⟩] }) ∧
      (∀ b : List Byte, 4 ≤ b.length →
        let fS := o.inFlight 1 (leAt b 2 2 % 1024)
        let fF := o.inFlight 2 (leAt b 2 2 % 1024)
        (o.credSvc + fS + leAt b 0 1 = 56 → o.credFoot + fF + leAt b 1 1 = 8 →
          ∃ t, exec (.auditReceive p b) s = .next t ∧ t.port p = { o with leakSvc := false, leakFoot := false } ∧ onlyPort s t p) ∧
        (o.credSvc + fS + leAt b 0 1 ≠ 56 → o.leakSvc = true →
          ∃ t, exec (.auditReceive p b) s = .next t ∧ (t.port p).credSvc = 56 - fS - leAt b 0 1 ∧ (t.port p).leakSvc = false ∧
            raisedOne s t 0x2007 (104 + p) ∧ (t.port p).cnt2 = satInc o.cnt2 56 8 1 ∧ t = { s with olf := t.olf, flt := t.flt })) ∧
      (o.lossAt = none → ∀ lane, lane < 8 → bit o.lane (8 * lane) = true →
        let g := Olf.goodLanes { o with lane := setField (setField o.lane (8 * lane) 1 0) (8 * lane + 5) 3 4 }
        0 < g → o.minWidth ≤ widthCode g →
        ∃ t, exec (.laneLockLoss p lane) s = .next t ∧ (t.port p).propose = widthCode g ∧ bit (t.port p).lane (8 * lane) = false ∧
          (t.port p).lock = decide (2 ^ o.width ≤ g) ∧
          (t.port p).msgs = o.msgs ++ [⟨4, leBytes (widthCode g) 1 ++ zeros 21⟩] ∧ onlyPort s t p) ∧
      (∀ w : BitVec 2, (o.retrains.filter (fun r => s.tim.now.toNat < r + 1000000000 * ns)).length < 3 → s.svc.waiting = [] →
        (∃ t, exec (.retrainReceive p w) s = .next t ∧ (t.port p).st = 7 ∧ (t.port p).propose = min o.propose w.toNat ∧ (t.port p).msgs = [] ∧
          (t.port p).replay = [] ∧ (t.port p).cnt = satInc o.cnt 32 8 1 ∧ t = { s with olf := t.olf, svc := t.svc }) ∧
        (o.minWidth ≤ min o.propose w.toNat → min o.propose w.toNat ≠ o.width →
          ∃ t, exec (.widthReceive p w) s = .next t ∧ (t.port p).st = 7 ∧ (t.port p).width = min o.propose w.toNat ∧ (t.port p).sched = false ∧
            raisedOne s t 0x2005 (104 + p) ∧ (∃ m, (t.port p).msgs = [⟨3, m⟩]) ∧ t = { s with olf := t.olf, svc := t.svc, flt := t.flt }))) ∧
    (4 ≤ o.st → 1 ≤ o.goodLanes → o.lossAt = none → ∃ t, exec (.lockLoss p) s = .next t ∧ (t.port p).lock = false ∧
      (t.port p).lossAt = some s.tim.now.toNat ∧ (t.port p).goodLanes = 0 ∧ (t.port p).keptLane = o.lane ∧
      (t.port p).cnt = satInc o.cnt 16 16 1 ∧ raisedOne s t 0x2001 (104 + p) ∧ t = { s with olf := t.olf, flt := t.flt }) ∧
    (∀ at_, o.lossAt = some at_ →
      (∃ t, exec (.lockRegain p) s = .next t ∧ onlyPort s t p ∧ t.port p = { o with
        lane := o.keptLane
        lossAt := none
        lock := Olf.allLocked { o with lane := o.keptLane } }) ∧
      (s.svc.waiting = [] → s.electing = false →
        ∃ t, exec (.lockLossTimeout p) s = .next t ∧ (t.port p).st = 0 ∧ (t.port p).lossAt = none ∧ raisedOne s t 0x2004 (104 + p) ∧
          t = { s with olf := t.olf, flt := t.flt, svc := t.svc, tim := t.tim })) ∧
    (s.job.running = true →
      (s.tick % 256 = 0 → s.job.runchk = some s.tick → exec .runchkSend s = .next s) ∧
      (s.tick % 256 = 0 → s.job.runchk ≠ some s.tick → ∃ t, exec .runchkSend s = .next t ∧
        t = { s with olf := t.olf, job := { s.job with runchk := some s.tick } } ∧ t.port p = if s.sharesJob p
        then { o with msgs := o.msgs ++
          [⟨5, leBytes (s.tick % 2 ^ 32) 4 ++ leBytes (s.step % 2 ^ 32) 4 ++ s.plc.jobDigest.take 4 ++ zeros 10⟩] }
        else o) ∧
      (∀ b : List Byte, 12 ≤ b.length → slice b 8 4 = s.plc.jobDigest.take 4 →
        let n := s.tickNear (leAt b 0 4)
        (leAt b 4 4 = s.stepAt n % 2 ^ 32 → (∀ q, (s.port q).digOnly = false) → ∃ t, exec (.runchkReceive p b) s = .next t ∧
          t.port p = { o with runTick := some n, named := false, peerDig := s.plc.jobDigest } ∧ onlyPort s t p) ∧
        (leAt b 4 4 = s.stepAt n % 2 ^ 32 → s.busy = true → o.digOnly = true → ∃ t, exec (.runchkReceive p b) s = .next t ∧
          (t.port p).digOnly = false ∧ (t.port p).svcOnly = (o.miswired || o.revDown || decide (o.width < 3)) ∧
          t = { s with olf := t.olf }) ∧
        (leAt b 4 4 ≠ s.stepAt n % 2 ^ 32 → ∃ t, exec (.runchkReceive p b) s = .next t ∧ raisedOne s t 0x2006 (104 + p) ∧
          (∃ r ∈ t.flt.raised, r.code = 0x2006 ∧ r.aux = kindRunState) ∧ t = { s with olf := t.olf, flt := t.flt })) ∧
      (256 ≤ s.tick → s.sharesJob p = true → (∀ n, o.runTick = some n → n < s.tick / 256 * 256 - 256) →
        ∃ t, exec (.runchkMissing p) s = .next t ∧ t.port p = { o with runMiss := o.runMiss + 1 } ∧ onlyPort s t p)) ∧
    (o.st = 0 → bit o.ctl 0 = true → s.rst.stage = .none →
      ∃ t, exec (.downHoldExpiry p) s = .next t ∧ t.port p = { o with st := 1, stAt := t.tim.now.toNat } ∧
        (o.downAt + 100000000 * ns < 2 ^ 112 → o.downAt + 100000000 * ns ≤ t.tim.now.toNat) ∧
        t = { s with olf := t.olf, tim := { s.tim with now := t.tim.now } })

/-- A frame is 19,275 bytes that begin with the lane markers (R289), at width w one each 96 × 8 ÷ w ns (R323); that a port below EQUALISE
sends none and where a longer frame begins are the model's choices (logs 3, 109). A control block with a good CRC frees acknowledged cells and
recomputes the credits (R304, R307, R316); a bad one is ignored but for the message it breaks (R300). A cell out of sequence, with a bad CRC
or in a frame that could not be corrected is asked for again (R305, R308); the next service cell takes an entry (R306, R316), the next
scheduled one is held for its slot (R313). What the FEC corrected, and the codewords it could not, are counted (R327). -/
def Obligations.FramesAndCellsPass : Prop :=
  ∀ (s : State) (p : Nat), p < 6 →
    let o := s.port p
    let n := s.tim.epoch.toNat / 96 + (s.tik.slotNo - 1) / 256
    let wide := if 5 ≤ o.st ∨ o.retrain = true then 8 / 2 ^ o.width else 1
    (2 ≤ o.st → (s.job.running = true → n % wide = 0) → (∀ f ∈ o.frags, f.2.2.2.length = 22) →
      ∃ t f, exec (.frameSend p) s = .next t ∧ (t.port p).frames = o.frames ++ [f] ∧ f.length = 19275 ∧ f.take 10 = laneMarkers ∧
      (∀ x, x ≠ p → t.port x = s.port x) ∧
      t = { s with olf := t.olf, tim := if s.job.running then s.tim else (s.beat (beatFrame p) (96 * wide * ns)).tim }) ∧
    (2 ≤ o.st → s.job.running = true → n % wide ≠ 0 → exec (.frameSend p) s = .next s) ∧
    (o.st < 2 → exec (.frameSend p) s = .next s) ∧
    (∀ b : List Byte, ¬ (b.length = 32 ∧ crc16 (b.take 30) = BitVec.ofNat 16 (beNat (slice b 30 2))) →
      ∃ t, exec (.linkWordReceive p b) s = .next t ∧ t.port p = { o with rxMsg := none } ∧ onlyPort s t p) ∧
    (∀ b : List Byte, b.length = 32 → crc16 (b.take 30) = BitVec.ofNat 16 (beNat (slice b 30 2)) → o.st = linkUp →
      let w := BitVec.ofNat 64 (leAt b 0 8)
      bit w 10 = false →
      ∃ t, exec (.linkWordReceive p b) s = .next t ∧ (t.port p).credSvc = 56 - (o.sentSvc + 4096 - field w 12 12) % 4096 ∧
        (t.port p).credFoot = 8 - (o.sentFoot + 4096 - field w 24 12) % 4096 ∧
        (∀ x rest, o.replay = x :: rest → x.fresh = false →
          (field w 0 10 + 1024 - x.cell.seq.toNat) % 1024 ≤ (o.replay.filter (fun y => !y.fresh)).length →
          (t.port p).replay = o.replay.drop ((field w 0 10 + 1024 - x.cell.seq.toNat) % 1024)) ∧ onlyPort s t p) ∧
    (∀ slot b (fec : FecObs), o.st = linkUp →
      let seen := satInc (satInc o.cnt2 0 32 fec.corrected) 32 16 fec.failed
      (fec.ok = false ∨ cellOf b = none → ∃ t, exec (.cellReceive p slot b fec) s = .next t ∧
        t.port p = { o with nak := true, cnt2 := seen } ∧ onlyPort s t p) ∧
      (∀ c, fec.ok = true → cellOf b = some c → c.cls ≠ 3 →
        (c.seq.toNat ≠ o.rxSeq → ∃ t, exec (.cellReceive p slot b fec) s = .next t ∧
          t.port p = { o with nak := true, cnt2 := seen } ∧ onlyPort s t p) ∧
        (c.seq.toNat = o.rxSeq → c.cls = 1 → o.rxSvc.length < 56 →
          ∃ t, exec (.cellReceive p slot b fec) s = .next t ∧ (t.port p).rxSvc = o.rxSvc ++ [c] ∧ (t.port p).rxSeq = (o.rxSeq + 1) % 1024 ∧
            (t.port p).nak = false ∧ (t.port p).cnt2 = seen ∧ onlyPort s t p) ∧
        (c.seq.toNat = o.rxSeq → c.cls = 0 → c.gen.toNat = field o.peer 4 4 → (s.rtr p).running = true → o.matched = 0 →
          ∃ t, exec (.cellReceive p slot b fec) s = .next t ∧ (t.port p).hold = o.hold ++ [⟨c, slot⟩] ∧
            (t.port p).rxSeq = (o.rxSeq + 1) % 1024 ∧ (t.port p).nak = false ∧ onlyPort s t p)))

/-- The routers' slot (R313, R335, R336, R340): each slot moves on by one, at its own time; a cell that comes in its slot on logical port a
with the tag and kind its entry expects goes out on logical port b in the slot's own number, when the entry names b alone; a cell expected and
not there is missed, with 0x1008, and one that is there but was checked after the slot is missed and discarded, with 0x2002 (R314). -/
def Obligations.RouterSlotsCarryCells : Prop :=
  ∀ (s : State), s.job.running = true → s.job.boundary = none → s.tik.slotNo < (s.tik.phaseNo + 1) * (32 * s.k) →
    ((∀ p, p < 6 → (s.rtr p).running = false) →
      ∃ t, exec .routerSlot s = .next t ∧ t.tik = { s.tik with slotNo := s.tik.slotNo + 1 } ∧
        (s.slotTime s.tik.slotNo < 2 ^ 112 → s.slotTime s.tik.slotNo ≤ t.tim.now.toNat) ∧
        t = { s with tik := t.tik, tim := { s.tim with now := t.tim.now } }) ∧
    (∀ a b p q c j rest, s.routers = [(a, p), (b, q)] → p ≠ q → a < b → b < 6 → s.physPort a = p → s.physPort b = q →
      let n := s.tik.slotNo % (32 * s.k)
      let w0 := (s.rtr p).entry s.k n 0
      let v0 := (s.rtr q).entry s.k n 0
      bit w0 20 = true → bit w0 18 = false → field w0 12 6 = 2 ^ b → field ((s.rtr p).entry s.k n 1) 0 2 = 0 →
      bit v0 20 = false → field ((s.rtr q).entry s.k n 1) 0 2 = 0 →
      ((s.port p).hold = ⟨c, j⟩ :: rest → j ≤ s.tik.slotNo → tagOk w0 c = true →
        (s.port q).st = linkUp → (s.port q).sched = true → (s.port q).svcOnly = false → (s.rtr q).loaded = true → (s.port q).dropped = false → (s.port q).scheduled < 448 →
        ∃ t, exec .routerSlot s = .next t ∧ (t.port p).hold = rest ∧ t.tik.slotNo = s.tik.slotNo + 1 ∧ t.flt = s.flt ∧
          (t.port q).replay = (s.port q).replay ++
            [{ cell := { c with seq := 0, cls := 0, gen := s.flt.gen }, sent := false, slot := s.tik.slotNo, fresh := true }] ∧
          t = { s with olf := t.olf, cwy := t.cwy, tik := t.tik, tim := t.tim }) ∧
      ((s.port p).hold = [] →
        ∃ t, exec .routerSlot s = .next t ∧ (t.port p).matched = (s.port p).matched + 1 ∧ raisedOne s t 0x1008 (104 + p) ∧
          (t.port q).replay = (s.port q).replay ∧ t = { s with olf := t.olf, cwy := t.cwy, tik := t.tik, tim := t.tim, flt := t.flt }) ∧
      ((s.port p).hold = ⟨c, j⟩ :: rest → s.tik.slotNo < j →
        ∃ t, exec .routerSlot s = .next t ∧ (t.port p).hold = rest ∧ (t.port p).matched = (s.port p).matched ∧
          (t.port p).cnt2 = satInc (s.port p).cnt2 48 8 1 ∧ (t.port q).replay = (s.port q).replay ∧
          (∃ x y : Raised, t.flt.raised = s.flt.raised ++ [x, y] ∧ x.code = 0x1008 ∧ y.code = 0x2002) ∧
          t = { s with olf := t.olf, cwy := t.cwy, tik := t.tik, tim := t.tim, flt := t.flt }))

/-! ### Jobs (13 to 15) -/

/-- The end of a job (R178, R404, R420, R421): a stop request reaches the leader, neighbour by neighbour up the job tree (R512), which names
S; S goes down; at its boundary the job stops, STOPPED, with the step-clock spans stopped and a waiting STOP answered with the last completed
step; an abort stops it with the step before the lowest aborted one. Digests are handed over (R213, R380), and steps qualify in turn (R410).
The bytes of a stop request and of S (log 13) and STOPPED of a span with a fixed clock (log 81) are the model's. -/
def Obligations.JobsStopAndStepsQualify : Prop :=
  ∀ s : State,
    (∀ b a, s.hst.waiting = [] → s.job.boundary = some b → s.lowAbort = some a →
      ∃ t, exec .abortStop s = .next t ∧ t.hst.st = stStopped ∧ t.hst.aborted = true ∧ t.job.running = false ∧ t.job.armed = false ∧
        t.job.boundary = none ∧ t.job.lastStep = (if a.1 ≤ s.job.firstStep then none else some (a.1 - 1)) ∧ t.tik.running = false ∧
        t.cxl.staging = false ∧ (∀ p, p < 114 → (s.spn p).silent = false → (t.spn p).running = false ∧
          (t.spn p).stopped = ((s.spn p).stopped || decide (p < 100))) ∧
        (∀ p, p < 6 → (t.rtr p).running = false) ∧
        (∀ p, t.port p = { s.port p with digOnly := (t.port p).digOnly, svcOnly := (t.port p).svcOnly }) ∧
        t = { s with spans := t.spans, msq := t.msq, cwy := t.cwy, cxl := t.cxl, job := t.job, tik := t.tik, plc := t.plc, pwr := t.pwr, pins := t.pins,
                     hst := t.hst, olf := t.olf }) ∧
    (∀ b, s.hst.waiting = [] → s.job.boundary = some b → s.lowAbort = none → s.cxl.runs.all (fun r => r.inbound || r.acked) = true →
      ∃ t, exec .jobStop s = .next t ∧ t.hst.st = stStopped ∧ t.job.running = false ∧ t.job.armed = false ∧ t.job.lastStep = s.job.lastStep ∧
        t.tik.running = false ∧ t.cxl.runs = [] ∧
        (∀ p, p < 114 → (s.spn p).silent = false → (t.spn p).stopped = ((s.spn p).stopped || decide (p < 100))) ∧
        (∀ p, t.port p = { s.port p with digOnly := (t.port p).digOnly, svcOnly := (t.port p).svcOnly }) ∧
        t = { s with spans := t.spans, msq := t.msq, cwy := t.cwy, cxl := t.cxl, job := t.job, tik := t.tik, plc := t.plc, pwr := t.pwr, pins := t.pins,
                     hst := t.hst, olf := t.olf } ∧
        (∀ h last n d, s.hst.running = [⟨.stop h last, n⟩] → h.via ≠ .mbox → s.hst.orphans = [] → s.job.lastStep = some d →
          t.hst.running = [] ∧ t.hst.done = s.hst.done ++ [⟨h.via, h.tag, h.irq, 0x0032, sOk, 0, n, 0, leBytes d 8⟩])) ∧
    (∀ last cause, s.job.running = true → s.isJobLeader = true → last < 2 ^ 64 - 1 →
      ∃ t, exec (.stopRequestReceive last cause) s = .next t ∧ t.job.requests = s.job.requests ++ [(last, cause, s.nowNs)] ∧
        (s.job.requests = [] → s.job.stopAfter = none → t.job.stopAfter = some (max last s.earliestStop) ∧ t.job.stopCause = cause) ∧
        t = { s with job := t.job, olf := t.olf }) ∧
    (∀ last cause p, s.job.running = true → s.isJobLeader = false → last < 2 ^ 64 - 1 → s.jobParent = some p →
      exec (.stopRequestReceive last cause) s = .next (s.updPort p (fun o => { o with
        qFoot := o.qFoot ++ [s.msgCell true (nbrDest (s.nport p) 0) (stopBody 0x80 last cause)] }))) ∧
    (∀ n, s.job.running = true →
      ∃ t, exec (.stopStepReceive n) s = .next t ∧ t = { s with job := t.job, olf := t.olf } ∧
        t.job = { s.job with stopAfter := some (match s.job.stopAfter with
          | some m => min m n
          | none => n) }) ∧
    (∀ n d rest, s.job.digests = (n, d) :: rest → s.aborted n = false → s.plc.paired = false →
      exec .stepDigestHandover s = .next { s with
        job := { s.job with digests := rest }
        plc := { s.plc with own := Tbl.set s.plc.own n d } }) ∧
    (∀ u, let n := s.job.firstStep + s.job.qualified
      s.job.ends.find? (fun e => e.1 == n) = some (n, u) → s.hostDone n = true → s.confirmed n = true → s.aborted n = false →
      bit s.flt.abortWin 16 = true → field s.hst.ctl 8 8 = 0 →
      ∃ t, exec .stepDonePost s = .next t ∧ t.hst = { s.hst with doneStep := orAll [at_ n 0 63, flag true 63] } ∧
        t.job = { s.job with qualified := s.job.qualified + 1 } ∧
        (u + field s.flt.abortWin 0 16 * 1000 * ns < 2 ^ 112 → u + field s.flt.abortWin 0 16 * 1000 * ns ≤ t.tim.now.toNat) ∧
        t = { s with
          hst := t.hst
          job := t.job
          tim := { s.tim with now := t.tim.now }
          plc := { s.plc with agreed := s.plc.agreed.filter (· ≠ n) } }) ∧
    (s.plc.paired = true →
      (∀ n d, s.digestUp = none → s.plc.own.find? (fun x => x.1 == n) = none →
        exec (.stepdigReceive (s.linkPort 1) n d) s =
          .next (if 6 ≤ s.linkPort 1 then s else { s with plc := { s.plc with twin := Tbl.set s.plc.twin n d } })) ∧
      (∀ n, ∃ t, exec (.confirmReceive n true) s = .next t ∧ t.plc.confirmed = orAll [at_ n 0 32, flag true 32] ∧
        t.plc.agreed = s.plc.agreed ++ [n] ∧ t = { s with plc := t.plc, olf := t.olf }) ∧
      (∀ n u, s.digestUp = none → s.plc.twin.find? (fun x => x.1 == n) = none → s.aborted n = false →
        s.job.ends.find? (fun e => e.1 == n) = some (n, u) →
        ∃ t, exec (.pairTimeout n) s = .next t ∧ (u + 10000000 * ns < 2 ^ 112 → u + 10000000 * ns ≤ t.tim.now.toNat) ∧ t.plc.cnt = satInc s.plc.cnt 48 16 1 ∧ (∃ a ∈ t.flt.asked, a.1 = n ∧ a.2.1 = 0x9002) ∧
          (bit s.plc.pairLog 32 = false → t.plc.pairLog = orAll [at_ n 0 32, flag true 32, flag true 33]) ∧
          t = { s with plc := t.plc, flt := t.flt, olf := t.olf, tim := { s.tim with now := t.tim.now } }))

/-- Placement (R364 to R374, R401). Claims go to every link that is up, and a better one is adopted; the election closes; the leader gathers
health records, another module passes them on; no map leads to a switch request that names the changes of the plan, or to NO_FIT when no round
is left; one second later the leader gathers again. With modules below it the leader holds its map until it has gone out unrefused (log 94). A
map with the right digest gives the module its place and PLACED; a wrong one raises 0x6002. RELEASE, EXCLUDE, REFUSE at the leader, admission
lost (log 93) and the time limit end a placement in LOADED, without the place held before. EXCLUDE's contents and what it ends (log 42), what a REFUSE at the leader does (log 51), the second
gathering and the plan (log 96) and when DUPLICATE ends (log 110) are the model's. -/
def Obligations.PlacementRunsItsCourse : Prop :=
  ∀ s : State, s.electing = true → s.hst.waiting = [] →
    (s.admitRow false ≠ 0 → ∀ i ∈ [Instr.claimSend, .electionClose, .mapCompute, .switchRegather, .releaseReceive, .excludeReceive ⟨1, s.plc.hall⟩],
      ∃ t, exec i s = .next t ∧ t.plc.st = 0 ∧ t.plc.placed = false ∧ t.plc.map = [] ∧ t.hst.st = stLoaded ∧
        t = { s with olf := t.olf, cwy := t.cwy, plc := t.plc, hst := t.hst }) ∧
    (s.admitRow false = 0 →
      (∃ t, exec .claimSend s = .next t ∧ t = { s with olf := t.olf, tim := (s.beat beatClaim (10000 * ns)).tim } ∧
        ∀ p, p < 6 → (t.port p).qSvc = (s.port p).qSvc ++ (if (s.port p).st = linkUp
          then [s.msgCell false (nbrDest (s.nport p) 0) (leBytes 1 1 ++ leBytes 0 2 ++ [0] ++ padTo s.imgDigest8 8 ++
            padTo (leBytes s.plc.claim.1 2 ++ leBytes s.plc.claim.2 2) 36)]
          else [])) ∧
      (s.plc.st = 2 → s.plc.claim = (s.plc.hall, 0) → (∀ p, p < 6 → s.wrongDelay p = false) →
        (∀ h ∈ s.plc.health, ∀ g ∈ s.ownHealth :: s.plc.health, h.hall = g.hall → h.physId = g.physId) →
        ∃ t, exec .electionClose s = .next t ∧ t.plc.st = 3 ∧ t.plc.leader = true ∧ t.plc.leadHall = s.plc.hall ∧
          (∃ h, t.plc.health = h :: s.plc.health ∧ h.physId = s.sec.fuses.physId ∧ h.hall = s.plc.hall) ∧
          t = { s with plc := t.plc, tim := { s.tim with now := t.tim.now } }) ∧
      (s.plc.given = none → s.plc.st = 3 → s.plc.leader = true → State.findMap { s with plc := { s.plc with st := 4 } } = none →
        (s.plc.rounds < field s.plc.ctl 28 3 →
          ∃ t l, exec .mapCompute s = .next t ∧ t.plc.st = 5 ∧ t.plc.rounds = s.plc.rounds + 1 ∧ t.plc.switch = some (s.plc.rounds, l) ∧
            l.length = min 64 (State.switchPlan { s with plc := { s.plc with st := 4 } }).length ∧ t.hst.st = s.hst.st ∧
            t = { s with plc := t.plc, hst := t.hst }) ∧
        (field s.plc.ctl 28 3 ≤ s.plc.rounds → ∃ t, exec .mapCompute s = .next t ∧ t.plc.st = 0 ∧ t.hst.st = stLoaded ∧
          t = { s with olf := t.olf, cwy := t.cwy, plc := t.plc, hst := t.hst })) ∧
      (∀ seats, s.plc.given = none → s.plc.st = 3 → s.plc.leader = true →
        State.findMap { s with plc := { s.plc with st := 4 } } = some seats → (∃ x ∈ seats, x.1.physId = s.sec.fuses.physId) →
        let m := seats.mapIdx (fun i x => s.mapEntry i x)
        (s.plc.kidPorts = [] → ∃ t, exec .mapCompute s = .next t ∧ t.plc.placed = true ∧ t.plc.map = m ∧ t.hst.st = stPlaced ∧
          t = { s with olf := t.olf, cwy := t.cwy, svc := t.svc, plc := t.plc, hst := t.hst, flt := t.flt }) ∧
        (s.plc.kidPorts ≠ [] → ∃ t, exec .mapCompute s = .next t ∧ t.plc.given = some (m, sha256 (mapBytes m)) ∧ t.plc.placed = s.plc.placed ∧
          t = { s with olf := t.olf, plc := t.plc })) ∧
      (∀ m d i, s.plc.given = some (m, d) → m.findIdx? (fun e => e.physId == s.sec.fuses.physId) = some i →
        ∃ t, exec .mapCompute s = .next t ∧ t.plc.placed = true ∧ t.plc.map = m ∧ t.plc.given = none ∧ t.hst.st = stPlaced ∧
          t = { s with olf := t.olf, cwy := t.cwy, svc := t.svc, plc := t.plc, hst := t.hst, flt := t.flt }) ∧
      (s.plc.st = 5 → s.plc.leader = true → s.plc.switch = none →
        ∃ t h, exec .switchRegather s = .next t ∧ t.plc.st = 3 ∧ h.physId = s.sec.fuses.physId ∧
          t.plc.health = h :: s.plc.health.filter (fun g => g.physId ≠ s.sec.fuses.physId) ∧
          (s.plc.switchAt + 1000000000 * ns < 2 ^ 112 → s.plc.switchAt + 1000000000 * ns ≤ t.tim.now.toNat) ∧
          t = { s with plc := t.plc, tim := { s.tim with now := t.tim.now } }) ∧
      (∀ p m d i, p < 6 → s.plc.leader = false → sha256 (mapBytes m) = d → m.findIdx? (fun e => e.physId == s.sec.fuses.physId) = some i →
        ∃ t, exec (.mapReceive p m d) s = .next t ∧ t.plc.map = m ∧ t.plc.mapDigest = d ∧ t.plc.placed = true ∧ t.plc.st = 6 ∧
          t.plc.jobDigest = sha256 (slice s.job.img 32 32 ++ d) ∧ t.plc.chip = s.chipNo (i % max 1 s.mapN) ∧ t.plc.replica = i / max 1 s.mapN ∧
          t.hst.st = stPlaced ∧ bit t.flt.abortWin 16 = true ∧
          t = { s with olf := t.olf, cwy := t.cwy, svc := t.svc, plc := t.plc, hst := t.hst, flt := t.flt }) ∧
      (∀ p m d, p < 6 → s.plc.leader = false → sha256 (mapBytes m) ≠ d →
        ∃ t, exec (.mapReceive p m d) s = .next t ∧ t.plc.st = 0 ∧ t.hst.st = stLoaded ∧ raisedOne s t 0x6002 srcToll ∧ t.plc.map = [] ∧
          t.plc.placed = false ∧ t = { s with olf := t.olf, cwy := t.cwy, plc := t.plc, hst := t.hst, flt := t.flt }) ∧
      (∃ t, exec .releaseReceive s = .next t ∧ t.plc.st = 10 ∧ t.plc.placed = false ∧ t.hst.st = stLoaded ∧
        t = { s with olf := t.olf, cwy := t.cwy, plc := t.plc, hst := t.hst })) ∧
    (∀ p hall depth d, p < 6 → s.takesPlc d = true → s.plc.st = 2 → hall < s.plc.claim.1 →
      ∃ t, exec (.claimReceive p hall depth d) s = .next t ∧ t.plc.claim = (hall, depth + 1) ∧ t.plc.claimAt = s.tim.now.toNat ∧
        t.plc.parent = p ∧ t.plc.depth = depth + 1 ∧ p ∈ t.plc.heard ∧ t = { s with plc := t.plc }) ∧
    (∀ p r d, p < 6 → s.takesPlc d = true →
      let l := s.plc.health.filter (fun h => h.physId ≠ r.physId) ++ [r]
      (s.plc.leader = true → (∀ h ∈ l, ∀ g ∈ l, h.hall = g.hall → h.physId = g.physId) →
        ∃ t, exec (.healthReceive p r d) s = .next t ∧ t.plc.health = l ∧ p ∈ t.plc.kidPorts ∧ t = { s with plc := t.plc }) ∧
      (s.plc.leader = false → s.plc.parent < 6 →
        ∃ t m, exec (.healthReceive p r d) s = .next t ∧ (t.port s.plc.parent).qSvc = (s.port s.plc.parent).qSvc ++ m ∧ m ≠ [] ∧
          t.plc.health = s.plc.health ∧ t = { s with plc := t.plc, olf := t.olf })) ∧
    (s.admitRow false = 0 → ∃ t, exec (.excludeReceive ⟨1, s.plc.hall⟩) s = .next t ∧ t.plc.st = 0 ∧ t.hst.st = stLoaded ∧ t.plc.duplicate = true ∧
      raisedOne s t 0x6004 srcToll ∧ t = { s with olf := t.olf, cwy := t.cwy, plc := t.plc, hst := t.hst, flt := t.flt }) ∧
    (∀ cause hall, s.admitRow false = 0 → hall ≠ s.plc.hall → (∀ p ∈ s.plc.kidPorts, p < 6) → ∃ t, exec (.excludeReceive ⟨cause, hall⟩) s = .next t ∧
      t = { s with olf := t.olf } ∧ ∀ p ∈ s.plc.kidPorts, ∃ m, m ≠ [] ∧ (t.port p).qSvc = (s.port p).qSvc ++ m) ∧
    (∀ p hall code, p < 6 → s.plc.proposal = none → s.plc.leader = true →
      ∃ t, exec (.refuseReceive p hall code) s = .next t ∧ t.plc.st = 0 ∧ t.plc.placed = false ∧ t.hst.st = stLoaded ∧
        t = { s with olf := t.olf, cwy := t.cwy, plc := t.plc, hst := t.hst }) ∧
    (s.hst.st = stPlacing → ∃ t, exec .placeTimeout s = .next t ∧ t.plc.st = 0 ∧ t.hst.st = stLoaded ∧
      t = { s with tim := t.tim, olf := t.olf, cwy := t.cwy, plc := t.plc, hst := t.hst })

/-- The start (R375 to R377, R403, R405, R453). PROPOSE puts the epoch in the shadow of group 1 and captures it, while the live epoch stands;
a module without a place, or whose job runs, refuses on the port of arrival (R376). READY from below is noted; GO arms the keystone at tick 0
with COMMIT and START; CANCEL and the deadlines give the start up, and START is ARMED again. The bytes of REFUSE (log 13) and its code 0x6002
for a module without a place (log 50) are the model's. -/
def Obligations.StartsAreProposedAndGo : Prop :=
  ∀ (s : State) (e : Nat), s.hst.waiting = [] →
    (∀ q d, q < 6 → s.job.loaded = true → s.plc.placed = true → s.job.running = false → s.isJobLeader = false →
      ∃ t p, exec (.proposeReceive ⟨q, d⟩ e) s = .next t ∧ t.plc.proposal = some p ∧ p.epoch = e ∧ p.go = false ∧ t.plc.st = 7 ∧
        t = { s with plc := t.plc, cfg := t.cfg, job := t.job, olf := t.olf, flt := t.flt }) ∧
    (∀ q d, q < 6 → s.job.loaded = true → (s.plc.placed = false ∨ s.job.running = true ∧ s.isJobLeader = false) →
      exec (.proposeReceive ⟨q, d⟩ e) s = .next (s.sendPlc q 8 (leBytes s.plc.hall 2 ++ leBytes 0x6002 2))) ∧
    (∀ x p count, p < 6 → s.plc.proposal = some x → x.own = false →
      exec (.readyReceive p count) s = .next { s with plc := { s.plc with proposal := some { x with kids := Tbl.set x.kids p count } } }) ∧
    (∀ x p count, p < 6 → s.plc.proposal = some x → x.own = true → x.sentUp = false → x.go = false → s.isJobLeader = true →
      s.job.armed = true → s.job.accepted = true → s.job.withdrawn = 0 → s.tim.now.toNat + 200000 * ns ≤ x.epoch * ns →
      (∀ c ∈ s.jobChildren, ∃ k ∈ Tbl.set x.kids p count, k.1 = c) →
      ∃ t y, exec (.readyReceive p count) s = .next t ∧ t.plc.proposal = some y ∧ y.go = true ∧ y.epoch = x.epoch ∧ t.plc.st = 8 ∧
        t.tik = { s.tik with keyTick := 0, keyAct := 3, keyArmed := true, armTick := 0, armAct := 3 } ∧
        t = { s with plc := t.plc, tik := t.tik, olf := t.olf }) ∧
    (∀ x, s.plc.proposal = some x → x.epoch = e →
      (s.plc.placed = true → x.go = false → s.job.withdrawn ≠ 2 → s.tim.now.toNat + 200000 * ns ≤ e * ns →
        ∃ t y, exec (.goReceive (slice s.plc.jobDigest 0 8) e) s = .next t ∧ t.plc.proposal = some y ∧ y.go = true ∧ t.plc.st = 8 ∧
          t.tik = { s.tik with keyTick := 0, keyAct := 3, keyArmed := true, armTick := 0, armAct := 3 } ∧
          t = { s with plc := t.plc, tik := t.tik, olf := t.olf }) ∧
      (x.go = false → s.hst.st = stStarting → s.job.withdrawn ≠ 2 →
        (s.plc.placed = true → ∃ t, exec (.cancelReceive (slice s.plc.jobDigest 0 8) e) s = .next t ∧ t.plc.proposal = none ∧
          t.hst.st = stArmed ∧ t.job.accepted = false ∧ t.job.armed = s.job.armed ∧ t.tik.keyArmed = false ∧
          t.plc.cnt = satInc s.plc.cnt 32 16 1 ∧ t = { s with olf := t.olf, cfg := t.cfg, plc := t.plc, job := t.job, tik := t.tik, hst := t.hst }) ∧
        (s.isJobLeader = true → ∃ t, exec .readyDeadline s = .next t ∧ t.plc.proposal = none ∧ t.hst.st = stArmed ∧ t.job.accepted = false ∧
          t = { s with olf := t.olf, cfg := t.cfg, plc := t.plc, job := t.job, tik := t.tik, hst := t.hst, tim := t.tim }) ∧
        (∃ t, exec .goDeadline s = .next t ∧ t.plc.proposal = none ∧ t.hst.st = stArmed ∧ t.job.accepted = false ∧
          t = { s with cfg := t.cfg, plc := t.plc, job := t.job, tik := t.tik, hst := t.hst, tim := t.tim })))

/-! ### Staging and CXL (10) -/

/-- The staging engine (R275 to R283): an inbound descriptor starts its read at its tick, takes its lines before the last cycle ahead of its
deadline, is checked at the deadline's edge with 0x100B for the tick that ends there where a line is missing, and is delivered as crossing
writes; an outbound one is captured, written outside in list order where ranges overlap, and acknowledged. A failed access raises 0x3005; one
to a host buffer that is registered no more only leaves its descriptor incomplete (R387). The CXL link is used as it trained, and stays down
at a width or speed that R271 does not list; devices change between jobs only (R272), and a link that goes down fails the accesses outstanding
(R282). That such a link stays down (log 89) and that 0x3005 is raised once at a link's loss (log 32) are the model's. -/
def Obligations.StagingMovesLines : Prop :=
  ∀ (s : State) (d : Nat) (a : Desc), s.desc d = some a →
    (s.job.running = true → s.cxl.staging = true → a.out = false → s.stepTick = a.issue → s.cxl.aborted = false → s.staged d = true →
      s.stgRun d s.step = none →
      let all := List.range a.n
      (s.accessBad a all = none → s.hostGone a = false → exec (.stagingIssue d) s = .next { s with cxl := { s.cxl with
        runs := s.cxl.runs ++ [{ desc := d, step := s.step, inbound := true, host := a.host, issued := s.readFree a d s.step }] } }) ∧
      (s.accessBad a all = none → s.hostGone a = true → s.readFree a d s.step = true → ∃ t, exec (.stagingIssue d) s = .next t ∧
        t.stgRun d s.step = some { desc := d, step := s.step, inbound := true, host := a.host, issued := false, failed := true } ∧
        t.cxl.stgCnt = satInc s.cxl.stgCnt 56 8 1 ∧ t = { s with cxl := t.cxl }) ∧
      (∀ k i, s.accessBad a all = some (k, i) → s.readFree a d s.step = true → ∃ t, exec (.stagingIssue d) s = .next t ∧ raisedOne s t 0x3005 110 ∧
        t.cxl.faulted = true ∧ (s.cxl.faulted = false → field t.cxl.stgLog 13 9 = i) ∧ t = { s with cxl := t.cxl, flt := t.flt })) ∧
    (∀ st r line data, s.stgRun d st = some r → r.inbound = true → r.issued = true → r.checked = none → s.cxl.aborted = false → line < a.n →
      line ∉ r.done →
      (s.inTime a st = false → exec (.stagingLineArrive d st line data) s = .next s) ∧
      (s.inTime a st = true → ∃ t, exec (.stagingLineArrive d st line data) s = .next t ∧ t.stgRun d st = some { r with done := r.done ++ [line] } ∧
        Tbl.get [] t.cxl.sbuf (a.sbuf + line) = padTo data 128 ∧ t = { s with cxl := t.cxl } ∧
        (a.host = true → a.out = false → s.ucieCut = false → s.hostGone a = false →
          exec (.hostDmaComplete (.staging d st line) (.ok data)) s = .next t))) ∧
    (∀ r, s.stgRun d (s.step - a.lag) = some r → s.job.running = true → s.stepTick = a.dead → s.phase = 0 → a.lag ≤ s.step → r.checked = none →
      (r.inbound = false → r.complete a.n = true → ∃ t, exec (.stagingDeadline d) s = .next t ∧ t.stgRun d (s.step - a.lag) = none ∧
        t.cxl.stgCnt = satInc s.cxl.stgCnt 0 24 1 ∧ t = { s with cxl := t.cxl }) ∧
      (r.inbound = true → r.complete a.n = true → ∃ t, exec (.stagingDeadline d) s = .next t ∧
        t.stgRun d (s.step - a.lag) = some { r with checked := some true } ∧ t.cxl.stgCnt = satInc s.cxl.stgCnt 0 24 1 ∧ t = { s with cxl := t.cxl }) ∧
      (r.complete a.n = false → ∃ t, exec (.stagingDeadline d) s = .next t ∧
        t.stgRun d (s.step - a.lag) = some { r with checked := some false } ∧ t.cxl.stgCnt = satInc s.cxl.stgCnt 24 16 1 ∧
        (∃ x : Raised, t.flt.raised = s.flt.raised ++ [x] ∧ x.code = 0x100B ∧ x.source = 110 ∧ x.tick = s.tick - 1 ∧
          x.step = s.job.firstStep + (s.tick - 1) / max 1 s.stepTicks) ∧ t = { s with cxl := t.cxl, flt := t.flt })) ∧
    (∀ r, s.stgRun d (s.step - a.lag) = some r → s.job.running = true → a.out = false → s.stepTick = a.stick → s.phase = a.sph → a.lag ≤ s.step →
      r.checked = some true →
      ∃ t l, exec (.stagingDelivery d) s = .next t ∧ t.mesh = s.mesh ++ l ∧ l.length = a.n ∧ t.stgRun d (s.step - a.lag) = none ∧
        (∀ i x, l[i]? = some x → x.entry = a.entry + i ∧ x.q = a.q ∧ x.data = padTo (Tbl.get (zeros 128) s.cxl.sbuf (a.sbuf + i)) 128 ∧
          x.phase = s.tik.phaseNo) ∧ t = { s with mesh := t.mesh, cxl := t.cxl }) ∧
    (s.job.running = true → s.cxl.staging = true → a.out = true → s.stepTick = a.stick → s.phase = a.sph → s.staged d = true →
      s.stgRun d s.step = none →
      ∃ t l, exec (.stagingCapture d) s = .next t ∧
        t.cxl.runs = s.cxl.runs ++ [{ desc := d, step := s.step, inbound := false, host := a.host, toWrite := l }] ∧ (∀ i ∈ l, i < a.n) ∧
        t = { s with spans := t.spans, cxl := t.cxl, flt := t.flt }) ∧
    (∀ st r, s.stgRun d st = some r → r.inbound = false →
      (r.issued = false → r.failed = false → s.cxl.aborted = false → (r.toWrite = [] ∨ s.hostGone a = false) → s.accessBad a r.toWrite = none →
        s.overlapped a (fun q => (q.issued || q.before d st) && !(q.desc == d && q.step == st)) = false →
        ∃ t, exec (.stagingExternalWrite d st) s = .next t ∧ t.stgRun d st = some { r with issued := true } ∧
          t.cxl.out = s.cxl.out ++ r.toWrite.map (fun i => ⟨a.host, a.hbuf * 2 ^ 40 + a.addr + 128 * i, Tbl.get (zeros 128) s.cxl.sbuf (a.sbuf + i)⟩) ∧
          t = { s with cxl := t.cxl }) ∧
      (∀ line, r.issued = true → line ∈ r.toWrite → line ∉ r.done →
        ∃ t, exec (.stagingWriteAck d st line) s = .next t ∧ (∃ u, t.stgRun d st = some u ∧ u.done = r.done ++ [line] ∧
          u.late = if s.inTime a st then r.late else r.late ++ [line]) ∧ t = { s with cxl := t.cxl, flt := t.flt }) ∧
      (∀ line k, r.issued = true → a.host = false → line < a.n →
        ∃ t, exec (.cxlAccessError d st line k) s = .next t ∧ raisedOne s t 0x3005 110 ∧ t.cxl.stgCnt = satInc s.cxl.stgCnt 40 16 1 ∧
          t.stgRun d st = some { r with failed := true } ∧ t = { s with cxl := t.cxl, flt := t.flt })) ∧
    (∀ w sp n l, s.fwUp = true → cxlTrains w sp = false → exec (.cxlLinkTrain w sp n l) s = .next { s with cxl := { s.cxl with
        linkUp := false
        width := 0
        speed := 0 } }) ∧
    (∀ w sp n l, s.fwUp = true → cxlTrains w sp = true →
      exec (.cxlLinkTrain w sp n l) s = .next { s with cxl := { s.cxl with
        linkUp := true
        width := w
        speed := sp
        devices := if s.busy then s.cxl.devices else min n 4
        hdm := if s.busy then s.cxl.hdm else hdmRegs l } }) ∧
    (∀ n l, s.busy = false → s.cxl.linkUp = true →
      exec (.cxlHotAdd n l) s = .next { s with cxl := { s.cxl with devices := min n 4, hdm := hdmRegs l } }) ∧
    ((∀ r ∈ s.cxl.runs, ∀ b, s.desc r.desc = some b → r.outside b.n = false) →
      exec .cxlLinkDown s = .next { s with cxl := { s.cxl with linkUp := false, width := 0, speed := 0 } }) ∧
    (∀ r, s.cxl.runs = [r] → r.desc = d → r.outside a.n = true → ∃ t, exec .cxlLinkDown s = .next t ∧ t.cxl.linkUp = false ∧
      t.cxl.runs = [{ r with failed := true }] ∧ raisedOne s t 0x3005 110 ∧ t = { s with cxl := t.cxl, flt := t.flt })

/-! ### Scrubs, the assize and the journal (04, 16) -/

/-- The store scrub, the assize check and the journal. A store scrub rewrites a line whose errors the corrector takes out, reports an
uncorrectable one with 0x3002, marks the tile of a line whose rewrite fails (R112, R119), changes nothing else, and does nothing in a job. A
pass of the assize comes at the next integer millisecond, counts, clears the regions that match and raises 0x6003 for one that does not (R457,
R460). A journal record reads back from its bytes as it was and stands after a lower SEQ (R462, R464), and none crosses a 4 KiB boundary
(R461). The journal takes a record until its reserve begins, and drops another with JRNL_FULL (R466); a FAULT record that it takes is marked
in the log (R418). Compaction, once complete, makes the sealed spare bank, with what it carries, the active one, and an erased bank is the
spare of the next compaction, which begins if it waited (R465). The model's choices: "between jobs" leaves out the time in which a job is
armed (log 82), an event that finds nothing to do leaves the state (log 3), the order and masks of region 6 and passes that nothing interrupts
(log 20), SEQ of BANK (log 21). -/
def Obligations.ScrubAssizeAndJournal : Prop :=
  ∀ s : State,
    (s.busy = true ∨ s.upsetLines = [] → exec .storeScrubPass s = .next s) ∧
    (∃ t, exec .storeScrubPass s = .next t ∧ (∀ u, u.area ≠ .store → (u ∈ t.upsets ↔ u ∈ s.upsets)) ∧
      t = { s with mem := t.mem, upsets := t.upsets, clusters := t.clusters, rows := t.rows, flt := t.flt, cfg := t.cfg }) ∧
    (∀ cl line, s.busy = false → s.upsetLines = [(cl, line)] → cl < 800 → (s.spn (spanOf cl)).running = false → s.mute (spanOf cl) = false →
      let e := eccRead s.upsets .store (storeKey cl line) (memRead s.mem (storeAddr cl line) 128)
      (e.bad = [] → e.corr ≠ [] → s.stuckLine cl line = false → memWf s.mem = true →
        ∃ t, exec .storeScrubPass s = .next t ∧ (t.clu cl).eccCnt = satInc (s.clu cl).eccCnt 0 32 1 ∧
          memRead t.mem (storeAddr cl line) 128 = e.data ∧ (∀ u ∈ t.upsets, ¬ (u.area = .store ∧ u.line = storeKey cl line)) ∧
          (∀ a, (a < storeAddr cl line ∨ storeAddr cl line + 128 ≤ a) → memGet t.mem a = memGet s.mem a) ∧
          t = { s with mem := t.mem, upsets := t.upsets, clusters := t.clusters, flt := t.flt }) ∧
      (e.bad = [] → e.corr ≠ [] → s.stuckLine cl line = true → (s.row (cl / 32)).active = 33 → (s.row (cl / 32)).pending = 33 → s.physColOf cl < 33 →
        ∃ t, exec .storeScrubPass s = .next t ∧ (t.row (cl / 32)).pending = s.physColOf cl ∧
          (∀ u, u ∈ t.upsets ↔ u ∈ s.upsets ∧ (u.hard = true ∨ ¬ (u.area = .store ∧ u.line = storeKey cl line))) ∧
          t = { s with mem := t.mem, upsets := t.upsets, clusters := t.clusters, rows := t.rows, flt := t.flt, cfg := t.cfg }) ∧
      (e.bad ≠ [] → ∃ t, exec .storeScrubPass s = .next t ∧ (t.clu cl).eccCnt = satInc (s.clu cl).eccCnt 32 16 1 ∧
        (t.clu cl).eccUe = true ∧ raisedOne s t 0x3002 (spanOf cl) ∧
        t = { s with clusters := t.clusters, rows := t.rows, flt := t.flt, cfg := t.cfg })) ∧
    (s.rst.dieUp = true → s.rst.stage ≠ .begun → s.pwr.computeOff = false →
      ((∀ n ∈ s.regions, s.regionOk n = true) →
        ∃ t, exec .assizePass s = .next t ∧ t.cfg = { s.cfg with pass := s.cfg.pass + 1, bad := s.cfg.bad.filter (fun n => !s.regions.contains n) } ∧
          t.tim = (s.alignedBeat beatAssize (1000000 * ns)).tim ∧ t = { s with cfg := t.cfg, tim := t.tim }) ∧
      (∀ n, n < 6 → s.regionOk n = false →
        ∃ t, exec .assizePass s = .next t ∧ t.cfg.pass = s.cfg.pass + 1 ∧ n ∈ t.cfg.bad ∧ (∃ r ∈ t.flt.raised, r.code = 0x6003 ∧ r.source = 113) ∧
          t.tim = (s.alignedBeat beatAssize (1000000 * ns)).tim ∧ t = { s with cfg := t.cfg, flt := t.flt, tim := t.tim })) ∧
    (∀ r : JRec, r.payload.length ≤ 4064 → r.seq < 2 ^ 64 → r.time < 2 ^ 64 →
      r.bytes.length = 32 + roundUp r.payload.length 8 ∧ slice r.bytes 24 r.payload.length = r.payload ∧ jrecOf r.bytes = r ∧
      ∀ last, recStands r.bytes (24 + roundUp r.payload.length 8) 4 last = last.all (fun q => decide (q < r.seq))) ∧
    (∀ a n, n ≤ 4064 → a ≤ recStart a (recLen n) ∧ recStart a (recLen n) % 4096 + recLen n ≤ 4096 ∧
      (a % 32 = 0 → recStart a (recLen n) % 32 = 0)) ∧
    (∀ ty b, b.length ≤ 4064 →
      (s.cfg.takes ty b.length = true →
        ∃ t, exec (.journalAppend ty b) s = .next t ∧ t.cfg.nextSeq = s.cfg.nextSeq + 1 ∧
          t.cfg.bank = s.cfg.bank.add ⟨ty, b, s.cfg.nextSeq, if s.tim.good then s.nowNs else 0, s.flt.gen⟩ ∧
          (ty ≠ jrFault → t = { s with cfg := t.cfg }) ∧
          (ty = jrFault → s.flt.toJournal.contains (leAt b 4 4) = true →
            Tbl.get [] t.flt.log (leAt b 4 4 % 65536) = markJournaled (Tbl.get (zeros 64) s.flt.log (leAt b 4 4 % 65536)) ∧
              t.flt.toJournal = s.flt.toJournal.filter (· ≠ leAt b 4 4) ∧ t = { s with cfg := t.cfg, flt := t.flt })) ∧
      (s.cfg.takes ty b.length = false → ty ≠ jrFault → exec (.journalAppend ty b) s = .next { s with cfg := { s.cfg with full := true } })) ∧
    (s.cfg.compacting = true →
      let b := s.sealBank s.cfg.spare s.cfg.carried
      exec .compactionComplete s = .next { s with cfg := { s.cfg.setSpare b with
        active := !s.cfg.active
        compacting := false
        nextSeq := s.cfg.nextSeq + 1
        full := decide (bankReserve ≤ b.append) } }) ∧
    (s.cfg.spareReady = false → s.cfg.compacting = false →
      (s.cfg.compactDue = false → exec .oldBankErased s = .next { s with cfg := { s.cfg.setSpare {} with spareReady := true } }) ∧
      (s.cfg.compactDue = true → ∃ t, exec .oldBankErased s = .next t ∧ t.cfg.compacting = true ∧ t.cfg.compactDue = false ∧
        t.cfg.compactSeq = s.cfg.nextSeq ∧ t.cfg.spare = s.openBank (s.cfg.bank.count + 1) ∧ t.cfg.bank = s.cfg.bank ∧ t = { s with cfg := t.cfg })) ∧
    (s.cfg.compacting = false → exec .compactionComplete s = .next s) ∧
    (s.cfg.spareReady = true ∨ s.cfg.compacting = true → exec .oldBankErased s = .next s)

/-! ### Reset and boot (15, 18) -/

/-- A module reset (R268, R269, R428 to R433, R488): the drain, at its latest after twice the service timeout, ends with the RESET record in
the journal; S takes the stacks to self-refresh, the links down and the interface to RESETTING, and cuts a firmware update short; S + 10 µs
leaves every register at its reset value with the memories' contents, fuses and flash kept; the boot ROM starts verified firmware, or none
with 0x7001; firmware takes its generation from the journal, records an unplanned reset (log 52), and takes its hall number from the straps; a
stack that left self-refresh reads as zero; IDLE comes with a zeroed store and vector 3. That a store keeps its contents until the self-test
(log 7), that straps are sensed anew at a reset (log 51), what a reset supersedes (log 111) and how a boot record is written (log 61) are the
model's. -/
def Obligations.ResetsRunTheirSequence : Prop :=
  ∀ s : State,
    (s.rst.stage = .draining → s.flt.draining = true →
      ∃ t, exec .drainEnd s = .next t ∧ t.flt = { s.flt with draining := false } ∧
        (s.cfg.bank.append < bankReserve → ∃ r o, (o, JRec.bytes r) ∈ t.cfg.bank.cells ∧ r.ty = jrReset ∧
          r.payload = [BitVec.ofNat 8 s.rst.cause, if s.rst.planned then 1 else 0, BitVec.ofNat 8 s.flt.gen.toNat]) ∧
        (s.drained = false → s.rst.drainAt + s.drainLimit < 2 ^ 112 → s.rst.drainAt + s.drainLimit ≤ t.tim.now.toNat) ∧
        (s.drained = true → t.tim = s.tim) ∧ t = { s with flt := t.flt, cfg := t.cfg, tim := { s.tim with now := t.tim.now } }) ∧
    (∀ c, s.rst.stage ≠ .off → s.rst.again = some c →
      ∃ t, exec .resetHoldExpiry s = .next t ∧ t.rst = { s.rst with stage := .draining, planned := false, cause := c, again := none } ∧
        (s.resetFrom < 2 ^ 112 → s.resetFrom ≤ t.tim.now.toNat) ∧
        t = { s with rst := t.rst, flt := { s.flt with draining := false }, tim := { s.tim with now := t.tim.now } }) ∧
    (s.rst.stage = .held → s.rst.planned = false → s.rst.again = none →
      ∃ t, exec .resetHoldExpiry s = .next t ∧ t.rst = { s.rst with stage := .draining } ∧
        (s.resetFrom < 2 ^ 112 → s.resetFrom ≤ t.tim.now.toNat) ∧ t = { s with rst := t.rst, tim := { s.tim with now := t.tim.now } }) ∧
    (s.rst.stage = .draining → s.flt.draining = false → s.pwr.computeOff = false → s.rst.dieUp = true →
      ∃ t, exec .resetBegin s = .next t ∧ t.rst = { s.rst with stage := .begun, last := s.tim.now.toNat, idle := false } ∧
        t.hst.st = stResetting ∧ t.hst.ready = false ∧ t.hst.running = [] ∧ t.hst.waiting = [] ∧ t.hst.bufs = [] ∧ bit t.hst.ctl 0 = false ∧
        (s.hst.done = [] ∧ s.hst.running = [] ∧ s.hst.waiting = [] ∨ s.rst.planned = false → t.hst.vectors = s.hst.vectors ++ [3]) ∧
        t.hst.vectors.getLast? = some 3 ∧
        (∀ r h, s.rst.planned = true → s.hst.running = [r] → s.hst.waiting = [] → s.hst.done = [] → hdrOf r.cmd = some h → h.via = .ring0 →
          r ∉ s.hst.orphans → bit s.hst.ctl 0 = true → s.compFull = false → Tbl.get [] t.hst.compRing s.hst.compTail =
            Cpl.bytes ⟨.ring0, h.tag, h.irq, (rawOpcode h).getD (opcodeOf r.cmd), 15, 0, r.idx, 0, []⟩ s.hst.compPhase) ∧
        (s.dmp.running = false ∨ s.rst.planned = false → t.dmp = s.dmp) ∧
        (∀ st, st < 4 → (t.ms st).selfRef = true ∧ (t.ms st).running = false) ∧
        (∀ p, p < 6 → (t.port p).st = 0 ∧ (t.port p).lock = false) ∧ t.cxl.linkUp = false ∧ t.faultN = false ∧
        t = { s.cutUpdates with msq := t.msq, olf := t.olf, cxl := t.cxl, hst := t.hst, pins := t.pins, rst := t.rst, dmp := t.dmp }) ∧
    (∀ st, st < 4 → s.rst.stage = .begun →
      ∃ t, exec (.selfRefreshTimeout st) s = .next t ∧ t.ms st = { s.ms st with selfRef := false } ∧ (∀ x, x ≠ st → t.ms x = s.ms x) ∧
        t = { s with msq := t.msq, tim := { s.tim with now := t.tim.now } }) ∧
    (s.rst.stage = .begun →
      ∃ t, exec .coresHeldInReset s = .next t ∧ t.rst = { stage := .inReset, planned := s.rst.planned, cause := s.rst.cause, again := s.rst.again } ∧
        t.pins.flashOut = (s.pins.flashOut || !s.pins.resetN && s.pins.flashOwn) ∧
        t.tim = State.reset.tim ∧ t.job = {} ∧ t.clusters = State.reset.clusters ∧ t.spans = State.reset.spans ∧ t.olf = State.reset.olf ∧
        t.svc = State.reset.svc ∧ t.flt = State.reset.flt ∧ t.hst.st = stResetting ∧ t.plc = { straps := s.pins.sensed } ∧ t.mem = s.mem ∧
        (∀ st, st < 4 → t.ms st = { selfRef := (s.ms st).selfRef }) ∧ t.sec.fuses = s.sec.fuses ∧
        t.sec.slotA = s.cutUpdates.sec.slotA ∧ t.sec.slotB = s.cutUpdates.sec.slotB ∧ t.sec.boot = s.sec.boot ∧ t.cfg.bankA = s.cfg.bankA ∧ t.cfg.bankB = s.cfg.bankB ∧ t.pending = s.pending) ∧
    (∀ b, s.rst.stage = .inReset → s.pins.resetN = true → s.pins.flashOut = false → s.pwr.computeOff = false → s.pwr.rails.length = 11 →
      s.sec.newest = b → b.trial = false →
      (s.fwVerifies (s.sec.slotImage b.slot) = true →
        ∃ t, exec .tollhouseRelease s = .next t ∧ t.rst.stage = .bootRom ∧ t.sec.slot = b.slot ∧ t.sec.trial = false ∧
          t.sec.measure = measureOf (s.sec.slotImage b.slot) ∧ t.sec.akValid = true ∧ t.sec.noFw = s.sec.noFw ∧
          t.sec.boot = s.sec.boot ∧ t.sec.idLocked = true ∧
          t = { s with tim := t.tim, sec := t.sec, rst := t.rst, pins := t.pins }) ∧
      (s.fwVerifies (s.sec.slotImage b.slot) = false → s.fwVerifies (s.sec.slotImage (1 - b.slot)) = false →
        ∃ t, exec .tollhouseRelease s = .next t ∧ t.rst.stage = .bootRom ∧ t.sec.noFw = true ∧
          (t.flt.raised.map (·.code)) = s.flt.raised.map (·.code) ++ [0x7001, 0x7001] ∧
          t = { s with tim := t.tim, sec := t.sec, rst := t.rst, pins := t.pins, flt := t.flt })) ∧
    (∀ straps opens, s.rst.stage = .bootRom → s.sec.noFw = false → s.pwr.computeOff = false → s.hst.waiting = [] →
      (∀ r ∈ s.openJournal.journalRecs, r.ty = jrBank ∨ r.ty = jrSeal) → s.openJournal.cfg.takes jrGeneration 1 = true →
      ∃ t, exec (.firmwareStart straps opens) s = .next t ∧ t.rst.stage = .firmware ∧ t.ucie.up0 = true ∧ t.ucie.up1 = true ∧
        t.flt.gen = 1 ∧ t.flt.unplanned = true ∧ (∃ r o, (o, JRec.bytes r) ∈ t.cfg.bank.cells ∧ r.ty = jrGeneration ∧ r.payload = [1]) ∧
        field t.plc.straps 0 16 = (straps &&& ~~~opens).toNat ∧
        t.plc.hall = field s.plc.ctl 44 1 * 32768 + field t.plc.straps 0 12 * 8 + field t.plc.straps 12 3 ∧
        (opens ≠ 0 → t.plc.strapFault = true ∧ ∃ r ∈ t.flt.raised, r.code = 0x6004) ∧ t.flt.nextSeq = s.flt.nextSeq + 1 ∧
        t = { s with rst := t.rst, ucie := t.ucie, cfg := t.cfg, flt := t.flt, plc := t.plc, pins := t.pins, hst := t.hst, freeCtr := s.freeCtr + 2 }) ∧
    (∀ tact, s.rst.stage = .firmware → s.pwr.computeOff = false →
      ∃ t, exec (.computeDieRelease tact) s = .next t ∧ t.rst = { s.rst with stage := .die, dieUp := true } ∧ t.pins.perstN = true ∧
        (∀ st, st < 4 → (t.ms st).kept = (s.ms st).selfRef ∧ (t.ms st).auto = true ∧ (t.ms st).selfRef = false ∧
          ((s.ms st).selfRef = false → ∀ a, hbmBase + st * stackLines * 128 ≤ a → a < hbmBase + (st + 1) * stackLines * 128 →
            memGet t.mem a = 0) ∧
          ((s.ms st).selfRef = true → memWf s.mem = true → ∀ a, hbmBase + st * stackLines * 128 ≤ a →
            a < hbmBase + (st + 1) * stackLines * 128 → memGet t.mem a = memGet s.mem a)) ∧
        (memWf s.mem = true → ∀ a, a < hbmBase → memGet t.mem a = memGet s.mem a) ∧
        t = { s with mem := t.mem, upsets := t.upsets, msq := t.msq, rst := t.rst, pins := t.pins }) ∧
    (s.rst.stage = .die →
      ∃ t, exec (.selfTestDone []) s = .next t ∧ t.rst = { s.rst with stage := .none, idle := true } ∧ t.hst.st = stIdle ∧ t.hst.ready = true ∧
        t.hst.resetDone = true ∧ t.hst.vectors = s.hst.vectors ++ [3] ∧ t.padsSet = true ∧ (∀ a, a < hbmBase → memGet t.mem a = 0) ∧
        t.sec.trial = false ∧ (memWf s.mem = true → ∀ a, hbmBase ≤ a → memGet t.mem a = memGet s.mem a) ∧
        t = { s with rows := t.rows, padsSet := t.padsSet, mem := t.mem, upsets := t.upsets, sec := t.sec, rst := t.rst, hst := t.hst, pins := t.pins })

/-! ### Power and pins (17, 19) -/

/-- Input and rails (R268, R471 to R474, R508): a good input starts the regulator stage from nothing; each rail comes in its turn, once every
rail of the rows before its own is good, and one that does not leaves the module without power, as a loss of input does; overvoltage opens the
input stages until it clears; undervoltage takes the stacks to self-refresh with 0x5003. An overcurrent, a rail outside its window or a
thermal trip removes the compute die's rails with 0x5005 (R472, R480), and its spans answer nothing. Feeds are counted and shown (R469, R470).
The rows of rails (log 34), what a removed die leaves (log 36), the sequence after a failure or an overvoltage (logs 57, 60), what 0x5003
leaves to be done (log 100) and a state left as it is (log 3) are the model's. -/
def Obligations.PowerComesAndGoes : Prop :=
  ∀ s : State,
    (∀ fa fb, s.rst.stage = .off → s.pins.pwrEnN = false → s.pwr.open_ = false →
      ∃ t, exec (.inputGood fa fb) s = .next t ∧ t.rst.stage = .inReset ∧ t.pwr.rails = [] ∧ t.pwr.good = true ∧ t.pwr.feedA = fa ∧
        t.pwr.feedB = fb ∧ t.mem = State.reset.mem ∧ t.sec.slotA = s.cutUpdates.sec.slotA ∧ t.sec.fuses = s.sec.fuses ∧ t.cfg.bankA = s.cfg.bankA) ∧
    (∀ r, s.rst.stage = .inReset → s.pwr.computeOff = false → r ∉ s.pwr.rails → (∀ x, railTurn x < railTurn r → x ∈ s.pwr.rails) →
      (s.pwr.feedRevA = false → s.pwr.feedRevB = false → ∃ t, exec (.railGood r) s = .next t ∧
        t.pwr = { s.pwr with rails := s.pwr.rails ++ [r], railAt := s.tim.now.toNat } ∧ t = { s with pwr := t.pwr, pins := t.pins }) ∧
      (r = .tollFlash → s.pwr.feedRevA = true → s.pwr.feedB = true → ∃ t, exec (.railGood r) s = .next t ∧ raisedOne s t 0x5004 srcReg ∧
        t.pwr.rails = s.pwr.rails ++ [r] ∧ t.pwr.cnt = satInc s.pwr.cnt 32 16 1 ∧ t = { s with pwr := t.pwr, flt := t.flt, pins := t.pins }) ∧
      (∃ t, exec (.railStartTimeout r) s = .next t ∧ t.rst.stage = .off ∧ t.pwr.rails = [] ∧ t.sec.slotA = s.cutUpdates.sec.slotA ∧
        t.sec.fuses = s.sec.fuses)) ∧
    (∀ r x, r ∉ s.pwr.rails → railTurn x < railTurn r → x ∉ s.pwr.rails → exec (.railGood r) s = .next s ∧ exec (.railStartTimeout r) s = .next s) ∧
    (s.tollPowered = true →
      (s.pwr.computeOff = false → s.rst.dieUp = true → ∃ t, exec .undervoltage s = .next t ∧ raisedOne s t 0x5003 srcReg ∧ t.unusable = true ∧
        (∀ st, st < 4 → (t.ms st).selfRef = true) ∧ t = { s with msq := t.msq, pwr := { s.pwr with log := t.pwr.log, dead := true }, flt := t.flt }) ∧
      (∀ c, (c = .overcurrent ∨ (∃ r, r ∈ s.pwr.rails ∧ c = .railWindowFault r) ∨ (∃ h, s.pwr.computeOff = false ∧ c = .thermalTrip h)) →
        (∀ p, p < 6 → (s.port p).st = 0) →
        ∃ t, exec c s = .next t ∧ raisedOne s t 0x5005 srcReg ∧ t.pwr.computeOff = true ∧ bit t.pwr.log 23 = true ∧
          t.pwr.rails = s.pwr.rails.filter tollRails.contains ∧ (∀ r, r ∈ tollRails → c = .railWindowFault r → t.faultN = false) ∧
          (∀ r, r ∉ tollRails → exec (.railGood r) t = .next t) ∧ (∀ p, p < 114 → (t.spn p).silent = true) ∧
          t.clusters = [] ∧ t.cxl.linkUp = false ∧ t.ucie.up0 = false ∧ t.ucie.up1 = false ∧
          t = { s with spans := t.spans, clusters := t.clusters, msq := t.msq, landing := t.landing, mesh := t.mesh, upsets := t.upsets, pts := t.pts, cxl := t.cxl, pwr := t.pwr, pins := t.pins, ucie := t.ucie, tim := t.tim, hst := t.hst, flt := t.flt })) ∧
    (s.rst.stage ≠ .off → ∃ t, exec .powerDown s = .next t ∧ t.rst.stage = .off ∧ t.pwr.rails = [] ∧ t.mem = State.reset.mem ∧
      t.sec.fuses = s.sec.fuses ∧
      (s.cfg.appAt ≠ some s.tim.now.toNat → t.cfg.bankA = s.cfg.bankA ∧ t.cfg.bankB = s.cfg.bankB) ∧
      (s.cfg.appAt = some s.tim.now.toNat → s.cfg.active = false →
        t.cfg.bankA = { s.cfg.bankA with cells := cutLast s.cfg.bankA.cells (Config.cutAt s.cutUpdates.freeCtr) } ∧ t.cfg.bankB = s.cfg.bankB) ∧
      (s.sec.bootAt ≠ some s.tim.now.toNat → t.sec.boot = s.sec.boot) ∧
      (s.sec.bootAt = some s.tim.now.toNat → t.sec.boot = cutLast s.sec.boot (Config.cutAt s.cutUpdates.freeCtr))) ∧
    (∃ t, exec .overvoltage s = .next t ∧ t.pwr.open_ = true ∧ t.pwr.good = false ∧ (s.rst.stage ≠ .off → t.rst.stage = .off) ∧
      (s.rst.stage = .off → t = { s with pwr := { s.pwr with open_ := true, good := false } })) ∧
    (s.pwr.open_ = true → ∃ t, exec .overvoltageClear s = .next t ∧ t.pwr.open_ = false ∧
      (s.pins.pwrEnN = false → t.rst.stage = .inReset ∧ t.pwr.rails = []) ∧
      (s.pins.pwrEnN = true → t = { s with pwr := { s.pwr with open_ := false } })) ∧
    (∀ f, s.rst.stage ≠ .off → s.tollPowered = false →
      (∃ t, exec (.feedReversed f false) s = .next t ∧ t.rst.stage = .off ∧ t.pwr.rails = []) ∧
      (∃ t, exec (.feedReversed f true) s = .next t ∧ bit t.pwrStatus 2 = true ∧ t = { s with pwr := t.pwr })) ∧
    (∀ f, s.rst.stage ≠ .off → s.tollPowered = true →
      (∃ t, exec (.feedReversed f true) s = .next t ∧ raisedOne s t 0x5004 srcReg ∧ t.pwr.cnt = satInc s.pwr.cnt 32 16 1 ∧
        (f = .a → t.pwr.feedRevA = true ∧ t.pwr.feedA = false) ∧ (f = .b → t.pwr.feedRevB = true ∧ t.pwr.feedB = false) ∧
        t = { s with pwr := t.pwr, flt := t.flt, pins := t.pins }) ∧
      (∃ t, exec (.feedReversed f false) s = .next t ∧ t.rst.stage = .off ∧ t.pwr.rails = [] ∧ t.sec.slotA = s.cutUpdates.sec.slotA) ∧
      (∃ t, exec (.feedLoss f) s = .next t ∧ t.pwr.cnt = satInc s.pwr.cnt 32 16 1 ∧ (f = .a → t.pwr.feedA = false ∧ t.pwr.feedB = s.pwr.feedB) ∧
        (f = .b → t.pwr.feedB = false ∧ t.pwr.feedA = s.pwr.feedA) ∧ t = { s with pwr := t.pwr, pins := t.pins })) ∧
    (∀ f, ∃ t, exec (.feedReturn f) s = .next t ∧ (f = .a → t.pwr.feedA = true ∧ t.pwr.feedRevA = false) ∧
      (f = .b → t.pwr.feedB = true ∧ t.pwr.feedRevB = false) ∧ t = { s with pwr := t.pwr, pins := t.pins })

/-- The policy (R476, R478, R479, R481): a hot evaluation lowers the allowed step below the present one, the hundredth cool one in a row
raises it by one, any other leaves it; the sensors are reported; no step below the job's rated one is set while a job is armed or running
(R78); a condition that asks for it stops the job once with 0x5002. A rail settles when it has moved to its set point at 2 mV per µs (R475),
and allows the step of its set point. A coolant fault raises 0x5006. How the 10 ms mean is formed and how the rail lags (log 99), and a fall
of A to −1 (log 59), are the model's. -/
def Obligations.PowerPolicyChoosesTheStep : Prop :=
  ∀ s : State,
    (∀ x, s.fwUp = true →
      ∃ t, exec (.powerPolicyEval x) s = .next t ∧ t.pwr.hot = s.policyHot x ∧
        (s.policyHot x = true → t.pwr.allowed = min s.pwr.allowed ((s.tik.stepNow : Int) - 1) ∧ t.pwr.nCool = 0) ∧
        (s.policyHot x = false → s.policyCool x = true → s.pwr.nCool ≠ 99 → t.pwr.allowed = s.pwr.allowed ∧ t.pwr.nCool = s.pwr.nCool + 1) ∧
        (s.policyHot x = false → s.policyCool x = true → s.pwr.nCool = 99 →
          t.pwr.allowed = min (s.pwr.allowed + 1) (s.topStep : Int) ∧ t.pwr.nCool = 0) ∧
        (s.policyHot x = false → s.policyCool x = false → t.pwr.allowed = s.pwr.allowed ∧ t.pwr.nCool = 0) ∧
        t.pwr.input = orAll [at_ (max x.voltsA x.voltsB) 0 16, at_ (x.ampsA + x.ampsB) 16 16, at_ (s.meanPower x) 32 16] ∧ t.pwr.cool = orAll [at_ x.inlet 0 12, at_ x.outlet 12 12] ∧
        t.tim = (s.beat beatPolicy (1000000 * ns)).tim ∧
        (s.job.running = false → t = { s with pwr := t.pwr, tik := t.tik, pins := t.pins, tim := t.tim }) ∧
        (s.busy = true → s.jobRated ≤ t.tik.stepSet.toNat) ∧
        (s.job.running = true → s.tik.stepNow = s.rated → s.pwr.stopReq = false → 4 * field s.pwr.limits 8 8 ≤ hottestDie x →
          t.pwr.stopReq = true ∧ ∃ r ∈ t.flt.raised, r.code = 0x5002) ∧
        (s.pwr.stopReq = true → t.flt = s.flt) ∧
        t = { s with pwr := t.pwr, tik := t.tik, pins := t.pins, flt := t.flt, job := t.job, olf := t.olf, tim := t.tim }) ∧
    (s.pwr.settling = true →
      let i := (field s.pwr.core 0 12 - 620) / 23
      let u := s.advance (s.pwr.lagAt + s.pwr.lag.natAbs)
      ∃ t, exec .railSettled s = .next t ∧ t.pwr.settledAt = u.tim.now.toNat ∧ t.tim = u.tim ∧
        (s.tik.stepSet.toNat ≤ s.tik.stepNow → t.pwr = { s.pwr with settling := false, railStep := i, settledAt := u.tim.now.toNat } ∧
          t = { s with pwr := t.pwr, pins := t.pins, tim := t.tim }) ∧
        (s.busy = false → s.tik.stepNow < s.tik.stepSet.toNat → s.tik.stepSet.toNat ≤ i → t.tik.stepNow = s.tik.stepSet.toNat)) ∧
    (s.tollPowered = true →
      ∃ t, exec .coolantFault s = .next t ∧ t.pwr.coolant = true ∧ t.pwr.cnt = satInc s.pwr.cnt 48 16 1 ∧ raisedOne s t 0x5006 srcToll ∧
        t = { s with pwr := t.pwr, flt := t.flt, pins := t.pins })

/-- The pins, the I3C target and the debug port (R493, R500, R501, R504, R505). RESET_N low starts an unplanned reset; PWR_EN_N released
powers the module down; FLASH_OWN hands the flash over while RESET_N is low. The target answers STATUS, SENSORS and IDENT, resets on A5H, and
takes its address. The debug port serves what the level grants, and else raises 0x7003. The flash handed over 10 µs after S (log 113), the
bits and words of the target (logs 51, 55) and what a halted core leaves undone (log 114) are the model's. -/
def Obligations.PinsTargetAndDebugPort : Prop :=
  ∀ s : State,
    (s.rst.stage = .none → s.resetWait = 0 →
      exec .resetNAssert s = .next { s with
        pins := { s.pins with resetN := false }
        rst := { s.rst with planned := false, cause := 3, stage := .draining }
        flt := { s.flt with draining := false } }) ∧
    ((s.rst.stage = .begun ∨ s.rst.stage = .bootRom) → s.resetWait ≠ 0 →
      exec .resetNAssert s = .next { s with pins := { s.pins with resetN := false }, rst := { s.rst with again := some 3 } }) ∧
    (exec .resetNRelease s = .next { s with pins := { s.pins with resetN := true } }) ∧
    (exec .pwrEnNAssert s = .next { s with pins := { s.pins with pwrEnN := false } }) ∧
    (∃ t, exec .pwrEnNRelease s = .next t ∧ t.pins.pwrEnN = true ∧ (s.rst.stage ≠ .off → t.rst.stage = .off ∧ t.pwr.rails = []) ∧
      (s.rst.stage = .off → t = { s with pins := { s.pins with pwrEnN := true } })) ∧
    (s.pins.resetN = true ∨ s.rst.stage ≠ .inReset → exec .flashOwnRise s = .next { s with pins := { s.pins with flashOwn := true } }) ∧
    (s.pins.resetN = false → s.rst.stage = .inReset →
      exec .flashOwnRise s = .next { s with pins := { s.pins with flashOwn := true, flashOut := true } }) ∧
    (s.pins.flashOut = false → exec .flashOwnFall s = .next { s with pins := { s.pins with flashOwn := false } }) ∧
    (s.pins.flashOut = true → ∃ t, exec .flashOwnFall s = .next t ∧ t.pins = { s.pins with flashOwn := false, flashOut := false } ∧
      t.sec.boot = areaWrites s.sec.boot 0 0x20000 (Config.flashWrites s.freeCtr) ∧ t.sec.fuses = s.sec.fuses ∧
      t.cfg.bankA.cells = areaWrites s.cfg.bankA.cells 0x10000000 0x2000000 (Config.flashWrites s.freeCtr) ∧
      t.cfg.bankB.cells = areaWrites s.cfg.bankB.cells 0x12000000 0x2000000 (Config.flashWrites s.freeCtr) ∧
      t = { s with pins := t.pins, sec := t.sec, cfg := t.cfg, freeCtr := s.freeCtr + 1 }) ∧
    (s.tollPowered = true → s.hst.st ≠ stResetting → s.rst.stage ≠ .bootRom →
      (exec .i3cStatus s = .next { s with pins := { s.pins with i3cAns := some (leBytes s.hst.st 1 ++ leBytes s.flt.gen.toNat 1 ++
        leBytes (field s.pwrStatus 0 16) 2 ++ leBytes (s.flt.modCode.getD 0).toNat 2 ++
        [(if s.faultN then 1 else 0) + (if s.flt.wedged then 2 else 0), 0]) } }) ∧
      (exec .i3cSensors s = .next { s with pins := { s.pins with
        i3cAns := some (leBytes s.pwr.input.toNat 8 ++ leBytes s.pwr.temp.toNat 8) } }) ∧
      (exec .i3cIdent s = .next { s with pins := { s.pins with i3cAns := some (leBytes s.sec.fuses.physId.toNat 8 ++
        [if s.sec.fuses.gradeB then 1 else 0, BitVec.ofNat 8 (if s.sec.fuses.gradeB then 7 else 10)] ++ leBytes s.plc.hall 2 ++
        leBytes s.sec.version.toNat 4) } }) ∧
      (s.rst.stage = .none → s.hst.running = [] → s.hst.waiting = [] → s.dmp.running = false → s.resetWait ≠ 0 →
        exec (.i3cReset 0xA5) s = .next { s with pins := { s.pins with i3cAns := some [] }, rst := { s.rst with planned := true, cause := 0, stage := .held } })) ∧
    (s.tollPowered = true → s.hst.st = stResetting → s.rst.stage ≠ .bootRom →
      exec .i3cStatus s = .next { s with pins := { s.pins with i3cAns := none } } ∧
        ∀ b, exec (.i3cReset b) s = .next { s with pins := { s.pins with i3cAns := none } }) ∧
    (∀ b : Byte, b ≠ 0xA5 → exec (.i3cReset b) s = .next { s with pins := { s.pins with i3cAns := if s.i3cServes false then some [] else none } }) ∧
    (∀ a, s.tollPowered = true → exec (.i3cAddressAssign a) s = .next { s with pins := { s.pins with i3cAddr := a, i3cDyn := true } }) ∧
    (∀ a, (a = .scanRead ∧ 1 ≤ s.sec.debug ∨ a = .scanWrite ∧ 2 ≤ s.sec.debug) → (∀ p, p < 114 → (s.spn p).running = false) →
      exec (.debugPortAccess a) s = .next { s with sec := { s.sec with dbgDone := s.sec.dbgDone ++ [a] } }) ∧
    (3 ≤ s.sec.debug →
      (exec (.debugPortAccess .coreHalt) s = .next { s with sec := { s.sec with dbgDone := s.sec.dbgDone ++ [.coreHalt], halted := true } }) ∧
      (exec (.debugPortAccess .coreStep) s = .next { s with sec := { s.sec with dbgDone := s.sec.dbgDone ++ [.coreStep] } }) ∧
      (s.hst.waiting = [] →
        exec (.debugPortAccess .coreRun) s = .next { s with sec := { s.sec with dbgDone := s.sec.dbgDone ++ [.coreRun], halted := false } })) ∧
    (∀ a, s.sec.debug = 0 → ∃ t, exec (.debugPortAccess a) s = .next t ∧ raisedOne s t 0x7003 srcToll ∧ t = { s with flt := t.flt })

/-! ### Geometry, schedule and the fault pin (01, 03, 04, 19) -/

/-- Span membership and the repair map (R31, R118): span 4 row + q holds the logical columns 8q to 8q + 7 of the row, and a cluster's physical
column is its logical one, or the next above where the row's failed column is not above it; so no two clusters of a row share a column, and
none stands in the failed one. Slot j of tick n begins at the epoch plus n k 96 + 0.375 j ns, a tick holds 256 k slots and a phase 32 k, and
every tick edge and phase edge is a slot boundary (R69). C(f) is floor(12 k f) and the plan ceiling floor(0.92 C(f)), for step i at f = 1.2 +
0.1 i GHz (R71, R74). -/
def Obligations.SpansColumnsSlotsAndCycles : Prop :=
  (∀ row l, l < 32 → ∃ q, q < 4 ∧ spanOf (row * 32 + l) = row * 4 + q ∧ 8 * q ≤ l ∧ l ≤ 8 * q + 7) ∧
  (∀ row q pos, q < 4 → pos < 8 → cluAt (row * 4 + q) pos = row * 32 + 8 * q + pos ∧ spanOf (cluAt (row * 4 + q) pos) = row * 4 + q) ∧
  (∀ (s : State) (row l : Nat), l < 32 →
    s.physColOf (row * 32 + l) = (if l < (s.row row).active then l else l + 1) ∧ s.physColOf (row * 32 + l) ≠ (s.row row).active ∧
    ∀ m, m < 32 → s.physColOf (row * 32 + l) = s.physColOf (row * 32 + m) → l = m) ∧
  (∀ (s : State) (n j : Nat), s.slotTime (n * (256 * s.k) + j) * 8 = (s.tim.epoch.toNat * 8 + n * s.k * 96 * 8 + 3 * j) * ns) ∧
  (∀ (s : State) (n : Nat), s.tickTime n = s.slotTime (n * (256 * s.k)) ∧ s.phaseTime n = s.slotTime (n * (32 * s.k))) ∧
  (∀ k i : Nat, cyclesPerPhase k i * 10 ≤ k * 12 * (12 + i) ∧ k * 12 * (12 + i) < (cyclesPerPhase k i + 1) * 10 ∧
    planCeiling k i * 100 ≤ cyclesPerPhase k i * 92 ∧ cyclesPerPhase k i * 92 < (planCeiling k i + 1) * 100) ∧
  (cyclesPerPhase 2 0 = 28 ∧ planCeiling 2 0 = 25 ∧ cyclesPerPhase 2 7 = 45 ∧ planCeiling 2 7 = 41 ∧ cyclesPerPhase 2 8 = 48 ∧
    planCeiling 2 8 = 44 ∧ cyclesPerPhase 2 10 = 52 ∧ planCeiling 2 10 = 47)

/-- FAULT_N is driven low whenever the tollhouse rails are not good, in RESETTING or before IDLE, with no firmware slot that verifies, or once
a record of severity MODULE has been formed, and is released when none of these holds; 0x6004, 0x9001, 0x5003 and 0x5005 are of that severity,
and forming such a record drives it low (R499). -/
def Obligations.FaultNIsDrivenLow : Prop :=
  (∀ s : State, s.faultN = false ↔ ((∃ r ∈ tollRails, r ∉ s.pwr.rails) ∨ s.pwr.tollBad = true) ∨ (s.hst.st = stResetting ∨ s.rst.idle = false) ∨
    s.sec.noFw = true ∨ s.flt.modCode.isSome = true) ∧
  (∀ run aux, severity 0x6004 run aux = 5 ∧ severity 0x9001 run aux = 5 ∧ severity 0x5003 run aux = 5 ∧ severity 0x5005 run aux = 5) ∧
  (∀ (s : State) (r : Raised) (rest : List Raised), s.flt.raised = r :: rest → severity r.code r.run r.aux = 5 →
    (s.ucieCut = false ∨ 114 ≤ r.source) → (s.flt.foldMs ≠ s.msNow ∨ (Tbl.get ⟨0, 0, 0⟩ s.flt.folds r.code.toNat).formed < 64) →
    ∃ t, exec .faultRecord s = .next t ∧ t.flt.modCode = some r.code ∧ t.faultN = false ∧
      t = { s with flt := t.flt, hst := t.hst, pins := t.pins })
end

