-- ==== Sys2Proof/Laws/Dump.lean ====
section
/-! SUPPORT. The size of a dump (15: R438, R439). -/

namespace Sys2Proof.Machine

/-- Bytes of a number. -/
theorem leBytes_length (n k : Nat) : (leBytes n k).length = k := by
  induction k generalizing n with
  | zero => rfl
  | succ k ih => simp [leBytes, ih]

/-- A register record holds eight bytes a register. -/
theorem regRec_data (s : State) (src ag cl r n : Nat) : (s.regRec src ag cl r n).data.length = 8 * n := by
  simp [State.regRec, State.blockBytes, List.length_flatMap, leBytes_length, Nat.mul_comm]

@[simp] theorem recsSize_nil : recsSize [] = 0 := rfl
@[simp] theorem recsSize_cons (r : DumpRec) (l : List DumpRec) : recsSize (r :: l) = recSize r + recsSize l := by simp [recsSize]
@[simp] theorem recsSize_append (a b : List DumpRec) : recsSize (a ++ b) = recsSize a + recsSize b := by simp [recsSize]

/-- Records laid out unit by unit take at most the largest share times the units. -/
theorem flat_size (g : Nat → List DumpRec) (k : Nat) (h : ∀ x, recsSize (g x) ≤ k) (l : List Nat) : recsSize (l.flatMap g) ≤ l.length * k := by
  induction l with
  | nil => simp
  | cons a l ih => simp only [List.flatMap_cons, recsSize_append, List.length_cons]; have := h a; nlinarith

/-- A sum of bounded terms. -/
theorem sum_bound (g : Nat → Nat) (k : Nat) (h : ∀ x, g x ≤ k) (l : List Nat) : (l.map g).sum ≤ l.length * k := by
  induction l with
  | nil => simp
  | cons a l ih => simp only [List.map_cons, List.sum_cons, List.length_cons]; have := h a; nlinarith

/-- Without selected contents no cluster takes more in a dump than the five records of its silence. -/
theorem cluster_size (s : State) (hc : s.dmp.ctl = 0) (m : Bool) (c : Nat) :
    recsSize (s.cluAgents (fun _ => m) c ++ s.cluContents (fun _ => m) c) ≤ 160 := by
  cases m <;> simp [State.cluAgents, State.cluContents, silentRec, recSize, regRec_data, roundUp, hc, bit]

/-- A dump without selected contents fits the transfer area. -/
theorem dump_size (s : State) (hc : s.dmp.ctl = 0) : s.dumpSize ≤ 0x40000000 := by
  have h1 : ∀ (m : Bool) p, recsSize (s.spanRec (fun _ => m) p) ≤ 160 := fun m p => by
    cases m <;> simp [State.spanRec, silentRec, recSize, regRec_data, roundUp]
    split_ifs <;> simp [recSize, regRec_data, roundUp]
  have h2 : ∀ (m : Bool) p, recsSize (s.spanAgents (fun _ => m) p) ≤ 1200 := fun m p => by
    cases m
    · unfold State.spanAgents spanBlocks
      split_ifs <;> simp_all [recSize, regRec_data, roundUp]
    · unfold State.spanAgents agentsOf
      split_ifs <;> simp_all [silentRec, recSize, roundUp, recsSize, Function.comp_def]
  have h3 : ∀ (m : Bool) p, recsSize (s.spanGroup (fun _ => m) p) ≤ 3000 := fun m p => by
    unfold State.spanGroup
    split
    · cases m <;> simp [State.dieRec, State.spanRec, silentRec, recSize, regRec_data, roundUp]
    · split
      · have := h1 m p; have := h2 m p; simp; omega
      · have := h1 m p
        have h := flat_size (fun i => s.cluAgents (fun _ => m) (cluAt p i) ++ s.cluContents (fun _ => m) (cluAt p i)) 160
          (fun i => cluster_size s hc m _) (List.range 8)
        have : s.landContents (fun _ => m) p = [] := by simp [State.landContents, hc, bit]
        simp only [recsSize_append, this, recsSize_nil, List.length_range] at h ⊢; omega
  have h4 : recsSize s.tollRecs ≤ 100000 := by simp [State.tollRecs, tollBlocks, recsSize, recSize, regRec_data, roundUp]
  have h5 := sum_bound (fun p => max (recsSize (s.spanGroup (fun _ => false) p)) (recsSize (s.spanGroup (fun _ => true) p))) 3000
    (fun p => max_le (h3 false p) (h3 true p)) (List.range 114)
  simp only [List.length_range] at h5
  unfold State.dumpSize faultLogSize
  omega

end Sys2Proof.Machine
end

