-- ==== Sys2Proof/Laws/Memory.lean ====
section
/-! SUPPORT. Every memory operation keeps the canonical form, and a byte reads as it was last written. -/

namespace Sys2Proof.Machine

/-- No cell of the list lies below address `b`. -/
def memFrom (b : Nat) (m : List Host.Cell) : Prop := ∀ c ∈ m, b ≤ c.1

theorem memWf_nil : memWf [] = true := rfl

/-- A canonical list is a cell that holds no default byte before a canonical list of higher addresses. -/
theorem memWf_cons (c : Host.Cell) (m : List Host.Cell) :
    memWf (c :: m) = true ↔ c.2 ≠ memDefault ∧ memFrom (c.1 + 1) m ∧ memWf m = true := by
  induction m generalizing c with
  | nil => simp [memWf, memFrom]
  | cons d r ih =>
    rw [memWf, Bool.and_eq_true, Bool.and_eq_true, ih d]
    simp only [bne_iff_ne, ne_eq, decide_eq_true_eq, memFrom, List.mem_cons, forall_eq_or_imp]
    constructor
    · rintro ⟨⟨h1, h2⟩, h3, h4, h5⟩
      exact ⟨h1, ⟨h2, fun x hx => le_trans (by omega) (h4 x hx)⟩, h3, h4, h5⟩
    · rintro ⟨h1, ⟨h2, _⟩, h3, h4, h5⟩
      exact ⟨⟨h1, h2⟩, h3, h4, h5⟩

/-- A write leaves no cell below where none was. -/
theorem memFrom_memSet {b a : Nat} {v : Byte} {m : List Host.Cell} (h : memFrom b m) (ha : b ≤ a) : memFrom b (memSet m a v) := by
  induction m with
  | nil =>
    unfold memSet
    split <;> simp [memFrom, ha]
  | cons c r ih =>
    have hr : memFrom b r := fun x hx => h x (List.mem_cons_of_mem _ hx)
    have hc : b ≤ c.1 := h c List.mem_cons_self
    unfold memSet
    split_ifs <;> simp only [memFrom, List.mem_cons, forall_eq_or_imp] <;>
      first
      | exact ⟨hc, hr⟩
      | exact ⟨ha, hc, hr⟩
      | exact hr
      | exact ⟨ha, hr⟩
      | exact ⟨hc, ih hr⟩

/-- A write of one byte keeps the canonical form. -/
theorem memWf_memSet {m : List Host.Cell} (a : Nat) (v : Byte) (h : memWf m = true) : memWf (memSet m a v) = true := by
  induction m with
  | nil =>
    unfold memSet
    split
    · rfl
    · simpa [memWf]
  | cons c r ih =>
    obtain ⟨h1, h2, h3⟩ := (memWf_cons c r).1 h
    unfold memSet
    split_ifs with g1 g2 g3 g4
    · exact h
    · refine (memWf_cons _ _).2 ⟨g2, ?_, h⟩
      intro x hx
      rcases List.mem_cons.1 hx with rfl | hx
      · exact g1
      · exact le_trans (by omega) (h2 x hx)
    · exact h3
    · exact (memWf_cons _ _).2 ⟨g4, by rw [g3]; exact h2, h3⟩
    · exact (memWf_cons _ _).2 ⟨h1, memFrom_memSet h2 (by omega), ih h3⟩

/-- A write of some bytes keeps the canonical form. -/
theorem memWf_memWrite (bs : List Byte) : ∀ {m : List Host.Cell} (a : Nat), memWf m = true → memWf (memWrite m a bs) = true := by
  induction bs with
  | nil => exact fun _ h => h
  | cons b r ih => exact fun a h => ih (a + 1) (memWf_memSet a b h)

/-- A list without some of its cells stays canonical. -/
theorem memWf_filter {m : List Host.Cell} (p : Host.Cell → Bool) (h : memWf m = true) : memWf (m.filter p) = true := by
  induction m with
  | nil => rfl
  | cons c r ih =>
    obtain ⟨h1, h2, h3⟩ := (memWf_cons c r).1 h
    rw [List.filter_cons]
    split
    · exact (memWf_cons _ _).2 ⟨h1, fun x hx => h2 x (List.mem_of_mem_filter hx), ih h3⟩
    · exact ih h3

/-- Clearing a range keeps the canonical form. -/
theorem memWf_memZero {m : List Host.Cell} (a n : Nat) (h : memWf m = true) : memWf (memZero m a n) = true := memWf_filter _ h

/-- Below its first cell a list reads as the default. -/
theorem memGet_of_memFrom {m : List Host.Cell} {b a : Nat} (h : memFrom b m) (ha : a < b) : memGet m a = memDefault := by
  cases m with
  | nil => rfl
  | cons c r =>
    have hc : b ≤ c.1 := h c List.mem_cons_self
    simp only [memGet]
    rw [if_neg (by omega), if_pos (by omega)]

/-- A byte reads as it was written, and every other byte as before. -/
theorem memGet_memSet {m : List Host.Cell} (a x : Nat) (v : Byte) (h : memWf m = true) :
    memGet (memSet m a v) x = if x = a then v else memGet m x := by
  induction m with
  | nil =>
    unfold memSet
    by_cases hv : v = memDefault
    · simp [hv, memGet]
    · rw [if_neg hv]
      simp only [memGet]
      split_ifs <;> rfl
  | cons c r ih =>
    obtain ⟨h1, h2, h3⟩ := (memWf_cons c r).1 h
    have hx : ∀ y, y < c.1 + 1 → memGet r y = memDefault := fun y hy => memGet_of_memFrom h2 hy
    unfold memSet
    split_ifs with g1 g2 g3 g4 g5 <;> (try simp only [memGet]) <;> (try split_ifs) <;>
      first
      | rfl
      | omega
      | (subst_vars; first | rfl | (simp_all; done) | omega)
      | (rw [hx _ (by omega)])

/-- Each byte of a write reads back, and every other address reads as before. -/
theorem memGet_memWrite (bs : List Byte) : ∀ {m : List Host.Cell} (a x : Nat), memWf m = true →
    memGet (memWrite m a bs) x = if h : a ≤ x ∧ x < a + bs.length then bs[x - a]'(by omega) else memGet m x := by
  induction bs with
  | nil =>
    intro m a x _
    rw [dif_neg (by simp only [List.length_nil]; omega)]
    rfl
  | cons b r ih =>
    intro m a x h
    rw [memWrite, ih (a + 1) x (memWf_memSet a b h), memGet_memSet a x b h]
    by_cases hx : x = a
    · subst hx
      simp
    · by_cases hr : a + 1 ≤ x ∧ x < a + 1 + r.length
      · rw [dif_pos hr, dif_pos (show a ≤ x ∧ x < a + (b :: r).length by rw [List.length_cons]; omega), List.getElem_cons]
        rw [dif_neg (by omega)]
        congr 1
      · rw [dif_neg hr, if_neg hx, dif_neg (show ¬(a ≤ x ∧ x < a + (b :: r).length) by rw [List.length_cons]; omega)]

end Sys2Proof.Machine
end

