-- ==== Sys2Proof/Laws/State.lean ====
section
/-! SUPPORT. Sparse tables and the accessors of State: what each update changes and what it leaves. -/

namespace Sys2Proof.Machine

@[simp] theorem Tbl.get_set {α : Type} (d : α) (t : Tbl α) (k : Nat) (v : α) : Tbl.get d (Tbl.set t k v) k = v := by
  induction t with
  | nil => simp [Tbl.set, Tbl.get]
  | cons p r ih =>
    obtain ⟨a, b⟩ := p
    simp only [Tbl.set]
    split
    · simp [Tbl.get]
    · split
      · simp [Tbl.get]
      · simp [Tbl.get, *]

@[simp] theorem Tbl.get_set_ne {α : Type} (d : α) (t : Tbl α) (k x : Nat) (v : α) (h : x ≠ k) :
    Tbl.get d (Tbl.set t k v) x = Tbl.get d t x := by
  induction t with
  | nil => simp [Tbl.set, Tbl.get, h]
  | cons p r ih =>
    obtain ⟨a, b⟩ := p
    simp only [Tbl.set]
    split
    · simp [Tbl.get, h]
    · split
      · subst a; simp [Tbl.get, h]
      · simp [Tbl.get, ih]

theorem Tbl.map_some_set {α β : Type} (g : α → β) (t : Tbl α) (k : Nat) (v : α) :
    (Tbl.set t k v).map (fun p => (p.1, g p.2)) = Tbl.set (t.map (fun p => (p.1, g p.2))) k (g v) := by
  induction t with
  | nil => rfl
  | cons p r ih =>
    obtain ⟨a, b⟩ := p
    simp only [Tbl.set, List.map_cons]
    split <;> (try split) <;> simp [*]

@[simp] theorem State.clu_setClu (s : State) (c : Nat) (k : Cluster) : (s.setClu c k).clu c = k := by simp [State.clu, State.setClu]
@[simp] theorem State.clu_setClu_ne (s : State) (c x : Nat) (k : Cluster) (h : x ≠ c) : (s.setClu c k).clu x = s.clu x := by
  simp [State.clu, State.setClu, h]
@[simp] theorem State.clu_updClu (s : State) (c : Nat) (f : Cluster → Cluster) : (s.updClu c f).clu c = f (s.clu c) := by simp [State.updClu]
@[simp] theorem State.clu_updClu_ne (s : State) (c x : Nat) (f : Cluster → Cluster) (h : x ≠ c) : (s.updClu c f).clu x = s.clu x := by
  simp [State.updClu, h]
@[simp] theorem State.setClu_pending (s : State) (c : Nat) (k : Cluster) : (s.setClu c k).pending = s.pending := rfl
@[simp] theorem State.updClu_pending (s : State) (c : Nat) (f : Cluster → Cluster) : (s.updClu c f).pending = s.pending := rfl
@[simp] theorem State.setClu_freeCtr (s : State) (c : Nat) (k : Cluster) : (s.setClu c k).freeCtr = s.freeCtr := rfl
@[simp] theorem State.updClu_freeCtr (s : State) (c : Nat) (f : Cluster → Cluster) : (s.updClu c f).freeCtr = s.freeCtr := rfl
@[simp] theorem State.setClu_mem (s : State) (c : Nat) (k : Cluster) : (s.setClu c k).mem = s.mem := rfl
@[simp] theorem State.updClu_mem (s : State) (c : Nat) (f : Cluster → Cluster) : (s.updClu c f).mem = s.mem := rfl
@[simp] theorem State.setClu_xfer (s : State) (c : Nat) (k : Cluster) : (s.setClu c k).xfer = s.xfer := rfl
@[simp] theorem State.updClu_xfer (s : State) (c : Nat) (f : Cluster → Cluster) : (s.updClu c f).xfer = s.xfer := rfl
@[simp] theorem State.setClu_upsets (s : State) (c : Nat) (k : Cluster) : (s.setClu c k).upsets = s.upsets := rfl
@[simp] theorem State.updClu_upsets (s : State) (c : Nat) (f : Cluster → Cluster) : (s.updClu c f).upsets = s.upsets := rfl
@[simp] theorem State.setClu_landing (s : State) (c : Nat) (k : Cluster) : (s.setClu c k).landing = s.landing := rfl
@[simp] theorem State.updClu_landing (s : State) (c : Nat) (f : Cluster → Cluster) : (s.updClu c f).landing = s.landing := rfl
@[simp] theorem State.setClu_mesh (s : State) (c : Nat) (k : Cluster) : (s.setClu c k).mesh = s.mesh := rfl
@[simp] theorem State.updClu_mesh (s : State) (c : Nat) (f : Cluster → Cluster) : (s.updClu c f).mesh = s.mesh := rfl
@[simp] theorem State.setClu_tim (s : State) (c : Nat) (k : Cluster) : (s.setClu c k).tim = s.tim := rfl
@[simp] theorem State.updClu_tim (s : State) (c : Nat) (f : Cluster → Cluster) : (s.updClu c f).tim = s.tim := rfl
@[simp] theorem State.setClu_eth (s : State) (c : Nat) (k : Cluster) : (s.setClu c k).eth = s.eth := rfl
@[simp] theorem State.updClu_eth (s : State) (c : Nat) (f : Cluster → Cluster) : (s.updClu c f).eth = s.eth := rfl
@[simp] theorem State.setClu_tik (s : State) (c : Nat) (k : Cluster) : (s.setClu c k).tik = s.tik := rfl
@[simp] theorem State.updClu_tik (s : State) (c : Nat) (f : Cluster → Cluster) : (s.updClu c f).tik = s.tik := rfl
@[simp] theorem State.setClu_spans (s : State) (c : Nat) (k : Cluster) : (s.setClu c k).spans = s.spans := rfl
@[simp] theorem State.updClu_spans (s : State) (c : Nat) (f : Cluster → Cluster) : (s.updClu c f).spans = s.spans := rfl
@[simp] theorem State.setClu_digs (s : State) (c : Nat) (k : Cluster) : (s.setClu c k).digs = s.digs := rfl
@[simp] theorem State.updClu_digs (s : State) (c : Nat) (f : Cluster → Cluster) : (s.updClu c f).digs = s.digs := rfl
@[simp] theorem State.setClu_rows (s : State) (c : Nat) (k : Cluster) : (s.setClu c k).rows = s.rows := rfl
@[simp] theorem State.updClu_rows (s : State) (c : Nat) (f : Cluster → Cluster) : (s.updClu c f).rows = s.rows := rfl
@[simp] theorem State.setClu_padsSet (s : State) (c : Nat) (k : Cluster) : (s.setClu c k).padsSet = s.padsSet := rfl
@[simp] theorem State.updClu_padsSet (s : State) (c : Nat) (f : Cluster → Cluster) : (s.updClu c f).padsSet = s.padsSet := rfl
@[simp] theorem State.setClu_msq (s : State) (c : Nat) (k : Cluster) : (s.setClu c k).msq = s.msq := rfl
@[simp] theorem State.updClu_msq (s : State) (c : Nat) (f : Cluster → Cluster) : (s.updClu c f).msq = s.msq := rfl
@[simp] theorem State.setClu_cxl (s : State) (c : Nat) (k : Cluster) : (s.setClu c k).cxl = s.cxl := rfl
@[simp] theorem State.updClu_cxl (s : State) (c : Nat) (f : Cluster → Cluster) : (s.updClu c f).cxl = s.cxl := rfl
@[simp] theorem State.setClu_pts (s : State) (c : Nat) (k : Cluster) : (s.setClu c k).pts = s.pts := rfl
@[simp] theorem State.updClu_pts (s : State) (c : Nat) (f : Cluster → Cluster) : (s.updClu c f).pts = s.pts := rfl
@[simp] theorem State.setClu_olf (s : State) (c : Nat) (k : Cluster) : (s.setClu c k).olf = s.olf := rfl
@[simp] theorem State.updClu_olf (s : State) (c : Nat) (f : Cluster → Cluster) : (s.updClu c f).olf = s.olf := rfl
@[simp] theorem State.setClu_cwy (s : State) (c : Nat) (k : Cluster) : (s.setClu c k).cwy = s.cwy := rfl
@[simp] theorem State.updClu_cwy (s : State) (c : Nat) (f : Cluster → Cluster) : (s.updClu c f).cwy = s.cwy := rfl
@[simp] theorem State.setClu_svc (s : State) (c : Nat) (k : Cluster) : (s.setClu c k).svc = s.svc := rfl
@[simp] theorem State.updClu_svc (s : State) (c : Nat) (f : Cluster → Cluster) : (s.updClu c f).svc = s.svc := rfl
@[simp] theorem State.setClu_plc (s : State) (c : Nat) (k : Cluster) : (s.setClu c k).plc = s.plc := rfl
@[simp] theorem State.updClu_plc (s : State) (c : Nat) (f : Cluster → Cluster) : (s.updClu c f).plc = s.plc := rfl
@[simp] theorem State.setClu_job (s : State) (c : Nat) (k : Cluster) : (s.setClu c k).job = s.job := rfl
@[simp] theorem State.updClu_job (s : State) (c : Nat) (f : Cluster → Cluster) : (s.updClu c f).job = s.job := rfl
@[simp] theorem State.setClu_hst (s : State) (c : Nat) (k : Cluster) : (s.setClu c k).hst = s.hst := rfl
@[simp] theorem State.updClu_hst (s : State) (c : Nat) (f : Cluster → Cluster) : (s.updClu c f).hst = s.hst := rfl
@[simp] theorem State.setClu_ctl (s : State) (c : Nat) (k : Cluster) : (s.setClu c k).ctl = s.ctl := rfl
@[simp] theorem State.updClu_ctl (s : State) (c : Nat) (f : Cluster → Cluster) : (s.updClu c f).ctl = s.ctl := rfl
@[simp] theorem State.setClu_flt (s : State) (c : Nat) (k : Cluster) : (s.setClu c k).flt = s.flt := rfl
@[simp] theorem State.updClu_flt (s : State) (c : Nat) (f : Cluster → Cluster) : (s.updClu c f).flt = s.flt := rfl
@[simp] theorem State.setClu_dmp (s : State) (c : Nat) (k : Cluster) : (s.setClu c k).dmp = s.dmp := rfl
@[simp] theorem State.updClu_dmp (s : State) (c : Nat) (f : Cluster → Cluster) : (s.updClu c f).dmp = s.dmp := rfl
@[simp] theorem State.setClu_cfg (s : State) (c : Nat) (k : Cluster) : (s.setClu c k).cfg = s.cfg := rfl
@[simp] theorem State.updClu_cfg (s : State) (c : Nat) (f : Cluster → Cluster) : (s.updClu c f).cfg = s.cfg := rfl
@[simp] theorem State.setClu_pwr (s : State) (c : Nat) (k : Cluster) : (s.setClu c k).pwr = s.pwr := rfl
@[simp] theorem State.updClu_pwr (s : State) (c : Nat) (f : Cluster → Cluster) : (s.updClu c f).pwr = s.pwr := rfl
@[simp] theorem State.setClu_sec (s : State) (c : Nat) (k : Cluster) : (s.setClu c k).sec = s.sec := rfl
@[simp] theorem State.updClu_sec (s : State) (c : Nat) (f : Cluster → Cluster) : (s.updClu c f).sec = s.sec := rfl
@[simp] theorem State.setClu_rst (s : State) (c : Nat) (k : Cluster) : (s.setClu c k).rst = s.rst := rfl
@[simp] theorem State.updClu_rst (s : State) (c : Nat) (f : Cluster → Cluster) : (s.updClu c f).rst = s.rst := rfl
@[simp] theorem State.setClu_pins (s : State) (c : Nat) (k : Cluster) : (s.setClu c k).pins = s.pins := rfl
@[simp] theorem State.updClu_pins (s : State) (c : Nat) (f : Cluster → Cluster) : (s.updClu c f).pins = s.pins := rfl
@[simp] theorem State.setClu_ucie (s : State) (c : Nat) (k : Cluster) : (s.setClu c k).ucie = s.ucie := rfl
@[simp] theorem State.updClu_ucie (s : State) (c : Nat) (f : Cluster → Cluster) : (s.updClu c f).ucie = s.ucie := rfl
@[simp] theorem State.spn_setClu (s : State) (c x : Nat) (k : Cluster) : (s.setClu c k).spn x = s.spn x := rfl
@[simp] theorem State.spn_updClu (s : State) (c x : Nat) (f : Cluster → Cluster) : (s.updClu c f).spn x = s.spn x := rfl
@[simp] theorem State.ms_setClu (s : State) (c x : Nat) (k : Cluster) : (s.setClu c k).ms x = s.ms x := rfl
@[simp] theorem State.ms_updClu (s : State) (c x : Nat) (f : Cluster → Cluster) : (s.updClu c f).ms x = s.ms x := rfl
@[simp] theorem State.port_setClu (s : State) (c x : Nat) (k : Cluster) : (s.setClu c k).port x = s.port x := rfl
@[simp] theorem State.port_updClu (s : State) (c x : Nat) (f : Cluster → Cluster) : (s.updClu c f).port x = s.port x := rfl
@[simp] theorem State.rtr_setClu (s : State) (c x : Nat) (k : Cluster) : (s.setClu c k).rtr x = s.rtr x := rfl
@[simp] theorem State.rtr_updClu (s : State) (c x : Nat) (f : Cluster → Cluster) : (s.updClu c f).rtr x = s.rtr x := rfl
@[simp] theorem State.spn_setSpn (s : State) (p : Nat) (k : Spn) : (s.setSpn p k).spn p = k := by simp [State.spn, State.setSpn]
@[simp] theorem State.spn_setSpn_ne (s : State) (p x : Nat) (k : Spn) (h : x ≠ p) : (s.setSpn p k).spn x = s.spn x := by
  simp [State.spn, State.setSpn, h]
@[simp] theorem State.spn_updSpn (s : State) (p : Nat) (f : Spn → Spn) : (s.updSpn p f).spn p = f (s.spn p) := by simp [State.updSpn]
@[simp] theorem State.spn_updSpn_ne (s : State) (p x : Nat) (f : Spn → Spn) (h : x ≠ p) : (s.updSpn p f).spn x = s.spn x := by
  simp [State.updSpn, h]
@[simp] theorem State.setSpn_pending (s : State) (p : Nat) (k : Spn) : (s.setSpn p k).pending = s.pending := rfl
@[simp] theorem State.updSpn_pending (s : State) (p : Nat) (f : Spn → Spn) : (s.updSpn p f).pending = s.pending := rfl
@[simp] theorem State.setSpn_freeCtr (s : State) (p : Nat) (k : Spn) : (s.setSpn p k).freeCtr = s.freeCtr := rfl
@[simp] theorem State.updSpn_freeCtr (s : State) (p : Nat) (f : Spn → Spn) : (s.updSpn p f).freeCtr = s.freeCtr := rfl
@[simp] theorem State.setSpn_mem (s : State) (p : Nat) (k : Spn) : (s.setSpn p k).mem = s.mem := rfl
@[simp] theorem State.updSpn_mem (s : State) (p : Nat) (f : Spn → Spn) : (s.updSpn p f).mem = s.mem := rfl
@[simp] theorem State.setSpn_xfer (s : State) (p : Nat) (k : Spn) : (s.setSpn p k).xfer = s.xfer := rfl
@[simp] theorem State.updSpn_xfer (s : State) (p : Nat) (f : Spn → Spn) : (s.updSpn p f).xfer = s.xfer := rfl
@[simp] theorem State.setSpn_upsets (s : State) (p : Nat) (k : Spn) : (s.setSpn p k).upsets = s.upsets := rfl
@[simp] theorem State.updSpn_upsets (s : State) (p : Nat) (f : Spn → Spn) : (s.updSpn p f).upsets = s.upsets := rfl
@[simp] theorem State.setSpn_landing (s : State) (p : Nat) (k : Spn) : (s.setSpn p k).landing = s.landing := rfl
@[simp] theorem State.updSpn_landing (s : State) (p : Nat) (f : Spn → Spn) : (s.updSpn p f).landing = s.landing := rfl
@[simp] theorem State.setSpn_mesh (s : State) (p : Nat) (k : Spn) : (s.setSpn p k).mesh = s.mesh := rfl
@[simp] theorem State.updSpn_mesh (s : State) (p : Nat) (f : Spn → Spn) : (s.updSpn p f).mesh = s.mesh := rfl
@[simp] theorem State.setSpn_tim (s : State) (p : Nat) (k : Spn) : (s.setSpn p k).tim = s.tim := rfl
@[simp] theorem State.updSpn_tim (s : State) (p : Nat) (f : Spn → Spn) : (s.updSpn p f).tim = s.tim := rfl
@[simp] theorem State.setSpn_eth (s : State) (p : Nat) (k : Spn) : (s.setSpn p k).eth = s.eth := rfl
@[simp] theorem State.updSpn_eth (s : State) (p : Nat) (f : Spn → Spn) : (s.updSpn p f).eth = s.eth := rfl
@[simp] theorem State.setSpn_tik (s : State) (p : Nat) (k : Spn) : (s.setSpn p k).tik = s.tik := rfl
@[simp] theorem State.updSpn_tik (s : State) (p : Nat) (f : Spn → Spn) : (s.updSpn p f).tik = s.tik := rfl
@[simp] theorem State.setSpn_clusters (s : State) (p : Nat) (k : Spn) : (s.setSpn p k).clusters = s.clusters := rfl
@[simp] theorem State.updSpn_clusters (s : State) (p : Nat) (f : Spn → Spn) : (s.updSpn p f).clusters = s.clusters := rfl
@[simp] theorem State.setSpn_digs (s : State) (p : Nat) (k : Spn) : (s.setSpn p k).digs = s.digs := rfl
@[simp] theorem State.updSpn_digs (s : State) (p : Nat) (f : Spn → Spn) : (s.updSpn p f).digs = s.digs := rfl
@[simp] theorem State.setSpn_rows (s : State) (p : Nat) (k : Spn) : (s.setSpn p k).rows = s.rows := rfl
@[simp] theorem State.updSpn_rows (s : State) (p : Nat) (f : Spn → Spn) : (s.updSpn p f).rows = s.rows := rfl
@[simp] theorem State.setSpn_padsSet (s : State) (p : Nat) (k : Spn) : (s.setSpn p k).padsSet = s.padsSet := rfl
@[simp] theorem State.updSpn_padsSet (s : State) (p : Nat) (f : Spn → Spn) : (s.updSpn p f).padsSet = s.padsSet := rfl
@[simp] theorem State.setSpn_msq (s : State) (p : Nat) (k : Spn) : (s.setSpn p k).msq = s.msq := rfl
@[simp] theorem State.updSpn_msq (s : State) (p : Nat) (f : Spn → Spn) : (s.updSpn p f).msq = s.msq := rfl
@[simp] theorem State.setSpn_cxl (s : State) (p : Nat) (k : Spn) : (s.setSpn p k).cxl = s.cxl := rfl
@[simp] theorem State.updSpn_cxl (s : State) (p : Nat) (f : Spn → Spn) : (s.updSpn p f).cxl = s.cxl := rfl
@[simp] theorem State.setSpn_pts (s : State) (p : Nat) (k : Spn) : (s.setSpn p k).pts = s.pts := rfl
@[simp] theorem State.updSpn_pts (s : State) (p : Nat) (f : Spn → Spn) : (s.updSpn p f).pts = s.pts := rfl
@[simp] theorem State.setSpn_olf (s : State) (p : Nat) (k : Spn) : (s.setSpn p k).olf = s.olf := rfl
@[simp] theorem State.updSpn_olf (s : State) (p : Nat) (f : Spn → Spn) : (s.updSpn p f).olf = s.olf := rfl
@[simp] theorem State.setSpn_cwy (s : State) (p : Nat) (k : Spn) : (s.setSpn p k).cwy = s.cwy := rfl
@[simp] theorem State.updSpn_cwy (s : State) (p : Nat) (f : Spn → Spn) : (s.updSpn p f).cwy = s.cwy := rfl
@[simp] theorem State.setSpn_svc (s : State) (p : Nat) (k : Spn) : (s.setSpn p k).svc = s.svc := rfl
@[simp] theorem State.updSpn_svc (s : State) (p : Nat) (f : Spn → Spn) : (s.updSpn p f).svc = s.svc := rfl
@[simp] theorem State.setSpn_plc (s : State) (p : Nat) (k : Spn) : (s.setSpn p k).plc = s.plc := rfl
@[simp] theorem State.updSpn_plc (s : State) (p : Nat) (f : Spn → Spn) : (s.updSpn p f).plc = s.plc := rfl
@[simp] theorem State.setSpn_job (s : State) (p : Nat) (k : Spn) : (s.setSpn p k).job = s.job := rfl
@[simp] theorem State.updSpn_job (s : State) (p : Nat) (f : Spn → Spn) : (s.updSpn p f).job = s.job := rfl
@[simp] theorem State.setSpn_hst (s : State) (p : Nat) (k : Spn) : (s.setSpn p k).hst = s.hst := rfl
@[simp] theorem State.updSpn_hst (s : State) (p : Nat) (f : Spn → Spn) : (s.updSpn p f).hst = s.hst := rfl
@[simp] theorem State.setSpn_ctl (s : State) (p : Nat) (k : Spn) : (s.setSpn p k).ctl = s.ctl := rfl
@[simp] theorem State.updSpn_ctl (s : State) (p : Nat) (f : Spn → Spn) : (s.updSpn p f).ctl = s.ctl := rfl
@[simp] theorem State.setSpn_flt (s : State) (p : Nat) (k : Spn) : (s.setSpn p k).flt = s.flt := rfl
@[simp] theorem State.updSpn_flt (s : State) (p : Nat) (f : Spn → Spn) : (s.updSpn p f).flt = s.flt := rfl
@[simp] theorem State.setSpn_dmp (s : State) (p : Nat) (k : Spn) : (s.setSpn p k).dmp = s.dmp := rfl
@[simp] theorem State.updSpn_dmp (s : State) (p : Nat) (f : Spn → Spn) : (s.updSpn p f).dmp = s.dmp := rfl
@[simp] theorem State.setSpn_cfg (s : State) (p : Nat) (k : Spn) : (s.setSpn p k).cfg = s.cfg := rfl
@[simp] theorem State.updSpn_cfg (s : State) (p : Nat) (f : Spn → Spn) : (s.updSpn p f).cfg = s.cfg := rfl
@[simp] theorem State.setSpn_pwr (s : State) (p : Nat) (k : Spn) : (s.setSpn p k).pwr = s.pwr := rfl
@[simp] theorem State.updSpn_pwr (s : State) (p : Nat) (f : Spn → Spn) : (s.updSpn p f).pwr = s.pwr := rfl
@[simp] theorem State.setSpn_sec (s : State) (p : Nat) (k : Spn) : (s.setSpn p k).sec = s.sec := rfl
@[simp] theorem State.updSpn_sec (s : State) (p : Nat) (f : Spn → Spn) : (s.updSpn p f).sec = s.sec := rfl
@[simp] theorem State.setSpn_rst (s : State) (p : Nat) (k : Spn) : (s.setSpn p k).rst = s.rst := rfl
@[simp] theorem State.updSpn_rst (s : State) (p : Nat) (f : Spn → Spn) : (s.updSpn p f).rst = s.rst := rfl
@[simp] theorem State.setSpn_pins (s : State) (p : Nat) (k : Spn) : (s.setSpn p k).pins = s.pins := rfl
@[simp] theorem State.updSpn_pins (s : State) (p : Nat) (f : Spn → Spn) : (s.updSpn p f).pins = s.pins := rfl
@[simp] theorem State.setSpn_ucie (s : State) (p : Nat) (k : Spn) : (s.setSpn p k).ucie = s.ucie := rfl
@[simp] theorem State.updSpn_ucie (s : State) (p : Nat) (f : Spn → Spn) : (s.updSpn p f).ucie = s.ucie := rfl
@[simp] theorem State.clu_setSpn (s : State) (p x : Nat) (k : Spn) : (s.setSpn p k).clu x = s.clu x := rfl
@[simp] theorem State.clu_updSpn (s : State) (p x : Nat) (f : Spn → Spn) : (s.updSpn p f).clu x = s.clu x := rfl
@[simp] theorem State.ms_setSpn (s : State) (p x : Nat) (k : Spn) : (s.setSpn p k).ms x = s.ms x := rfl
@[simp] theorem State.ms_updSpn (s : State) (p x : Nat) (f : Spn → Spn) : (s.updSpn p f).ms x = s.ms x := rfl
@[simp] theorem State.port_setSpn (s : State) (p x : Nat) (k : Spn) : (s.setSpn p k).port x = s.port x := rfl
@[simp] theorem State.port_updSpn (s : State) (p x : Nat) (f : Spn → Spn) : (s.updSpn p f).port x = s.port x := rfl
@[simp] theorem State.rtr_setSpn (s : State) (p x : Nat) (k : Spn) : (s.setSpn p k).rtr x = s.rtr x := rfl
@[simp] theorem State.rtr_updSpn (s : State) (p x : Nat) (f : Spn → Spn) : (s.updSpn p f).rtr x = s.rtr x := rfl
@[simp] theorem State.ms_setMs (s : State) (st : Nat) (k : Msq) : (s.setMs st k).ms st = k := by simp [State.ms, State.setMs]
@[simp] theorem State.ms_setMs_ne (s : State) (st x : Nat) (k : Msq) (h : x ≠ st) : (s.setMs st k).ms x = s.ms x := by
  simp [State.ms, State.setMs, h]
@[simp] theorem State.ms_updMs (s : State) (st : Nat) (f : Msq → Msq) : (s.updMs st f).ms st = f (s.ms st) := by simp [State.updMs]
@[simp] theorem State.ms_updMs_ne (s : State) (st x : Nat) (f : Msq → Msq) (h : x ≠ st) : (s.updMs st f).ms x = s.ms x := by
  simp [State.updMs, h]
@[simp] theorem State.setMs_pending (s : State) (st : Nat) (k : Msq) : (s.setMs st k).pending = s.pending := rfl
@[simp] theorem State.updMs_pending (s : State) (st : Nat) (f : Msq → Msq) : (s.updMs st f).pending = s.pending := rfl
@[simp] theorem State.setMs_freeCtr (s : State) (st : Nat) (k : Msq) : (s.setMs st k).freeCtr = s.freeCtr := rfl
@[simp] theorem State.updMs_freeCtr (s : State) (st : Nat) (f : Msq → Msq) : (s.updMs st f).freeCtr = s.freeCtr := rfl
@[simp] theorem State.setMs_mem (s : State) (st : Nat) (k : Msq) : (s.setMs st k).mem = s.mem := rfl
@[simp] theorem State.updMs_mem (s : State) (st : Nat) (f : Msq → Msq) : (s.updMs st f).mem = s.mem := rfl
@[simp] theorem State.setMs_xfer (s : State) (st : Nat) (k : Msq) : (s.setMs st k).xfer = s.xfer := rfl
@[simp] theorem State.updMs_xfer (s : State) (st : Nat) (f : Msq → Msq) : (s.updMs st f).xfer = s.xfer := rfl
@[simp] theorem State.setMs_upsets (s : State) (st : Nat) (k : Msq) : (s.setMs st k).upsets = s.upsets := rfl
@[simp] theorem State.updMs_upsets (s : State) (st : Nat) (f : Msq → Msq) : (s.updMs st f).upsets = s.upsets := rfl
@[simp] theorem State.setMs_landing (s : State) (st : Nat) (k : Msq) : (s.setMs st k).landing = s.landing := rfl
@[simp] theorem State.updMs_landing (s : State) (st : Nat) (f : Msq → Msq) : (s.updMs st f).landing = s.landing := rfl
@[simp] theorem State.setMs_mesh (s : State) (st : Nat) (k : Msq) : (s.setMs st k).mesh = s.mesh := rfl
@[simp] theorem State.updMs_mesh (s : State) (st : Nat) (f : Msq → Msq) : (s.updMs st f).mesh = s.mesh := rfl
@[simp] theorem State.setMs_tim (s : State) (st : Nat) (k : Msq) : (s.setMs st k).tim = s.tim := rfl
@[simp] theorem State.updMs_tim (s : State) (st : Nat) (f : Msq → Msq) : (s.updMs st f).tim = s.tim := rfl
@[simp] theorem State.setMs_eth (s : State) (st : Nat) (k : Msq) : (s.setMs st k).eth = s.eth := rfl
@[simp] theorem State.updMs_eth (s : State) (st : Nat) (f : Msq → Msq) : (s.updMs st f).eth = s.eth := rfl
@[simp] theorem State.setMs_tik (s : State) (st : Nat) (k : Msq) : (s.setMs st k).tik = s.tik := rfl
@[simp] theorem State.updMs_tik (s : State) (st : Nat) (f : Msq → Msq) : (s.updMs st f).tik = s.tik := rfl
@[simp] theorem State.setMs_spans (s : State) (st : Nat) (k : Msq) : (s.setMs st k).spans = s.spans := rfl
@[simp] theorem State.updMs_spans (s : State) (st : Nat) (f : Msq → Msq) : (s.updMs st f).spans = s.spans := rfl
@[simp] theorem State.setMs_clusters (s : State) (st : Nat) (k : Msq) : (s.setMs st k).clusters = s.clusters := rfl
@[simp] theorem State.updMs_clusters (s : State) (st : Nat) (f : Msq → Msq) : (s.updMs st f).clusters = s.clusters := rfl
@[simp] theorem State.setMs_digs (s : State) (st : Nat) (k : Msq) : (s.setMs st k).digs = s.digs := rfl
@[simp] theorem State.updMs_digs (s : State) (st : Nat) (f : Msq → Msq) : (s.updMs st f).digs = s.digs := rfl
@[simp] theorem State.setMs_rows (s : State) (st : Nat) (k : Msq) : (s.setMs st k).rows = s.rows := rfl
@[simp] theorem State.updMs_rows (s : State) (st : Nat) (f : Msq → Msq) : (s.updMs st f).rows = s.rows := rfl
@[simp] theorem State.setMs_padsSet (s : State) (st : Nat) (k : Msq) : (s.setMs st k).padsSet = s.padsSet := rfl
@[simp] theorem State.updMs_padsSet (s : State) (st : Nat) (f : Msq → Msq) : (s.updMs st f).padsSet = s.padsSet := rfl
@[simp] theorem State.setMs_cxl (s : State) (st : Nat) (k : Msq) : (s.setMs st k).cxl = s.cxl := rfl
@[simp] theorem State.updMs_cxl (s : State) (st : Nat) (f : Msq → Msq) : (s.updMs st f).cxl = s.cxl := rfl
@[simp] theorem State.setMs_pts (s : State) (st : Nat) (k : Msq) : (s.setMs st k).pts = s.pts := rfl
@[simp] theorem State.updMs_pts (s : State) (st : Nat) (f : Msq → Msq) : (s.updMs st f).pts = s.pts := rfl
@[simp] theorem State.setMs_olf (s : State) (st : Nat) (k : Msq) : (s.setMs st k).olf = s.olf := rfl
@[simp] theorem State.updMs_olf (s : State) (st : Nat) (f : Msq → Msq) : (s.updMs st f).olf = s.olf := rfl
@[simp] theorem State.setMs_cwy (s : State) (st : Nat) (k : Msq) : (s.setMs st k).cwy = s.cwy := rfl
@[simp] theorem State.updMs_cwy (s : State) (st : Nat) (f : Msq → Msq) : (s.updMs st f).cwy = s.cwy := rfl
@[simp] theorem State.setMs_svc (s : State) (st : Nat) (k : Msq) : (s.setMs st k).svc = s.svc := rfl
@[simp] theorem State.updMs_svc (s : State) (st : Nat) (f : Msq → Msq) : (s.updMs st f).svc = s.svc := rfl
@[simp] theorem State.setMs_plc (s : State) (st : Nat) (k : Msq) : (s.setMs st k).plc = s.plc := rfl
@[simp] theorem State.updMs_plc (s : State) (st : Nat) (f : Msq → Msq) : (s.updMs st f).plc = s.plc := rfl
@[simp] theorem State.setMs_job (s : State) (st : Nat) (k : Msq) : (s.setMs st k).job = s.job := rfl
@[simp] theorem State.updMs_job (s : State) (st : Nat) (f : Msq → Msq) : (s.updMs st f).job = s.job := rfl
@[simp] theorem State.setMs_hst (s : State) (st : Nat) (k : Msq) : (s.setMs st k).hst = s.hst := rfl
@[simp] theorem State.updMs_hst (s : State) (st : Nat) (f : Msq → Msq) : (s.updMs st f).hst = s.hst := rfl
@[simp] theorem State.setMs_ctl (s : State) (st : Nat) (k : Msq) : (s.setMs st k).ctl = s.ctl := rfl
@[simp] theorem State.updMs_ctl (s : State) (st : Nat) (f : Msq → Msq) : (s.updMs st f).ctl = s.ctl := rfl
@[simp] theorem State.setMs_flt (s : State) (st : Nat) (k : Msq) : (s.setMs st k).flt = s.flt := rfl
@[simp] theorem State.updMs_flt (s : State) (st : Nat) (f : Msq → Msq) : (s.updMs st f).flt = s.flt := rfl
@[simp] theorem State.setMs_dmp (s : State) (st : Nat) (k : Msq) : (s.setMs st k).dmp = s.dmp := rfl
@[simp] theorem State.updMs_dmp (s : State) (st : Nat) (f : Msq → Msq) : (s.updMs st f).dmp = s.dmp := rfl
@[simp] theorem State.setMs_cfg (s : State) (st : Nat) (k : Msq) : (s.setMs st k).cfg = s.cfg := rfl
@[simp] theorem State.updMs_cfg (s : State) (st : Nat) (f : Msq → Msq) : (s.updMs st f).cfg = s.cfg := rfl
@[simp] theorem State.setMs_pwr (s : State) (st : Nat) (k : Msq) : (s.setMs st k).pwr = s.pwr := rfl
@[simp] theorem State.updMs_pwr (s : State) (st : Nat) (f : Msq → Msq) : (s.updMs st f).pwr = s.pwr := rfl
@[simp] theorem State.setMs_sec (s : State) (st : Nat) (k : Msq) : (s.setMs st k).sec = s.sec := rfl
@[simp] theorem State.updMs_sec (s : State) (st : Nat) (f : Msq → Msq) : (s.updMs st f).sec = s.sec := rfl
@[simp] theorem State.setMs_rst (s : State) (st : Nat) (k : Msq) : (s.setMs st k).rst = s.rst := rfl
@[simp] theorem State.updMs_rst (s : State) (st : Nat) (f : Msq → Msq) : (s.updMs st f).rst = s.rst := rfl
@[simp] theorem State.setMs_pins (s : State) (st : Nat) (k : Msq) : (s.setMs st k).pins = s.pins := rfl
@[simp] theorem State.updMs_pins (s : State) (st : Nat) (f : Msq → Msq) : (s.updMs st f).pins = s.pins := rfl
@[simp] theorem State.setMs_ucie (s : State) (st : Nat) (k : Msq) : (s.setMs st k).ucie = s.ucie := rfl
@[simp] theorem State.updMs_ucie (s : State) (st : Nat) (f : Msq → Msq) : (s.updMs st f).ucie = s.ucie := rfl
@[simp] theorem State.clu_setMs (s : State) (st x : Nat) (k : Msq) : (s.setMs st k).clu x = s.clu x := rfl
@[simp] theorem State.clu_updMs (s : State) (st x : Nat) (f : Msq → Msq) : (s.updMs st f).clu x = s.clu x := rfl
@[simp] theorem State.spn_setMs (s : State) (st x : Nat) (k : Msq) : (s.setMs st k).spn x = s.spn x := rfl
@[simp] theorem State.spn_updMs (s : State) (st x : Nat) (f : Msq → Msq) : (s.updMs st f).spn x = s.spn x := rfl
@[simp] theorem State.port_setMs (s : State) (st x : Nat) (k : Msq) : (s.setMs st k).port x = s.port x := rfl
@[simp] theorem State.port_updMs (s : State) (st x : Nat) (f : Msq → Msq) : (s.updMs st f).port x = s.port x := rfl
@[simp] theorem State.rtr_setMs (s : State) (st x : Nat) (k : Msq) : (s.setMs st k).rtr x = s.rtr x := rfl
@[simp] theorem State.rtr_updMs (s : State) (st x : Nat) (f : Msq → Msq) : (s.updMs st f).rtr x = s.rtr x := rfl
@[simp] theorem State.port_setPort (s : State) (p : Nat) (k : Olf) : (s.setPort p k).port p = k := by simp [State.port, State.setPort]
@[simp] theorem State.port_setPort_ne (s : State) (p x : Nat) (k : Olf) (h : x ≠ p) : (s.setPort p k).port x = s.port x := by
  simp [State.port, State.setPort, h]
@[simp] theorem State.port_updPort (s : State) (p : Nat) (f : Olf → Olf) : (s.updPort p f).port p = f (s.port p) := by simp [State.updPort]
@[simp] theorem State.port_updPort_ne (s : State) (p x : Nat) (f : Olf → Olf) (h : x ≠ p) : (s.updPort p f).port x = s.port x := by
  simp [State.updPort, h]
@[simp] theorem State.setPort_pending (s : State) (p : Nat) (k : Olf) : (s.setPort p k).pending = s.pending := rfl
@[simp] theorem State.updPort_pending (s : State) (p : Nat) (f : Olf → Olf) : (s.updPort p f).pending = s.pending := rfl
@[simp] theorem State.setPort_freeCtr (s : State) (p : Nat) (k : Olf) : (s.setPort p k).freeCtr = s.freeCtr := rfl
@[simp] theorem State.updPort_freeCtr (s : State) (p : Nat) (f : Olf → Olf) : (s.updPort p f).freeCtr = s.freeCtr := rfl
@[simp] theorem State.setPort_mem (s : State) (p : Nat) (k : Olf) : (s.setPort p k).mem = s.mem := rfl
@[simp] theorem State.updPort_mem (s : State) (p : Nat) (f : Olf → Olf) : (s.updPort p f).mem = s.mem := rfl
@[simp] theorem State.setPort_xfer (s : State) (p : Nat) (k : Olf) : (s.setPort p k).xfer = s.xfer := rfl
@[simp] theorem State.updPort_xfer (s : State) (p : Nat) (f : Olf → Olf) : (s.updPort p f).xfer = s.xfer := rfl
@[simp] theorem State.setPort_upsets (s : State) (p : Nat) (k : Olf) : (s.setPort p k).upsets = s.upsets := rfl
@[simp] theorem State.updPort_upsets (s : State) (p : Nat) (f : Olf → Olf) : (s.updPort p f).upsets = s.upsets := rfl
@[simp] theorem State.setPort_landing (s : State) (p : Nat) (k : Olf) : (s.setPort p k).landing = s.landing := rfl
@[simp] theorem State.updPort_landing (s : State) (p : Nat) (f : Olf → Olf) : (s.updPort p f).landing = s.landing := rfl
@[simp] theorem State.setPort_mesh (s : State) (p : Nat) (k : Olf) : (s.setPort p k).mesh = s.mesh := rfl
@[simp] theorem State.updPort_mesh (s : State) (p : Nat) (f : Olf → Olf) : (s.updPort p f).mesh = s.mesh := rfl
@[simp] theorem State.setPort_tim (s : State) (p : Nat) (k : Olf) : (s.setPort p k).tim = s.tim := rfl
@[simp] theorem State.updPort_tim (s : State) (p : Nat) (f : Olf → Olf) : (s.updPort p f).tim = s.tim := rfl
@[simp] theorem State.setPort_eth (s : State) (p : Nat) (k : Olf) : (s.setPort p k).eth = s.eth := rfl
@[simp] theorem State.updPort_eth (s : State) (p : Nat) (f : Olf → Olf) : (s.updPort p f).eth = s.eth := rfl
@[simp] theorem State.setPort_tik (s : State) (p : Nat) (k : Olf) : (s.setPort p k).tik = s.tik := rfl
@[simp] theorem State.updPort_tik (s : State) (p : Nat) (f : Olf → Olf) : (s.updPort p f).tik = s.tik := rfl
@[simp] theorem State.setPort_spans (s : State) (p : Nat) (k : Olf) : (s.setPort p k).spans = s.spans := rfl
@[simp] theorem State.updPort_spans (s : State) (p : Nat) (f : Olf → Olf) : (s.updPort p f).spans = s.spans := rfl
@[simp] theorem State.setPort_clusters (s : State) (p : Nat) (k : Olf) : (s.setPort p k).clusters = s.clusters := rfl
@[simp] theorem State.updPort_clusters (s : State) (p : Nat) (f : Olf → Olf) : (s.updPort p f).clusters = s.clusters := rfl
@[simp] theorem State.setPort_digs (s : State) (p : Nat) (k : Olf) : (s.setPort p k).digs = s.digs := rfl
@[simp] theorem State.updPort_digs (s : State) (p : Nat) (f : Olf → Olf) : (s.updPort p f).digs = s.digs := rfl
@[simp] theorem State.setPort_rows (s : State) (p : Nat) (k : Olf) : (s.setPort p k).rows = s.rows := rfl
@[simp] theorem State.updPort_rows (s : State) (p : Nat) (f : Olf → Olf) : (s.updPort p f).rows = s.rows := rfl
@[simp] theorem State.setPort_padsSet (s : State) (p : Nat) (k : Olf) : (s.setPort p k).padsSet = s.padsSet := rfl
@[simp] theorem State.updPort_padsSet (s : State) (p : Nat) (f : Olf → Olf) : (s.updPort p f).padsSet = s.padsSet := rfl
@[simp] theorem State.setPort_msq (s : State) (p : Nat) (k : Olf) : (s.setPort p k).msq = s.msq := rfl
@[simp] theorem State.updPort_msq (s : State) (p : Nat) (f : Olf → Olf) : (s.updPort p f).msq = s.msq := rfl
@[simp] theorem State.setPort_cxl (s : State) (p : Nat) (k : Olf) : (s.setPort p k).cxl = s.cxl := rfl
@[simp] theorem State.updPort_cxl (s : State) (p : Nat) (f : Olf → Olf) : (s.updPort p f).cxl = s.cxl := rfl
@[simp] theorem State.setPort_pts (s : State) (p : Nat) (k : Olf) : (s.setPort p k).pts = s.pts := rfl
@[simp] theorem State.updPort_pts (s : State) (p : Nat) (f : Olf → Olf) : (s.updPort p f).pts = s.pts := rfl
@[simp] theorem State.setPort_cwy (s : State) (p : Nat) (k : Olf) : (s.setPort p k).cwy = s.cwy := rfl
@[simp] theorem State.updPort_cwy (s : State) (p : Nat) (f : Olf → Olf) : (s.updPort p f).cwy = s.cwy := rfl
@[simp] theorem State.setPort_svc (s : State) (p : Nat) (k : Olf) : (s.setPort p k).svc = s.svc := rfl
@[simp] theorem State.updPort_svc (s : State) (p : Nat) (f : Olf → Olf) : (s.updPort p f).svc = s.svc := rfl
@[simp] theorem State.setPort_plc (s : State) (p : Nat) (k : Olf) : (s.setPort p k).plc = s.plc := rfl
@[simp] theorem State.updPort_plc (s : State) (p : Nat) (f : Olf → Olf) : (s.updPort p f).plc = s.plc := rfl
@[simp] theorem State.setPort_job (s : State) (p : Nat) (k : Olf) : (s.setPort p k).job = s.job := rfl
@[simp] theorem State.updPort_job (s : State) (p : Nat) (f : Olf → Olf) : (s.updPort p f).job = s.job := rfl
@[simp] theorem State.setPort_hst (s : State) (p : Nat) (k : Olf) : (s.setPort p k).hst = s.hst := rfl
@[simp] theorem State.updPort_hst (s : State) (p : Nat) (f : Olf → Olf) : (s.updPort p f).hst = s.hst := rfl
@[simp] theorem State.setPort_ctl (s : State) (p : Nat) (k : Olf) : (s.setPort p k).ctl = s.ctl := rfl
@[simp] theorem State.updPort_ctl (s : State) (p : Nat) (f : Olf → Olf) : (s.updPort p f).ctl = s.ctl := rfl
@[simp] theorem State.setPort_flt (s : State) (p : Nat) (k : Olf) : (s.setPort p k).flt = s.flt := rfl
@[simp] theorem State.updPort_flt (s : State) (p : Nat) (f : Olf → Olf) : (s.updPort p f).flt = s.flt := rfl
@[simp] theorem State.setPort_dmp (s : State) (p : Nat) (k : Olf) : (s.setPort p k).dmp = s.dmp := rfl
@[simp] theorem State.updPort_dmp (s : State) (p : Nat) (f : Olf → Olf) : (s.updPort p f).dmp = s.dmp := rfl
@[simp] theorem State.setPort_cfg (s : State) (p : Nat) (k : Olf) : (s.setPort p k).cfg = s.cfg := rfl
@[simp] theorem State.updPort_cfg (s : State) (p : Nat) (f : Olf → Olf) : (s.updPort p f).cfg = s.cfg := rfl
@[simp] theorem State.setPort_pwr (s : State) (p : Nat) (k : Olf) : (s.setPort p k).pwr = s.pwr := rfl
@[simp] theorem State.updPort_pwr (s : State) (p : Nat) (f : Olf → Olf) : (s.updPort p f).pwr = s.pwr := rfl
@[simp] theorem State.setPort_sec (s : State) (p : Nat) (k : Olf) : (s.setPort p k).sec = s.sec := rfl
@[simp] theorem State.updPort_sec (s : State) (p : Nat) (f : Olf → Olf) : (s.updPort p f).sec = s.sec := rfl
@[simp] theorem State.setPort_rst (s : State) (p : Nat) (k : Olf) : (s.setPort p k).rst = s.rst := rfl
@[simp] theorem State.updPort_rst (s : State) (p : Nat) (f : Olf → Olf) : (s.updPort p f).rst = s.rst := rfl
@[simp] theorem State.setPort_pins (s : State) (p : Nat) (k : Olf) : (s.setPort p k).pins = s.pins := rfl
@[simp] theorem State.updPort_pins (s : State) (p : Nat) (f : Olf → Olf) : (s.updPort p f).pins = s.pins := rfl
@[simp] theorem State.setPort_ucie (s : State) (p : Nat) (k : Olf) : (s.setPort p k).ucie = s.ucie := rfl
@[simp] theorem State.updPort_ucie (s : State) (p : Nat) (f : Olf → Olf) : (s.updPort p f).ucie = s.ucie := rfl
@[simp] theorem State.clu_setPort (s : State) (p x : Nat) (k : Olf) : (s.setPort p k).clu x = s.clu x := rfl
@[simp] theorem State.clu_updPort (s : State) (p x : Nat) (f : Olf → Olf) : (s.updPort p f).clu x = s.clu x := rfl
@[simp] theorem State.spn_setPort (s : State) (p x : Nat) (k : Olf) : (s.setPort p k).spn x = s.spn x := rfl
@[simp] theorem State.spn_updPort (s : State) (p x : Nat) (f : Olf → Olf) : (s.updPort p f).spn x = s.spn x := rfl
@[simp] theorem State.ms_setPort (s : State) (p x : Nat) (k : Olf) : (s.setPort p k).ms x = s.ms x := rfl
@[simp] theorem State.ms_updPort (s : State) (p x : Nat) (f : Olf → Olf) : (s.updPort p f).ms x = s.ms x := rfl
@[simp] theorem State.rtr_setPort (s : State) (p x : Nat) (k : Olf) : (s.setPort p k).rtr x = s.rtr x := rfl
@[simp] theorem State.rtr_updPort (s : State) (p x : Nat) (f : Olf → Olf) : (s.updPort p f).rtr x = s.rtr x := rfl
@[simp] theorem State.rtr_setRtr (s : State) (p : Nat) (k : Cwy) : (s.setRtr p k).rtr p = k := by simp [State.rtr, State.setRtr]
@[simp] theorem State.rtr_setRtr_ne (s : State) (p x : Nat) (k : Cwy) (h : x ≠ p) : (s.setRtr p k).rtr x = s.rtr x := by
  simp [State.rtr, State.setRtr, h]
@[simp] theorem State.rtr_updRtr (s : State) (p : Nat) (f : Cwy → Cwy) : (s.updRtr p f).rtr p = f (s.rtr p) := by simp [State.updRtr]
@[simp] theorem State.rtr_updRtr_ne (s : State) (p x : Nat) (f : Cwy → Cwy) (h : x ≠ p) : (s.updRtr p f).rtr x = s.rtr x := by
  simp [State.updRtr, h]
@[simp] theorem State.setRtr_pending (s : State) (p : Nat) (k : Cwy) : (s.setRtr p k).pending = s.pending := rfl
@[simp] theorem State.updRtr_pending (s : State) (p : Nat) (f : Cwy → Cwy) : (s.updRtr p f).pending = s.pending := rfl
@[simp] theorem State.setRtr_freeCtr (s : State) (p : Nat) (k : Cwy) : (s.setRtr p k).freeCtr = s.freeCtr := rfl
@[simp] theorem State.updRtr_freeCtr (s : State) (p : Nat) (f : Cwy → Cwy) : (s.updRtr p f).freeCtr = s.freeCtr := rfl
@[simp] theorem State.setRtr_mem (s : State) (p : Nat) (k : Cwy) : (s.setRtr p k).mem = s.mem := rfl
@[simp] theorem State.updRtr_mem (s : State) (p : Nat) (f : Cwy → Cwy) : (s.updRtr p f).mem = s.mem := rfl
@[simp] theorem State.setRtr_xfer (s : State) (p : Nat) (k : Cwy) : (s.setRtr p k).xfer = s.xfer := rfl
@[simp] theorem State.updRtr_xfer (s : State) (p : Nat) (f : Cwy → Cwy) : (s.updRtr p f).xfer = s.xfer := rfl
@[simp] theorem State.setRtr_upsets (s : State) (p : Nat) (k : Cwy) : (s.setRtr p k).upsets = s.upsets := rfl
@[simp] theorem State.updRtr_upsets (s : State) (p : Nat) (f : Cwy → Cwy) : (s.updRtr p f).upsets = s.upsets := rfl
@[simp] theorem State.setRtr_landing (s : State) (p : Nat) (k : Cwy) : (s.setRtr p k).landing = s.landing := rfl
@[simp] theorem State.updRtr_landing (s : State) (p : Nat) (f : Cwy → Cwy) : (s.updRtr p f).landing = s.landing := rfl
@[simp] theorem State.setRtr_mesh (s : State) (p : Nat) (k : Cwy) : (s.setRtr p k).mesh = s.mesh := rfl
@[simp] theorem State.updRtr_mesh (s : State) (p : Nat) (f : Cwy → Cwy) : (s.updRtr p f).mesh = s.mesh := rfl
@[simp] theorem State.setRtr_tim (s : State) (p : Nat) (k : Cwy) : (s.setRtr p k).tim = s.tim := rfl
@[simp] theorem State.updRtr_tim (s : State) (p : Nat) (f : Cwy → Cwy) : (s.updRtr p f).tim = s.tim := rfl
@[simp] theorem State.setRtr_eth (s : State) (p : Nat) (k : Cwy) : (s.setRtr p k).eth = s.eth := rfl
@[simp] theorem State.updRtr_eth (s : State) (p : Nat) (f : Cwy → Cwy) : (s.updRtr p f).eth = s.eth := rfl
@[simp] theorem State.setRtr_tik (s : State) (p : Nat) (k : Cwy) : (s.setRtr p k).tik = s.tik := rfl
@[simp] theorem State.updRtr_tik (s : State) (p : Nat) (f : Cwy → Cwy) : (s.updRtr p f).tik = s.tik := rfl
@[simp] theorem State.setRtr_spans (s : State) (p : Nat) (k : Cwy) : (s.setRtr p k).spans = s.spans := rfl
@[simp] theorem State.updRtr_spans (s : State) (p : Nat) (f : Cwy → Cwy) : (s.updRtr p f).spans = s.spans := rfl
@[simp] theorem State.setRtr_clusters (s : State) (p : Nat) (k : Cwy) : (s.setRtr p k).clusters = s.clusters := rfl
@[simp] theorem State.updRtr_clusters (s : State) (p : Nat) (f : Cwy → Cwy) : (s.updRtr p f).clusters = s.clusters := rfl
@[simp] theorem State.setRtr_digs (s : State) (p : Nat) (k : Cwy) : (s.setRtr p k).digs = s.digs := rfl
@[simp] theorem State.updRtr_digs (s : State) (p : Nat) (f : Cwy → Cwy) : (s.updRtr p f).digs = s.digs := rfl
@[simp] theorem State.setRtr_rows (s : State) (p : Nat) (k : Cwy) : (s.setRtr p k).rows = s.rows := rfl
@[simp] theorem State.updRtr_rows (s : State) (p : Nat) (f : Cwy → Cwy) : (s.updRtr p f).rows = s.rows := rfl
@[simp] theorem State.setRtr_padsSet (s : State) (p : Nat) (k : Cwy) : (s.setRtr p k).padsSet = s.padsSet := rfl
@[simp] theorem State.updRtr_padsSet (s : State) (p : Nat) (f : Cwy → Cwy) : (s.updRtr p f).padsSet = s.padsSet := rfl
@[simp] theorem State.setRtr_msq (s : State) (p : Nat) (k : Cwy) : (s.setRtr p k).msq = s.msq := rfl
@[simp] theorem State.updRtr_msq (s : State) (p : Nat) (f : Cwy → Cwy) : (s.updRtr p f).msq = s.msq := rfl
@[simp] theorem State.setRtr_cxl (s : State) (p : Nat) (k : Cwy) : (s.setRtr p k).cxl = s.cxl := rfl
@[simp] theorem State.updRtr_cxl (s : State) (p : Nat) (f : Cwy → Cwy) : (s.updRtr p f).cxl = s.cxl := rfl
@[simp] theorem State.setRtr_pts (s : State) (p : Nat) (k : Cwy) : (s.setRtr p k).pts = s.pts := rfl
@[simp] theorem State.updRtr_pts (s : State) (p : Nat) (f : Cwy → Cwy) : (s.updRtr p f).pts = s.pts := rfl
@[simp] theorem State.setRtr_olf (s : State) (p : Nat) (k : Cwy) : (s.setRtr p k).olf = s.olf := rfl
@[simp] theorem State.updRtr_olf (s : State) (p : Nat) (f : Cwy → Cwy) : (s.updRtr p f).olf = s.olf := rfl
@[simp] theorem State.setRtr_svc (s : State) (p : Nat) (k : Cwy) : (s.setRtr p k).svc = s.svc := rfl
@[simp] theorem State.updRtr_svc (s : State) (p : Nat) (f : Cwy → Cwy) : (s.updRtr p f).svc = s.svc := rfl
@[simp] theorem State.setRtr_plc (s : State) (p : Nat) (k : Cwy) : (s.setRtr p k).plc = s.plc := rfl
@[simp] theorem State.updRtr_plc (s : State) (p : Nat) (f : Cwy → Cwy) : (s.updRtr p f).plc = s.plc := rfl
@[simp] theorem State.setRtr_job (s : State) (p : Nat) (k : Cwy) : (s.setRtr p k).job = s.job := rfl
@[simp] theorem State.updRtr_job (s : State) (p : Nat) (f : Cwy → Cwy) : (s.updRtr p f).job = s.job := rfl
@[simp] theorem State.setRtr_hst (s : State) (p : Nat) (k : Cwy) : (s.setRtr p k).hst = s.hst := rfl
@[simp] theorem State.updRtr_hst (s : State) (p : Nat) (f : Cwy → Cwy) : (s.updRtr p f).hst = s.hst := rfl
@[simp] theorem State.setRtr_ctl (s : State) (p : Nat) (k : Cwy) : (s.setRtr p k).ctl = s.ctl := rfl
@[simp] theorem State.updRtr_ctl (s : State) (p : Nat) (f : Cwy → Cwy) : (s.updRtr p f).ctl = s.ctl := rfl
@[simp] theorem State.setRtr_flt (s : State) (p : Nat) (k : Cwy) : (s.setRtr p k).flt = s.flt := rfl
@[simp] theorem State.updRtr_flt (s : State) (p : Nat) (f : Cwy → Cwy) : (s.updRtr p f).flt = s.flt := rfl
@[simp] theorem State.setRtr_dmp (s : State) (p : Nat) (k : Cwy) : (s.setRtr p k).dmp = s.dmp := rfl
@[simp] theorem State.updRtr_dmp (s : State) (p : Nat) (f : Cwy → Cwy) : (s.updRtr p f).dmp = s.dmp := rfl
@[simp] theorem State.setRtr_cfg (s : State) (p : Nat) (k : Cwy) : (s.setRtr p k).cfg = s.cfg := rfl
@[simp] theorem State.updRtr_cfg (s : State) (p : Nat) (f : Cwy → Cwy) : (s.updRtr p f).cfg = s.cfg := rfl
@[simp] theorem State.setRtr_pwr (s : State) (p : Nat) (k : Cwy) : (s.setRtr p k).pwr = s.pwr := rfl
@[simp] theorem State.updRtr_pwr (s : State) (p : Nat) (f : Cwy → Cwy) : (s.updRtr p f).pwr = s.pwr := rfl
@[simp] theorem State.setRtr_sec (s : State) (p : Nat) (k : Cwy) : (s.setRtr p k).sec = s.sec := rfl
@[simp] theorem State.updRtr_sec (s : State) (p : Nat) (f : Cwy → Cwy) : (s.updRtr p f).sec = s.sec := rfl
@[simp] theorem State.setRtr_rst (s : State) (p : Nat) (k : Cwy) : (s.setRtr p k).rst = s.rst := rfl
@[simp] theorem State.updRtr_rst (s : State) (p : Nat) (f : Cwy → Cwy) : (s.updRtr p f).rst = s.rst := rfl
@[simp] theorem State.setRtr_pins (s : State) (p : Nat) (k : Cwy) : (s.setRtr p k).pins = s.pins := rfl
@[simp] theorem State.updRtr_pins (s : State) (p : Nat) (f : Cwy → Cwy) : (s.updRtr p f).pins = s.pins := rfl
@[simp] theorem State.setRtr_ucie (s : State) (p : Nat) (k : Cwy) : (s.setRtr p k).ucie = s.ucie := rfl
@[simp] theorem State.updRtr_ucie (s : State) (p : Nat) (f : Cwy → Cwy) : (s.updRtr p f).ucie = s.ucie := rfl
@[simp] theorem State.clu_setRtr (s : State) (p x : Nat) (k : Cwy) : (s.setRtr p k).clu x = s.clu x := rfl
@[simp] theorem State.clu_updRtr (s : State) (p x : Nat) (f : Cwy → Cwy) : (s.updRtr p f).clu x = s.clu x := rfl
@[simp] theorem State.spn_setRtr (s : State) (p x : Nat) (k : Cwy) : (s.setRtr p k).spn x = s.spn x := rfl
@[simp] theorem State.spn_updRtr (s : State) (p x : Nat) (f : Cwy → Cwy) : (s.updRtr p f).spn x = s.spn x := rfl
@[simp] theorem State.ms_setRtr (s : State) (p x : Nat) (k : Cwy) : (s.setRtr p k).ms x = s.ms x := rfl
@[simp] theorem State.ms_updRtr (s : State) (p x : Nat) (f : Cwy → Cwy) : (s.updRtr p f).ms x = s.ms x := rfl
@[simp] theorem State.port_setRtr (s : State) (p x : Nat) (k : Cwy) : (s.setRtr p k).port x = s.port x := rfl
@[simp] theorem State.port_updRtr (s : State) (p x : Nat) (f : Cwy → Cwy) : (s.updRtr p f).port x = s.port x := rfl
@[simp] theorem State.pt_setPt (s : State) (p : Nat) (t : Stream) : (s.setPt p t).pt p = t := by simp [State.pt, State.setPt]
@[simp] theorem State.pt_setPt_ne (s : State) (p x : Nat) (t : Stream) (h : x ≠ p) : (s.setPt p t).pt x = s.pt x := by
  simp [State.pt, State.setPt, h]
@[simp] theorem State.updTim_tim (s : State) (f : Tim → Tim) : (s.updTim f).tim = f s.tim := rfl
@[simp] theorem State.updTim_pending (s : State) (f : Tim → Tim) : (s.updTim f).pending = s.pending := rfl
@[simp] theorem State.updTim_freeCtr (s : State) (f : Tim → Tim) : (s.updTim f).freeCtr = s.freeCtr := rfl
@[simp] theorem State.updTim_mem (s : State) (f : Tim → Tim) : (s.updTim f).mem = s.mem := rfl
@[simp] theorem State.updTim_xfer (s : State) (f : Tim → Tim) : (s.updTim f).xfer = s.xfer := rfl
@[simp] theorem State.updTim_upsets (s : State) (f : Tim → Tim) : (s.updTim f).upsets = s.upsets := rfl
@[simp] theorem State.updTim_landing (s : State) (f : Tim → Tim) : (s.updTim f).landing = s.landing := rfl
@[simp] theorem State.updTim_mesh (s : State) (f : Tim → Tim) : (s.updTim f).mesh = s.mesh := rfl
@[simp] theorem State.updTim_eth (s : State) (f : Tim → Tim) : (s.updTim f).eth = s.eth := rfl
@[simp] theorem State.updTim_tik (s : State) (f : Tim → Tim) : (s.updTim f).tik = s.tik := rfl
@[simp] theorem State.updTim_spans (s : State) (f : Tim → Tim) : (s.updTim f).spans = s.spans := rfl
@[simp] theorem State.updTim_clusters (s : State) (f : Tim → Tim) : (s.updTim f).clusters = s.clusters := rfl
@[simp] theorem State.updTim_digs (s : State) (f : Tim → Tim) : (s.updTim f).digs = s.digs := rfl
@[simp] theorem State.updTim_rows (s : State) (f : Tim → Tim) : (s.updTim f).rows = s.rows := rfl
@[simp] theorem State.updTim_padsSet (s : State) (f : Tim → Tim) : (s.updTim f).padsSet = s.padsSet := rfl
@[simp] theorem State.updTim_msq (s : State) (f : Tim → Tim) : (s.updTim f).msq = s.msq := rfl
@[simp] theorem State.updTim_cxl (s : State) (f : Tim → Tim) : (s.updTim f).cxl = s.cxl := rfl
@[simp] theorem State.updTim_pts (s : State) (f : Tim → Tim) : (s.updTim f).pts = s.pts := rfl
@[simp] theorem State.updTim_olf (s : State) (f : Tim → Tim) : (s.updTim f).olf = s.olf := rfl
@[simp] theorem State.updTim_cwy (s : State) (f : Tim → Tim) : (s.updTim f).cwy = s.cwy := rfl
@[simp] theorem State.updTim_svc (s : State) (f : Tim → Tim) : (s.updTim f).svc = s.svc := rfl
@[simp] theorem State.updTim_plc (s : State) (f : Tim → Tim) : (s.updTim f).plc = s.plc := rfl
@[simp] theorem State.updTim_job (s : State) (f : Tim → Tim) : (s.updTim f).job = s.job := rfl
@[simp] theorem State.updTim_hst (s : State) (f : Tim → Tim) : (s.updTim f).hst = s.hst := rfl
@[simp] theorem State.updTim_ctl (s : State) (f : Tim → Tim) : (s.updTim f).ctl = s.ctl := rfl
@[simp] theorem State.updTim_flt (s : State) (f : Tim → Tim) : (s.updTim f).flt = s.flt := rfl
@[simp] theorem State.updTim_dmp (s : State) (f : Tim → Tim) : (s.updTim f).dmp = s.dmp := rfl
@[simp] theorem State.updTim_cfg (s : State) (f : Tim → Tim) : (s.updTim f).cfg = s.cfg := rfl
@[simp] theorem State.updTim_pwr (s : State) (f : Tim → Tim) : (s.updTim f).pwr = s.pwr := rfl
@[simp] theorem State.updTim_sec (s : State) (f : Tim → Tim) : (s.updTim f).sec = s.sec := rfl
@[simp] theorem State.updTim_rst (s : State) (f : Tim → Tim) : (s.updTim f).rst = s.rst := rfl
@[simp] theorem State.updTim_pins (s : State) (f : Tim → Tim) : (s.updTim f).pins = s.pins := rfl
@[simp] theorem State.updTim_ucie (s : State) (f : Tim → Tim) : (s.updTim f).ucie = s.ucie := rfl
@[simp] theorem State.updHst_hst (s : State) (f : Hst → Hst) : (s.updHst f).hst = f s.hst := rfl
@[simp] theorem State.updHst_pending (s : State) (f : Hst → Hst) : (s.updHst f).pending = s.pending := rfl
@[simp] theorem State.updHst_freeCtr (s : State) (f : Hst → Hst) : (s.updHst f).freeCtr = s.freeCtr := rfl
@[simp] theorem State.updHst_mem (s : State) (f : Hst → Hst) : (s.updHst f).mem = s.mem := rfl
@[simp] theorem State.updHst_xfer (s : State) (f : Hst → Hst) : (s.updHst f).xfer = s.xfer := rfl
@[simp] theorem State.updHst_upsets (s : State) (f : Hst → Hst) : (s.updHst f).upsets = s.upsets := rfl
@[simp] theorem State.updHst_landing (s : State) (f : Hst → Hst) : (s.updHst f).landing = s.landing := rfl
@[simp] theorem State.updHst_mesh (s : State) (f : Hst → Hst) : (s.updHst f).mesh = s.mesh := rfl
@[simp] theorem State.updHst_tim (s : State) (f : Hst → Hst) : (s.updHst f).tim = s.tim := rfl
@[simp] theorem State.updHst_eth (s : State) (f : Hst → Hst) : (s.updHst f).eth = s.eth := rfl
@[simp] theorem State.updHst_tik (s : State) (f : Hst → Hst) : (s.updHst f).tik = s.tik := rfl
@[simp] theorem State.updHst_spans (s : State) (f : Hst → Hst) : (s.updHst f).spans = s.spans := rfl
@[simp] theorem State.updHst_clusters (s : State) (f : Hst → Hst) : (s.updHst f).clusters = s.clusters := rfl
@[simp] theorem State.updHst_digs (s : State) (f : Hst → Hst) : (s.updHst f).digs = s.digs := rfl
@[simp] theorem State.updHst_rows (s : State) (f : Hst → Hst) : (s.updHst f).rows = s.rows := rfl
@[simp] theorem State.updHst_padsSet (s : State) (f : Hst → Hst) : (s.updHst f).padsSet = s.padsSet := rfl
@[simp] theorem State.updHst_msq (s : State) (f : Hst → Hst) : (s.updHst f).msq = s.msq := rfl
@[simp] theorem State.updHst_cxl (s : State) (f : Hst → Hst) : (s.updHst f).cxl = s.cxl := rfl
@[simp] theorem State.updHst_pts (s : State) (f : Hst → Hst) : (s.updHst f).pts = s.pts := rfl
@[simp] theorem State.updHst_olf (s : State) (f : Hst → Hst) : (s.updHst f).olf = s.olf := rfl
@[simp] theorem State.updHst_cwy (s : State) (f : Hst → Hst) : (s.updHst f).cwy = s.cwy := rfl
@[simp] theorem State.updHst_svc (s : State) (f : Hst → Hst) : (s.updHst f).svc = s.svc := rfl
@[simp] theorem State.updHst_plc (s : State) (f : Hst → Hst) : (s.updHst f).plc = s.plc := rfl
@[simp] theorem State.updHst_job (s : State) (f : Hst → Hst) : (s.updHst f).job = s.job := rfl
@[simp] theorem State.updHst_ctl (s : State) (f : Hst → Hst) : (s.updHst f).ctl = s.ctl := rfl
@[simp] theorem State.updHst_flt (s : State) (f : Hst → Hst) : (s.updHst f).flt = s.flt := rfl
@[simp] theorem State.updHst_dmp (s : State) (f : Hst → Hst) : (s.updHst f).dmp = s.dmp := rfl
@[simp] theorem State.updHst_cfg (s : State) (f : Hst → Hst) : (s.updHst f).cfg = s.cfg := rfl
@[simp] theorem State.updHst_pwr (s : State) (f : Hst → Hst) : (s.updHst f).pwr = s.pwr := rfl
@[simp] theorem State.updHst_sec (s : State) (f : Hst → Hst) : (s.updHst f).sec = s.sec := rfl
@[simp] theorem State.updHst_rst (s : State) (f : Hst → Hst) : (s.updHst f).rst = s.rst := rfl
@[simp] theorem State.updHst_pins (s : State) (f : Hst → Hst) : (s.updHst f).pins = s.pins := rfl
@[simp] theorem State.updHst_ucie (s : State) (f : Hst → Hst) : (s.updHst f).ucie = s.ucie := rfl
@[simp] theorem State.updFlt_flt (s : State) (f : Flt → Flt) : (s.updFlt f).flt = f s.flt := rfl
@[simp] theorem State.updFlt_pending (s : State) (f : Flt → Flt) : (s.updFlt f).pending = s.pending := rfl
@[simp] theorem State.updFlt_freeCtr (s : State) (f : Flt → Flt) : (s.updFlt f).freeCtr = s.freeCtr := rfl
@[simp] theorem State.updFlt_mem (s : State) (f : Flt → Flt) : (s.updFlt f).mem = s.mem := rfl
@[simp] theorem State.updFlt_xfer (s : State) (f : Flt → Flt) : (s.updFlt f).xfer = s.xfer := rfl
@[simp] theorem State.updFlt_upsets (s : State) (f : Flt → Flt) : (s.updFlt f).upsets = s.upsets := rfl
@[simp] theorem State.updFlt_landing (s : State) (f : Flt → Flt) : (s.updFlt f).landing = s.landing := rfl
@[simp] theorem State.updFlt_mesh (s : State) (f : Flt → Flt) : (s.updFlt f).mesh = s.mesh := rfl
@[simp] theorem State.updFlt_tim (s : State) (f : Flt → Flt) : (s.updFlt f).tim = s.tim := rfl
@[simp] theorem State.updFlt_eth (s : State) (f : Flt → Flt) : (s.updFlt f).eth = s.eth := rfl
@[simp] theorem State.updFlt_tik (s : State) (f : Flt → Flt) : (s.updFlt f).tik = s.tik := rfl
@[simp] theorem State.updFlt_spans (s : State) (f : Flt → Flt) : (s.updFlt f).spans = s.spans := rfl
@[simp] theorem State.updFlt_clusters (s : State) (f : Flt → Flt) : (s.updFlt f).clusters = s.clusters := rfl
@[simp] theorem State.updFlt_digs (s : State) (f : Flt → Flt) : (s.updFlt f).digs = s.digs := rfl
@[simp] theorem State.updFlt_rows (s : State) (f : Flt → Flt) : (s.updFlt f).rows = s.rows := rfl
@[simp] theorem State.updFlt_padsSet (s : State) (f : Flt → Flt) : (s.updFlt f).padsSet = s.padsSet := rfl
@[simp] theorem State.updFlt_msq (s : State) (f : Flt → Flt) : (s.updFlt f).msq = s.msq := rfl
@[simp] theorem State.updFlt_cxl (s : State) (f : Flt → Flt) : (s.updFlt f).cxl = s.cxl := rfl
@[simp] theorem State.updFlt_pts (s : State) (f : Flt → Flt) : (s.updFlt f).pts = s.pts := rfl
@[simp] theorem State.updFlt_olf (s : State) (f : Flt → Flt) : (s.updFlt f).olf = s.olf := rfl
@[simp] theorem State.updFlt_cwy (s : State) (f : Flt → Flt) : (s.updFlt f).cwy = s.cwy := rfl
@[simp] theorem State.updFlt_svc (s : State) (f : Flt → Flt) : (s.updFlt f).svc = s.svc := rfl
@[simp] theorem State.updFlt_plc (s : State) (f : Flt → Flt) : (s.updFlt f).plc = s.plc := rfl
@[simp] theorem State.updFlt_job (s : State) (f : Flt → Flt) : (s.updFlt f).job = s.job := rfl
@[simp] theorem State.updFlt_hst (s : State) (f : Flt → Flt) : (s.updFlt f).hst = s.hst := rfl
@[simp] theorem State.updFlt_ctl (s : State) (f : Flt → Flt) : (s.updFlt f).ctl = s.ctl := rfl
@[simp] theorem State.updFlt_dmp (s : State) (f : Flt → Flt) : (s.updFlt f).dmp = s.dmp := rfl
@[simp] theorem State.updFlt_cfg (s : State) (f : Flt → Flt) : (s.updFlt f).cfg = s.cfg := rfl
@[simp] theorem State.updFlt_pwr (s : State) (f : Flt → Flt) : (s.updFlt f).pwr = s.pwr := rfl
@[simp] theorem State.updFlt_sec (s : State) (f : Flt → Flt) : (s.updFlt f).sec = s.sec := rfl
@[simp] theorem State.updFlt_rst (s : State) (f : Flt → Flt) : (s.updFlt f).rst = s.rst := rfl
@[simp] theorem State.updFlt_pins (s : State) (f : Flt → Flt) : (s.updFlt f).pins = s.pins := rfl
@[simp] theorem State.updFlt_ucie (s : State) (f : Flt → Flt) : (s.updFlt f).ucie = s.ucie := rfl
@[simp] theorem State.updPlc_plc (s : State) (f : Plc → Plc) : (s.updPlc f).plc = f s.plc := rfl
@[simp] theorem State.updPlc_pending (s : State) (f : Plc → Plc) : (s.updPlc f).pending = s.pending := rfl
@[simp] theorem State.updPlc_freeCtr (s : State) (f : Plc → Plc) : (s.updPlc f).freeCtr = s.freeCtr := rfl
@[simp] theorem State.updPlc_mem (s : State) (f : Plc → Plc) : (s.updPlc f).mem = s.mem := rfl
@[simp] theorem State.updPlc_xfer (s : State) (f : Plc → Plc) : (s.updPlc f).xfer = s.xfer := rfl
@[simp] theorem State.updPlc_upsets (s : State) (f : Plc → Plc) : (s.updPlc f).upsets = s.upsets := rfl
@[simp] theorem State.updPlc_landing (s : State) (f : Plc → Plc) : (s.updPlc f).landing = s.landing := rfl
@[simp] theorem State.updPlc_mesh (s : State) (f : Plc → Plc) : (s.updPlc f).mesh = s.mesh := rfl
@[simp] theorem State.updPlc_tim (s : State) (f : Plc → Plc) : (s.updPlc f).tim = s.tim := rfl
@[simp] theorem State.updPlc_eth (s : State) (f : Plc → Plc) : (s.updPlc f).eth = s.eth := rfl
@[simp] theorem State.updPlc_tik (s : State) (f : Plc → Plc) : (s.updPlc f).tik = s.tik := rfl
@[simp] theorem State.updPlc_spans (s : State) (f : Plc → Plc) : (s.updPlc f).spans = s.spans := rfl
@[simp] theorem State.updPlc_clusters (s : State) (f : Plc → Plc) : (s.updPlc f).clusters = s.clusters := rfl
@[simp] theorem State.updPlc_digs (s : State) (f : Plc → Plc) : (s.updPlc f).digs = s.digs := rfl
@[simp] theorem State.updPlc_rows (s : State) (f : Plc → Plc) : (s.updPlc f).rows = s.rows := rfl
@[simp] theorem State.updPlc_padsSet (s : State) (f : Plc → Plc) : (s.updPlc f).padsSet = s.padsSet := rfl
@[simp] theorem State.updPlc_msq (s : State) (f : Plc → Plc) : (s.updPlc f).msq = s.msq := rfl
@[simp] theorem State.updPlc_cxl (s : State) (f : Plc → Plc) : (s.updPlc f).cxl = s.cxl := rfl
@[simp] theorem State.updPlc_pts (s : State) (f : Plc → Plc) : (s.updPlc f).pts = s.pts := rfl
@[simp] theorem State.updPlc_olf (s : State) (f : Plc → Plc) : (s.updPlc f).olf = s.olf := rfl
@[simp] theorem State.updPlc_cwy (s : State) (f : Plc → Plc) : (s.updPlc f).cwy = s.cwy := rfl
@[simp] theorem State.updPlc_svc (s : State) (f : Plc → Plc) : (s.updPlc f).svc = s.svc := rfl
@[simp] theorem State.updPlc_job (s : State) (f : Plc → Plc) : (s.updPlc f).job = s.job := rfl
@[simp] theorem State.updPlc_hst (s : State) (f : Plc → Plc) : (s.updPlc f).hst = s.hst := rfl
@[simp] theorem State.updPlc_ctl (s : State) (f : Plc → Plc) : (s.updPlc f).ctl = s.ctl := rfl
@[simp] theorem State.updPlc_flt (s : State) (f : Plc → Plc) : (s.updPlc f).flt = s.flt := rfl
@[simp] theorem State.updPlc_dmp (s : State) (f : Plc → Plc) : (s.updPlc f).dmp = s.dmp := rfl
@[simp] theorem State.updPlc_cfg (s : State) (f : Plc → Plc) : (s.updPlc f).cfg = s.cfg := rfl
@[simp] theorem State.updPlc_pwr (s : State) (f : Plc → Plc) : (s.updPlc f).pwr = s.pwr := rfl
@[simp] theorem State.updPlc_sec (s : State) (f : Plc → Plc) : (s.updPlc f).sec = s.sec := rfl
@[simp] theorem State.updPlc_rst (s : State) (f : Plc → Plc) : (s.updPlc f).rst = s.rst := rfl
@[simp] theorem State.updPlc_pins (s : State) (f : Plc → Plc) : (s.updPlc f).pins = s.pins := rfl
@[simp] theorem State.updPlc_ucie (s : State) (f : Plc → Plc) : (s.updPlc f).ucie = s.ucie := rfl
@[simp] theorem State.updSvc_svc (s : State) (f : Svc → Svc) : (s.updSvc f).svc = f s.svc := rfl
@[simp] theorem State.updSvc_pending (s : State) (f : Svc → Svc) : (s.updSvc f).pending = s.pending := rfl
@[simp] theorem State.updSvc_freeCtr (s : State) (f : Svc → Svc) : (s.updSvc f).freeCtr = s.freeCtr := rfl
@[simp] theorem State.updSvc_mem (s : State) (f : Svc → Svc) : (s.updSvc f).mem = s.mem := rfl
@[simp] theorem State.updSvc_xfer (s : State) (f : Svc → Svc) : (s.updSvc f).xfer = s.xfer := rfl
@[simp] theorem State.updSvc_upsets (s : State) (f : Svc → Svc) : (s.updSvc f).upsets = s.upsets := rfl
@[simp] theorem State.updSvc_landing (s : State) (f : Svc → Svc) : (s.updSvc f).landing = s.landing := rfl
@[simp] theorem State.updSvc_mesh (s : State) (f : Svc → Svc) : (s.updSvc f).mesh = s.mesh := rfl
@[simp] theorem State.updSvc_tim (s : State) (f : Svc → Svc) : (s.updSvc f).tim = s.tim := rfl
@[simp] theorem State.updSvc_eth (s : State) (f : Svc → Svc) : (s.updSvc f).eth = s.eth := rfl
@[simp] theorem State.updSvc_tik (s : State) (f : Svc → Svc) : (s.updSvc f).tik = s.tik := rfl
@[simp] theorem State.updSvc_spans (s : State) (f : Svc → Svc) : (s.updSvc f).spans = s.spans := rfl
@[simp] theorem State.updSvc_clusters (s : State) (f : Svc → Svc) : (s.updSvc f).clusters = s.clusters := rfl
@[simp] theorem State.updSvc_digs (s : State) (f : Svc → Svc) : (s.updSvc f).digs = s.digs := rfl
@[simp] theorem State.updSvc_rows (s : State) (f : Svc → Svc) : (s.updSvc f).rows = s.rows := rfl
@[simp] theorem State.updSvc_padsSet (s : State) (f : Svc → Svc) : (s.updSvc f).padsSet = s.padsSet := rfl
@[simp] theorem State.updSvc_msq (s : State) (f : Svc → Svc) : (s.updSvc f).msq = s.msq := rfl
@[simp] theorem State.updSvc_cxl (s : State) (f : Svc → Svc) : (s.updSvc f).cxl = s.cxl := rfl
@[simp] theorem State.updSvc_pts (s : State) (f : Svc → Svc) : (s.updSvc f).pts = s.pts := rfl
@[simp] theorem State.updSvc_olf (s : State) (f : Svc → Svc) : (s.updSvc f).olf = s.olf := rfl
@[simp] theorem State.updSvc_cwy (s : State) (f : Svc → Svc) : (s.updSvc f).cwy = s.cwy := rfl
@[simp] theorem State.updSvc_plc (s : State) (f : Svc → Svc) : (s.updSvc f).plc = s.plc := rfl
@[simp] theorem State.updSvc_job (s : State) (f : Svc → Svc) : (s.updSvc f).job = s.job := rfl
@[simp] theorem State.updSvc_hst (s : State) (f : Svc → Svc) : (s.updSvc f).hst = s.hst := rfl
@[simp] theorem State.updSvc_ctl (s : State) (f : Svc → Svc) : (s.updSvc f).ctl = s.ctl := rfl
@[simp] theorem State.updSvc_flt (s : State) (f : Svc → Svc) : (s.updSvc f).flt = s.flt := rfl
@[simp] theorem State.updSvc_dmp (s : State) (f : Svc → Svc) : (s.updSvc f).dmp = s.dmp := rfl
@[simp] theorem State.updSvc_cfg (s : State) (f : Svc → Svc) : (s.updSvc f).cfg = s.cfg := rfl
@[simp] theorem State.updSvc_pwr (s : State) (f : Svc → Svc) : (s.updSvc f).pwr = s.pwr := rfl
@[simp] theorem State.updSvc_sec (s : State) (f : Svc → Svc) : (s.updSvc f).sec = s.sec := rfl
@[simp] theorem State.updSvc_rst (s : State) (f : Svc → Svc) : (s.updSvc f).rst = s.rst := rfl
@[simp] theorem State.updSvc_pins (s : State) (f : Svc → Svc) : (s.updSvc f).pins = s.pins := rfl
@[simp] theorem State.updSvc_ucie (s : State) (f : Svc → Svc) : (s.updSvc f).ucie = s.ucie := rfl
@[simp] theorem State.updCfg_cfg (s : State) (f : Cfg → Cfg) : (s.updCfg f).cfg = f s.cfg := rfl
@[simp] theorem State.updCfg_pending (s : State) (f : Cfg → Cfg) : (s.updCfg f).pending = s.pending := rfl
@[simp] theorem State.updCfg_freeCtr (s : State) (f : Cfg → Cfg) : (s.updCfg f).freeCtr = s.freeCtr := rfl
@[simp] theorem State.updCfg_mem (s : State) (f : Cfg → Cfg) : (s.updCfg f).mem = s.mem := rfl
@[simp] theorem State.updCfg_xfer (s : State) (f : Cfg → Cfg) : (s.updCfg f).xfer = s.xfer := rfl
@[simp] theorem State.updCfg_upsets (s : State) (f : Cfg → Cfg) : (s.updCfg f).upsets = s.upsets := rfl
@[simp] theorem State.updCfg_landing (s : State) (f : Cfg → Cfg) : (s.updCfg f).landing = s.landing := rfl
@[simp] theorem State.updCfg_mesh (s : State) (f : Cfg → Cfg) : (s.updCfg f).mesh = s.mesh := rfl
@[simp] theorem State.updCfg_tim (s : State) (f : Cfg → Cfg) : (s.updCfg f).tim = s.tim := rfl
@[simp] theorem State.updCfg_eth (s : State) (f : Cfg → Cfg) : (s.updCfg f).eth = s.eth := rfl
@[simp] theorem State.updCfg_tik (s : State) (f : Cfg → Cfg) : (s.updCfg f).tik = s.tik := rfl
@[simp] theorem State.updCfg_spans (s : State) (f : Cfg → Cfg) : (s.updCfg f).spans = s.spans := rfl
@[simp] theorem State.updCfg_clusters (s : State) (f : Cfg → Cfg) : (s.updCfg f).clusters = s.clusters := rfl
@[simp] theorem State.updCfg_digs (s : State) (f : Cfg → Cfg) : (s.updCfg f).digs = s.digs := rfl
@[simp] theorem State.updCfg_rows (s : State) (f : Cfg → Cfg) : (s.updCfg f).rows = s.rows := rfl
@[simp] theorem State.updCfg_padsSet (s : State) (f : Cfg → Cfg) : (s.updCfg f).padsSet = s.padsSet := rfl
@[simp] theorem State.updCfg_msq (s : State) (f : Cfg → Cfg) : (s.updCfg f).msq = s.msq := rfl
@[simp] theorem State.updCfg_cxl (s : State) (f : Cfg → Cfg) : (s.updCfg f).cxl = s.cxl := rfl
@[simp] theorem State.updCfg_pts (s : State) (f : Cfg → Cfg) : (s.updCfg f).pts = s.pts := rfl
@[simp] theorem State.updCfg_olf (s : State) (f : Cfg → Cfg) : (s.updCfg f).olf = s.olf := rfl
@[simp] theorem State.updCfg_cwy (s : State) (f : Cfg → Cfg) : (s.updCfg f).cwy = s.cwy := rfl
@[simp] theorem State.updCfg_svc (s : State) (f : Cfg → Cfg) : (s.updCfg f).svc = s.svc := rfl
@[simp] theorem State.updCfg_plc (s : State) (f : Cfg → Cfg) : (s.updCfg f).plc = s.plc := rfl
@[simp] theorem State.updCfg_job (s : State) (f : Cfg → Cfg) : (s.updCfg f).job = s.job := rfl
@[simp] theorem State.updCfg_hst (s : State) (f : Cfg → Cfg) : (s.updCfg f).hst = s.hst := rfl
@[simp] theorem State.updCfg_ctl (s : State) (f : Cfg → Cfg) : (s.updCfg f).ctl = s.ctl := rfl
@[simp] theorem State.updCfg_flt (s : State) (f : Cfg → Cfg) : (s.updCfg f).flt = s.flt := rfl
@[simp] theorem State.updCfg_dmp (s : State) (f : Cfg → Cfg) : (s.updCfg f).dmp = s.dmp := rfl
@[simp] theorem State.updCfg_pwr (s : State) (f : Cfg → Cfg) : (s.updCfg f).pwr = s.pwr := rfl
@[simp] theorem State.updCfg_sec (s : State) (f : Cfg → Cfg) : (s.updCfg f).sec = s.sec := rfl
@[simp] theorem State.updCfg_rst (s : State) (f : Cfg → Cfg) : (s.updCfg f).rst = s.rst := rfl
@[simp] theorem State.updCfg_pins (s : State) (f : Cfg → Cfg) : (s.updCfg f).pins = s.pins := rfl
@[simp] theorem State.updCfg_ucie (s : State) (f : Cfg → Cfg) : (s.updCfg f).ucie = s.ucie := rfl
@[simp] theorem State.updPwr_pwr (s : State) (f : Pwr → Pwr) : (s.updPwr f).pwr = f s.pwr := rfl
@[simp] theorem State.updPwr_pending (s : State) (f : Pwr → Pwr) : (s.updPwr f).pending = s.pending := rfl
@[simp] theorem State.updPwr_freeCtr (s : State) (f : Pwr → Pwr) : (s.updPwr f).freeCtr = s.freeCtr := rfl
@[simp] theorem State.updPwr_mem (s : State) (f : Pwr → Pwr) : (s.updPwr f).mem = s.mem := rfl
@[simp] theorem State.updPwr_xfer (s : State) (f : Pwr → Pwr) : (s.updPwr f).xfer = s.xfer := rfl
@[simp] theorem State.updPwr_upsets (s : State) (f : Pwr → Pwr) : (s.updPwr f).upsets = s.upsets := rfl
@[simp] theorem State.updPwr_landing (s : State) (f : Pwr → Pwr) : (s.updPwr f).landing = s.landing := rfl
@[simp] theorem State.updPwr_mesh (s : State) (f : Pwr → Pwr) : (s.updPwr f).mesh = s.mesh := rfl
@[simp] theorem State.updPwr_tim (s : State) (f : Pwr → Pwr) : (s.updPwr f).tim = s.tim := rfl
@[simp] theorem State.updPwr_eth (s : State) (f : Pwr → Pwr) : (s.updPwr f).eth = s.eth := rfl
@[simp] theorem State.updPwr_tik (s : State) (f : Pwr → Pwr) : (s.updPwr f).tik = s.tik := rfl
@[simp] theorem State.updPwr_spans (s : State) (f : Pwr → Pwr) : (s.updPwr f).spans = s.spans := rfl
@[simp] theorem State.updPwr_clusters (s : State) (f : Pwr → Pwr) : (s.updPwr f).clusters = s.clusters := rfl
@[simp] theorem State.updPwr_digs (s : State) (f : Pwr → Pwr) : (s.updPwr f).digs = s.digs := rfl
@[simp] theorem State.updPwr_rows (s : State) (f : Pwr → Pwr) : (s.updPwr f).rows = s.rows := rfl
@[simp] theorem State.updPwr_padsSet (s : State) (f : Pwr → Pwr) : (s.updPwr f).padsSet = s.padsSet := rfl
@[simp] theorem State.updPwr_msq (s : State) (f : Pwr → Pwr) : (s.updPwr f).msq = s.msq := rfl
@[simp] theorem State.updPwr_cxl (s : State) (f : Pwr → Pwr) : (s.updPwr f).cxl = s.cxl := rfl
@[simp] theorem State.updPwr_pts (s : State) (f : Pwr → Pwr) : (s.updPwr f).pts = s.pts := rfl
@[simp] theorem State.updPwr_olf (s : State) (f : Pwr → Pwr) : (s.updPwr f).olf = s.olf := rfl
@[simp] theorem State.updPwr_cwy (s : State) (f : Pwr → Pwr) : (s.updPwr f).cwy = s.cwy := rfl
@[simp] theorem State.updPwr_svc (s : State) (f : Pwr → Pwr) : (s.updPwr f).svc = s.svc := rfl
@[simp] theorem State.updPwr_plc (s : State) (f : Pwr → Pwr) : (s.updPwr f).plc = s.plc := rfl
@[simp] theorem State.updPwr_job (s : State) (f : Pwr → Pwr) : (s.updPwr f).job = s.job := rfl
@[simp] theorem State.updPwr_hst (s : State) (f : Pwr → Pwr) : (s.updPwr f).hst = s.hst := rfl
@[simp] theorem State.updPwr_ctl (s : State) (f : Pwr → Pwr) : (s.updPwr f).ctl = s.ctl := rfl
@[simp] theorem State.updPwr_flt (s : State) (f : Pwr → Pwr) : (s.updPwr f).flt = s.flt := rfl
@[simp] theorem State.updPwr_dmp (s : State) (f : Pwr → Pwr) : (s.updPwr f).dmp = s.dmp := rfl
@[simp] theorem State.updPwr_cfg (s : State) (f : Pwr → Pwr) : (s.updPwr f).cfg = s.cfg := rfl
@[simp] theorem State.updPwr_sec (s : State) (f : Pwr → Pwr) : (s.updPwr f).sec = s.sec := rfl
@[simp] theorem State.updPwr_rst (s : State) (f : Pwr → Pwr) : (s.updPwr f).rst = s.rst := rfl
@[simp] theorem State.updPwr_pins (s : State) (f : Pwr → Pwr) : (s.updPwr f).pins = s.pins := rfl
@[simp] theorem State.updPwr_ucie (s : State) (f : Pwr → Pwr) : (s.updPwr f).ucie = s.ucie := rfl
@[simp] theorem State.updJob_job (s : State) (f : Job → Job) : (s.updJob f).job = f s.job := rfl
@[simp] theorem State.updJob_pending (s : State) (f : Job → Job) : (s.updJob f).pending = s.pending := rfl
@[simp] theorem State.updJob_freeCtr (s : State) (f : Job → Job) : (s.updJob f).freeCtr = s.freeCtr := rfl
@[simp] theorem State.updJob_mem (s : State) (f : Job → Job) : (s.updJob f).mem = s.mem := rfl
@[simp] theorem State.updJob_xfer (s : State) (f : Job → Job) : (s.updJob f).xfer = s.xfer := rfl
@[simp] theorem State.updJob_upsets (s : State) (f : Job → Job) : (s.updJob f).upsets = s.upsets := rfl
@[simp] theorem State.updJob_landing (s : State) (f : Job → Job) : (s.updJob f).landing = s.landing := rfl
@[simp] theorem State.updJob_mesh (s : State) (f : Job → Job) : (s.updJob f).mesh = s.mesh := rfl
@[simp] theorem State.updJob_tim (s : State) (f : Job → Job) : (s.updJob f).tim = s.tim := rfl
@[simp] theorem State.updJob_eth (s : State) (f : Job → Job) : (s.updJob f).eth = s.eth := rfl
@[simp] theorem State.updJob_tik (s : State) (f : Job → Job) : (s.updJob f).tik = s.tik := rfl
@[simp] theorem State.updJob_spans (s : State) (f : Job → Job) : (s.updJob f).spans = s.spans := rfl
@[simp] theorem State.updJob_clusters (s : State) (f : Job → Job) : (s.updJob f).clusters = s.clusters := rfl
@[simp] theorem State.updJob_digs (s : State) (f : Job → Job) : (s.updJob f).digs = s.digs := rfl
@[simp] theorem State.updJob_rows (s : State) (f : Job → Job) : (s.updJob f).rows = s.rows := rfl
@[simp] theorem State.updJob_padsSet (s : State) (f : Job → Job) : (s.updJob f).padsSet = s.padsSet := rfl
@[simp] theorem State.updJob_msq (s : State) (f : Job → Job) : (s.updJob f).msq = s.msq := rfl
@[simp] theorem State.updJob_cxl (s : State) (f : Job → Job) : (s.updJob f).cxl = s.cxl := rfl
@[simp] theorem State.updJob_pts (s : State) (f : Job → Job) : (s.updJob f).pts = s.pts := rfl
@[simp] theorem State.updJob_olf (s : State) (f : Job → Job) : (s.updJob f).olf = s.olf := rfl
@[simp] theorem State.updJob_cwy (s : State) (f : Job → Job) : (s.updJob f).cwy = s.cwy := rfl
@[simp] theorem State.updJob_svc (s : State) (f : Job → Job) : (s.updJob f).svc = s.svc := rfl
@[simp] theorem State.updJob_plc (s : State) (f : Job → Job) : (s.updJob f).plc = s.plc := rfl
@[simp] theorem State.updJob_hst (s : State) (f : Job → Job) : (s.updJob f).hst = s.hst := rfl
@[simp] theorem State.updJob_ctl (s : State) (f : Job → Job) : (s.updJob f).ctl = s.ctl := rfl
@[simp] theorem State.updJob_flt (s : State) (f : Job → Job) : (s.updJob f).flt = s.flt := rfl
@[simp] theorem State.updJob_dmp (s : State) (f : Job → Job) : (s.updJob f).dmp = s.dmp := rfl
@[simp] theorem State.updJob_cfg (s : State) (f : Job → Job) : (s.updJob f).cfg = s.cfg := rfl
@[simp] theorem State.updJob_pwr (s : State) (f : Job → Job) : (s.updJob f).pwr = s.pwr := rfl
@[simp] theorem State.updJob_sec (s : State) (f : Job → Job) : (s.updJob f).sec = s.sec := rfl
@[simp] theorem State.updJob_rst (s : State) (f : Job → Job) : (s.updJob f).rst = s.rst := rfl
@[simp] theorem State.updJob_pins (s : State) (f : Job → Job) : (s.updJob f).pins = s.pins := rfl
@[simp] theorem State.updJob_ucie (s : State) (f : Job → Job) : (s.updJob f).ucie = s.ucie := rfl
@[simp] theorem State.updTik_tik (s : State) (f : Tik → Tik) : (s.updTik f).tik = f s.tik := rfl
@[simp] theorem State.updTik_pending (s : State) (f : Tik → Tik) : (s.updTik f).pending = s.pending := rfl
@[simp] theorem State.updTik_freeCtr (s : State) (f : Tik → Tik) : (s.updTik f).freeCtr = s.freeCtr := rfl
@[simp] theorem State.updTik_mem (s : State) (f : Tik → Tik) : (s.updTik f).mem = s.mem := rfl
@[simp] theorem State.updTik_xfer (s : State) (f : Tik → Tik) : (s.updTik f).xfer = s.xfer := rfl
@[simp] theorem State.updTik_upsets (s : State) (f : Tik → Tik) : (s.updTik f).upsets = s.upsets := rfl
@[simp] theorem State.updTik_landing (s : State) (f : Tik → Tik) : (s.updTik f).landing = s.landing := rfl
@[simp] theorem State.updTik_mesh (s : State) (f : Tik → Tik) : (s.updTik f).mesh = s.mesh := rfl
@[simp] theorem State.updTik_tim (s : State) (f : Tik → Tik) : (s.updTik f).tim = s.tim := rfl
@[simp] theorem State.updTik_eth (s : State) (f : Tik → Tik) : (s.updTik f).eth = s.eth := rfl
@[simp] theorem State.updTik_spans (s : State) (f : Tik → Tik) : (s.updTik f).spans = s.spans := rfl
@[simp] theorem State.updTik_clusters (s : State) (f : Tik → Tik) : (s.updTik f).clusters = s.clusters := rfl
@[simp] theorem State.updTik_digs (s : State) (f : Tik → Tik) : (s.updTik f).digs = s.digs := rfl
@[simp] theorem State.updTik_rows (s : State) (f : Tik → Tik) : (s.updTik f).rows = s.rows := rfl
@[simp] theorem State.updTik_padsSet (s : State) (f : Tik → Tik) : (s.updTik f).padsSet = s.padsSet := rfl
@[simp] theorem State.updTik_msq (s : State) (f : Tik → Tik) : (s.updTik f).msq = s.msq := rfl
@[simp] theorem State.updTik_cxl (s : State) (f : Tik → Tik) : (s.updTik f).cxl = s.cxl := rfl
@[simp] theorem State.updTik_pts (s : State) (f : Tik → Tik) : (s.updTik f).pts = s.pts := rfl
@[simp] theorem State.updTik_olf (s : State) (f : Tik → Tik) : (s.updTik f).olf = s.olf := rfl
@[simp] theorem State.updTik_cwy (s : State) (f : Tik → Tik) : (s.updTik f).cwy = s.cwy := rfl
@[simp] theorem State.updTik_svc (s : State) (f : Tik → Tik) : (s.updTik f).svc = s.svc := rfl
@[simp] theorem State.updTik_plc (s : State) (f : Tik → Tik) : (s.updTik f).plc = s.plc := rfl
@[simp] theorem State.updTik_job (s : State) (f : Tik → Tik) : (s.updTik f).job = s.job := rfl
@[simp] theorem State.updTik_hst (s : State) (f : Tik → Tik) : (s.updTik f).hst = s.hst := rfl
@[simp] theorem State.updTik_ctl (s : State) (f : Tik → Tik) : (s.updTik f).ctl = s.ctl := rfl
@[simp] theorem State.updTik_flt (s : State) (f : Tik → Tik) : (s.updTik f).flt = s.flt := rfl
@[simp] theorem State.updTik_dmp (s : State) (f : Tik → Tik) : (s.updTik f).dmp = s.dmp := rfl
@[simp] theorem State.updTik_cfg (s : State) (f : Tik → Tik) : (s.updTik f).cfg = s.cfg := rfl
@[simp] theorem State.updTik_pwr (s : State) (f : Tik → Tik) : (s.updTik f).pwr = s.pwr := rfl
@[simp] theorem State.updTik_sec (s : State) (f : Tik → Tik) : (s.updTik f).sec = s.sec := rfl
@[simp] theorem State.updTik_rst (s : State) (f : Tik → Tik) : (s.updTik f).rst = s.rst := rfl
@[simp] theorem State.updTik_pins (s : State) (f : Tik → Tik) : (s.updTik f).pins = s.pins := rfl
@[simp] theorem State.updTik_ucie (s : State) (f : Tik → Tik) : (s.updTik f).ucie = s.ucie := rfl
@[simp] theorem State.updCxl_cxl (s : State) (f : Cxl → Cxl) : (s.updCxl f).cxl = f s.cxl := rfl
@[simp] theorem State.updCxl_pending (s : State) (f : Cxl → Cxl) : (s.updCxl f).pending = s.pending := rfl
@[simp] theorem State.updCxl_freeCtr (s : State) (f : Cxl → Cxl) : (s.updCxl f).freeCtr = s.freeCtr := rfl
@[simp] theorem State.updCxl_mem (s : State) (f : Cxl → Cxl) : (s.updCxl f).mem = s.mem := rfl
@[simp] theorem State.updCxl_xfer (s : State) (f : Cxl → Cxl) : (s.updCxl f).xfer = s.xfer := rfl
@[simp] theorem State.updCxl_upsets (s : State) (f : Cxl → Cxl) : (s.updCxl f).upsets = s.upsets := rfl
@[simp] theorem State.updCxl_landing (s : State) (f : Cxl → Cxl) : (s.updCxl f).landing = s.landing := rfl
@[simp] theorem State.updCxl_mesh (s : State) (f : Cxl → Cxl) : (s.updCxl f).mesh = s.mesh := rfl
@[simp] theorem State.updCxl_tim (s : State) (f : Cxl → Cxl) : (s.updCxl f).tim = s.tim := rfl
@[simp] theorem State.updCxl_eth (s : State) (f : Cxl → Cxl) : (s.updCxl f).eth = s.eth := rfl
@[simp] theorem State.updCxl_tik (s : State) (f : Cxl → Cxl) : (s.updCxl f).tik = s.tik := rfl
@[simp] theorem State.updCxl_spans (s : State) (f : Cxl → Cxl) : (s.updCxl f).spans = s.spans := rfl
@[simp] theorem State.updCxl_clusters (s : State) (f : Cxl → Cxl) : (s.updCxl f).clusters = s.clusters := rfl
@[simp] theorem State.updCxl_digs (s : State) (f : Cxl → Cxl) : (s.updCxl f).digs = s.digs := rfl
@[simp] theorem State.updCxl_rows (s : State) (f : Cxl → Cxl) : (s.updCxl f).rows = s.rows := rfl
@[simp] theorem State.updCxl_padsSet (s : State) (f : Cxl → Cxl) : (s.updCxl f).padsSet = s.padsSet := rfl
@[simp] theorem State.updCxl_msq (s : State) (f : Cxl → Cxl) : (s.updCxl f).msq = s.msq := rfl
@[simp] theorem State.updCxl_pts (s : State) (f : Cxl → Cxl) : (s.updCxl f).pts = s.pts := rfl
@[simp] theorem State.updCxl_olf (s : State) (f : Cxl → Cxl) : (s.updCxl f).olf = s.olf := rfl
@[simp] theorem State.updCxl_cwy (s : State) (f : Cxl → Cxl) : (s.updCxl f).cwy = s.cwy := rfl
@[simp] theorem State.updCxl_svc (s : State) (f : Cxl → Cxl) : (s.updCxl f).svc = s.svc := rfl
@[simp] theorem State.updCxl_plc (s : State) (f : Cxl → Cxl) : (s.updCxl f).plc = s.plc := rfl
@[simp] theorem State.updCxl_job (s : State) (f : Cxl → Cxl) : (s.updCxl f).job = s.job := rfl
@[simp] theorem State.updCxl_hst (s : State) (f : Cxl → Cxl) : (s.updCxl f).hst = s.hst := rfl
@[simp] theorem State.updCxl_ctl (s : State) (f : Cxl → Cxl) : (s.updCxl f).ctl = s.ctl := rfl
@[simp] theorem State.updCxl_flt (s : State) (f : Cxl → Cxl) : (s.updCxl f).flt = s.flt := rfl
@[simp] theorem State.updCxl_dmp (s : State) (f : Cxl → Cxl) : (s.updCxl f).dmp = s.dmp := rfl
@[simp] theorem State.updCxl_cfg (s : State) (f : Cxl → Cxl) : (s.updCxl f).cfg = s.cfg := rfl
@[simp] theorem State.updCxl_pwr (s : State) (f : Cxl → Cxl) : (s.updCxl f).pwr = s.pwr := rfl
@[simp] theorem State.updCxl_sec (s : State) (f : Cxl → Cxl) : (s.updCxl f).sec = s.sec := rfl
@[simp] theorem State.updCxl_rst (s : State) (f : Cxl → Cxl) : (s.updCxl f).rst = s.rst := rfl
@[simp] theorem State.updCxl_pins (s : State) (f : Cxl → Cxl) : (s.updCxl f).pins = s.pins := rfl
@[simp] theorem State.updCxl_ucie (s : State) (f : Cxl → Cxl) : (s.updCxl f).ucie = s.ucie := rfl
@[simp] theorem State.raiseFull_pending (s : State) (r : Raised) : (s.raiseFull r).pending = s.pending := rfl
@[simp] theorem State.raise_pending (s : State) (c : BitVec 16) (src ag : Nat) (d : Reg) (a : Option Nat) (x : Nat) : (s.raise c src ag d a x).pending = s.pending := rfl
@[simp] theorem State.raiseFull_freeCtr (s : State) (r : Raised) : (s.raiseFull r).freeCtr = s.freeCtr := rfl
@[simp] theorem State.raise_freeCtr (s : State) (c : BitVec 16) (src ag : Nat) (d : Reg) (a : Option Nat) (x : Nat) : (s.raise c src ag d a x).freeCtr = s.freeCtr := rfl
@[simp] theorem State.raiseFull_mem (s : State) (r : Raised) : (s.raiseFull r).mem = s.mem := rfl
@[simp] theorem State.raise_mem (s : State) (c : BitVec 16) (src ag : Nat) (d : Reg) (a : Option Nat) (x : Nat) : (s.raise c src ag d a x).mem = s.mem := rfl
@[simp] theorem State.raiseFull_xfer (s : State) (r : Raised) : (s.raiseFull r).xfer = s.xfer := rfl
@[simp] theorem State.raise_xfer (s : State) (c : BitVec 16) (src ag : Nat) (d : Reg) (a : Option Nat) (x : Nat) : (s.raise c src ag d a x).xfer = s.xfer := rfl
@[simp] theorem State.raiseFull_upsets (s : State) (r : Raised) : (s.raiseFull r).upsets = s.upsets := rfl
@[simp] theorem State.raise_upsets (s : State) (c : BitVec 16) (src ag : Nat) (d : Reg) (a : Option Nat) (x : Nat) : (s.raise c src ag d a x).upsets = s.upsets := rfl
@[simp] theorem State.raiseFull_landing (s : State) (r : Raised) : (s.raiseFull r).landing = s.landing := rfl
@[simp] theorem State.raise_landing (s : State) (c : BitVec 16) (src ag : Nat) (d : Reg) (a : Option Nat) (x : Nat) : (s.raise c src ag d a x).landing = s.landing := rfl
@[simp] theorem State.raiseFull_mesh (s : State) (r : Raised) : (s.raiseFull r).mesh = s.mesh := rfl
@[simp] theorem State.raise_mesh (s : State) (c : BitVec 16) (src ag : Nat) (d : Reg) (a : Option Nat) (x : Nat) : (s.raise c src ag d a x).mesh = s.mesh := rfl
@[simp] theorem State.raiseFull_tim (s : State) (r : Raised) : (s.raiseFull r).tim = s.tim := rfl
@[simp] theorem State.raise_tim (s : State) (c : BitVec 16) (src ag : Nat) (d : Reg) (a : Option Nat) (x : Nat) : (s.raise c src ag d a x).tim = s.tim := rfl
@[simp] theorem State.raiseFull_eth (s : State) (r : Raised) : (s.raiseFull r).eth = s.eth := rfl
@[simp] theorem State.raise_eth (s : State) (c : BitVec 16) (src ag : Nat) (d : Reg) (a : Option Nat) (x : Nat) : (s.raise c src ag d a x).eth = s.eth := rfl
@[simp] theorem State.raiseFull_tik (s : State) (r : Raised) : (s.raiseFull r).tik = s.tik := rfl
@[simp] theorem State.raise_tik (s : State) (c : BitVec 16) (src ag : Nat) (d : Reg) (a : Option Nat) (x : Nat) : (s.raise c src ag d a x).tik = s.tik := rfl
@[simp] theorem State.raiseFull_spans (s : State) (r : Raised) : (s.raiseFull r).spans = s.spans := rfl
@[simp] theorem State.raise_spans (s : State) (c : BitVec 16) (src ag : Nat) (d : Reg) (a : Option Nat) (x : Nat) : (s.raise c src ag d a x).spans = s.spans := rfl
@[simp] theorem State.raiseFull_clusters (s : State) (r : Raised) : (s.raiseFull r).clusters = s.clusters := rfl
@[simp] theorem State.raise_clusters (s : State) (c : BitVec 16) (src ag : Nat) (d : Reg) (a : Option Nat) (x : Nat) : (s.raise c src ag d a x).clusters = s.clusters := rfl
@[simp] theorem State.raiseFull_digs (s : State) (r : Raised) : (s.raiseFull r).digs = s.digs := rfl
@[simp] theorem State.raise_digs (s : State) (c : BitVec 16) (src ag : Nat) (d : Reg) (a : Option Nat) (x : Nat) : (s.raise c src ag d a x).digs = s.digs := rfl
@[simp] theorem State.raiseFull_rows (s : State) (r : Raised) : (s.raiseFull r).rows = s.rows := rfl
@[simp] theorem State.raise_rows (s : State) (c : BitVec 16) (src ag : Nat) (d : Reg) (a : Option Nat) (x : Nat) : (s.raise c src ag d a x).rows = s.rows := rfl
@[simp] theorem State.raiseFull_padsSet (s : State) (r : Raised) : (s.raiseFull r).padsSet = s.padsSet := rfl
@[simp] theorem State.raise_padsSet (s : State) (c : BitVec 16) (src ag : Nat) (d : Reg) (a : Option Nat) (x : Nat) : (s.raise c src ag d a x).padsSet = s.padsSet := rfl
@[simp] theorem State.raiseFull_msq (s : State) (r : Raised) : (s.raiseFull r).msq = s.msq := rfl
@[simp] theorem State.raise_msq (s : State) (c : BitVec 16) (src ag : Nat) (d : Reg) (a : Option Nat) (x : Nat) : (s.raise c src ag d a x).msq = s.msq := rfl
@[simp] theorem State.raiseFull_cxl (s : State) (r : Raised) : (s.raiseFull r).cxl = s.cxl := rfl
@[simp] theorem State.raise_cxl (s : State) (c : BitVec 16) (src ag : Nat) (d : Reg) (a : Option Nat) (x : Nat) : (s.raise c src ag d a x).cxl = s.cxl := rfl
@[simp] theorem State.raiseFull_pts (s : State) (r : Raised) : (s.raiseFull r).pts = s.pts := rfl
@[simp] theorem State.raise_pts (s : State) (c : BitVec 16) (src ag : Nat) (d : Reg) (a : Option Nat) (x : Nat) : (s.raise c src ag d a x).pts = s.pts := rfl
@[simp] theorem State.raiseFull_olf (s : State) (r : Raised) : (s.raiseFull r).olf = s.olf := rfl
@[simp] theorem State.raise_olf (s : State) (c : BitVec 16) (src ag : Nat) (d : Reg) (a : Option Nat) (x : Nat) : (s.raise c src ag d a x).olf = s.olf := rfl
@[simp] theorem State.raiseFull_cwy (s : State) (r : Raised) : (s.raiseFull r).cwy = s.cwy := rfl
@[simp] theorem State.raise_cwy (s : State) (c : BitVec 16) (src ag : Nat) (d : Reg) (a : Option Nat) (x : Nat) : (s.raise c src ag d a x).cwy = s.cwy := rfl
@[simp] theorem State.raiseFull_svc (s : State) (r : Raised) : (s.raiseFull r).svc = s.svc := rfl
@[simp] theorem State.raise_svc (s : State) (c : BitVec 16) (src ag : Nat) (d : Reg) (a : Option Nat) (x : Nat) : (s.raise c src ag d a x).svc = s.svc := rfl
@[simp] theorem State.raiseFull_plc (s : State) (r : Raised) : (s.raiseFull r).plc = s.plc := rfl
@[simp] theorem State.raise_plc (s : State) (c : BitVec 16) (src ag : Nat) (d : Reg) (a : Option Nat) (x : Nat) : (s.raise c src ag d a x).plc = s.plc := rfl
@[simp] theorem State.raiseFull_job (s : State) (r : Raised) : (s.raiseFull r).job = s.job := rfl
@[simp] theorem State.raise_job (s : State) (c : BitVec 16) (src ag : Nat) (d : Reg) (a : Option Nat) (x : Nat) : (s.raise c src ag d a x).job = s.job := rfl
@[simp] theorem State.raiseFull_hst (s : State) (r : Raised) : (s.raiseFull r).hst = s.hst := rfl
@[simp] theorem State.raise_hst (s : State) (c : BitVec 16) (src ag : Nat) (d : Reg) (a : Option Nat) (x : Nat) : (s.raise c src ag d a x).hst = s.hst := rfl
@[simp] theorem State.raiseFull_ctl (s : State) (r : Raised) : (s.raiseFull r).ctl = s.ctl := rfl
@[simp] theorem State.raise_ctl (s : State) (c : BitVec 16) (src ag : Nat) (d : Reg) (a : Option Nat) (x : Nat) : (s.raise c src ag d a x).ctl = s.ctl := rfl
@[simp] theorem State.raiseFull_dmp (s : State) (r : Raised) : (s.raiseFull r).dmp = s.dmp := rfl
@[simp] theorem State.raise_dmp (s : State) (c : BitVec 16) (src ag : Nat) (d : Reg) (a : Option Nat) (x : Nat) : (s.raise c src ag d a x).dmp = s.dmp := rfl
@[simp] theorem State.raiseFull_cfg (s : State) (r : Raised) : (s.raiseFull r).cfg = s.cfg := rfl
@[simp] theorem State.raise_cfg (s : State) (c : BitVec 16) (src ag : Nat) (d : Reg) (a : Option Nat) (x : Nat) : (s.raise c src ag d a x).cfg = s.cfg := rfl
@[simp] theorem State.raiseFull_pwr (s : State) (r : Raised) : (s.raiseFull r).pwr = s.pwr := rfl
@[simp] theorem State.raise_pwr (s : State) (c : BitVec 16) (src ag : Nat) (d : Reg) (a : Option Nat) (x : Nat) : (s.raise c src ag d a x).pwr = s.pwr := rfl
@[simp] theorem State.raiseFull_sec (s : State) (r : Raised) : (s.raiseFull r).sec = s.sec := rfl
@[simp] theorem State.raise_sec (s : State) (c : BitVec 16) (src ag : Nat) (d : Reg) (a : Option Nat) (x : Nat) : (s.raise c src ag d a x).sec = s.sec := rfl
@[simp] theorem State.raiseFull_rst (s : State) (r : Raised) : (s.raiseFull r).rst = s.rst := rfl
@[simp] theorem State.raise_rst (s : State) (c : BitVec 16) (src ag : Nat) (d : Reg) (a : Option Nat) (x : Nat) : (s.raise c src ag d a x).rst = s.rst := rfl
@[simp] theorem State.raiseFull_pins (s : State) (r : Raised) : (s.raiseFull r).pins = s.pins := rfl
@[simp] theorem State.raise_pins (s : State) (c : BitVec 16) (src ag : Nat) (d : Reg) (a : Option Nat) (x : Nat) : (s.raise c src ag d a x).pins = s.pins := rfl
@[simp] theorem State.raiseFull_ucie (s : State) (r : Raised) : (s.raiseFull r).ucie = s.ucie := rfl
@[simp] theorem State.raise_ucie (s : State) (c : BitVec 16) (src ag : Nat) (d : Reg) (a : Option Nat) (x : Nat) : (s.raise c src ag d a x).ucie = s.ucie := rfl
@[simp] theorem State.advance_pending (s : State) (n : Nat) : (s.advance n).pending = s.pending := by unfold State.advance; split <;> rfl
@[simp] theorem State.advance_freeCtr (s : State) (n : Nat) : (s.advance n).freeCtr = s.freeCtr := by unfold State.advance; split <;> rfl
@[simp] theorem State.advance_mem (s : State) (n : Nat) : (s.advance n).mem = s.mem := by unfold State.advance; split <;> rfl
@[simp] theorem State.advance_xfer (s : State) (n : Nat) : (s.advance n).xfer = s.xfer := by unfold State.advance; split <;> rfl
@[simp] theorem State.advance_upsets (s : State) (n : Nat) : (s.advance n).upsets = s.upsets := by unfold State.advance; split <;> rfl
@[simp] theorem State.advance_landing (s : State) (n : Nat) : (s.advance n).landing = s.landing := by unfold State.advance; split <;> rfl
@[simp] theorem State.advance_mesh (s : State) (n : Nat) : (s.advance n).mesh = s.mesh := by unfold State.advance; split <;> rfl
@[simp] theorem State.advance_eth (s : State) (n : Nat) : (s.advance n).eth = s.eth := by unfold State.advance; split <;> rfl
@[simp] theorem State.advance_tik (s : State) (n : Nat) : (s.advance n).tik = s.tik := by unfold State.advance; split <;> rfl
@[simp] theorem State.advance_spans (s : State) (n : Nat) : (s.advance n).spans = s.spans := by unfold State.advance; split <;> rfl
@[simp] theorem State.advance_clusters (s : State) (n : Nat) : (s.advance n).clusters = s.clusters := by unfold State.advance; split <;> rfl
@[simp] theorem State.advance_digs (s : State) (n : Nat) : (s.advance n).digs = s.digs := by unfold State.advance; split <;> rfl
@[simp] theorem State.advance_rows (s : State) (n : Nat) : (s.advance n).rows = s.rows := by unfold State.advance; split <;> rfl
@[simp] theorem State.advance_padsSet (s : State) (n : Nat) : (s.advance n).padsSet = s.padsSet := by unfold State.advance; split <;> rfl
@[simp] theorem State.advance_msq (s : State) (n : Nat) : (s.advance n).msq = s.msq := by unfold State.advance; split <;> rfl
@[simp] theorem State.advance_cxl (s : State) (n : Nat) : (s.advance n).cxl = s.cxl := by unfold State.advance; split <;> rfl
@[simp] theorem State.advance_pts (s : State) (n : Nat) : (s.advance n).pts = s.pts := by unfold State.advance; split <;> rfl
@[simp] theorem State.advance_olf (s : State) (n : Nat) : (s.advance n).olf = s.olf := by unfold State.advance; split <;> rfl
@[simp] theorem State.advance_cwy (s : State) (n : Nat) : (s.advance n).cwy = s.cwy := by unfold State.advance; split <;> rfl
@[simp] theorem State.advance_svc (s : State) (n : Nat) : (s.advance n).svc = s.svc := by unfold State.advance; split <;> rfl
@[simp] theorem State.advance_plc (s : State) (n : Nat) : (s.advance n).plc = s.plc := by unfold State.advance; split <;> rfl
@[simp] theorem State.advance_job (s : State) (n : Nat) : (s.advance n).job = s.job := by unfold State.advance; split <;> rfl
@[simp] theorem State.advance_hst (s : State) (n : Nat) : (s.advance n).hst = s.hst := by unfold State.advance; split <;> rfl
@[simp] theorem State.advance_ctl (s : State) (n : Nat) : (s.advance n).ctl = s.ctl := by unfold State.advance; split <;> rfl
@[simp] theorem State.advance_flt (s : State) (n : Nat) : (s.advance n).flt = s.flt := by unfold State.advance; split <;> rfl
@[simp] theorem State.advance_dmp (s : State) (n : Nat) : (s.advance n).dmp = s.dmp := by unfold State.advance; split <;> rfl
@[simp] theorem State.advance_cfg (s : State) (n : Nat) : (s.advance n).cfg = s.cfg := by unfold State.advance; split <;> rfl
@[simp] theorem State.advance_pwr (s : State) (n : Nat) : (s.advance n).pwr = s.pwr := by unfold State.advance; split <;> rfl
@[simp] theorem State.advance_sec (s : State) (n : Nat) : (s.advance n).sec = s.sec := by unfold State.advance; split <;> rfl
@[simp] theorem State.advance_rst (s : State) (n : Nat) : (s.advance n).rst = s.rst := by unfold State.advance; split <;> rfl
@[simp] theorem State.advance_pins (s : State) (n : Nat) : (s.advance n).pins = s.pins := by unfold State.advance; split <;> rfl
@[simp] theorem State.advance_ucie (s : State) (n : Nat) : (s.advance n).ucie = s.ucie := by unfold State.advance; split <;> rfl

/-- Moving machine time on changes machine time alone. -/
theorem State.advance_eq (s : State) (n : Nat) : s.advance n = { s with tim := { s.tim with now := (s.advance n).tim.now } } := by
  unfold State.advance; split <;> rfl

/-- Periodic work moves machine time on and notes when it came: it changes nothing else. -/
theorem State.beat_eq (s : State) (n p : Nat) :
    s.beat n p = { s with tim := { s.tim with now := (s.beat n p).tim.now, beats := (s.beat n p).tim.beats } } := by
  unfold State.beat State.advance
  cases s.tim.beats.find? (fun b => b.1 == n) with
  | none => rfl
  | some b => dsimp only; split <;> rfl

/-- Work at the multiples of a period does so too. -/
theorem State.alignedBeat_eq (s : State) (n p : Nat) :
    s.alignedBeat n p = { s with tim := { s.tim with now := (s.alignedBeat n p).tim.now, beats := (s.alignedBeat n p).tim.beats } } := by
  unfold State.alignedBeat State.advance
  dsimp only
  split <;> split <;> rfl
@[simp] theorem State.signal_pending (s : State) (v : Nat) : (s.signal v).pending = s.pending := rfl
@[simp] theorem State.event_pending (s : State) (n : Nat) (b : List Byte) : (s.event n b).pending = s.pending := by unfold State.event; dsimp only; split <;> (try split) <;> rfl
@[simp] theorem State.signal_freeCtr (s : State) (v : Nat) : (s.signal v).freeCtr = s.freeCtr := rfl
@[simp] theorem State.event_freeCtr (s : State) (n : Nat) (b : List Byte) : (s.event n b).freeCtr = s.freeCtr := by unfold State.event; dsimp only; split <;> (try split) <;> rfl
@[simp] theorem State.signal_mem (s : State) (v : Nat) : (s.signal v).mem = s.mem := rfl
@[simp] theorem State.event_mem (s : State) (n : Nat) (b : List Byte) : (s.event n b).mem = s.mem := by unfold State.event; dsimp only; split <;> (try split) <;> rfl
@[simp] theorem State.signal_xfer (s : State) (v : Nat) : (s.signal v).xfer = s.xfer := rfl
@[simp] theorem State.event_xfer (s : State) (n : Nat) (b : List Byte) : (s.event n b).xfer = s.xfer := by unfold State.event; dsimp only; split <;> (try split) <;> rfl
@[simp] theorem State.signal_upsets (s : State) (v : Nat) : (s.signal v).upsets = s.upsets := rfl
@[simp] theorem State.event_upsets (s : State) (n : Nat) (b : List Byte) : (s.event n b).upsets = s.upsets := by unfold State.event; dsimp only; split <;> (try split) <;> rfl
@[simp] theorem State.signal_landing (s : State) (v : Nat) : (s.signal v).landing = s.landing := rfl
@[simp] theorem State.event_landing (s : State) (n : Nat) (b : List Byte) : (s.event n b).landing = s.landing := by unfold State.event; dsimp only; split <;> (try split) <;> rfl
@[simp] theorem State.signal_mesh (s : State) (v : Nat) : (s.signal v).mesh = s.mesh := rfl
@[simp] theorem State.event_mesh (s : State) (n : Nat) (b : List Byte) : (s.event n b).mesh = s.mesh := by unfold State.event; dsimp only; split <;> (try split) <;> rfl
@[simp] theorem State.signal_tim (s : State) (v : Nat) : (s.signal v).tim = s.tim := rfl
@[simp] theorem State.event_tim (s : State) (n : Nat) (b : List Byte) : (s.event n b).tim = s.tim := by unfold State.event; dsimp only; split <;> (try split) <;> rfl
@[simp] theorem State.signal_eth (s : State) (v : Nat) : (s.signal v).eth = s.eth := rfl
@[simp] theorem State.event_eth (s : State) (n : Nat) (b : List Byte) : (s.event n b).eth = s.eth := by unfold State.event; dsimp only; split <;> (try split) <;> rfl
@[simp] theorem State.signal_tik (s : State) (v : Nat) : (s.signal v).tik = s.tik := rfl
@[simp] theorem State.event_tik (s : State) (n : Nat) (b : List Byte) : (s.event n b).tik = s.tik := by unfold State.event; dsimp only; split <;> (try split) <;> rfl
@[simp] theorem State.signal_spans (s : State) (v : Nat) : (s.signal v).spans = s.spans := rfl
@[simp] theorem State.event_spans (s : State) (n : Nat) (b : List Byte) : (s.event n b).spans = s.spans := by unfold State.event; dsimp only; split <;> (try split) <;> rfl
@[simp] theorem State.signal_clusters (s : State) (v : Nat) : (s.signal v).clusters = s.clusters := rfl
@[simp] theorem State.event_clusters (s : State) (n : Nat) (b : List Byte) : (s.event n b).clusters = s.clusters := by unfold State.event; dsimp only; split <;> (try split) <;> rfl
@[simp] theorem State.signal_digs (s : State) (v : Nat) : (s.signal v).digs = s.digs := rfl
@[simp] theorem State.event_digs (s : State) (n : Nat) (b : List Byte) : (s.event n b).digs = s.digs := by unfold State.event; dsimp only; split <;> (try split) <;> rfl
@[simp] theorem State.signal_rows (s : State) (v : Nat) : (s.signal v).rows = s.rows := rfl
@[simp] theorem State.event_rows (s : State) (n : Nat) (b : List Byte) : (s.event n b).rows = s.rows := by unfold State.event; dsimp only; split <;> (try split) <;> rfl
@[simp] theorem State.signal_padsSet (s : State) (v : Nat) : (s.signal v).padsSet = s.padsSet := rfl
@[simp] theorem State.event_padsSet (s : State) (n : Nat) (b : List Byte) : (s.event n b).padsSet = s.padsSet := by unfold State.event; dsimp only; split <;> (try split) <;> rfl
@[simp] theorem State.signal_msq (s : State) (v : Nat) : (s.signal v).msq = s.msq := rfl
@[simp] theorem State.event_msq (s : State) (n : Nat) (b : List Byte) : (s.event n b).msq = s.msq := by unfold State.event; dsimp only; split <;> (try split) <;> rfl
@[simp] theorem State.signal_cxl (s : State) (v : Nat) : (s.signal v).cxl = s.cxl := rfl
@[simp] theorem State.event_cxl (s : State) (n : Nat) (b : List Byte) : (s.event n b).cxl = s.cxl := by unfold State.event; dsimp only; split <;> (try split) <;> rfl
@[simp] theorem State.signal_pts (s : State) (v : Nat) : (s.signal v).pts = s.pts := rfl
@[simp] theorem State.event_pts (s : State) (n : Nat) (b : List Byte) : (s.event n b).pts = s.pts := by unfold State.event; dsimp only; split <;> (try split) <;> rfl
@[simp] theorem State.signal_olf (s : State) (v : Nat) : (s.signal v).olf = s.olf := rfl
@[simp] theorem State.event_olf (s : State) (n : Nat) (b : List Byte) : (s.event n b).olf = s.olf := by unfold State.event; dsimp only; split <;> (try split) <;> rfl
@[simp] theorem State.signal_cwy (s : State) (v : Nat) : (s.signal v).cwy = s.cwy := rfl
@[simp] theorem State.event_cwy (s : State) (n : Nat) (b : List Byte) : (s.event n b).cwy = s.cwy := by unfold State.event; dsimp only; split <;> (try split) <;> rfl
@[simp] theorem State.signal_svc (s : State) (v : Nat) : (s.signal v).svc = s.svc := rfl
@[simp] theorem State.event_svc (s : State) (n : Nat) (b : List Byte) : (s.event n b).svc = s.svc := by unfold State.event; dsimp only; split <;> (try split) <;> rfl
@[simp] theorem State.signal_plc (s : State) (v : Nat) : (s.signal v).plc = s.plc := rfl
@[simp] theorem State.event_plc (s : State) (n : Nat) (b : List Byte) : (s.event n b).plc = s.plc := by unfold State.event; dsimp only; split <;> (try split) <;> rfl
@[simp] theorem State.signal_job (s : State) (v : Nat) : (s.signal v).job = s.job := rfl
@[simp] theorem State.event_job (s : State) (n : Nat) (b : List Byte) : (s.event n b).job = s.job := by unfold State.event; dsimp only; split <;> (try split) <;> rfl
@[simp] theorem State.signal_ctl (s : State) (v : Nat) : (s.signal v).ctl = s.ctl := rfl
@[simp] theorem State.event_ctl (s : State) (n : Nat) (b : List Byte) : (s.event n b).ctl = s.ctl := by unfold State.event; dsimp only; split <;> (try split) <;> rfl
@[simp] theorem State.signal_flt (s : State) (v : Nat) : (s.signal v).flt = s.flt := rfl
@[simp] theorem State.event_flt (s : State) (n : Nat) (b : List Byte) : (s.event n b).flt = s.flt := by unfold State.event; dsimp only; split <;> (try split) <;> rfl
@[simp] theorem State.signal_dmp (s : State) (v : Nat) : (s.signal v).dmp = s.dmp := rfl
@[simp] theorem State.event_dmp (s : State) (n : Nat) (b : List Byte) : (s.event n b).dmp = s.dmp := by unfold State.event; dsimp only; split <;> (try split) <;> rfl
@[simp] theorem State.signal_cfg (s : State) (v : Nat) : (s.signal v).cfg = s.cfg := rfl
@[simp] theorem State.event_cfg (s : State) (n : Nat) (b : List Byte) : (s.event n b).cfg = s.cfg := by unfold State.event; dsimp only; split <;> (try split) <;> rfl
@[simp] theorem State.signal_pwr (s : State) (v : Nat) : (s.signal v).pwr = s.pwr := rfl
@[simp] theorem State.event_pwr (s : State) (n : Nat) (b : List Byte) : (s.event n b).pwr = s.pwr := by unfold State.event; dsimp only; split <;> (try split) <;> rfl
@[simp] theorem State.signal_sec (s : State) (v : Nat) : (s.signal v).sec = s.sec := rfl
@[simp] theorem State.event_sec (s : State) (n : Nat) (b : List Byte) : (s.event n b).sec = s.sec := by unfold State.event; dsimp only; split <;> (try split) <;> rfl
@[simp] theorem State.signal_rst (s : State) (v : Nat) : (s.signal v).rst = s.rst := rfl
@[simp] theorem State.event_rst (s : State) (n : Nat) (b : List Byte) : (s.event n b).rst = s.rst := by unfold State.event; dsimp only; split <;> (try split) <;> rfl
@[simp] theorem State.signal_pins (s : State) (v : Nat) : (s.signal v).pins = s.pins := rfl
@[simp] theorem State.event_pins (s : State) (n : Nat) (b : List Byte) : (s.event n b).pins = s.pins := by unfold State.event; dsimp only; split <;> (try split) <;> rfl
@[simp] theorem State.signal_ucie (s : State) (v : Nat) : (s.signal v).ucie = s.ucie := rfl
@[simp] theorem State.event_ucie (s : State) (n : Nat) (b : List Byte) : (s.event n b).ucie = s.ucie := by unfold State.event; dsimp only; split <;> (try split) <;> rfl

theorem State.raise_raised (s : State) (c : BitVec 16) (src ag : Nat) (d : Reg) (a : Option Nat) (x : Nat) :
    ∃ r, (s.raise c src ag d a x).flt.raised = s.flt.raised ++ [r] ∧ r.code = c ∧ r.source = src ∧ r.agent = ag ∧ r.detail = d := by
  unfold State.raise State.raiseFull
  dsimp only
  split <;> exact ⟨_, rfl, rfl, rfl, rfl, rfl⟩

end Sys2Proof.Machine
end

