-- ==== Sys2Proof/Laws/Shared.lean ====
section
/-! SUPPORT. What each shared operation of the machine can do, once: faults, interrupts, events, machine time, commands, cells and folds. -/

namespace Sys2Proof.Machine

/-! ### Folds -/

/-- What holds of a state and is kept by every pass of the loop holds after the loop. -/
theorem forEach_keeps (P : State → Prop) (f : State → Nat → State) (hf : ∀ s x, P s → P (f s x)) :
    ∀ (l : List Nat) (s : State), P s → P (forEach s l f) := by
  intro l
  induction l with
  | nil => intro s h; exact h
  | cons x r ih => intro s h; exact ih (f s x) (hf s x h)

/-- A projection that no pass changes is as before after the loop. -/
theorem forEach_frame {α : Type} (g : State → α) (f : State → Nat → State) (hf : ∀ s x, g (f s x) = g s) (l : List Nat) (s : State) :
    g (forEach s l f) = g s :=
  forEach_keeps (fun t => g t = g s) f (fun t x h => (hf t x).trans h) l s rfl

/-! ### Machine time -/

/-- Machine time moves, and nothing else. -/
theorem advance_frame (s : State) (t : Nat) : s.advance t = { s with tim := { s.tim with now := (s.advance t).tim.now } } := by
  unfold State.advance; split <;> rfl

/-- Machine time reaches the instant, and does not go back. -/
theorem advance_reaches (s : State) (t : Nat) (h : t < 2 ^ 112) :
    t ≤ (s.advance t).tim.now.toNat ∧ s.tim.now.toNat ≤ (s.advance t).tim.now.toNat := by
  unfold State.advance
  split
  · rename_i h'
    simp only [BitVec.toNat_ofNat, Nat.mod_eq_of_lt h]
    omega
  · omega

/-! ### Faults, interrupts and events -/

/-- A fault raised is the last of those that wait; only the fault log's state changes. -/
theorem raiseFull_spec (s : State) (r : Raised) :
    s.raiseFull r = { s with flt := (s.raiseFull r).flt } ∧ (s.raiseFull r).flt.raised = s.flt.raised ++ [{ r with sec := s.secondary r, run := s.job.running }] := by
  unfold State.raiseFull
  refine ⟨rfl, ?_⟩
  dsimp only
  split <;> rfl

/-- The same for a fault with the usual fields; it has the code and the source given. -/
theorem raise_spec (s : State) (code : BitVec 16) (src agent : Nat) (detail : Reg) (addr : Option Nat) (aux : Nat) :
    s.raise code src agent detail addr aux = { s with flt := (s.raise code src agent detail addr aux).flt } ∧
    ∃ r : Raised, (s.raise code src agent detail addr aux).flt.raised = s.flt.raised ++ [r] ∧ r.code = code ∧ r.source = src ∧ r.aux = aux :=
  ⟨(raiseFull_spec s _).1, _, (raiseFull_spec s _).2, rfl, rfl, rfl⟩

/-- Any code but 0x9001 leaves the rest of the fault log's state. -/
theorem raiseFull_eq (s : State) (r : Raised) (h : r.code ≠ 0x9001) :
    s.raiseFull r = { s with flt := { s.flt with raised := s.flt.raised ++ [{ r with sec := s.secondary r, run := s.job.running }] } } := by
  simp only [State.raiseFull, h, if_false]

/-- An interrupt changes the host interface only. -/
theorem signal_frame (s : State) (v : Nat) : s.signal v = { s with hst := (s.signal v).hst } := rfl

/-- Vectors from 2 up are signalled at once. -/
theorem signal_eq (s : State) (v : Nat) (h : 2 ≤ v) : (s.signal v).hst = { s.hst with vectors := s.hst.vectors ++ [v] } := by
  unfold State.signal
  dsimp only
  rw [if_neg (by omega), if_neg (by omega)]

/-- An event changes the host interface only. -/
theorem event_frame (s : State) (ty : Nat) (body : List Byte) : s.event ty body = { s with hst := (s.event ty body).hst } := by
  unfold State.event
  dsimp only
  split
  · rfl
  · split <;> rfl

/-! ### Host commands -/

/-- With no command waiting, none starts. -/
theorem pump_nil (s : State) (h : s.hst.waiting = []) : s.pump = s := by
  simp [State.pump, State.pumpN, h]

/-- A command that finishes changes the host interface only. -/
theorem finish_frame (s : State) (r : RunCmd) (status : Nat) (fault : BitVec 16) (detail : Nat) (result : List Byte) :
    s.finish r status fault detail result = { s with hst := (s.finish r status fault detail result).hst } := by
  unfold State.finish
  split
  · rfl
  · dsimp only
    split
    · rfl
    · split <;> rfl

/-- An access refused: logged, and 0x7002 raised for the tollhouse; only configuration and the fault log change. -/
theorem violation_spec (s : State) (ofs chip : Nat) :
    s.violation ofs chip = { s with cfg := (s.violation ofs chip).cfg, flt := (s.violation ofs chip).flt } ∧
    ∃ r : Raised, (s.violation ofs chip).flt.raised = s.flt.raised ++ [r] ∧ r.code = 0x7002 ∧ r.source = srcToll :=
  ⟨rfl, _, (raiseFull_spec _ _).2, rfl, rfl⟩

/-- The start of a compaction changes configuration only. -/
theorem startCompact_frame (s : State) : s.startCompact = { s with cfg := s.startCompact.cfg } := by
  unfold State.startCompact
  split
  · rfl
  · split <;> rfl

/-- A journal record changes configuration only. -/
theorem journal_frame (s : State) (ty : BitVec 16) (payload : List Byte) :
    s.journal ty payload = { s with cfg := (s.journal ty payload).cfg } := by
  unfold State.journal
  dsimp only
  split
  · split
    · rw [startCompact_frame]
    · rfl
  · rfl

/-- An in-band interrupt changes the pins only. -/
theorem ibi_frame (s : State) : s.ibi = { s with pins := s.ibi.pins } := by
  unfold State.ibi
  dsimp only
  split <;> rfl

/-- A link fault is logged at its port and raised for it. -/
theorem olfFault_spec (s : State) (p : Nat) (code : BitVec 16) (kind seq : Nat) :
    s.olfFault p code kind seq = { s with olf := (s.olfFault p code kind seq).olf, flt := (s.olfFault p code kind seq).flt } ∧
    (∀ x, x ≠ p → (s.olfFault p code kind seq).port x = s.port x) ∧
    ∃ r : Raised, (s.olfFault p code kind seq).flt.raised = s.flt.raised ++ [r] ∧ r.code = code ∧ r.source = 104 + p ∧ r.aux = kind := by
  refine ⟨rfl, fun x h => ?_, _, (raiseFull_spec _ _).2, rfl, rfl, rfl⟩
  simp [State.olfFault, State.raise, State.raiseFull, State.updPort, State.setPort, State.port, h]

/-! ### Cells -/

/-- A cell queued on a port changes that port only. -/
theorem queueCell_frame (s : State) (p : Nat) (c : Cell) :
    s.queueCell p c = { s with olf := (s.queueCell p c).olf } ∧ ∀ x, x ≠ p → (s.queueCell p c).port x = s.port x := by
  refine ⟨rfl, fun x h => ?_⟩
  simp [State.queueCell, h]

/-- A cell taken from its receive entry changes its port only. -/
theorem takeCell_frame (s : State) (p : Nat) (c : Cell) :
    s.takeCell p c = { s with olf := (s.takeCell p c).olf } ∧ ∀ x, x ≠ p → (s.takeCell p c).port x = s.port x := by
  refine ⟨rfl, fun x h => ?_⟩
  simp [State.takeCell, h]

/-- With no request waiting, none is sent. -/
theorem sendWaiting_nil (s : State) (h : s.svc.waiting = []) : s.sendWaiting = s := by
  have e : ({ s.svc with waiting := [] } : Svc) = s.svc := by rw [← h]
  simp only [State.sendWaiting, State.updSvc, h, List.foldl_nil, e]

/-- An abort noted is the last of those known, and forbids new external accesses. -/
theorem noteAbort_spec (s : State) (step : Nat) (code : BitVec 16) (origin : Nat) :
    (s.noteAbort step code origin).job = { s.job with aborts := s.job.aborts ++ [(step, code, origin)] } ∧
    (s.noteAbort step code origin).cxl.aborted = true ∧ (s.noteAbort step code origin).olf = s.olf := ⟨rfl, rfl, rfl⟩

/-! ### The step -/

/-- A command at the front of the queue is carried out on the rest. -/
theorem step_cons (s : State) (c : Instr) (rest : List Instr) (h : s.pending = c :: rest) : step s = exec c { s with pending := rest } := by
  simp [step, h]

end Sys2Proof.Machine
end

