-- ==== Sys2Proof/Tests/Slice0.lean ====
section
/-! SUPPORT. Tests of the block: refusals of ill-formed words, worked values of the spec, and for every statement about the block a state and
operands that meet its premises. -/

open Sys2Proof Sys2Proof.Machine

set_option Elab.async false

namespace Sys2Proof.Tests

/-! ### Ill-formed words (R179): one for each check -/

/-- A word with issue delta 1 and no predicate. -/
def w1 : Wd := ⟨1, false, 0⟩
/-- Full register of one value. -/
def lanes (x : Lane) : Vreg := ⟨List.replicate 128 x, none⟩

theorem test_refuses_word_fields :
    (Instr.meClear 0 ⟨1024, false, 0⟩ false).wf = false ∧ (Instr.meClear 0 ⟨0, true, 8⟩ false).wf = false ∧
    (Instr.meClear 0 ⟨0, false, 1⟩ false).wf = true ∧ (Instr.meWin 0 w1 false 35 128 0).wf = false ∧
    (Instr.meWin 0 w1 false 35 0 (-129)).wf = false ∧ (Instr.meWin 0 w1 false 35 127 (-128)).wf = true := by decide

theorem test_refuses_matrix_words :
    (Instr.meLoadw 0 w1 false .fp32 0).wf = false ∧ (Instr.meLoadw 0 w1 false .bf16 8).wf = false ∧
    (Instr.meMac 0 w1 false false .int4 .e4m3 0 1 0).wf = false ∧ (Instr.meMac 0 w1 false false .mxE4m3 .mxE4m3 0 1 0).wf = false ∧
    (Instr.meMac 0 w1 false false .bf16 .bf16 0 0 0).wf = false ∧ (Instr.meMac 0 w1 false false .bf16 .bf16 0 33 32).wf = false ∧
    (Instr.meMacs 0 w1 false false .bf16 .bf16 0 1 0).wf = false ∧ (Instr.meMacv 0 w1 false .bf16 0 0 0 1 0).wf = false ∧
    (Instr.meMacv 0 w1 false .bf16 384 0 1 1 0).wf = true ∧ (Instr.meMacv 0 w1 false .bf16 0 384 1 1 0).wf = true ∧
    (Instr.meAddx 0 w1 false 35 6137 1 0).wf = true ∧ (Instr.meAddx 0 w1 false 35 0 0 0).wf = false ∧
    (Instr.meRound 0 w1 false .mxE4m3 0 0 1 0).wf = false ∧ (Instr.meRound 0 w1 false .bf16 0 0 1 64).wf = false ∧
    (Instr.meDrain 0 w1 false 0 65 0).wf = false := by decide

theorem test_refuses_mover_words :
    (Instr.mvCopy 0 w1 0 0 8 1).wf = false ∧ (Instr.mvCopy 0 w1 0 0 0 0).wf = false ∧ (Instr.mvCopy 0 w1 6143 0 0 2).wf = true ∧
    (Instr.mvSend 0 w1 0 0 0 0 1).wf = false ∧ (Instr.mvSend 0 w1 0 1 2 0 1).wf = false ∧ (Instr.mvSend 0 w1 0 1 0 511 2).wf = false ∧
    (Instr.mvRecv 0 w1 2 0 (.store 0) 1).wf = false ∧ (Instr.mvRecv 0 w1 0 0 (.imem 767 0) 2).wf = false ∧
    (Instr.mvRecv 0 w1 0 0 (.imem 0 65535) 2).wf = false ∧ (Instr.mvRecv 0 w1 0 0 (.imem 0 0) 33).wf = false ∧
    (Instr.mvHbm 0 w1 0 4 0 0 1 0).wf = false ∧ (Instr.mvHbm 0 w1 0 0 0 0 65 0).wf = false ∧ (Instr.mvHbm 0 w1 0 0 0 0 1 4096).wf = false ∧
    (Instr.mvStage 0 w1 0 0 0 1 1024).wf = false ∧ (Instr.mvFill 0 w1 0 1025 0).wf = false := by decide

theorem test_refuses_sequencer_words :
    (Instr.sqWait 0 0 0).wf = false ∧ (Instr.sqWait 0 0 4097).wf = false ∧ (Instr.sqBr 0 0 8 1 ⟨0, 0, 0, 0⟩ ⟨0, 0, 0, 0⟩).wf = false ∧
    (Instr.sqBr 0 0 0 0 ⟨0, 0, 0, 0⟩ ⟨0, 0, 0, 0⟩).wf = false ∧ (Instr.sqBr 0 0 0 257 ⟨0, 0, 0, 0⟩ ⟨0, 0, 0, 0⟩).wf = false ∧
    (Instr.sqBr 0 0 0 1 ⟨4096, 0, 0, 0⟩ ⟨0, 0, 0, 0⟩).wf = false ∧ (Instr.sqFlag 0 1024 (.set 0 false)).wf = false ∧
    (Instr.sqFlag 0 0 (.loads 6144 0)).wf = true ∧ (Instr.sqFlag 0 0 (.loads 0 128)).wf = false ∧
    (Instr.sqFlag 0 0 (.loade 2 0 .both 0)).wf = false ∧ (Instr.sqFlag 0 1024 (.imm 0 0)).wf = false ∧
    (Instr.sqAgree 0 0 6 0 0 1 false 0 0 0).wf = false ∧ (Instr.sqAgree 0 0 0 0 0 256 false 0 0 0).wf = false ∧
    (Instr.sqAgree 0 0 0 0 0 1 false 0 8 0).wf = false ∧ (Instr.sqDigest 0 0 0 0).wf = false ∧ (Instr.sqEnd 0 1024).wf = false := by decide

theorem test_refuses_steering_words :
    (Instr.ptPage 0 0 1024).wf = false ∧ (Instr.ptPad 0 4096).wf = false ∧ (Instr.phaseMark (.mem 0) 0 0).wf = false ∧
    (Instr.phaseMark (.mem 0) 65536 0).wf = false ∧ (Instr.phaseMark (.mem 0) 1 256).wf = false ∧ (Instr.idleWord (.mem 0) 1024).wf = false ∧
    (Instr.idleWord (.mem 0) 1023).wf = true := by decide

theorem test_refuses_vector_words :
    (Instr.vuLd 0 w1 32 (.store 0) 1 none).wf = false ∧ (Instr.vuLd 0 w1 0 (.store 0) 5 none).wf = false ∧
    (Instr.vuLd 0 w1 0 (.landing 2 0) 1 none).wf = false ∧ (Instr.vuSt 0 w1 0 6143 2).wf = true ∧ (Instr.vuAdd 0 w1 .fp32 0 0 32).wf = false ∧
    (Instr.vuFma 0 w1 .fp32 0 0 0 32).wf = false ∧ (Instr.vuCmp 0 w1 .s32 .lt 32 0 0).wf = false ∧ (Instr.vuSel 0 w1 0 0 0 32).wf = false ∧
    (Instr.vuAnd 0 w1 0 0 (.reg 32)).wf = false ∧ (Instr.vuShl 0 w1 0 0 (.imm 32)).wf = false ∧ (Instr.vuCvt 0 w1 0 0 0 14 false 0 0).wf = false ∧
    (Instr.vuCvt 0 w1 0 0 0 2 false 0 4).wf = false ∧ (Instr.vuCvt 0 w1 0 0 0 5 false 0 7).wf = true ∧ (Instr.vuQmx 0 w1 0 29 1 .mxE4m3 0).wf = false ∧
    (Instr.vuQmx 0 w1 0 0 0 .mxE4m3 0).wf = false ∧ (Instr.vuQmx 0 w1 0 0 1 .bf16 0).wf = false ∧ (Instr.vuExp2 0 w1 .fp32 32 0).wf = false ∧
    (Instr.vuXsum 0 w1 .bf16 0 0 0 0 false).wf = false ∧ (Instr.vuXsum 0 w1 .fp32 0 0 4 0 false).wf = false ∧
    (Instr.vuTopk 0 w1 false 1 0 0 false 1).wf = false ∧ (Instr.vuTopk 0 w1 false 0 2 0 false 129).wf = false ∧
    (Instr.vuRng 0 w1 0 0 false 65536).wf = false ∧ (Instr.vuPerm 0 w1 0 0 0 32).wf = false := by decide

theorem test_refuses_memory_words :
    (Instr.act 0 0 0 1 48 0).wf = false ∧ (Instr.act 0 0 0 1 0 32768).wf = false ∧ (Instr.act 0 0 63 2 0 0).wf = false ∧
    (Instr.pre 0 0 0 0 0 true).wf = false ∧ (Instr.rd 0 0 0 1 0 8 0 0 0 0).wf = false ∧ (Instr.rd 0 0 0 1 0 0 100 0 0 0).wf = false ∧
    (Instr.rd 0 0 0 1 0 0 0 2 0 0).wf = false ∧ (Instr.rd 0 0 0 1 0 0 0 0 0 4).wf = false ∧ (Instr.wr 0 0 0 1 0 0 4 0).wf = false ∧
    (Instr.wr 0 0 0 2 0 0 0 511).wf = false ∧ (Instr.refa 0 1024 0 1).wf = false ∧ (Instr.refb 0 0 0 1 48).wf = false := by decide

/-! ### Words -/

/-- Cluster 33 of row 1 with its four streams at word 3, and work done up to cycle 5 of phase 9. -/
def ws : State :=
  let st : Stream := { wlen := 4, len := 40, pos := 3, base := 9, last := 7, first := false }
  { State.reset with
    tik := { State.reset.tik with phaseNo := 9, running := true }
    job := { State.reset.job with running := true }
    spans := [(4, { running := true, stopped := false, cycle := 5 })]
    clusters := [(33, {
      sMe := st
      sVu := st
      sMv := st
      sSq := st
      p := 0xA5
      nextIid := 6
      vregs := [(1, lanes 0x80000003), (2, lanes 0x00000101), (3, lanes 0x3F800000)] })] }

theorem wit_PipelinedWordsIssue :
    pipelined (.vuAdd 33 w1 .fp32 31 1 2) = true ∧ (Instr.vuAdd 33 w1 .fp32 31 1 2).wf = true ∧
    unitOf (.vuAdd 33 w1 .fp32 31 1 2) = some (33, .vu, w1) ∧ ws.issues 33 .vu = true ∧ ws.issues 33 .me = true ∧ ws.issues 33 .mv = true ∧
    ws.issues 33 .sq = true := by decide +kernel


theorem wit_SteeringAndPortWordsIssue :
    (Instr.sqWait 33 1023 4096).wf = true ∧ (Instr.sqBr 33 0 7 256 ⟨4095, 0, 0, 0⟩ ⟨0, 0, 0, 4095⟩).wf = true ∧ (Instr.sqEnd 33 1023).wf = true ∧
    (Instr.idleWord (.unit 33 .vu) 1023).wf = true ∧ (ws.clu 33).staleIn (ws.clu 33).sSq 3 = none ∧ ws.issues 33 .sq = true ∧ ws.issues 33 .vu = true ∧
    (Instr.ptPage 5 1023 1023).wf = true ∧ (Instr.ptPad 5 4095).wf = true := by decide +kernel

/-- `ws` in a step of one tick, with the first phase of the next step coming. -/
def wsStep : State := { ws with job := { ws.job with img := zeros 16 ++ [1] ++ zeros 300 }, tik := { ws.tik with phaseNo := 15 } }

theorem wit_PhaseMarksMoveTheTimeBase :
    streamOk (.unit 799 .sq) = true ∧ streamOk (.port 5) = true ∧ streamOk (.mem 3) = true ∧ ws.streamRuns (.unit 33 .me) = true ∧
    ws.streamRuns (.mem 3) = true ∧ (Instr.phaseMark (.unit 33 .me) 65535 0).wf = true ∧ (Instr.idleWord (.mem 3) 1023).wf = true ∧
    0 < wsStep.stepTicks ∧ ((wsStep.stream (.unit 33 .me)).base + 7) % (8 * wsStep.stepTicks) = 0 ∧
    ((wsStep.stream (.unit 33 .me)).base + 6) % (8 * wsStep.stepTicks) ≠ 0 ∧ (wsStep.clu 33).br = [] := by decide +kernel

/-- `wsStep` with a branch whose arms begin in phase 15 in force, and the values of two branch points in hand. -/
def wsArms (taken : Bool) (l0 : Nat) : State := { wsStep with
  job := { wsStep.job with taken := [(3, 2)] }
  tik := { wsStep.tik with agree := [(4, 1)] }
  clusters := [(33, { (wsStep.clu 33) with br := [(⟨l0, 0, 0, 0⟩, ⟨4, 0, 0, 0⟩, taken, 15, 17)] })] }

theorem wit_PhaseMarksTakeArms :
    (∀ taken ∈ [false, true], ∀ l0 ∈ [0, 5], (wsArms taken l0).streamRuns (.unit 33 .me) = true ∧
      ((wsArms taken l0).stream (.unit 33 .me)).base + 6 = 15 ∧ ((wsArms taken l0).stream (.unit 33 .me)).hop = [] ∧
      15 % (8 * (wsArms taken l0).stepTicks) ≠ 0) ∧
    (wsArms true 0).job.taken.find? (fun e => e.1 == 3) = some (3, 2) ∧ (wsArms true 0).job.taken.find? (fun e => e.1 == 4) = none ∧
    (wsArms true 0).tik.agree.find? (fun e => e.1 == 4) = some (4, 1) ∧ (wsArms true 0).tik.agree.find? (fun e => e.1 == 5) = none ∧
    (Instr.phaseMark (.unit 33 .me) 6 3).wf = true := by decide +kernel

theorem wit_IntegerVectorResults :
    ws.issues 33 .vu = true ∧ (Instr.vuAnd 33 w1 31 1 (.reg 2)).wf = true ∧ (Instr.vuAnd 33 w1 31 1 (.imm 0xFFFF)).wf = true ∧
    (Instr.vuOr 33 w1 31 1 (.imm 0)).wf = true ∧ (Instr.vuXor 33 w1 31 1 (.reg 31)).wf = true ∧
    (Instr.vuIadd 33 w1 31 1 (.imm 0x8000) true true).wf = true ∧ (Instr.vuShl 33 w1 31 1 (.imm 31)).wf = true ∧
    (Instr.vuShr 33 w1 31 1 (.reg 2) false).wf = true ∧ (Instr.vuShr 33 w1 31 1 (.imm 0) true).wf = true ∧
    (Instr.vuSel 33 w1 31 1 2 3).wf = true ∧ (Instr.vuPerm 33 w1 31 1 2 3).wf = true := by decide +kernel

theorem wit_FloatVectorResults :
    ws.issues 33 .vu = true ∧ (Instr.vuAdd 33 w1 .fp32 31 1 2).wf = true ∧ (Instr.vuFma 33 w1 .fp32 31 1 2 3).wf = true ∧
    (Instr.vuMin 33 w1 .bf16 31 1 2).wf = true := by decide +kernel


/-- Cluster 33 with one piece of work, `i` of unit `u`, due in its span's next cycle. -/
def wOp (u : Unit4) (i : Instr) (res : List (Nat × Vreg)) (on : Bool) : State :=
  ws.updClu 33 (fun k => { k with
    ops := [⟨5, u, 2, .work 0⟩]
    fly := [(2, { ins := i, on := on, phase := 9, res := res, lines := [(0, [7, 8, 9])] })]
    fs := 0x0F
    me := { acc := [(3, [fwNan]), (67, [fwNan])], b1 := { dirty := true } } })

/-- A register tagged with window code 30. -/
def tagged : Vreg := { lanes 7 with tag := some 30 }

theorem wit_ConversionsAndReductions :
    (∀ m ∈ List.range 14, (Instr.vuCvt 33 w1 31 1 2 m true (-128) (if m ∈ [0, 1, 10, 11] then 15 else 3)).wf = true) ∧
    (Instr.vuCvt 33 w1 31 1 2 13 false 127 7).wf = true ∧ (Instr.vuQmx 33 w1 31 28 0 .mxE2m1 31).wf = true ∧
    (Instr.vuXsum 33 w1 .fp32 31 1 3 63 true).wf = true ∧ (Instr.vuXsum 33 w1 .bf16 31 1 4 0 false).wf = true ∧
    (Instr.vuTopk 33 w1 false 30 0 2 true 128).wf = true ∧ (Instr.vuTopk 33 w1 true 30 0 31 false 1).wf = true ∧
    (Instr.vuRng 33 w1 31 1 true 65535).wf = true ∧ ((ws.clu 33).vreg 1).tag = none ∧ tagged.tag = some 30 ∧ (ws.clu 33).enabled w1 = true ∧
    (FF.fp32.decode 0x3F800000).kind = .fin ∧ (FF.fp32.decode 0x3F800000).m ≠ 0 := by decide +kernel

/-- Its work waits alone in its span, as the premises of the statement ask. -/
def aloneInSpan (u : Unit4) (i : Instr) (res : List (Nat × Vreg)) : Bool :=
  let s := wOp u i res true
  decide ((s.flyOf 33 2).map (fun f => (f.ins, f.res, f.on, f.raised)) = some (i, res, true, [])) &&
    decide ((s.clu 33).ops = [⟨(s.spn (spanOf 33)).cycle, u, 2, .work 0⟩]) &&
    (clustersOf (spanOf 33)).all (fun c => c == 33 || (s.clu c).ops.isEmpty)

theorem wit_WorkTakesEffectInItsCycle :
    (∀ x ∈ [(Unit4.vu, Instr.vuAnd 33 w1 31 1 (.reg 2), [(31, lanes 5)]), (.sq, .sqFlag 33 1 (.set 0xF0 true), []),
        (.sq, .sqFlag 33 1 (.imm 0xFF 0x5A), []), (.sq, .sqFlag 33 1 (.loads 6143 2), []), (.me, .meClear 33 w1 false, []),
        (.me, .meWin 33 w1 false 63 127 (-128), []), (.me, .meWin 33 w1 true 0 0 0, [])],
      aloneInSpan x.1 x.2.1 x.2.2 = true) ∧
    ((wOp .me (.meWin 33 w1 true 0 0 0) [] true).clu 33).me.b1.dirty = true ∧ (∀ i w, Instr.vuAnd 33 w1 31 1 (.reg 2) ≠ .vuLd i w 0 (.store 0) 0 none) := by
  refine ⟨by decide +kernel, by decide +kernel, fun _ _ => by simp⟩

/-- `wOp` with the action `a` in place of its work, and one more piece of the same instruction to come. -/
def wAct (u : Unit4) (i : Instr) (a : Micro) (on : Bool) : State :=
  (wOp u i [] on).updClu 33 (fun k => { k with
    ops := [⟨5, u, 2, a⟩, ⟨9, u, 2, .work 7⟩]
    me := { k.me with acc := [(3, List.replicate 64 1), (67, List.replicate 64 fwNan)] } })

/-- The action waits alone in its cycle, as the premises of the statements ask. -/
def aloneInCycle (u : Unit4) (i : Instr) (a : Micro) (on : Bool) : Prop :=
  (wAct u i a on).loneOp 33 u 2 a [⟨9, u, 2, .work 7⟩] ∧ ((wAct u i a on).flyOf 33 2).map (fun f => (f.ins, f.on, f.raised)) = some (i, on, []) ∧
    (wAct u i a on).upsets = []

/-- A landing entry of span 4 that is written, with the empty mark in its second half. -/
def wLand : State := { wAct .sq (.sqFlag 33 1 (.loade 1 511 .both 7)) (.work 0) true with
  landing := [(landKey 4 1 (readFrame 9) 511, { w0 := true, w1 := true, e1 := true })] }

theorem wit_AccessesTakeEffectInTheirCycles :
    (∀ x ∈ [(Unit4.vu, Instr.vuLd 33 w1 31 (.store 6143) 1 none, Micro.rd 0 6143), (.vu, .vuLd 33 w1 31 (.store 6143) 1 none, .work 0),
        (.vu, .vuLd 33 w1 31 (.landing 1 508) 4 (some 63), .land 3 1 511), (.vu, .vuLd 33 w1 31 (.landing 1 508) 4 (some 63), .work 3),
        (.vu, .vuSt 33 w1 31 6140 4, .wr 3 6143), (.mv, .mvFill 33 w1 6143 1 7, .wr 0 6143), (.mv, .mvCopy 33 w1 0 6143 7 1, .spokeOut 0),
        (.mv, .mvCopy 33 w1 0 6143 7 1, .arrive 0 1 6143 [] true), (.mv, .mvCopy 33 w1 0 6143 7 1, .arrWr 6143 (zeros 128) true),
        (.mv, .mvCopy 33 w1 0 6143 7 1, .arrWr 6143 [] false), (.mv, .mvCopy 33 w1 0 6143 1 1, .wr 0 6143), (.mv, .mvSend 33 w1 0 113 0 511 1, .spokeOut 0),
        (.mv, .mvHbm 33 w1 0 3 3 511 1 4095, .spokeOut 0), (.mv, .mvStage 33 w1 0 1 511 1 1023, .spokeOut 0),
        (.mv, .mvRecv 33 w1 1 511 (.imem 767 65535) 1, .work 0), (.mv, .mvRecv 33 w1 1 511 (.store 6143) 1, .wr 0 6143),
        (.sq, .sqAgree 33 1 5 3 511 255 true 3 7 0, .spokeOut 0), (.sq, .sqDigest 33 1 6143 1, .work 0),
        (.sq, .sqFlag 33 1 (.loade 1 511 .first 7), .work 0)],
      aloneInCycle x.1 x.2.1 x.2.2 true ∧ aloneInCycle x.1 x.2.1 x.2.2 false) ∧
    cluAt (spanOf 33) 7 ≠ 33 ∧ (wLand.landAt (spanOf 33) 1 (readFrame wLand.tik.phaseNo) 511).w1 = true ∧
    (wLand.landAt (spanOf 33) 1 (readFrame wLand.tik.phaseNo) 510).w1 = false := by
  unfold aloneInCycle State.loneOp; decide +kernel

theorem wit_MatrixWorkAccumulates :
    (∀ x ∈ [(Instr.meLoadw 33 w1 true .mxE2m1 6064, Micro.work 0), (.meMac 33 w1 false false .bf16 .int8 0 64 0, .work 126),
        (.meMac 33 w1 false false .bf16 .int8 0 1 3, .work 1), (.meMacs 33 w1 true true .mxE4m3 .mxInt8 0 4 0, .work 7),
        (.meMacv 33 w1 false .mxE2m1 0 0 2 2 2, .work 0), (.meMacv 33 w1 false .mxE2m1 0 0 2 2 2, .work 3), (.meAddx 33 w1 true 0 0 4 0, .work 3),
        (.meRound 33 w1 false .int4 (-128) 6143 4 60, .wr 0 6143), (.meDrain 33 w1 true 6136 1 63, .wr 7 6143)],
      aloneInCycle .me x.1 x.2 true ∧ aloneInCycle .me x.1 x.2 false) ∧
    ((wAct .me (.meAddx 33 w1 true 0 0 4 0) (.work 3) true).clu 33).me.row true 3 = List.replicate 64 fwNan ∧
    (((wAct .me (.meAddx 33 w1 true 0 0 4 0) (.work 3) true).clu 33).me.row false 3).length = 64 ∧
    (Instr.meRound 33 w1 false .int4 (-128) 6143 4 60).wf = true ∧ (1 : Fw) ≠ fwNan ∧ |(1 : Fw).toInt + (1 : Fw).toInt| ≤ fwLim := by
  unfold aloneInCycle State.loneOp; decide +kernel

/-! ### Memory sequencers -/

/-- Stack 3 in phase 9: bank 5 of pseudo-channels 62 and 63 is open, with 3 activations. -/
def wm : State := { ws with
  msq := [(3, { running := true, str := { len := 9, pos := 4, last := 70, first := false }, incs := 4, banks := [(48 * 62 + 5, { row := some 77, act := some 100, acts := 3, debt := -2 }), (48 * 63 + 5, { row := some 77, act := some 100, acts := 3 })] })] }
/-- The cycle of a word with delta 30 there. -/
def jm : Nat := wm.memEdge wm.tik.phaseNo + (wm.ms 3).str.issue 30
/-- Stack 3 with every bank closed. -/
def wmc : State := { wm with msq := [(3, { (wm.ms 3) with banks := [] })] }

theorem wit_MemoryCommandsTakeEffect :
    (Instr.act 3 30 62 2 47 32767).wf = true ∧ (wm.ms 3).free .act 62 2 [47] jm = true ∧
    (Instr.pre 3 30 62 2 5 false).wf = true ∧ (wm.ms 3).free .pre 62 2 [5] jm = true ∧
    (Instr.pre 3 30 62 2 5 true).wf = true ∧ (wm.ms 3).halted = false ∧
    (∀ pc ∈ [62, 63], ((wm.ms 3).pc pc).forced ≠ some (jm : Int) ∧ ∀ b, b < 48 → (wm.ms 3).wrongAll pc b jm = none) ∧
    (Instr.refb 3 30 62 2 4).wf = true ∧ (wm.ms 3).free .refb 62 2 [4] jm = true ∧
    (Instr.refa 3 30 0 64).wf = true ∧ (wmc.ms 3).free .refa 62 2 [0] jm = true := by decide +kernel

/-- `wm` with written landing entries for a WR of pseudo-channels 62 and 63. -/
def wmw : State := { wm with
  mem := memWrite [] (hbmAddr (hbmKey 3 (hbmLs 62 7 5 77))) [1, 2, 3]
  landing := (List.range 2).map (fun i => (landKey 103 3 (readFrame 9) (510 + i), { w0 := true, w1 := true, h0 := [9, 9] })) }

theorem wit_MemoryReadsAndWritesMoveLines :
    wmw.upsets = [] ∧ (Instr.rd 3 30 62 2 5 7 99 1 510 0).wf = true ∧ (wmw.ms 3).free .rd 62 2 [5] jm = true ∧
    (∀ i, i < 2 → let P := wmw.memPhase (jm + (wmw.ms 3).tt 8 + 12 + i / 8); P = wmw.tik.phaseNo ∨ P = wmw.tik.phaseNo + 1) ∧
    (Instr.wr 3 30 62 2 5 7 3 510).wf = true ∧ (wmw.ms 3).free .wr 62 2 [5] jm = true ∧
    (∀ i, i < 2 → let e := wmw.landAt 103 3 (readFrame wmw.tik.phaseNo) (510 + i)
      e.w0 = true ∧ e.w1 = true ∧ e.e0 = false ∧ e.e1 = false ∧ e.tag = none) := by decide +kernel

theorem wit_MemoryFaultsAndUpkeep :
    (wm.ms 3).halted = false ∧ ((wm.ms 3).pc 63).forced ≠ some (jm : Int) ∧ (Instr.act 3 30 63 1 5 32767).wf = true ∧
    ((wm.ms 3).wrong .act 63 5 jm).isSome = true ∧ ((wm.ms 3).wrong .refb 63 5 jm).isSome = true ∧
    (((Msq.setBank (wm.ms 3) 63 5 { row := some 1, wr := some (jm : Int) })).wrong .pre 63 5 jm).isSome = true ∧
    (wm.ms 3).running = true ∧ ({ wm.ms 3 with auto := true, halted := true } : Msq).auto = true ∧
    9 ≤ ({ wm.ms 3 with incs := 9 } : Msq).debtOf 63 47 := by decide +kernel


/-! ### Ticks, spans and crossings -/

/-- An image of one tick a step whose plan table gives span 5 its plan end at cycle 20 in phase 7. -/
def planImg : List Byte :=
  zeros 16 ++ leBytes 1 4 ++ leBytes 1 4 ++ zeros 40 ++ leBytes 96 8 ++ zeros 24 ++ leBytes 6 2 ++ leBytes 0xFFFF 2 ++ zeros 12 ++ leBytes 128 8 ++
    leBytes 1600 8 ++ zeros 94 ++ leBytes 20 2 ++ zeros 4

/-- A running job in phase `P`, with span 4 at its plan end and span 5 short of its own. -/
def wp (P : Nat) : State := { State.reset with
  tik := { State.reset.tik with phaseNo := P, running := true }
  job := { State.reset.job with running := true, img := planImg }
  landing := [(landKey 5 1 1 511, { w0 := true })]
  cwy := [(2, { running := true, next := some 3, active := 1 })]
  spans := [(4, { running := true, stopped := false, cycle := 5 }), (5, { running := true, stopped := false, cycle := 5 })] }

theorem wit_PhaseEdgesOpenPhasesAndSteps :
    (∀ p, p < 100 → (wp 15).spanIdle p = true) ∧ (wp 15).phaseTime 16 < 2 ^ 112 ∧ ((wp 15).spn 4).running = true ∧ ((wp 15).spn 4).overrun = false ∧
    (wp 15).reached 4 = true ∧ (wp 15).reached 5 = false ∧ (wp 15).job.running = true ∧ (wp 15).job.boundary = none ∧
    16 % (8 * (wp 15).stepTicks) = 0 ∧ (wp 15).stopsHere = false ∧ 15 % (8 * (wp 14).stepTicks) ≠ 0 ∧
    ({ wp 15 with job := { (wp 15).job with ended := true } } : State).stopsHere = true := by decide +kernel

/-- Span 99 in `m`, with trips as given. -/
def wd (m : Stretch) (l1 l2 : Bool) : State := { State.reset with spans := [(99, { running := true, stopped := false, mode := m, modeFrom := 10, l1 := l1, l2 := l2, clearAt := some 20, cycle := 7, cnt := 5 })] }

theorem wit_PlanEndsAndDroop :
    ((wd .nominal false false).spn 99).running = true ∧ ((wd .nominal false false).spn 99).overrun = false ∧
    (wd .nominal false false).spanIdle 99 = true ∧ ((wd .nominal false false).spn 99).mode = .nominal ∧ ((wd .nominal false false).spn 99).l1 = false ∧
    ((wd .nominal false false).spn 99).l2 = false ∧ ((wd .l2 true true).spn 99).l2 = true ∧ ((wd .l2 true true).spn 99).mode = .l2 ∧
    ((wd .l1 true false).spn 99).mode = .l1 ∧ ((wd .hold false false).spn 99).mode = .hold ∧ ((wd .hold false false).spn 99).modeFrom + 8 ≤ 18 ∧
    ((wd .nominal false false).spn 99).clearAt.getD 0 + 64 = 84 ∧ ((wd .hold false false).spn 99).stopped = false ∧ 17 < ((wd .hold false false).spn 99).modeFrom + 8 ∧
    (State.reset.spn 99).stopped = true := by decide +kernel

/-- A crossing write of phase `P` on its way, in phase 9, with the first half of its entry written when `w0` says so. -/
def wc (P : Nat) (w0 : Bool) : State := { State.reset with
  tik := { State.reset.tik with phaseNo := 9 }
  mesh := [{ span := 113, q := 1, entry := 511, half0 := true, half1 := true, data := (zeros 63) ++ [5, 6], empty := true, tag := some 3, desc := some 4, phase := P }]
  landing := if w0 then [(landKey 113 1 (P % 3) 511, { w0 := true, h0 := [1], e0 := false })] else [] }

theorem wit_CrossingWritesLand :
    (∀ P ∈ [7, 8, 9], (wc P false).mesh[0]?.isSome = true ∧ P ≤ (wc P false).tik.phaseNo) ∧ (wc 8 false).tik.phaseNo < 8 + 2 ∧
    7 + 2 ≤ (wc 7 false).tik.phaseNo ∧ ((wc 8 false).landAt 113 1 (8 % 3) 511).w0 = false ∧ ((wc 8 false).landAt 113 1 (8 % 3) 511).w1 = false ∧
    ((wc 8 true).landAt 113 1 (8 % 3) 511).w0 = true := by decide +kernel

/-- An armed or standing keystone at tick 0: idle module, rated step 0. -/
def wk (armed run : Bool) (set now : Nat) : State := { State.reset with
  tik := { State.reset.tik with keyArmed := armed, armAct := 6, stepSet := BitVec.ofNat 64 set, stepNow := now, keyTick := 1000, keyAct := 7 }
  plc := { State.reset.plc with proposal := some { epoch := 1000, go := true } }
  job := { State.reset.job with running := run }
  hst := { State.reset.hst with st := 5 } }

theorem wit_KeystonesAct :
    (wk false false 0 0).hst.st ≠ stResetting ∧ (wk false false 0 0).hst.waiting = [] ∧ (wk false false 0 0).silentAt 0x20030 = false ∧
    (wk false false 0 0).silentAt 0x20038 = false ∧
    (wk false false 0 0).tim.now.toNat + 100000 * ns ≤ (wk false false 0 0).tickTime 1000 ∧
    ({ wk false false 0 0 with tim := { now := 1 } } : State).tickTime 0 < 1 + 100000 * ns ∧
    (wk false true 0 10).phase = 0 ∧ (wk false true 0 10).tick % 2 ^ (wk false true 0 10).kp = 0 ∧ (wk false true 0 10).keyBlocked = false ∧
    (wk false true 0 10).rated ≤ 0 ∧
    ({ wk false true 0 10 with spans := [(99, { running := true, overrun := true })] } : State).keyBlocked = true ∧
    bit (wk true false 0 0).tik.armAct 1 = true ∧ (wk true false 0 0).job.running = false ∧
    ((wk true false 0 0).advance (1000 * ns)).keyBlocked = false ∧
    (let u := (((wk true false 0 0).advance (1000 * ns)).updTik (fun t => { t with keyArmed := false })).commitAndStep (bit (6 : Reg) 0) true
     u.rated ≤ u.tik.stepNow) := by decide +kernel

theorem wit_ClearCommandsClear :
    (wk false false 0 0).hst.st ≠ stResetting ∧ bit (0xFFFF : Reg) 0 = true ∧
    bit (0xFFFE : Reg) 0 = false ∧ State.reset.hst.st = stResetting ∧
    (∀ r ∈ [0x10120, 0x20048, 0x30020 + 113 * 0x100, 0x100020 + 799 * 0x100, 0x40060 + 3 * 0x1000, 0x80040, 0x50040 + 5 * 0x100,
      0x60018 + 5 * 0x100], (wk false false 0 0).silentAt r = false) := by decide +kernel


/-! ### Machine time -/

/-- A time-good, settled module: port 5 is up and leads to the parent, which follows root 7. -/
def wt : State := { State.reset with
  tim := { good := true, acq := .settled, parent := 5, depth := 2, rootId := 7, curPrio := 3, announce := 4, parentSeen := 0, announceAt := 1,
           ports := [(5, {
             txSeq := 9
             sent := [(8, 1000), (7, 500)]
             lastRx := some (2, 90000)
             lastOk := some (2, 90000)
             adv := some ({ good := true, holdover := false, tai := false, root := false, rootId := 7, prio := 3, depth := 1, announce := 4, residual := 2 }, 0)
             exch := List.replicate 8 (125 * 4, 125 * 100) })] }
  hst := { State.reset.hst with st := 5 }
  olf := [(5, { st := 6, lock := true, peerId := 11 })]
  ucie := { up0 := true, up1 := true } }
/-- A beacon from the peer of port 5: SEQ 3, with an echo of beacon `e` received at 1200. -/
def peerBeacon (e : BitVec 16) : List Byte :=
  State.beacon { State.reset with tim := { good := true, rootId := 7, curPrio := 3, depth := 1, announce := 5, ports := [(0, { txSeq := 3, sent := [(2, 70000)], lastRx := some (e, 1200) })] } } 0

theorem wit_MachineTimeRegisterWrites :
    wt.hst.st ≠ stResetting ∧ wt.silentAt 0x10020 = false ∧ wt.silentAt 0x10000 = false ∧ wt.silentAt 0x10110 = false ∧ wt.busy = false ∧
    wt.tim.good = true ∧ field wt.tim.ctl 0 2 ≠ 1 ∧ State.reset.tim.good = false ∧ (0x19 : Reg).toNat < 32 ∧
    field (0x19 : Reg) 0 2 ≤ 1 ∧ field (0x19 : Reg) 2 2 ≤ 2 ∧
    ({ wt with job := { running := true } } : State).busy = true := by decide +kernel

theorem wit_BeaconsAreSent : wt.beacons 5 = true ∧ roundUp wt.tim.now.toNat (2048 * ns) + 2048 * ns < 2 ^ 112 := by decide +kernel

theorem wit_BeaconsGiveExchanges :
    wt.beacons 5 = true ∧ (peerBeacon 8).length = 48 ∧ crc32 ((peerBeacon 8).take 44) = BitVec.ofNat 32 (leAt (peerBeacon 8) 44 4) ∧
    leAt (peerBeacon 8) 0 2 / 4096 = 1 ∧ (∃ x ∈ (wt.bcn 5).sent, x.1.toNat = leAt (peerBeacon 8) 26 2 ∧ wt.now16 ≤ x.2 + 8 * 2048 * 65536) ∧
    (∀ x ∈ (wt.bcn 5).sent, x.1.toNat = leAt (peerBeacon 8) 26 2 →
      x.2 + 8 * 2048 * 65536 < ({ wt with tim := { now := BitVec.ofNat 112 (20000 * ns) } } : State).now16) ∧
    ¬ ((peerBeacon 8).take 47).length = 48 ∧
    leAt (peerBeacon 8) 26 2 = (8 : BitVec 16).toNat ∧ (2 : BitVec 16) + 1 = BitVec.ofNat 16 (leAt (peerBeacon 8) 2 2) := by decide +kernel

/-- The exchange of R42 with no asymmetry: t1 1000, t2 1200, t3 70000, t4 90000, so twice the offset is −19800 and twice the delay 20200
units. -/
theorem test_exchange : exchangeOf { sent := [(8, 1000)], lastOk := some (2, 90000) } (peerBeacon 8) 0 = some (125 * (-19800), 125 * 20200) := by
  decide +kernel

theorem wit_WindowsAverageAndSteer :
    wt.manual = false ∧ wt.tim.isRoot = false ∧ wt.tim.parent < 6 ∧ wt.tim.acq = .settled ∧ wt.tim.good = true ∧
    (wt.bcn wt.tim.parent).adv.isSome = true ∧ ¬ (wt.bcn 5).exch.length < 8 ∧ (wt.bcn 4).exch.length < 8 := by decide +kernel

theorem wit_RootsParentsAndHoldover :
    ({ wt with tim := { wt.tim with isRoot := true } } : State).tim.isRoot = true ∧ wt.tim.parent < 6 ∧ wt.tim.isRoot = false ∧ wt.tim.holdover = false ∧
    field wt.tim.prio 0 8 = 0 ∧ (∀ p, p < 6 → p ≠ wt.tim.parent → (wt.bcn p).adv = none) ∧ wt.tim.rootId ≠ 0 ∧
    ({ wt with tim := { wt.tim with holdover := true, holdSince := 5 } } : State).tim.holdSince + 4194304 * ns < 2 ^ 112 := by decide +kernel

theorem wit_FollowerAndPulsePerSecond :
    wt.ucie.up0 = true ∧ roundUp wt.tim.now.toNat (1000000000 * ns) + 1000000000 * ns < 2 ^ 112 ∧
    ({ wt with tim := { wt.tim with ppsIn := some 0 } } : State).tim.ppsIn = some 0 ∧ 1999999999 * 16384 < 0 + 500000000 * 65536 ∧
    0 + 500000000 * 65536 ≤ 2000000000 * 16384 ∧ field (0x8 : Reg) 2 2 = 2 := by decide +kernel

/-- An IEEE 802.3 Sync frame without UDP. -/
def syncFrame : List Byte := zeros 12 ++ [0x88, 0xF7] ++ zeros 44

theorem wit_ManagementEthernetFrames :
    udpAt syncFrame = none ∧ 48 + 10 ≤ syncFrame.length ∧
    udpAt (syncFrame.take 48 ++ (beBytes (wt.follower / 65536 / 1000000000) 6 ++ beBytes (wt.follower / 65536 % 1000000000) 4) ++ syncFrame.drop 58) = none := by
  decide +kernel


/-! ### Registers, configuration and security -/

/-- An idle module, out of reset, whose port 5 is up and whose span controllers answer. -/
def wi : State := { State.reset with
  hst := { State.reset.hst with st := 2, ready := true, ctl := 0x101 }
  rst := { State.reset.rst with stage := .none, idle := true, dieUp := true }
  job := { loaded := true }
  olf := [(5, { st := 6, lock := true, replay := [{ cell := ⟨0, 0, 1, 0, 1, 0, 0, []⟩, sent := true, slot := 0 }] })] }
/-- The same with a running job. -/
def wj : State := { wi with job := { loaded := true, running := true } }

theorem wit_LinkAndServiceControlWrites :
    wi.hst.st ≠ stResetting ∧ wi.silentAt (0x50050 + 5 * 0x100) = false ∧ wi.busy = false ∧ (wi.port 5).st = linkUp ∧ (wi.port 5).retrains = [] ∧
    (wi.port 5).st ≠ 0 ∧ wj.busy = true ∧ wj.silentAt (0x50050 + 5 * 0x100) = false ∧ wi.silentAt (0x50000 + 5 * 0x100) = false ∧ (7 : Reg).toNat < 8 ∧
    bit (6 : Reg) 0 = false ∧ (0x271007 : Reg) &&& ~~~0xFFFF07 = 0 ∧ 10 ≤ field (0x271007 : Reg) 8 16 ∧ field (0x271007 : Reg) 8 16 ≤ 10000 ∧
    10 ≤ field (0x000A00 : Reg) 8 16 := by decide +kernel

/-- `wi` with a register of region 6 named for PERSIST and FORGET. -/
def wcf : State := { wi with cfg := { wi.cfg with persistOfs := 0x10000, spareReady := true } }

theorem wit_ConfigurationWrites :
    wcf.hst.st ≠ stResetting ∧ inRegion6 (field wcf.cfg.persistOfs 0 36) = true ∧ wcf.cfg.takes jrRegister 16 = true ∧ wcf.cfg.takes jrForget 8 = true ∧
    wcf.cfg.compacting = false ∧ wcf.cfg.spareReady = true ∧ wi.cfg.spareReady = false ∧ ({ wcf.cfg with compacting := true } : Cfg).compacting = true ∧
    groupOf 0x20000 = some (0, 0) ∧ groupOf 0x10060 = some (1, 0) ∧ groupOf 0x40008 = some (2, 0) ∧ groupOf 0x43028 = some (5, 4) ∧
    (∀ r ∈ [0x20000, 0x10060, 0x40008, 0x43028], wcf.silentAt r = false) ∧ 4 < (wcf.groupShadow 5).length ∧ 0 < (wcf.groupShadow 0).length ∧
    0 < (wcf.groupShadow 1).length ∧ (∀ g, g < 6 → (g < 2 ∨ 2 ≤ g)) := by decide +kernel

/-- A challenge of bytes 0 to 31 and the debug authority's token for level 2 over it: its key and nonce make r and s equal. -/
def wdb : State := { wi with sec := { wi.sec with
  chal := (List.range 32).map (BitVec.ofNat 8)
  fresh := true
  level := 2
  fuses := { wi.sec.fuses with dbgMax := 2, dbgKey := [143, 171, 26, 237, 93, 88, 166, 133, 145, 47, 162, 63, 36, 210, 13, 119, 104, 238, 221, 59, 201, 102, 246, 224, 7, 73, 142, 148, 64, 59, 161, 40] }
  token := [(0, 0xd24051517a0b5951), (1, 0xdf8f660856c884d7), (2, 0x24e55b1ffd828cef), (3, 0xed33d0c30d4a5521), (4, 0xd24051517a0b5951), (5, 0xdf8f660856c884d7), (6, 0x24e55b1ffd828cef), (7, 0xed33d0c30d4a5521)] } }

theorem wit_DebugUnlockNeedsAToken :
    wdb.hst.st ≠ stResetting ∧ wdb.sec.fails < 3 ∧ wdb.busy = false ∧ field wdb.sec.level 0 2 ≤ wdb.sec.fuses.dbgMax ∧ wdb.cfg.takes jrSecurity 1 = true ∧ 1 ≤ field wdb.sec.level 0 2 ∧
    ¬ (field ({ wdb.sec with level := 3 } : Sec).level 0 2 ≤ wdb.sec.fuses.dbgMax) := by decide +kernel

theorem test_token_unlocks : wdb.tokenGood 2 = true := by decide +kernel


/-! ### The host interface -/

/-- Headers of the three ways in. -/
def h0 : Hdr := ⟨.ring0, 0x11223344, true, false, none⟩
/-- Ring 1. -/
def h1 : Hdr := ⟨.ring1, 7, false, true, none⟩
/-- The mailbox. -/
def hm : Hdr := ⟨.mbox, 9, false, false, none⟩
/-- Ring 0 with an opcode that no table lists. -/
def hx : Hdr := ⟨.ring0, 3, false, false, some 0x0070⟩

/-- `wi` in host state `st` with one descriptor in ring 0, or in ring 1, and a registered buffer 3. -/
def wh (st : Nat) (ring1 : Bool) : State := { wi with hst := { wi.hst with
  st := st
  cr0Tail := if ring1 then 0 else 1
  cr1Tail := if ring1 then 1 else 0
  bufs := [(3, ⟨0x1000, 0x10000, 3⟩)] } }

/-- A completion that waits. -/
def cpl : Cpl := ⟨.ring0, 5, true, 0x0041, 0, 0, 2, 0, [1, 2]⟩

theorem wit_CompletionsAreFormedAndPosted :
    hdrOf (.identify h0) = some h0 ∧ h0.via ≠ .mbox ∧ (⟨.identify h0, 15⟩ : RunCmd) ∉ wi.hst.orphans ∧ hdrOf (.identify hm) = some hm ∧ hm.via = .mbox ∧
    (⟨.identify h0, 15⟩ : RunCmd) ∈ [(⟨.identify h0, 15⟩ : RunCmd)] ∧
    bit wi.hst.ctl 0 = true ∧ wi.compFull = false ∧ ({ wi.hst with done := [cpl] } : Hst).done = cpl :: [] ∧ cpl.irq = true ∧ wi.hst.coal0 = false := by
  decide +kernel

theorem wit_InterruptsEventsAndPcieReset :
    0 < ({ wi.hst with evtLost := 1 } : Hst).evtLost ∧ bit wi.hst.ctl 0 = true ∧ wi.evtFull = false := by decide +kernel

/-- `wi` with the mailbox holding IDENTIFY with tag 9, or an opcode it does not take. -/
def wmb (op : Reg) : State := { wi with hst := { wi.hst with mboxCmd := [(0, op ||| 0x900000000)] } }

theorem wit_DoorbellsMoveTheRings :
    wi.hst.st ≠ stResetting ∧ wi.hst.waiting = [] ∧ bit wi.hst.ctl 0 = true ∧ wi.hst.err0 = false ∧ wi.hst.err1 = false ∧
    badTail (ringSize wi.hst.cring0) wi.hst.cr0Head wi.hst.cr0Tail (field (15 : Reg) 0 12) = false ∧
    badTail (ringSize wi.hst.cring0) wi.hst.cr0Head wi.hst.cr0Tail (field (16 : Reg) 0 12) = true ∧
    badTail (ringSize wi.hst.cring1) wi.hst.cr1Head wi.hst.cr1Tail (field (15 : Reg) 0 12) = false ∧
    badTail (ringSize wi.hst.cring1) wi.hst.cr1Head wi.hst.cr1Tail (field (0xFFF : Reg) 0 12) = true ∧ wi.hst.mboxBusy = false ∧
    mboxDecode (wmb 2).hst.mboxBytes = none ∧ mboxDecode (wmb 1).hst.mboxBytes = some (.identify hm) ∧
    hdrOf (.identify hm) = some hm ∧ (wmb 1).takes (.identify hm) hm = true := by decide +kernel

theorem wit_RefusedAndPlainCommands :
    (wh 2 true).takes (.load h1 3 0 128 (.ok [])) h1 = true ∧ pathTakes (.load h1 3 0 128 (.ok [])) h1 = false ∧
    (wh 2 false).takes (.place hx) hx = true ∧ pathTakes (.place hx) hx = false ∧ (wh 5 false).takes (.place h0) h0 = true ∧ pathTakes (.place h0) h0 = true ∧ acceptedIn (.place h0) 5 = false ∧
    (wh 2 true).accepts (.identify h1) h1 = true ∧ (wh 2 false).accepts (.identify h0) h0 = true ∧ (wh 2 false).accepts (.identify hm) hm = true ∧
    (wh 2 false).accepts (.bufReg h0 4094 3 0 0x10000000000) h0 = true ∧ (wh 2 false).bufHeld 4094 = false ∧
    (wh 2 false).accepts (.bufReg h0 4095 3 0 0x1000) h0 = true ∧ (wh 2 false).accepts (.bufReg h0 0 3 0x800 0x1000) h0 = true ∧
    (wh 2 false).accepts (.bufFree h0 3) h0 = true ∧ (wh 3 true).accepts (.switchGet h1 0 1) h1 = true ∧
    (wh 3 true).accepts (.switchDone h1 0) h1 = true ∧ (wh 2 false).accepts (.unload h0) h0 = true ∧ (wh 8 false).accepts (.release h0) h0 = true ∧
    8 * 1 < (List.replicate 9 ((0, 0, 0, 0) : Nat × Nat × Nat × Nat)).length := by decide +kernel


/-- A small image of one tick a step for one module: K 16, KP 10, rated step 0, fabric revision 1, and `secs` as its section table. -/
def imgOf (secs body : List Byte) : List Byte :=
  let head := [0x4B, 0x4B, 0x50, 0x49] ++ leBytes 1 2 ++ leBytes 1 2 ++ [16, 10, 0, 0, 1, 1, 1, 0] ++ leBytes 1 4 ++ leBytes (secs.length / 32) 4 ++
    leBytes (128 + (secs ++ body).length) 8
  let rest := leBytes 128 8 ++ zeros 56 ++ secs ++ body
  head ++ sha256 (head ++ zeros 32 ++ rest) ++ rest
/-- A section table entry for every module, of type `ty`, at byte `ofs`. -/
def secOf (ty index ofs len : Nat) : List Byte := leBytes ty 2 ++ leBytes 0xFFFF 2 ++ leBytes index 2 ++ zeros 10 ++ leBytes ofs 8 ++ leBytes len 8
/-- An image without sections. -/
def goodImg : List Byte := imgOf [] []
/-- A staging list of four descriptors: inbound and outbound, each from the CXL region and from host buffer 3. Two lines, issue at tick 0,
deadline 0, delivery or capture in tick 0, phase 1. -/
def stgImg : List Byte :=
  let d := fun (fl : Nat) (host : Bool) => leBytes fl 2 ++ leBytes 1 2 ++ zeros 8 ++ leBytes (8 * fl) 4 ++
    leBytes (if host then 3 * 2 ^ 40 + 256 else 0x010000000200) 8 ++ leBytes (1 * 2 ^ 20 + 2 ^ 40 + 510 * 2 ^ 42) 8
  imgOf (secOf 4 0 256 128) (zeros 96 ++ d 0 false ++ d 1 false ++ d 2 true ++ d 3 true)

/-- `wh` with the image `img` loaded, time-good. -/
def wl (st : Nat) (img : List Byte) : State := { wh st false with job := { img := img, loaded := true }, tim := { good := true } }
/-- A running job of a map of one: this module leads it. -/
def wr (st : Nat) : State := { wl st goodImg with
  job := { img := goodImg, loaded := true, running := st == 7, armed := true, firstStep := 4 }
  plc := { State.reset.plc with placed := true, map := [⟨1, 1, 0, [0, 1, 2, 3, 4, 5], [0, 0, 0, 0, 0, 0]⟩], st := 6, leader := true } }

theorem wit_LoadAcceptsWhatNothingDisproves : loadBad [] goodImg goodImg.length = none := by
  decide +kernel

/-- The words of the example at the end of chapter 07. -/
theorem test_example_words :
    meWord 104 0x0006000008078600 = some (.meMacv 104 ⟨0, false, 0⟩ false .e4m3 0 64 16 4 0) ∧
    meWord 104 0x1389010403000000 = some (.meDrain 104 ⟨78, false, 0⟩ false 1040 4 0) ∧
    mvWord 104 0x1B020208680001F0 = some (.mvSend 104 ⟨108, false, 0⟩ 1040 104 0 0 32) := by decide +kernel

/-- The same example (R191): ME.DRAIN may issue in cycle 76 or later, and in cycle 74 it would meet the array path's holding. -/
theorem test_drain_waits_for_the_buffer :
    let x := fun (c : Nat) => [Iss.mk 0 0 0 (.meMacv 104 ⟨0, false, 0⟩ false .e4m3 0 64 16 4 0), ⟨1, 0, c, .meDrain 104 ⟨78, false, 0⟩ false 1040 4 0⟩]
    holdBad (x 74) = [1] ∧ holdBad (x 75) = [1] ∧ holdBad (x 76) = [] ∧ holdBad (x 78) = [] := by decide +kernel

/-- The example of R263: with REFA in ticks 0 to 5 of 8 only, a bank's debt first reaches 9 in step 29, at increase 183. -/
theorem test_too_few_refreshes :
    debtRun 16 64 [(List.range 6).map (fun j => (8 * j + 7, 0))] 40 0 0 0 = some (0, 29, 183) := by decide +kernel

/-- The example of R159 to R161: issue cycles 0, 1,523 and, three phases later, 4. -/
theorem test_issue_cycles :
    let i : Instr := .meClear 0 ⟨0, false, 0⟩ false
    let ws : List StreamWord := [.mark 1 0, .cmd i 0 1, .idle 1023, .cmd i 500 1, .mark 3 0, .cmd i 4 1, .mark 4 0]
    ((Track.mk [] 0 (.unit 0 .vu) ws.toArray 8 []).walk {}).iss.map (fun x => (x.ph, x.cyc)) = [(1, 0), (1, 1523), (4, 4)] := by decide +kernel

theorem wit_JobCommandsTakeEffect :
    (wl 1 []).accepts (.load h0 3 0 128 (.ok [])) h0 = true ∧ (wl 1 []).badRange 3 0 128 true 128 8 16 24 = none ∧ 0 % 128 = 0 ∧
    headerBad (padTo [] 128) 128 ≠ [] ∧ (wl 2 goodImg).accepts (.place h0) h0 = true ∧ (wl 2 goodImg).admitRow false = 0 ∧
    ¬ ((wl 2 goodImg).imgAt 11 1 % 2 = 1 ∧ 32 < (wl 2 goodImg).imgAt 12 1) ∧ (wl 4 goodImg).accepts (.arm h0) h0 = true ∧
    (wl 4 goodImg).buffersOk = true ∧ (wl 4 stgImg).accepts (.arm h0) h0 = true ∧
    ({ wl 4 stgImg with hst := { (wl 4 stgImg).hst with bufs := [] } } : State).buffersOk = false ∧
    (wl 5 goodImg).accepts (.start h0 4) h0 = true ∧ (wl 5 goodImg).isJobLeader = false ∧ (wl 5 goodImg).plc.proposal = none ∧
    (wr 6).accepts (.stop h0 9) h0 = true ∧ (wr 7).accepts (.stop h0 9) h0 = true ∧ (wr 7).isJobLeader = true ∧ (9 : Reg).toNat < 2 ^ 64 - 1 ∧
    (wr 7).accepts (.abort h0) h0 = true ∧ (wr 7).job.abortSent.contains (wr 7).step = false := by decide +kernel


/-- A firmware image of version 0, SVN 5 and body 1, 2, 3, 4, signed by key 3 with nonce 2. -/
def fwImg : List Byte :=
  [0x4B, 0x4B, 0x46, 0x57] ++ leBytes 1 2 ++ zeros 6 ++ leBytes 5 4 ++ leBytes 4 8 ++
    beBytes 0x9f64a747e1b97f131fabb6b447296c9b6f0201e79fb3c5356e6c77e89b6a806a 32 ++
    beBytes 0x5ecbe4d1a6330a44c8f7ef951d4bf165e6c6b721efada985fb41661bc6e7fd6c 32 ++
    beBytes 0x8734640c4998ff7e374b06ce1a64a2ecd82ab036384fb83d9a79b127a27d5032 32 ++ zeros 328 ++
    beBytes 0x7cf27b188d034f7e8a52380304b51ac3c08969e277f21b35a60b48fc47669978 32 ++
    beBytes 0xd51549e2dcf0d7a76f95b99f1e7365f3d0f8b7b31638f49babf5d45e6a45cd1c 32 ++ [1, 2, 3, 4]
/-- Fuses that hold the hash of key 3, and a burnt SVN. -/
def fwFuses (svn : Nat) : Fuses :=
  { State.reset.sec.fuses with keys := [beBytes 0x4977227b955a0c90988fdc01b5623170ab8e313fe064162240d6cf4bdac7e65e 32], svn := svn }
/-- `wl` with those fuses and `c` as the running transfer. -/
def wx (c : Instr) : State :=
  let s := wl 2 goodImg
  { s with hst := { s.hst with running := [⟨c, 3⟩] }, sec := { s.sec with fuses := fwFuses 5 }, mem := memWrite [] 0 [1, 2, 3] }

/-- The signature of `fwImg` over its header's hash. -/
theorem test_signature :
    ecdsaOk (some (0x5ecbe4d1a6330a44c8f7ef951d4bf165e6c6b721efada985fb41661bc6e7fd6c, 0x8734640c4998ff7e374b06ce1a64a2ecd82ab036384fb83d9a79b127a27d5032))
      0x3353227c12d7c0d34034cb352ec77b9c605531bec49b979665c9cdc7fe57cdd0 0x7cf27b188d034f7e8a52380304b51ac3c08969e277f21b35a60b48fc47669978
      0xd51549e2dcf0d7a76f95b99f1e7365f3d0f8b7b31638f49babf5d45e6a45cd1c = true := by decide +kernel

/-- Every other check of R486 on `fwImg`, and the numbers that its signature is over. -/
theorem test_image_fields :
    padTo fwImg 516 = fwImg ∧ ptOf (slice fwImg 56 64) = some (0x5ecbe4d1a6330a44c8f7ef951d4bf165e6c6b721efada985fb41661bc6e7fd6c, 0x8734640c4998ff7e374b06ce1a64a2ecd82ab036384fb83d9a79b127a27d5032) ∧
    beNat (sha256 (fwImg.take 448)) = 0x3353227c12d7c0d34034cb352ec77b9c605531bec49b979665c9cdc7fe57cdd0 ∧
    beNat (slice fwImg 448 32) = 0x7cf27b188d034f7e8a52380304b51ac3c08969e277f21b35a60b48fc47669978 ∧
    beNat (slice fwImg 480 32) = 0xd51549e2dcf0d7a76f95b99f1e7365f3d0f8b7b31638f49babf5d45e6a45cd1c ∧
    (slice fwImg 0 4 == [0x4B, 0x4B, 0x46, 0x57]) = true ∧ (leAt fwImg 4 2 == 1) = true ∧ leAt fwImg 6 1 = 0 ∧ leAt fwImg 16 8 = 4 ∧
    ((fwFuses 5).keys[0]? == some (sha256 (slice fwImg 56 64))) = true ∧ (slice fwImg 24 32 == sha256 (slice fwImg 512 4)) = true ∧
    decide (512 + 4 ≤ fwImg.length) = true ∧ leAt fwImg 12 4 = 5 := by decide +kernel

/-- It verifies on a module whose fuses hold its key's hash and its SVN, and fails where a later SVN is burnt. -/
theorem test_signed_image_verifies (s : State) (h : s.sec.fuses = fwFuses 5) : s.fwVerifies (padTo fwImg 516) = true := by
  obtain ⟨h1, h2, h3, h4, h5, h6, h7, h8, h9, h10, h11, h12, h13⟩ := test_image_fields
  simp only [State.fwVerifies, h, h1, h2, h3, h4, h5, h6, h7, h8, h9, h10, h11, h12, h13, test_signature]
  decide +kernel

theorem test_rolled_back_image_fails (s : State) (h : s.sec.fuses = fwFuses 6) : s.fwVerifies fwImg = false := by
  obtain ⟨-, -, -, -, -, -, -, -, -, -, -, -, h13⟩ := test_image_fields
  simp [State.fwVerifies, h, h13, fwFuses]

/-- A buffer as long as the report that the free certificates make. -/
def wat : State := { wl 2 goodImg with hst := { (wl 2 goodImg).hst with bufs := [(3, ⟨0, 336 + (wl 2 goodImg).certChain.length, 3⟩)] } }

theorem wit_AttestFits : wat.badRange 3 0 (336 + wat.certChain.length) false 1 8 16 16 = none ∧ wat.sec.debug < 3 ∧
    wat.accepts (.attest h0 3 0 []) h0 = true := by
  refine ⟨?_, by decide +kernel, by decide +kernel⟩
  simp [wat, State.badRange, State.buf, xferBuf]
  rfl

theorem wit_TransferCommandsRunToTheirEnd :
    (wl 2 goodImg).accepts (.dma h0 3 true 128 0xBFF80 128) h0 = true ∧ (wl 2 goodImg).badRange 3 128 128 false 128 10 16 32 = none ∧
    (wl 2 goodImg).localOk 0xBFF80 128 = true ∧ (wl 2 goodImg).localOk 0xBFF80 256 = false ∧
    (wl 2 goodImg).accepts (.fwUpdate h0 3 0 516) h0 = true ∧ (wl 2 goodImg).badRange 3 0 516 true 1 8 16 24 = none ∧
    (wl 2 goodImg).hst.running = [] ∧ (wx (.fwUpdate h0 3 0 516)).hst.waiting = [] ∧
    ((wx (.dma h0 4095 false 0 0 128)).hst.running.filter (fun r => isTransfer r.cmd))[0]? = some ⟨.dma h0 4095 false 0 0 128, 3⟩ ∧
    (wx (.dump h0 3 true 0 0x10000)).job.running = false ∧ (wx (.dump h0 3 true 0 0x10000)).rst.autoDue = false ∧
    (wx (.fwUpdate h0 3 0 516)).sec.slot ≤ 1 ∧ wi.ucieCut = false ∧ (wl 2 goodImg).cxlFails 0xBFF80 128 = false ∧
    (wl 2 goodImg).cxlFails 0x10000000000 128 = true ∧ ({ wi with ucie := { wi.ucie with downAt := some 0 } } : State).ucieCut = true ∧
    (wl 2 goodImg).transferHeld ⟨.dma h0 4095 false 0 0 128, 3⟩ = false := by decide +kernel

theorem wit_DumpFits :
    (wl 2 goodImg).accepts (.dump h0 4095 false 0 0x40000000) h0 = true ∧ (wl 2 goodImg).badRange 4095 0 0x40000000 false 1 8 16 24 = none ∧
    ((wl 2 goodImg).taken (.dump h0 4095 false 0 0x40000000) h0).1.dumpSize ≤ 0x40000000 ∧ (wl 2 goodImg).job.running = false ∧
    (wl 2 goodImg).hst.st ≠ stStarting := by
  refine ⟨by decide +kernel, by decide +kernel, dump_size _ (by decide +kernel), by decide +kernel, by decide +kernel⟩


theorem wit_RegisterAndResetCommands :
    (wl 2 goodImg).accepts (.regRead h0 0x20020 1) h0 = true ∧ (wl 2 goodImg).silentAt 0x20020 = false ∧
    (((wl 2 goodImg).taken (.regRead h0 0x20020 1) h0).1.readReg 0x20020 0).1 = .ok 0 ∧
    (wl 2 goodImg).accepts (.regRead h0 0x20021 1) h0 = true ∧
    (((wl 2 goodImg).taken (.regRead h0 0x20021 1) h0).1.readReg 0x20021 0).1 = .refused 0x7002 ∧
    (({ wl 2 goodImg with spans := [(112, { silent := true })] } : State).taken (.regRead h0 0x20020 1) h0).1.silentAt 0x20020 = true ∧
    (wl 2 goodImg).accepts (.regWrite h0 0x20020 1 [5]) h0 = true ∧
    (((wl 2 goodImg).taken (.regWrite h0 0x20020 1 [5]) h0).1.writeReg 0x20020 5).1 = .ok 0 ∧
    (((wl 2 goodImg).taken (.regWrite h0 0x20021 1 [5]) h0).1.writeReg 0x20021 5).1 = .refused 0x7002 ∧
    (wl 2 goodImg).accepts (.regWrite h0 0x20021 1 [5]) h0 = true ∧
    (wl 2 goodImg).accepts (.regRead h0 0x20020 0) h0 = true ∧ (wl 2 goodImg).accepts (.regRead h0 0x20020 5) h0 = true ∧
    (wl 2 goodImg).accepts (.reset h0) h0 = true ∧ (wl 2 goodImg).hst.running = [] ∧ (wl 2 goodImg).rst.stage = .none ∧
    (wl 2 goodImg).resetWait ≠ 0 ∧
    ({ wl 2 goodImg with tim := { now := BitVec.ofNat 112 (99990000 * ns) } } : State).resetWait = 0 ∧
    (wl stStarting goodImg).accepts (.reset h0) h0 = true ∧ (wl stStarting goodImg).job.running = false := by decide +kernel

theorem wit_RegisterAndWindowAccesses :
    wi.hst.st ≠ stResetting ∧ wi.hst.waiting = [] ∧ wi.silentAt (0x40090 + 3 * 0x1000) = false ∧ wi.busy = false ∧ wj.busy = true ∧
    (0x3E80001 : Reg) &&& ~~~0x3FFFF01 = 0 ∧ field (0x3E80001 : Reg) 16 10 ≤ 1000 ∧ wi.hst.resetDone = false ∧ bit (0x3E80001 : Reg) 0 = true ∧
    bit ({ wi.hst with ctl := 0x100 } : Hst).ctl 0 = false ∧ bit (0x100 : Reg) 0 = false ∧ bit wi.hst.ctl 0 = true ∧ wi.silentAt 0x20020 = false := by
  decide +kernel

/-- A droop threshold write whose two bytes are within their ranges. -/
def droopOk (v : Reg) : Bool := decide (max 30 (field v 0 8 + 10) ≤ field v 8 8 ∧ field v 8 8 ≤ 90 ∧ 15 ≤ field v 0 8 ∧ field v 0 8 ≤ 60)

theorem wit_DroopWrites :
    placeOf 0x20021 = .none ∧ placeOf 0xF0000 = .none ∧ wi.mute 99 = false ∧
    droopOk 0x1E0F = true ∧ droopOk 0x5A3C = true ∧ droopOk 0x4632 = true := by decide +kernel

theorem wit_DroopClamp :
    30 ≤ field (0x1E0E : Reg) 8 8 ∧ field (0x1E0E : Reg) 8 8 ≤ 90 ∧ field (0x1E0E : Reg) 0 8 < 15 ∧ (0x1E0E : Reg).toNat < 65536 := by
  decide +kernel

theorem wit_DiagWindow :
    field wi.hst.diagBase 0 14 * 0x400000 + 0x20020 = 0x20020 ∧ wi.regValue 0x20020 = some 0 := by decide +kernel

theorem wit_TransferArea : 0x20020 < 0x400000 ∧ 0x20020 % 8 = 0 ∧ 2 ^ 30 - 4 + 4 ≤ 2 ^ 30 := by norm_num


/-- `wi` with one control request waiting. -/
def wq (q : CtlReq) : State := { wi with ctl := [(q, 5)], svc := { wi.svc with accepted := 1 } }
/-- A module long after its watchdog was fed, with no reset in progress; `t` ns. -/
def wwd (t : Nat) : State := { wi with tim := { now := BitVec.ofNat 112 (t * ns) }, flt := { wi.flt with ctl := 4, hangAt := some 0 } }

theorem wit_ControlNetworkAndWatches :
    (wq (.poll 113)).ctl[0]? = some (.poll 113, 5) ∧ (wq (.diag false 0x20020 0)).ctl[0]? = some (.diag false 0x20020 0, 5) ∧ wi.ucieCut = false ∧
    (wq (.cmd ⟨.regRead h0 0x20020 4, 0⟩ 3 [1, 2, 3])).ctl[0]? = some (.cmd ⟨.regRead h0 0x20020 4, 0⟩ 3 [1, 2, 3], 5) ∧
    (wq (.cmd ⟨.regRead h0 0x20020 4, 0⟩ 3 [1, 2, 3])).hst.waiting = [] ∧
    svcNbr ⟨0, 0, 1, 0, 1, 0, 0, leBytes (2 ^ 63 + 0x20020) 8 ++ zeros 56⟩ = true ∧ (wi.port 5).st = linkUp ∧ wi.job.running = false ∧
    ({ wi.job with ends := [(3, 70)] } : Job).ends.getLast? = some (3, 70) ∧
    (wwd 1000000000).rst.stage = .none ∧ (wwd 1000000000).ucie.fedAt + 1000000000 * ns ≤ (wwd 1000000000).tim.now.toNat ∧ (wwd 1000000000).resetWait = 0 ∧
    ({ wwd 1000000000 with rst := { (wwd 1000000000).rst with last := (999999999 * ns : Nat) } } : State).resetWait ≠ 0 ∧
    bit (wwd 1000000000).flt.ctl 2 = true ∧ 0 + 1000000000 * ns ≤ (wwd 1000000000).tim.now.toNat ∧ (wwd 1000000000).dmp.running = false := by
  decide +kernel


/-- `wi` as chip 0 of a map of two modules along z, linked over port 5. -/
def wsv : State := { wi with
  job := { loaded := true, img := zeros 12 ++ [1, 1, 2, 0] ++ leBytes 1 4 }
  plc := { wi.plc with placed := true, jobDigest := zeros 32 }
  cwy := [(5, { mapped := true, lport := 5 })] }
/-- A request to the neighbour on port 5 and one to chip 1. -/
def srq (nbr : Bool) (dest : Nat) : SvcReq := ⟨nbr, dest, 2 ^ 47 + 0x20020, false, 0, []⟩
/-- A service cell from chip 1: kind, TTL, and the words of destination and request tag. -/
def sct (kind : BitVec 4) (dest rtag ttl : Nat) : Cell :=
  ⟨0, 0, 1, kind, 0, 0, 0, leBytes dest 8 ++ leBytes 1 2 ++ leBytes rtag 2 ++ leBytes 1 1 ++ [0, 3] ++ leBytes ttl 1 ++ zeros 16 ++ leBytes 0x123456789 8 ++ zeros 24⟩
/-- Its register address. -/
def sreg (r : Nat) : Nat := nbrDest 5 (regBase + r)
/-- `wsv` with a request outstanding. -/
def wso : State := { wsv with svc := { wsv.svc with out := [(0, ⟨64, 5, 0, 7, true, 1⟩)] } }

theorem wit_ServicesRequestsAndMessages :
    ({ wsv with svc := { wsv.svc with out := (List.range 64).map (fun i => (i, ⟨64, 5, 0, 7, true, 1⟩)) } } : State).freeSlot = none ∧
    wsv.freeSlot = some 0 ∧ wsv.requestHop (srq true 5) = .via 5 ∧ wsv.requestHop (srq false 1) = .via 5 ∧ wsv.requestHop (srq true 4) = .noRoute ∧
    svcNbr (sct 0 (sreg 0x20020) 64 9) = true ∧ svcOfs (sct 0 (sreg 0x20020) 64 9) = regBase + 0x20020 ∧ svcLen (sct 0 (sreg 0x20020) 64 9) = 0 ∧
    wsv.freshGen 5 (sct 0 (sreg 0x20020) 64 9) = true ∧ bit wsv.svc.ctl 2 = false ∧ (wsv.takeCell 5 (sct 0 (sreg 0x20020) 64 9)).silentAt 0x20020 = false ∧
    (wsv.takeCell 5 (sct 0 (sreg 0x20020) 64 9)).regValue 0x20020 = some 0 ∧ (wsv.port 5).st = linkUp ∧
    svcOfs (sct 1 (sreg 0x20020) 64 9) = regBase + 0x20020 ∧ wsv.freshGen 5 { sct 0 (sreg 0x20020) 64 9 with gen := 3 } = false ∧
    ((wso.takeCell 5 (sct 2 (sreg 0x20020) 64 9)).takesResponse 5 (sct 2 (sreg 0x20020) 64 9)).1 = true ∧ wso.svc.waiting = [] := by decide +kernel

theorem wit_ServiceForwardAndMessage :
    wsv.forHere (sct 0 (chipDest 1 8) 64 2) = false ∧ wsv.hop (svcChip (sct 0 (chipDest 1 8) 64 2)) = .via 5 ∧ 1 < (nth 0 (sct 0 (chipDest 1 8) 64 2).payload 15).toNat ∧
    wsv.forHere (sct 5 (chipDest 0 8) 64 2) = true ∧ wsv.freshGen 5 (sct 5 (chipDest 0 8) 64 2) = true ∧
    wso.svc.out.find? (fun x => x.1 == 0) = some (0, ⟨64, 5, 0, 7, true, 1⟩) := by decide +kernel

/-- `wsv` with the job running, its peer in it, and `l` raised. -/
def wfl (run : Bool) (l : List Raised) : State := { wsv with
  job := { wsv.job with running := run }
  flt := { wsv.flt with raised := l } }
/-- A raised fault. -/
def rsd (code : BitVec 16) : Raised := ⟨code, 3, 0, 0, 0, none, 0, 0, none, false, false, false, true⟩
/-- An abort cell from chip 1 for step 0. -/
def abc : Cell := ⟨0, 0, 2, 8, 0, 0, 0, padTo (floodDest ++ leBytes 1 2 ++ leBytes 0 4 ++ leBytes 0x1001 2 ++ zeros 4 ++ zeros 4) 64⟩

theorem wit_FaultsAreRecordedAndStepsAborted :
    (wfl true [rsd 0x1001]).flt.raised = rsd 0x1001 :: [] ∧ (rsd 0x1001).code ≠ 0x2008 ∧ (rsd 0x1001).code ≠ 0x5001 ∧
    (wfl true [rsd 0x1001]).ucieCut = false ∧ wsv.flt.foldMs = wsv.msNow ∧ (rsd 0x1001).source < 114 ∧ wsv.plc.placed = true ∧
    ({ wfl true [rsd 0x1001] with ucie := { up0 := false, up1 := false, narrow := true, downAt := some 0 } } : State).ucieCut = true ∧
    severity (rsd 0x1001).code (rsd 0x1001).run 0 = 3 ∧ (wfl true [rsd 0x1001]).secondary (rsd 0x1001) = false ∧
    64 ≤ (Tbl.get ⟨0, 0, 0⟩ ({ wsv.flt with folds := [(0x1001, ⟨64, 3, 2⟩)] } : Flt).folds (rsd 0x1001).code.toNat).formed ∧
    (wfl true []).busy = true ∧ (wfl true []).job.abortSent.contains 0 = false ∧ (wfl true []).sharesJob 5 = true ∧ (wfl true []).sharesJob 4 = false ∧
    slice abc.payload 16 4 = (wfl true []).plc.jobDigest.take 4 ∧
    abc.gen.toNat = (wfl true []).genOf (leAt abc.payload 8 2 / 2 ^ 15) (leAt abc.payload 8 2 % 2 ^ 15) ∧ (wfl true []).stepNear (leAt abc.payload 10 4) = 0 := by
  decide +kernel


/-- `wsv` with port 5 as `o`. -/
def wol (o : Olf) : State := { wsv with olf := [(5, o)] }
/-- Eight lanes in their places, the first `n` locked. -/
def lns (n : Nat) : List LaneObs := (List.range 8).map (fun i => ⟨decide (i < n), false, i⟩)
/-- A peer's IDENT of 66 bytes: identity 9, epoch 4, width 2, fabric revision 1, no digest, and the flags. -/
def idn (id flags : Nat) : List Byte := leBytes id 8 ++ [0, 1, 4, 2] ++ leBytes 1 2 ++ zeros 4 ++ zeros 32 ++ leBytes flags 1 ++ zeros 15

theorem wit_LinksTrain :
    ((wol { st := 1 }).port 5).st = 1 ∧ ((List.range 8).filter (fun i => nth (0 : BitVec 3) (List.replicate 8 0) i ≠ 0)).length = 0 ∧
    ((wol { st := 3 }).port 5).st = 3 ∧ 1 ≤ Olf.goodLanes { st := 3, lane := Olf.aligned { st := 3 } (lns 4) : Olf } ∧
    (idn 9 0).length = 66 ∧ leAt (idn 9 0) 50 1 = 0 ∧ wsv.sec.fuses.physId.toNat < leAt (idn 9 0) 0 8 ∧ leAt (idn 9 1) 50 1 % 2 = 1 ∧
    slice (idn 9 1) 18 32 = wsv.ownDigest ∧ leAt (idn 9 1) 12 2 = wsv.sec.fabric ∧ Olf.minWidth { st := 4 } ≤ min 3 2 ∧ 2 ≤ ((wol { st := 5, windows := 2 }).port 5).windows ∧ ((wol { st := 5 }).port 5).windows < 2 ∧ (wsv.rtr 0).mapped = false ∧
    wsv.electing = false ∧ wsv.svc.waiting = [] := by decide +kernel

/-- A link that is up with all lanes, `wsv` otherwise, and a job that runs with it. -/
def wup : State := { wol { st := 6, lock := true, lane := Olf.aligned {} (lns 8), credSvc := 55, credFoot := 8, width := 3, sched := true, gotPeer := true } with
  job := { wsv.job with running := true }
  tik := { wsv.tik with running := true, phaseNo := 8 * 512 } }
/-- Its run check at tick 512: step 512, with this module's digest. -/
def rck (step : Nat) : List Byte := leBytes 512 4 ++ leBytes step 4 ++ zeros 14

theorem wit_LinksAreKeptUp :
    (wup.port 5).st = linkUp ∧ (wup.port 5).credSvc + (wup.port 5).inFlight 1 (leAt [1, 0, 0, 0] 2 2 % 1024) + leAt [1, 0, 0, 0] 0 1 = 56 ∧
    (wup.port 5).credFoot + (wup.port 5).inFlight 2 0 + leAt [1, 0, 0, 0] 1 1 = 8 ∧ (wup.port 5).credSvc + (wup.port 5).inFlight 1 0 + leAt [0, 0, 0, 0] 0 1 ≠ 56 ∧
    bit (wup.port 5).lane (8 * 7) = true ∧ (wup.port 5).lossAt = none ∧ 1 ≤ (wup.port 5).goodLanes ∧ wup.job.runchk ≠ some wup.tick ∧
    (∀ q, q < 6 → (wup.port q).digOnly = false) ∧ wup.busy = true ∧
    (wup.port 5).minWidth ≤ widthCode (Olf.goodLanes { wup.port 5 with lane := setField (setField (wup.port 5).lane (8 * 7) 1 0) (8 * 7 + 5) 3 4 }) ∧
    ((wup.port 5).retrains.filter (fun r => wup.tim.now.toNat < r + 1000000000 * ns)).length < 3 ∧ (wup.port 5).minWidth ≤ min (wup.port 5).propose 2 ∧
    min (wup.port 5).propose 2 ≠ (wup.port 5).width ∧ wup.job.running = true ∧ wup.tick % 256 = 0 ∧ wup.sharesJob 5 = true ∧
    slice (rck 512) 8 4 = wup.plc.jobDigest.take 4 ∧ leAt (rck 512) 4 4 = wup.stepAt (wup.tickNear (leAt (rck 512) 0 4)) % 2 ^ 32 ∧
    leAt (rck 511) 4 4 ≠ wup.stepAt (wup.tickNear (leAt (rck 511) 0 4)) % 2 ^ 32 ∧ 256 ≤ wup.tick ∧ (wup.port 5).runTick = none ∧
    bit ((wol {}).port 5).ctl 0 = true ∧ ((wol {}).port 5).st = 0 ∧ wup.svc.waiting = [] ∧ wup.electing = false ∧ (wol {}).rst.stage = .none := by
  decide +kernel


/-- A control block of 32 bytes with acknowledgement `ack` and the two cumulative counts, and its CRC. -/
def cblk (ack svc foot : Nat) : List Byte :=
  let b := leBytes (ack + svc * 2 ^ 12 + foot * 2 ^ 24) 8 ++ zeros 22
  b ++ beBytes (crc16 b).toNat 2
/-- A link with two service cells in its replay buffer. -/
def wrp : State := wol { st := 6, lock := true, sentSvc := 2, replay := [{ cell := ⟨0, 0, 1, 0, 0, 0, 0, zeros 64⟩, sent := true, slot := 3 }, { cell := ⟨1, 0, 1, 0, 0, 0, 0, zeros 64⟩, sent := true, slot := 4 }] }
/-- A service cell with sequence number `n`. -/
def scn (n : Nat) : Cell := ⟨BitVec.ofNat 10 n, 0, 1, 5, 0, 0, 0, zeros 64⟩

theorem wit_FramesAndCellsPass :
    2 ≤ (wrp.port 5).st ∧ (wrp.port 5).frags = [] ∧ wup.tim.epoch.toNat / 96 % (8 / 2 ^ (wup.port 5).width) = 0 ∧ (257 - 1) / 256 % (8 / 2 ^ 0) ≠ 0 ∧ ((wol {}).port 5).st < 2 ∧ ¬ ((zeros 31).length = 32) ∧
    (cblk 1 1 0).length = 32 ∧ crc16 ((cblk 1 1 0).take 30) = BitVec.ofNat 16 (beNat (slice (cblk 1 1 0) 30 2)) ∧
    bit (BitVec.ofNat 64 (leAt (cblk 1 1 0) 0 8)) 10 = false ∧
    (field (BitVec.ofNat 64 (leAt (cblk 1 1 0) 0 8)) 0 10 + 1024 - (0 : BitVec 10).toNat) % 1024 ≤ ((wrp.port 5).replay.filter (fun y => !y.fresh)).length ∧
    cellOf (zeros 71) = none ∧ cellOf (cellBytes (scn 0)) = some (scn 0) ∧ (scn 0).seq.toNat = (wrp.port 5).rxSeq ∧ (scn 3).seq.toNat ≠ (wrp.port 5).rxSeq ∧
    cellOf (cellBytes (scn 3)) = some (scn 3) ∧ (wrp.port 5).rxSvc.length < 56 ∧ (⟨true, 3, 0⟩ : FecObs).ok = true ∧
    cellOf (cellBytes { scn 0 with cls := 0 }) = some { scn 0 with cls := 0 } ∧ (scn 0).gen.toNat = field (wup.port 5).peer 4 4 ∧
    (({ wup with cwy := [(5, { running := true })] } : State).rtr 5).running = true ∧ (wup.port 5).matched = 0 := by decide +kernel

/-- An entry of a page: expect tag 0x21 by dimension, and go out on the logical ports of `mask`; or no entry. -/
def pge (expect : Bool) (mask : Nat) : List Byte := if expect then leBytes (0x21 + mask * 2 ^ 12 + 2 ^ 20) 8 ++ zeros 8 else zeros 16
/-- A job in which port 2 is logical port 0 and port 3 is logical port 1; cell 0x21 stands in port 2's hold. -/
def wrt (hold : List RxCell) : State := { wup with
  tik := { wup.tik with ctl := 0x00000A01, phaseNo := 0, slotNo := 0 }
  cwy := [(2, { mapped := true, lport := 0, running := true, pages := pge true 2 }), (3, { mapped := true, lport := 1, running := true, loaded := true, pages := pge false 0 })]
  olf := [(2, { st := 6, sched := true, hold := hold }), (3, { st := 6, sched := true })] }
/-- The cell. -/
def c21 : Cell := ⟨0, 0, 0, 0, 0, 0, 0x21, zeros 64⟩

theorem wit_RouterSlotsCarryCells :
    wup.job.running = true ∧ wup.job.boundary = none ∧ (wrt []).tik.slotNo < ((wrt []).tik.phaseNo + 1) * (32 * (wrt []).k) ∧
    (wrt []).routers = [(0, 2), (1, 3)] ∧ (wrt []).physPort 0 = 2 ∧ (wrt []).physPort 1 = 3 ∧
    bit (((wrt []).rtr 2).entry 1 0 0) 20 = true ∧ bit (((wrt []).rtr 2).entry 1 0 0) 18 = false ∧ field (((wrt []).rtr 2).entry 1 0 0) 12 6 = 2 ^ 1 ∧
    field (((wrt []).rtr 2).entry 1 0 1) 0 2 = 0 ∧ bit (((wrt []).rtr 3).entry 1 0 0) 20 = false ∧ field (((wrt []).rtr 3).entry 1 0 1) 0 2 = 0 ∧
    ((wrt [⟨c21, 0⟩]).port 2).hold = ⟨c21, 0⟩ :: [] ∧ ((wrt []).rtr 3).loaded = true ∧ ((wrt []).port 3).svcOnly = false ∧ (wrt []).tik.slotNo < 7 ∧ tagOk (((wrt []).rtr 2).entry 1 0 0) c21 = true ∧ ((wrt []).port 3).scheduled < 448 := by
  decide +kernel


/-- `wr 7` with the boundary of step 6 reached, STOP running, and `ab` as the aborts known. -/
def wjs (ab : List (Nat × BitVec 16 × Nat)) : State :=
  let s := wr 7
  { s with
    job := { s.job with boundary := some 6, lastStep := some 5, aborts := ab, ends := [(4, 0), (5, 9)] }
    hst := { s.hst with running := [⟨.stop h0 5, 3⟩] }
    tik := { s.tik with running := true } }
/-- The same module in a paired run, with a digest handed over for step 4. -/
def wpr : State := { wjs [] with plc := { (wjs []).plc with paired := true, own := [(4, 7)], agreed := [4] } }

/-- The second module of a map of two along z, below the leader. -/
def wst : State :=
  let e := fun (id hall : Nat) (ports : List Nat) => (⟨BitVec.ofNat 64 id, 1, hall, ports, [0, 0, 0, 0, 0, 0]⟩ : MapEntry)
  { wsv with
    job := { wsv.job with running := true }
    plc := { wsv.plc with chip := 1, map := [e 9 3 [7, 7, 7, 7, 7, 5], e 1 5 [7, 7, 7, 7, 5, 7]] }
    cwy := [(5, { mapped := true, lport := 4 })] }

theorem wit_JobsStopAndStepsQualify :
    (wjs [(6, 0x1001, 0)]).hst.waiting = [] ∧ (wjs [(6, 0x1001, 0)]).job.boundary = some 6 ∧ (wjs [(6, 0x1001, 0)]).lowAbort = some (6, 0x1001, 0) ∧
    (wjs []).lowAbort = none ∧ (wjs []).cxl.runs.all (fun r => r.inbound || r.acked) = true ∧ (wjs []).hst.running = [⟨.stop h0 5, 3⟩] ∧ h0.via ≠ .mbox ∧
    (wjs []).hst.orphans = [] ∧ (wjs []).job.running = true ∧ (wjs []).isJobLeader = true ∧ (wjs []).job.requests = [] ∧ (wjs []).job.stopAfter = none ∧
    ({ (wjs []).job with digests := [(4, 9)] } : Job).digests = (4, 9) :: [] ∧ (wjs []).aborted 4 = false ∧ (wjs []).plc.paired = false ∧
    (wjs []).job.ends.find? (fun e => e.1 == (wjs []).job.firstStep + (wjs []).job.qualified) = some (4, 0) ∧ (wjs []).hostDone 4 = true ∧
    (wjs []).confirmed 4 = true ∧ field (wjs []).hst.ctl 8 8 = 1 ∧ field ({ (wjs []).hst with ctl := 1 } : Hst).ctl 8 8 = 0 ∧
    wpr.plc.paired = true ∧ wpr.digestUp = none ∧ wpr.plc.own.find? (fun x => x.1 == 5) = none ∧ wpr.plc.twin.find? (fun x => x.1 == 4) = none ∧
    wpr.aborted 4 = false ∧
    wpr.job.ends.find? (fun e => e.1 == 4) = some (4, 0) ∧ wpr.confirmed 4 = true ∧
    bit ({ wjs [] with flt := { (wjs []).flt with abortWin := 0x1000A } } : State).flt.abortWin 16 = true ∧
    wst.job.running = true ∧
    wst.isJobLeader = false ∧ wst.jobParent = some 5 := by decide +kernel

/-- `goodImg` placing on one module of hall number 5: electing, gathering or switching. -/
def wpl (st : Nat) (lead : Bool) : State :=
  let s := wl stPlacing goodImg
  { s with plc := { s.plc with st := st, hall := 5, leader := lead, claim := (5, 0), parent := if lead then 7 else 5, ctl := setField s.plc.ctl 28 3 2 } }
/-- A health record of hall number 3 and identity 9. -/
def hr9 : Health := ⟨9, 3, 1, 0, true, false, false, false, false, 1, [], zeros 16⟩
/-- A canonical map of this module alone. -/
def map1 : List MapEntry := [⟨1, 1, 5, [0, 1, 2, 3, 4, 5], [0, 0, 0, 0, 0, 0]⟩]

theorem wit_PlacementRunsItsCourse :
    (wpl 2 false).electing = true ∧ (wpl 2 false).hst.waiting = [] ∧ (wpl 2 false).admitRow false = 0 ∧
    (wpl 2 false).takesPlc (wpl 2 false).imgDigest8 = true ∧ (wpl 2 false).plc.claim = ((wpl 2 false).plc.hall, 0) ∧
    (∀ p, p < 6 → (wpl 2 false).wrongDelay p = false) ∧ (wpl 3 true).takesPlc (wpl 3 true).imgDigest8 = true ∧ (wpl 3 true).plc.health = [] ∧
    (wpl 3 false).plc.parent < 6 ∧ (State.findMap { wpl 3 true with plc := { (wpl 3 true).plc with st := 4 } }) = none ∧
    (wpl 3 true).plc.rounds < field (wpl 3 true).plc.ctl 28 3 ∧ (wpl 3 true).plc.given = none ∧ (wpl 3 true).plc.kidPorts = [] ∧
    ({ wpl 2 false with tim := {} } : State).admitRow false ≠ 0 ∧ 7 ≠ (wpl 2 false).plc.hall ∧ (wpl 5 true).plc.switch = none ∧
    map1.findIdx? (fun e => e.physId == (wpl 3 false).sec.fuses.physId) = some 0 ∧
    (wpl 2 true).plc.proposal = none ∧ (wpl 2 true).hst.st = stPlacing := by decide +kernel

/-- A placed module of a map of two: leader when `lead`, START proposed for epoch `e` in ns, READY or GO as `x` says. -/
def wsp (lead : Bool) (x : Option Proposal) : State :=
  let s := wl stStarting goodImg
  { s with
    job := { s.job with armed := true, accepted := true }
    plc := { s.plc with placed := true, st := 7, leader := lead, map := if lead then map1 else ⟨9, 1, 3, [0, 1, 2, 3, 4, 5], [0, 0, 0, 0, 0, 0]⟩ :: map1, proposal := x } }
/-- A proposal. -/
def pr1 (own go : Bool) : Proposal := { epoch := 5000000, own := own, go := go }

theorem wit_StartsAreProposedAndGo :
    (wsp false none).hst.waiting = [] ∧ (wsp false none).plc.placed = true ∧ (wsp false none).job.running = false ∧
    (wsp false none).isJobLeader = false ∧ (wsp false none).job.loaded = true ∧ (wpl 2 false).plc.placed = false ∧ (wpl 2 false).job.loaded = true ∧ (wsp true (some (pr1 true false))).isJobLeader = true ∧
    (wsp true (some (pr1 true false))).job.armed = true ∧ (wsp true (some (pr1 true false))).job.accepted = true ∧
    (wsp true (some (pr1 true false))).job.withdrawn = 0 ∧ (wsp true (some (pr1 true false))).tim.now.toNat + 200000 * ns ≤ 5000000 * ns ∧
    (wsp true (some (pr1 true false))).jobChildren = [] ∧ (wsp false (some (pr1 true false))).hst.st = stStarting := by decide +kernel


/-- The staging list's image in a job that runs, at phase 1, with the CXL region decoded and `runs` in progress. -/
def wsg (link : Bool) (runs : List StgRun) : State :=
  let s := wl 7 stgImg
  { s with
    job := { s.job with running := true, armed := true }
    tik := { s.tik with running := true, phaseNo := 1 }
    cxl := { s.cxl with linkUp := link, staging := true, hdm := [0x80010000, 0, 0, 0], runs := runs } }
/-- The same at phase 0 of tick 0. -/
def wsg0 (runs : List StgRun) : State := { wsg true runs with tik := { (wsg true runs).tik with phaseNo := 0 } }
/-- A run of descriptor `d` in step 0. -/
def run0 (d : Nat) (inb : Bool) (issued : Bool) (done toWrite : List Nat) : StgRun :=
  { desc := d, step := 0, inbound := inb, host := 2 ≤ d, issued := issued, done := done, toWrite := toWrite }

theorem wit_StagingMovesLines :
    ((wsg true []).desc 0).isSome = true ∧ ((wsg true []).desc 0).map (·.out) = some false ∧ ((wsg true []).desc 1).map (·.out) = some true ∧
    ((wsg true []).desc 0).map (·.n) = some 2 ∧ ((wsg true []).desc 0).map (fun a => (wsg true []).accessBad a (List.range a.n)) = some none ∧
    ((wsg false []).desc 0).map (fun a => (wsg false []).accessBad a (List.range a.n)) = some (some (.linkDown, 0)) ∧ ((wsg true []).desc 0).map (·.issue) = some (wsg true []).stepTick ∧
    (wsg true []).staged 0 = true ∧ (wsg true []).stgRun 0 (wsg true []).step = none ∧ (wsg true []).cxl.aborted = false ∧
    (wsg true [run0 0 true true [] []]).stgRun 0 0 = some (run0 0 true true [] []) ∧ (1 : Nat) ∉ (run0 0 true true [0] []).done ∧
    ((wsg true []).desc 0).map (·.dead) = some (wsg true []).stepTick ∧ ((wsg true []).desc 0).map (·.lag) = some 0 ∧
    (run0 0 true true [0, 1] []).complete 2 = true ∧ (run0 0 true true [0] []).complete 2 = false ∧
    ((wsg true []).desc 1).map (·.stick) = some (wsg true []).stepTick ∧ ((wsg true []).desc 1).map (·.sph) = some (wsg true []).phase ∧
    ((wsg true [run0 1 false false [] [0, 1]]).desc 1).map (fun a => (wsg true [run0 1 false false [] [0, 1]]).overlapped a
      (fun q => (q.issued || q.before 1 0) && !(q.desc == 1 && q.step == 0))) = some false ∧ (wsg true []).fwUp = true ∧ wi.busy = false ∧
    ((wsg true []).desc 0).map (fun a => ((wsg true []).hostGone a, (wsg true []).readFree a 0 0)) = some (false, true) ∧
    ((wsg true []).desc 2).map (fun a => ((wsg true []).accessBad a (List.range a.n), ({ wsg true [] with hst := { wi.hst with bufs := [] } } : State).hostGone a)) =
      some (none, true) ∧
    ((wsg true []).desc 0).map (fun a => ((wsg true []).inTime a 0, (wsg true []).inTime a 1)) = some (false, true) ∧
    (wsg0 []).phase = 0 ∧ ((wsg0 []).desc 0).map (·.dead) = some (wsg0 []).stepTick ∧
    cxlTrains 16 6 = true ∧ cxlTrains 12 6 = false ∧ (run0 0 true true [0] []).outside 2 = true ∧ (run0 0 true true [0, 1] []).outside 2 = false ∧
    ({ (run0 1 false true [0, 1] [0, 1]) with late := [] } : StgRun).complete 2 = true ∧ (wsg true []).ucieCut = false := by decide +kernel

/-- `wi` with a live reference `r` for group 0 of the assize. -/
def wsc (r : Reg) : State := { wi with cfg := { wi.cfg with grpLive := [(0, r)], grpRef := [(0, r)], spareReady := true, tRef := r, tStale := false } }

/-- `wi` with data in line 7 of cluster 33 and one flipped bit for each entry of `ws`, in that word. -/
def wup1 (ws : List Nat) : State := { wi with
  mem := memWrite [] (storeAddr 33 7 + 24) [0x11, 0x22]
  upsets := ws.mapIdx (fun i w => { area := .store, line := storeKey 33 7, word := w, data := 1 <<< (5 + i), check := 0 }) }
/-- Its line through the corrector. -/
def wup1e (ws : List Nat) : EccRead := eccRead (wup1 ws).upsets .store (storeKey 33 7) (memRead (wup1 ws).mem (storeAddr 33 7) 128)

/-- `wup1 [3]` with the flipped bit in a failed cell. -/
def wup2 : State := { wup1 [3] with upsets := (wup1 [3]).upsets.map (fun u => { u with hard := true }) }

theorem wit_ScrubAssizeAndJournal :
    wj.busy = true ∧ wi.upsetLines = [] ∧ wi.rst.dieUp = true ∧ wi.rst.stage ≠ .begun ∧ (wsc 77).regionOk 0 = false ∧ ([1, 2] : List Byte).length ≤ 4064 ∧
    wi.cfg.takes 3 2 = true ∧ (3 : BitVec 16) ≠ jrFault ∧
    ({ wi.cfg with bankA := { wi.cfg.bankA with append := bankReserve } } : Cfg).takes 3 2 = false ∧
    ({ wi.cfg with bankA := { wi.cfg.bankA with append := bankReserve - 32 } } : Cfg).takes jrFault 64 = false ∧
    ({ (wsc 0).cfg with compacting := true } : Cfg).compacting = true ∧ wi.cfg.compacting = false ∧ (wsc 0).cfg.spareReady = true ∧ wi.cfg.spareReady = false ∧
    wi.pwr.computeOff = false ∧ (wup1 [3]).upsetLines = [(33, 7)] ∧ (wup1 [3]).busy = false ∧ ((wup1 [3]).spn (spanOf 33)).running = false ∧
    (wup1e [3]).bad = [] ∧ (wup1e [3]).corr = [3] ∧ memWf (wup1 [3]).mem = true ∧ ((wup1 [3]).row 1).active = 33 ∧
    ((wup1 [3]).row 1).pending = 33 ∧ (wup1 [3]).physColOf 33 < 33 ∧ (wup1e [3, 3]).bad = [3] ∧
    ({ wi.flt with toJournal := [1] } : Flt).toJournal.contains (leAt ([0, 0, 0, 0, 1, 0, 0, 0] : List Byte) 4 4) = true ∧
    wi.cfg.compactDue = false ∧ ({ wi.cfg with compactDue := true } : Cfg).compactDue = true ∧
    (wup1 [3]).stuckLine 33 7 = false ∧ wup2.stuckLine 33 7 = true ∧ wup2.upsetLines = [(33, 7)] ∧ wup2.busy = false ∧
    (eccRead wup2.upsets .store (storeKey 33 7) (memRead wup2.mem (storeAddr 33 7) 128)).corr = [3] ∧
    (eccRead wup2.upsets .store (storeKey 33 7) (memRead wup2.mem (storeAddr 33 7) 128)).bad = [] ∧ (wup2.row 1).active = 33 ∧
    (wup2.row 1).pending = 33 ∧ wup2.physColOf 33 < 33 := by decide +kernel

/-- A scrub corrects the flipped word; where the cell has failed, the tile is marked failed instead, and the upset stays. -/
theorem test_scrub_rewrites :
    (match exec .storeScrubPass (wup1 [3]) with
      | .next t => (t.upsets, memRead t.mem (storeAddr 33 7 + 24) 2, (t.row 1).pending, (t.clu 33).eccCnt)
      | _ => ([], [], 0, 0)) = ([], [0x11, 0x22], 33, 1) ∧
    (match exec .storeScrubPass wup2 with
      | .next t => (t.upsets.length, (t.row 1).pending)
      | _ => (9, 0)) = (1, 1) := by decide +kernel


/-- `wi` in a reset at `stage`, with stack 0 in self-refresh when `sr`, data in the store and HBM, and firmware 5 in slot A. -/
def wrs (stage : RstStage) (sr : Bool) : State := { wi with
  rst := { stage := stage, planned := true, cause := 0, idle := false, dieUp := true }
  hst := { wi.hst with st := stResetting, ready := false }
  mem := memWrite [] 5 [1, 2, 3]
  msq := [(0, { selfRef := sr })]
  sec := { wi.sec with fuses := fwFuses 5, slotA := padTo fwImg 516, boot := [(0, BootRec.bytes ⟨0, false, 0⟩ 1)] } }

theorem wit_ResetsRunTheirSequence :
    (wrs .draining true).rst.stage = .draining ∧ ({ (wrs .draining true).flt with draining := true } : Flt).draining = true ∧
    (wrs .draining true).flt.draining = false ∧ (wrs .draining true).pwr.computeOff = false ∧ (wrs .draining true).rst.dieUp = true ∧
    (wrs .draining true).cfg.bank.append < bankReserve ∧ ({ (wrs .firmware true).rst with again := some 3 } : Rst).again = some 3 ∧ (wrs .held true).rst.again = none ∧
    ({ (wrs .held true).rst with planned := false } : Rst).planned = false ∧ (wrs .inReset true).pins.resetN = true ∧ (wrs .inReset true).pins.flashOut = false ∧
    (wrs .inReset true).pwr.rails.length = 11 ∧ (wrs .inReset true).sec.newest = ⟨0, false, 0⟩ ∧
    ({ wrs .inReset true with sec := { (wrs .inReset true).sec with slotA := [] } } : State).fwVerifies [] = false ∧
    (wrs .bootRom true).sec.noFw = false ∧ (wrs .bootRom true).openJournal.cfg.takes jrGeneration 1 = true ∧
    ((wrs .bootRom true).openJournal.journalRecs.map (·.ty)) = [jrBank, jrSeal] ∧ (wrs .bootRom true).hst.waiting = [] := by
  decide +kernel

theorem wit_BootVerifies : (wrs .inReset true).fwVerifies ((wrs .inReset true).sec.slotImage 0) = true :=
  test_signed_image_verifies _ rfl

/-- A boot record without its COMMIT does not stand; the one before it decides, and the next is appended at the next 4 KiB boundary (R464, R487, R489). -/
theorem test_torn_boot_record :
    let x : Sec := { wi.sec with boot := [(0, BootRec.bytes ⟨1, true, 2⟩ 1), (32, (BootRec.bytes ⟨0, false, 0⟩ 2).take 28)] }
    x.newest = ⟨1, true, 2⟩ ∧ x.bootScan.2 = 4096 ∧ (x.bootAppend ⟨1, true, 1⟩).newest = ⟨1, true, 1⟩ := by decide +kernel

/-- A record that would cross a 4 KiB boundary starts at it, and a scan finds both it and the record before the gap (R461, R464). -/
theorem test_scan_passes_the_gap :
    let b := JBank.add (JBank.add { append := 4000 } ⟨jrForget, [1, 2], 7, 0, 3⟩) ⟨jrReset, zeros 40, 8, 0, 3⟩
    let r := scanArea journalForm b.cells bankBytes 9 4000 none
    (r.1.map (fun x => (jrecOf x).seq), r.2, b.append) = ([7, 8], 4192, 4192) := by decide +kernel

/-- Power states: `wi` with the input off, or with `rails` up in the regulator stage. -/
def wpw (stage : RstStage) (rails : List Rail) : State := { wi with rst := { wi.rst with stage := stage }, pwr := { wi.pwr with rails := rails }, mem := memWrite [] 5 [1] }

theorem wit_PowerComesAndGoes :
    (wpw .off []).rst.stage = .off ∧ (wpw .off []).pins.pwrEnN = false ∧ (wpw .off []).pwr.open_ = false ∧
    (wpw .inReset [.tollCore]).pwr.feedRevA = false ∧ (wpw .inReset [.tollCore]).pwr.feedRevB = false ∧ wi.rst.dieUp = true ∧
    wi.cfg.appAt ≠ some wi.tim.now.toNat ∧ wi.sec.bootAt ≠ some wi.tim.now.toNat ∧ (wpw .inReset []).tollPowered = false ∧
    .tollIo ∉ (wpw .inReset [.tollCore]).pwr.rails ∧ (∀ x ∈ railOrder, railTurn x < railTurn .tollIo → x ∈ (wpw .inReset [.tollCore]).pwr.rails) ∧
    railTurn .tollIo < railTurn .core ∧ (wpw .inReset [.tollCore]).rst.stage = .inReset ∧
    wi.tollPowered = true ∧ wi.pwr.computeOff = false ∧ .core ∈ wi.pwr.rails ∧ (∀ p, p < 6 → (({ wi with olf := [] } : State).port p).st = 0) ∧
    wi.rst.stage ≠ .off ∧ ({ wi.pwr with open_ := true } : Pwr).open_ = true := by decide +kernel


/-- Sensors: a die at 4 times `t` quarter degrees and one below it, `p` W of input power. -/
def sen (t p : Nat) : Sensors := ⟨[4 * t - 1, 4 * t], [50], [50], 300, 400, 5000, p, 5000, p, 700, 100⟩
/-- `wi` with its rail settling, or settled, at a set point of step 3, and step 2 asked for. -/
def wrl (settling : Bool) : State := { wi with
  pwr := { wi.pwr with settling := settling, core := BitVec.ofNat 64 (620 + 3 * 23) }
  tik := { wi.tik with stepSet := 2, stepNow := 1 } }

theorem wit_PowerPolicyChoosesTheStep :
    wi.fwUp = true ∧ wi.policyHot (sen 95 0) = true ∧ wi.policyHot (sen 94 2400) = false ∧ wi.policyHot (sen 20 2401) = true ∧
    wi.policyCool (sen 70 2300) = true ∧ wi.policyCool (sen 70 2301) = false ∧ wi.policyHot (sen 70 2300) = false ∧ wi.pwr.nCool ≠ 99 ∧
    ({ wi.pwr with nCool := 99 } : Pwr).nCool = 99 ∧ wi.job.running = false ∧ (wrl true).pwr.settling = true ∧
    (wrl true).tik.stepNow < (wrl true).tik.stepSet.toNat ∧ (wrl true).tik.stepSet.toNat ≤ (field (wrl true).pwr.core 0 12 - 620) / 23 ∧
    (wrl true).busy = false ∧ wi.tollPowered = true := by decide +kernel

/-- `wi` a second after its last reset began. -/
def wsec : State := { wi with tim := { wi.tim with now := BitVec.ofNat 112 (1000000000 * ns) } }

theorem wit_PinsTargetAndDebugPort :
    wsec.rst.stage = .none ∧ wsec.resetWait = 0 ∧ (wrs .bootRom true).resetWait ≠ 0 ∧ wi.pins.flashOut = false ∧ ({ wi.pins with flashOut := true } : Pins).flashOut = true ∧ 3 ≤ ({ wi.sec with debug := 3 } : Sec).debug ∧ (wpw .off []).rst.stage = .off ∧ wi.pins.resetN = true ∧
    ({ wi.pins with resetN := false } : Pins).resetN = false ∧ wi.rst.stage ≠ .off ∧ wi.rst.stage ≠ .inReset ∧ wi.tollPowered = true ∧
    wi.hst.st ≠ stResetting ∧ wi.rst.stage ≠ .bootRom ∧ wi.hst.running = [] ∧ wi.hst.waiting = [] ∧ wi.dmp.running = false ∧ wi.resetWait ≠ 0 ∧
    (wrs .die true).tollPowered = true ∧ (wrs .die true).hst.st = stResetting ∧ (wrs .die true).rst.stage ≠ .bootRom ∧ (0xA4 : Byte) ≠ 0xA5 ∧
    2 ≤ ({ wi.sec with debug := 2 } : Sec).debug ∧ (∀ p, p < 114 → (wi.spn p).running = false) ∧ wi.sec.debug = 0 := by decide +kernel

/-! ### The statements about every command -/

theorem wit_StepRunsFrontCommand :
    ({ wi with pending := [.spanPoll, .stopCheck] } : State).pending = .spanPoll :: [.stopCheck] ∧ wi.pending = [] := ⟨rfl, rfl⟩
/-- A state with debts, cells in a replay buffer and an outstanding request. -/
def wCounts : State := { wm with
  olf := [(5, {
    txSeq := 0
    replay := [{ cell := ⟨1023, 0, 1, 0, 1, 0, 0, []⟩, sent := true, slot := 0 }, { cell := ⟨0, 0, 0, 0, 1, 0, 0, []⟩, sent := false, slot := 3, fresh := true }]
    credSvc := 56 })]
  svc := { out := [(63, { rtag := 0xFFFF, port := 5, epoch := 0, deadline := 9, nbr := false, chip := 2 })] } }
theorem wit_EveryStepKeepsCountsInBounds : wCounts.countsOk := by
  refine ⟨fun st => ?_, fun p => ?_, by decide, by decide⟩
  · by_cases h : st = 3
    · subst h
      unfold Msq.debtsOk
      decide +kernel
    · have e : wCounts.ms st = {} := by simp [State.ms, wCounts, wm, Tbl.get, h]
      rw [e]
      unfold Msq.debtsOk
      decide +kernel
  · by_cases h : p = 5
    · subst h
      refine ⟨⟨[{ cell := ⟨1023, 0, 1, 0, 1, 0, 0, []⟩, sent := true, slot := 0 }],
        [{ cell := ⟨0, 0, 0, 0, 1, 0, 0, []⟩, sent := false, slot := 3, fresh := true }], rfl, ?_, by decide⟩, by decide⟩
      intro i x hx
      cases i with
      | zero => cases hx; decide
      | succ i => simp at hx
    · have e : wCounts.port p = {} := by simp [State.port, wCounts, Tbl.get, h]
      rw [e]
      exact ⟨⟨[], [], rfl, by simp, by simp⟩, by decide⟩
theorem wit_EveryStepKeepsMemoryCanonical :
    (wrs .die true).memOk = true ∧ memWf (wrs .die true).mem = true ∧ (wrs .die true).mem.length = 3 := by decide +kernel
theorem wit_StepAnswers : ∃ t, step ({ wrs .die true with pending := [.spanPoll] } : State) = .next t := ⟨_, rfl⟩
theorem wit_EveryCommandCompletes :
    (Instr.mvFill 799 w1 6143 1 7).wf = true ∧ (Instr.mvFill 800 w1 6143 1 7).wf = false ∧ (Instr.mvFill 799 w1 6144 1 7).wf = true ∧
    (Instr.refa 4 0 0 1).wf = false ∧ (Instr.ptPad 6 0).wf = false ∧ (Instr.idleWord (.port 6) 0).wf = false := by decide +kernel
theorem wit_SpecialFunctionResults :
    ws.issues 33 .vu = true ∧ (Instr.vuExp2 33 w1 .fp32 31 1).wf = true ∧
    0x7F800000 < 0x7F800001 % 2 ^ 31 ∧ 0x7F800000 < 0xFFFFFFFF % 2 ^ 31 ∧ 0x80000000 < 0x80000001 ∧ 0xFF7FFFFF < 0xFF800000 := by decide +kernel
theorem wit_FaultNIsDrivenLow :
    (wfl false [rsd 0x5003]).flt.raised = rsd 0x5003 :: [] ∧ severity (rsd 0x5003).code (rsd 0x5003).run (rsd 0x5003).aux = 5 ∧
    (Tbl.get ⟨0, 0, 0⟩ (wfl false [rsd 0x5003]).flt.folds (rsd 0x5003).code.toNat).formed < 64 ∧ (wfl false []).ucieCut = false ∧ wi.faultN = true := by decide +kernel

/-! ### Worked values of the spec -/

/-- Row 7 with physical column 11 failed (chapter 04's example): columns 0 to 10 stay, 11 to 31 move up by one. -/
theorem test_repair_moves_columns :
    (List.range 32).map (fun l => ({ wi with rows := [(7, { active := 11 })] } : State).physColOf (7 * 32 + l)) =
      List.range 11 ++ (List.range 21).map (· + 12) ∧ ({ wi with rows := [(7, { active := 11 })] } : State).physColOf (6 * 32 + 11) = 11 := by
  decide +kernel

/-- The START descriptor of the example in chapter 14: FIRST_STEP 41, TAG 0x0000_0107, IRQ set. -/
theorem test_start_descriptor :
    descDecode .ring0 .timeout ([0x31, 0, 1, 0, 7, 1, 0, 0, 0x29] ++ zeros 55) = some (.start ⟨.ring0, 0x107, true, false, none⟩ 0x29) := by decide +kernel

/-- Cycles and plan ceilings of the examples of chapters 03 and 06: k = 16 at 2.0 GHz, and k = 64 at 2.2 GHz. -/
theorem test_cycles_and_ceilings : cyclesPerPhase 16 8 = 384 ∧ planCeiling 16 8 = 353 ∧ planCeiling 64 10 = 1553 := by decide

/-- B and H of the example after R314: a carrier link of 2.0 ns, and the cable of 61.210 ns and 61.204 ns, rounded to 2^-16 ns. -/
theorem test_base_and_hold :
    [(131072, 131072), (4011459, 4011065)].map (fun (f, b) =>
      match exec (.measureDone 5) { wol { st := 5, windows := 2 } with tim := { wsv.tim with delay := [(5, BitVec.ofNat 64 (f * 2 ^ 32 + b))] } } with
      | .next t => (t.port 5).baseHold
      | _ => (0, 0)) = [(86, 172), (244, 488)] := by decide +kernel

/-- The dot product of the example of chapter 05: FP8 E4M3 pairs at W = -8, FW128 31,221, and 122.0 in BF16. -/
theorem test_dot_product :
    dot ([0x3E, 0xAA, 0x07, 0x77].map FF.e4m3.decode) ([0x39, 0x12, 0x2E, 0x30].map FF.e4m3.decode) (-8) = (31221, false) ∧
    fmtRound .bf16 false 31221 (-8) false = 0x42F4 ∧
    (dot ([0x3E, 0xAA, 0x07, 0x77].map FF.e4m3.decode) ([0x39, 0x12, 0x2E, 0x30].map FF.e4m3.decode) 0).1 = 120 := by decide +kernel

/-- The straps of the example of chapter 19: block 0x2A5 at position 3, parity low, give hall number 5,419. -/
theorem test_hall_number :
    (match exec (.firmwareStart 0x32A5 0) (wrs .bootRom true) with
      | .next t => (t.plc.hall, t.plc.strapFault)
      | _ => (0, true)) = (5419, false) := by decide +kernel

end Sys2Proof.Tests
end

/-! ### Register writes of the host: the rows that clear, and the writes dropped while RESETTING (O24) -/

namespace Sys2Proof.Machine

/-! #### Reserved bits (R448): noting them changes configuration alone -/

theorem notedRsvd_frame (s : State) (v mask : Reg) : s.notedRsvd v mask = { s with cfg := (s.notedRsvd v mask).cfg } := by
  unfold State.notedRsvd
  split <;> rfl

@[simp] theorem spn_notedRsvd (s : State) (v mask : Reg) (p : Nat) : (s.notedRsvd v mask).spn p = s.spn p := by
  rw [notedRsvd_frame]; rfl
@[simp] theorem stretched_notedRsvd (s : State) (v mask : Reg) (k : Spn) : (s.notedRsvd v mask).stretched k = s.stretched k := by
  rw [notedRsvd_frame]; rfl
@[simp] theorem clu_notedRsvd (s : State) (v mask : Reg) (c : Nat) : (s.notedRsvd v mask).clu c = s.clu c := by
  rw [notedRsvd_frame]; rfl
@[simp] theorem ms_notedRsvd (s : State) (v mask : Reg) (st : Nat) : (s.notedRsvd v mask).ms st = s.ms st := by
  rw [notedRsvd_frame]; rfl
@[simp] theorem rtr_notedRsvd (s : State) (v mask : Reg) (p : Nat) : (s.notedRsvd v mask).rtr p = s.rtr p := by
  rw [notedRsvd_frame]; rfl

/-! #### What the clears of units do once reserved bits are noted -/

theorem clearSpn_notedRsvd (s : State) (v mask : Reg) (p : Nat) : (s.notedRsvd v mask).clearSpn p =
    (s.notedRsvd v mask).setSpn p { s.spn p with cnt := 0, slackMin := 0xFFFF, cleared := s.stretched (s.spn p) } := by
  simp only [State.clearSpn, State.updSpn, spn_notedRsvd, stretched_notedRsvd]

theorem clearClu_notedRsvd (s : State) (v mask : Reg) (c : Nat) : (s.notedRsvd v mask).clearClu c =
    (s.notedRsvd v mask).setClu c { s.clu c with eccCnt := 0, eccLog := 0 } := by
  simp only [State.clearClu, State.updClu, clu_notedRsvd]

theorem clearMsq_notedRsvd (s : State) (v mask : Reg) (st : Nat) : (s.notedRsvd v mask).clearMsq st =
    (s.notedRsvd v mask).setMs st { s.ms st with cnt := 0, eccCnt := 0, eccLog := 0, refMax := 0x18 } := by
  simp only [State.clearMsq, State.updMs, ms_notedRsvd]

theorem clearCwy_notedRsvd (s : State) (v mask : Reg) (p : Nat) : (s.notedRsvd v mask).clearCwy p =
    (s.notedRsvd v mask).setRtr p { s.rtr p with cnt := 0, cnt2 := 0 } := by
  simp only [State.clearCwy, State.updRtr, rtr_notedRsvd]

/-- OLF_CLEAR changes the ports alone, and its port's counters read 0 (R327). -/
theorem clearOlf_spec (s : State) (p : Nat) :
    s.clearOlf p = { s with olf := (s.clearOlf p).olf } ∧ ((s.clearOlf p).port p).cnt = 0 ∧ ((s.clearOlf p).port p).cnt2 = 0 := by
  refine ⟨rfl, ?cnt, ?cnt2⟩ <;> simp [State.clearOlf]

/-! #### The write of a register by host software, and of a clear register (R17) -/

theorem regRow_of_answering {s : State} {r : Nat} {w : State → RegAns × State} {v : Reg} (hst : s.hst.st ≠ stResetting)
    (hq : s.silentAt r = false) : regRow s r w v = .next (w s).2 := by
  simp [regRow, hst, hq]

theorem unitRow_of_lt {s : State} {u n r : Nat} {w : State → RegAns × State} {v : Reg} (h : u < n) :
    unitRow s u n r w v = regRow s r w v := by
  rw [unitRow, if_pos h]

@[simp] theorem bit_and_one_zero (v : Reg) : bit (v &&& 1) 0 = bit v 0 := by simp [bit]

/-- Reserved bits are noted first, then bit 0 decides (R17, R448). -/
theorem clearCmd_eq (s : State) (v : Reg) (f : State → State) :
    clearCmd s v f = (.ok 0, if bit v 0 then f (s.notedRsvd v 1) else s.notedRsvd v 1) := by
  have hw : wrStart s v 1 = ⟨s.notedRsvd v 1, v &&& 1⟩ := rfl
  simp only [clearCmd, hw, bit_and_one_zero]

/-- A clear row whose register answers: `t` is what its clear `f` leaves once the reserved bits are noted. -/
theorem exec_of_clear_row {i : Instr} {s t : State} {r : Nat} {v : Reg} {f : State → State}
    (hrow : exec i s = regRow s r (clearCmd · v f) v) (hst : s.hst.st ≠ stResetting) (hf : f (s.notedRsvd v 1) = t)
    (hq : s.silentAt r = false) : exec i s = .next (if bit v 0 then t else s.notedRsvd v 1) := by
  rw [hrow, regRow_of_answering hst hq, clearCmd_eq, hf]

/-! #### The clear rows: each is the write of one register, whose write is a clear command -/

theorem exec_timClear (s : State) (v : Reg) :
    exec (.timClear v) s = regRow s 0x10120 (clearCmd · v (·.updTim (fun x => { x with cnt := 0 }))) v := rfl
theorem exec_tikClear (s : State) (v : Reg) :
    exec (.tikClear v) s = regRow s 0x20048 (clearCmd · v (·.updTik (fun x => { x with cnt := 0 }))) v := rfl
theorem exec_cxlClear (s : State) (v : Reg) :
    exec (.cxlClear v) s = regRow s 0x80040 (clearCmd · v State.clearCxl) v := rfl
theorem exec_svcClear (s : State) (v : Reg) :
    exec (.svcClear v) s = regRow s 0x70020 (clearCmd · v (·.updSvc (fun x => { x with cnt := 0, cnt2 := 0 }))) v := rfl
theorem exec_plcClear (s : State) (v : Reg) :
    exec (.plcClear v) s = regRow s 0xE0090 (clearCmd · v (·.updPlc (fun x => { x with cnt := 0 }))) v := rfl
theorem exec_hstClear (s : State) (v : Reg) :
    exec (.hstClear v) s = regRow s 0x90068 (clearCmd · v (·.updHst (fun x => { x with cnt := 0, diagLog := 0 }))) v := rfl
theorem exec_fltClear (s : State) (v : Reg) :
    exec (.fltClear v) s = regRow s 0xC0020 (clearCmd · v (·.updFlt (fun x => { x with cnt := 0, cnt2 := 0 }))) v := rfl
theorem exec_cfgClear (s : State) (v : Reg) :
    exec (.cfgClear v) s = regRow s 0x28 (clearCmd · v State.clearCfg) v := rfl
theorem exec_pwrClear (s : State) (v : Reg) :
    exec (.pwrClear v) s = regRow s 0xA0040 (clearCmd · v (·.updPwr (fun x => { x with cnt := 0, log := 0 }))) v := rfl
theorem exec_secClear (s : State) (v : Reg) :
    exec (.secClear v) s = regRow s 0xB0088 (clearCmd · v (fun u => { u with sec := { u.sec with cnt := 0 } })) v := rfl
theorem exec_spnClear (s : State) (p : Nat) (v : Reg) :
    exec (.spnClear p v) s = unitRow s p 114 (0x30020 + p * 0x100) (clearCmd · v (·.clearSpn p)) v := rfl
theorem exec_cluClear (s : State) (c : Nat) (v : Reg) :
    exec (.cluClear c v) s = unitRow s c 800 (0x100020 + c * 0x100) (clearCmd · v (·.clearClu c)) v := rfl
theorem exec_msqClear (s : State) (st : Nat) (v : Reg) :
    exec (.msqClear st v) s = unitRow s st 4 (0x40060 + st * 0x1000) (clearCmd · v (·.clearMsq st)) v := rfl
theorem exec_olfClear (s : State) (p : Nat) (v : Reg) :
    exec (.olfClear p v) s = unitRow s p 6 (0x50040 + p * 0x100) (clearCmd · v (·.clearOlf p)) v := rfl
theorem exec_cwyClear (s : State) (p : Nat) (v : Reg) :
    exec (.cwyClear p v) s = unitRow s p 6 (0x60018 + p * 0x100) (clearCmd · v (·.clearCwy p)) v := rfl

/-- OLF_CLEAR where its port's register answers: its two counters are cleared, and nothing outside the ports changes (R327). -/
theorem exec_olfClear_spec {s : State} {p : Nat} (v : Reg) (hst : s.hst.st ≠ stResetting) (hp : p < 6)
    (hq : s.silentAt (0x50040 + p * 0x100) = false) :
    ∃ t, exec (.olfClear p v) s = .next t ∧ t = { s.notedRsvd v 1 with olf := t.olf } ∧ (bit v 0 = false → t = s.notedRsvd v 1) ∧
      (bit v 0 = true → (t.port p).cnt = 0 ∧ (t.port p).cnt2 = 0) := by
  have hrow := exec_of_clear_row ((exec_olfClear s p v).trans (unitRow_of_lt hp)) hst rfl hq
  obtain ⟨hframe, hcnt⟩ := clearOlf_spec (s.notedRsvd v 1) p
  cases hb : bit v 0 with
  | false => exact ⟨_, by simpa [hb] using hrow, rfl, fun _ => rfl, nofun⟩
  | true => exact ⟨_, by simpa [hb] using hrow, hframe, nofun, fun _ => hcnt⟩

/-! #### Writes while RESETTING (R432): every row of the host asks for it first, so that `if_pos` drops the write -/

theorem exec_host_row_of_resetting {s : State} (v : Reg) (hst : s.hst.st = stResetting) :
    ∀ i ∈ [Instr.timStep v, .timCtlWrite v, .timEthLatWrite v, .timClear v, .tikKeyArm, .tikKeyDisarm, .tikStepSetWrite false v, .tikClear v,
        .cxlClear v, .svcCtlWrite v, .svcClear v, .plcClear v, .hstCtlWrite v, .hstClear v, .fltClear v, .cfgPersist, .cfgForget, .cfgCompact,
        .cfgClear v, .cfgAszTRefWrite v, .pwrClear v, .secDbgChallenge, .secDbgUnlock, .secClear v, .commandRingDoorbell false v,
        .commandRingDoorbell true v, .completionDoorbell v, .eventDoorbell v, .mailboxDoorbell v],
      exec i s = .next s := by
  intro i hi
  fin_cases hi <;> exact if_pos hst

/-- Whichever shadow group the register is in, or none. -/
theorem exec_shadowWrite_of_resetting {s : State} (r : Nat) (v : Reg) (hst : s.hst.st = stResetting) :
    exec (.shadowWrite false r v) s = .next s := by
  change execShadowWrite false r v s = .next s
  unfold execShadowWrite
  split <;> exact if_pos hst

/-- Settles O24: each clear row is the write of a register whose write is a clear command, and every write of the host asks first whether the
module is RESETTING. -/
theorem clearCommandsClear : Obligations.ClearCommandsClear := by
  unfold Obligations.ClearCommandsClear
  refine ⟨fun s v hst => ⟨?tim, ?tik, ?spn, ?clu, ?msq, ?cxl, ?olf, ?cwy, ?svc, ?plc, ?hst, ?flt, ?cfg, ?pwr, ?sec⟩,
    fun s v hst => ⟨exec_host_row_of_resetting v hst, ?registers, ?ports, ?memories, ?window, ?area⟩⟩
  case tim => exact exec_of_clear_row (exec_timClear s v) hst rfl
  case tik => exact exec_of_clear_row (exec_tikClear s v) hst rfl
  case spn => exact fun p hp => exec_of_clear_row ((exec_spnClear s p v).trans (unitRow_of_lt hp)) hst (clearSpn_notedRsvd s v 1 p)
  case clu => exact fun c hc => exec_of_clear_row ((exec_cluClear s c v).trans (unitRow_of_lt hc)) hst (clearClu_notedRsvd s v 1 c)
  case msq => exact fun st hs => exec_of_clear_row ((exec_msqClear s st v).trans (unitRow_of_lt hs)) hst (clearMsq_notedRsvd s v 1 st)
  case cxl => exact exec_of_clear_row (exec_cxlClear s v) hst rfl
  case olf => exact fun p => exec_olfClear_spec v hst
  case cwy => exact fun p hp => exec_of_clear_row ((exec_cwyClear s p v).trans (unitRow_of_lt hp)) hst (clearCwy_notedRsvd s v 1 p)
  -- the registers below lie behind no span, so that none of them can be silent (R27)
  case svc => exact exec_of_clear_row (exec_svcClear s v) hst rfl rfl
  case plc => exact exec_of_clear_row (exec_plcClear s v) hst rfl rfl
  case hst => exact exec_of_clear_row (exec_hstClear s v) hst rfl rfl
  case flt => exact exec_of_clear_row (exec_fltClear s v) hst rfl rfl
  case cfg => exact exec_of_clear_row (exec_cfgClear s v) hst rfl rfl
  case pwr => exact exec_of_clear_row (exec_pwrClear s v) hst rfl rfl
  case sec => exact exec_of_clear_row (exec_secClear s v) hst rfl rfl
  case registers => exact fun r => ⟨if_pos hst, exec_shadowWrite_of_resetting r v hst⟩
  case ports => exact fun p _ => ⟨if_pos hst, if_pos hst, if_pos hst, if_pos hst, if_pos hst, if_pos hst⟩
  case memories => exact fun st _ => ⟨if_pos hst, if_pos hst⟩
  case window => exact fun ofs size => ⟨if_pos hst, if_pos hst⟩
  case area => exact fun ofs len d => if_pos hst

end Sys2Proof.Machine

/-! ### Spans, columns, slots and cycles (O59) -/

namespace Sys2Proof.Machine

/-! #### Logical clusters, spans and physical columns (R31, R118) -/

theorem spanOf_row_add (row l : Nat) : spanOf (row * 32 + l) = row * 4 + l / 8 := by
  unfold spanOf; omega

theorem cluAt_row_add (row q pos : Nat) : cluAt (row * 4 + q) pos = row * 32 + 8 * q + pos := by
  unfold cluAt; omega

/-- The cluster at a position of a span belongs to that span. -/
theorem spanOf_cluAt (span : Nat) {pos : Nat} (hp : pos < 8) : spanOf (cluAt span pos) = span := by
  unfold spanOf cluAt; omega

theorem physCol_ne_failed (l f : Nat) : physCol l f ≠ f := by
  unfold physCol; split <;> omega

theorem physCol_inj {l m f : Nat} (h : physCol l f = physCol m f) : l = m := by
  unfold physCol at h; split at h <;> split at h <;> omega

theorem physColOf_row_add (s : State) (row : Nat) {l : Nat} (hl : l < 32) :
    s.physColOf (row * 32 + l) = physCol l (s.row row).active := by
  have hcol : (row * 32 + l) % 32 = l := by omega
  have hrow : (row * 32 + l) / 32 = row := by omega
  rw [State.physColOf, hcol, hrow]

/-! #### Machine time of slots, phases and ticks (R68, R69) -/

/-- A slot lasts three eighths of a nanosecond. -/
theorem slotTime_mul_eight (s : State) (j : Nat) : s.slotTime j * 8 = (s.tim.epoch.toNat * 8 + 3 * j) * ns := by
  unfold State.slotTime ns; ring

theorem phaseTime_eq_slotTime (s : State) (n : Nat) : s.phaseTime n = s.slotTime (n * (32 * s.k)) := by
  unfold State.phaseTime State.slotTime ns; ring

theorem tickTime_eq_slotTime (s : State) (n : Nat) : s.tickTime n = s.slotTime (n * (256 * s.k)) := by
  rw [State.tickTime, phaseTime_eq_slotTime]
  congr 1
  ring

/-! #### Cycles and the plan ceiling (R71, R74): each is the floor of its quotient -/

theorem cyclesPerPhase_floor (k i : Nat) :
    cyclesPerPhase k i * 10 ≤ k * 12 * (12 + i) ∧ k * 12 * (12 + i) < (cyclesPerPhase k i + 1) * 10 :=
  ⟨Nat.div_mul_le_self _ 10, (Nat.div_lt_iff_lt_mul (by decide)).mp (Nat.lt_succ_self _)⟩

theorem planCeiling_floor (k i : Nat) :
    planCeiling k i * 100 ≤ cyclesPerPhase k i * 92 ∧ cyclesPerPhase k i * 92 < (planCeiling k i + 1) * 100 :=
  ⟨Nat.div_mul_le_self _ 100, (Nat.div_lt_iff_lt_mul (by decide)).mp (Nat.lt_succ_self _)⟩

/-- Settles O59: the span is the quarter of the row, the physical column skips the failed one, and edges of phases and ticks are whole
numbers of slots from the epoch. -/
theorem spansColumnsSlotsAndCycles : Obligations.SpansColumnsSlotsAndCycles := by
  unfold Obligations.SpansColumnsSlotsAndCycles
  refine ⟨?span, ?position, ?column, ?slot, fun s n => ⟨tickTime_eq_slotTime s n, phaseTime_eq_slotTime s n⟩, ?cycles, by decide⟩
  case span =>
    intro row l hl
    exact ⟨l / 8, by omega, spanOf_row_add row l, by omega, by omega⟩
  case position =>
    intro row q pos _ hp
    exact ⟨cluAt_row_add row q pos, spanOf_cluAt _ hp⟩
  case column =>
    intro s row l hl
    rw [physColOf_row_add s row hl]
    refine ⟨rfl, physCol_ne_failed l _, fun m hm h => ?_⟩
    rw [physColOf_row_add s row hm] at h
    exact physCol_inj h
  case slot =>
    intro s n j
    rw [slotTime_mul_eight]
    ring
  case cycles =>
    intro k i
    obtain ⟨hle, hlt⟩ := cyclesPerPhase_floor k i
    exact ⟨hle, hlt, planCeiling_floor k i⟩

end Sys2Proof.Machine

/-! ### Control network and watches (O43): the automatic reset of a module that is STARTING -/

namespace Sys2Proof.Machine

/-- An armed module that is STARTING, one second after a hang, with AUTO_RESET set; the clock of span 0 has been going since ARM. -/
def hungInStart : State := { State.reset with
  hst := { State.reset.hst with st := stStarting }
  job := { loaded := true, armed := true }
  rst := { State.reset.rst with stage := .none }
  flt := { State.reset.flt with ctl := 4, wedged := true, hangAt := some 0 }
  tim := { State.reset.tim with now := BitVec.ofNat 112 (1000000000 * ns) }
  spans := [(0, { stopped := false })] }

/-- The reset asked for gives up the start (R419, R430), and the clocks of the compute spans stop with it (R76). -/
theorem requestReset_stops_clock : ((hungInStart.requestReset 1).spn 0).stopped = true := by decide +kernel

theorem exec_autoResetTimer_hungInStart : exec .autoResetTimer hungInStart = .next (hungInStart.requestReset 1) := rfl

/-- Refutes O43 at AUTO_RESET_TIMER: the statement's frame leaves the span controllers as they were, while the reset of a module that is
STARTING stops the clocks of the compute spans. -/
theorem not_controlNetworkAndWatches : ¬ Obligations.ControlNetworkAndWatches := by
  unfold Obligations.ControlNetworkAndWatches
  rintro ⟨-, hwatches⟩
  obtain ⟨-, -, -, -, -, -, hauto⟩ := hwatches hungInStart
  obtain ⟨-, hreset⟩ := hauto 0 (by decide) rfl (by decide)
  obtain ⟨t, hexec, -, -, -, -, hframe⟩ := hreset rfl rfl
  have hspan : t.spn 0 = hungInStart.spn 0 := by rw [hframe]; rfl
  have ht : hungInStart.requestReset 1 = t := Host.Outcome.next.inj (exec_autoResetTimer_hungInStart.symm.trans hexec)
  have hstopped : (t.spn 0).stopped = true := by rw [← ht]; exact requestReset_stops_clock
  have hgoing : (hungInStart.spn 0).stopped = false := rfl
  rw [hspan, hgoing] at hstopped
  exact Bool.false_ne_true hstopped

end Sys2Proof.Machine

/-! ### The step (O1) -/

namespace Sys2Proof.Machine

/-- The increment has 64 bits, so that none is lost beside the 112 of machine time (R33). -/
theorem toNat_oscillatorCycle_now (s : State) :
    (oscillatorCycle s).tim.now.toNat = (s.tim.now.toNat + s.tim.inc.toNat) % 2 ^ 112 := by
  have hinc : (s.tim.inc.setWidth 112).toNat = s.tim.inc.toNat := BitVec.toNat_setWidth_of_le (by decide)
  rw [← hinc]
  exact BitVec.toNat_add _ _

theorem step_nil {s : State} (h : s.pending = []) : step s = .next (oscillatorCycle s) := by
  simp [step, h]

/-- Settles O1: `step` asks the queue alone. -/
theorem stepRunsFrontCommand : Obligations.StepRunsFrontCommand := by
  unfold Obligations.StepRunsFrontCommand
  exact ⟨fun c rest s h => step_cons s c rest h, fun s h => ⟨_, step_nil h, toNat_oscillatorCycle_now s, rfl⟩⟩

end Sys2Proof.Machine

/-! ### Increments written to machine time move the instants of other units (O25, O28, O30; log 101) -/

namespace Sys2Proof.Machine

/-- An increment keeps the time left to every deadline that the state holds, so that the instant at which the next CLAIM is due moves with it. -/
theorem addIncrement_claimAt (s : State) (d : Int) : (s.addIncrement d).plc.claimAt = later (d * 2 ^ 32) s.plc.claimAt := rfl

theorem timeEvent_frame (s : State) (old : Tim) : s.timeEvent old = { s with hst := (s.timeEvent old).hst } := by
  unfold State.timeEvent
  split
  · rfl
  · exact event_frame s _ _

@[simp] theorem timeEvent_plc (s : State) (old : Tim) : (s.timeEvent old).plc = s.plc := by rw [timeEvent_frame]
@[simp] theorem timeEvent_tim (s : State) (old : Tim) : (s.timeEvent old).tim = s.tim := by rw [timeEvent_frame]
@[simp] theorem timeEvent_flt (s : State) (old : Tim) : (s.timeEvent old).flt = s.flt := by rw [timeEvent_frame]

/-- TIM_STEP where it is permitted (R54, R55) is an increment, and so moves that instant. -/
theorem writeTimStep_claimAt {s : State} (v : Reg) (hbusy : s.busy = false) (hgood : s.tim.good = false) :
    (s.writeTimStep v).2.plc.claimAt = later (v.toInt * 2 ^ 32) s.plc.claimAt := by
  have hperm : (s.busy || (s.tim.good && field s.tim.ctl 0 2 ≠ 1)) = false := by rw [hbusy, hgood]; rfl
  unfold State.writeTimStep
  rw [if_neg (by rw [hperm]; exact Bool.false_ne_true)]
  dsimp only
  rw [timeEvent_plc]
  split <;> exact addIncrement_claimAt s v.toInt

theorem exec_timStep (s : State) (v : Reg) : exec (.timStep v) s = regRow s 0x10020 (·.writeTimStep v) v := rfl

/-- A module in IDLE that is not time-good; its next CLAIM is due at 0. -/
def idleUnqualified : State := { State.reset with hst := { State.reset.hst with st := stIdle } }

/-- Refutes O25 at a TIM_STEP of 2^-16 ns: the statement's frame leaves the placement state as it was, while the increment moves the instant of
the next CLAIM with every other instant that the state holds. -/
theorem not_machineTimeRegisterWrites : ¬ Obligations.MachineTimeRegisterWrites := by
  unfold Obligations.MachineTimeRegisterWrites
  intro h
  obtain ⟨hstep, -⟩ := h idleUnqualified 1 (by decide)
  obtain ⟨t, hexec, -, -, -, hframe⟩ := hstep rfl rfl (.inl rfl)
  have ht : (idleUnqualified.writeTimStep 1).2 = t :=
    Host.Outcome.next.inj (((exec_timStep _ _).trans (regRow_of_answering (by decide) rfl)).symm.trans hexec)
  have hkept : t.plc.claimAt = 0 := by rw [hframe]; rfl
  have hmoved : t.plc.claimAt = 2 ^ 32 := by rw [← ht, writeTimStep_claimAt 1 rfl rfl]; decide
  rw [hkept] at hmoved
  exact absurd hmoved (by decide)

/-- The same module as a root in PTP mode that has a lock, and no edge on 1PPS in so far. -/
def lockedUnqualified : State := { idleUnqualified with tim := { isRoot := true, ptpLock := true, ctl := 8 } }

/-- The state in which an edge captured at 0.25 ns leaves it: the estimate of R65 is written to machine time as an increment of −0.25 ns, and the
instant of the edge moves with it. -/
theorem exec_ppsInEdge_lockedUnqualified : exec (.ppsInEdge 1) lockedUnqualified =
    .next (((lockedUnqualified.updTim (fun x => { x with ppsIn := some 16384, ppsPhase := subSecond 16384 })).ptpEstimate (subSecond 16384)).timeEvent
      lockedUnqualified.tim) := rfl

theorem ptpEstimate_moves_edge :
    ((lockedUnqualified.updTim (fun x => { x with ppsIn := some 16384, ppsPhase := subSecond 16384 })).ptpEstimate (subSecond 16384)).tim.ppsIn =
      some 0 := by decide +kernel

/-- Refutes O30 at the edge that qualifies a root in PTP mode: the statement wants the edge kept as it was captured, while the increment that the
estimate writes moves it. -/
theorem not_followerAndPulsePerSecond : ¬ Obligations.FollowerAndPulsePerSecond := by
  unfold Obligations.FollowerAndPulsePerSecond
  intro h
  obtain ⟨-, -, -, hedge, -⟩ := h lockedUnqualified
  obtain ⟨t, hexec, hkept, -⟩ := hedge 1 nofun
  have ht := Host.Outcome.next.inj (exec_ppsInEdge_lockedUnqualified.symm.trans hexec)
  rw [← ht, timeEvent_tim, ptpEstimate_moves_edge] at hkept
  exact absurd (Option.some.inj hkept) (by decide)

/-- The same module below a root, in the second of its two measured windows (R60): its parent is 2^-16 ns behind the root, and eight exchanges with it
give φ 0, as in the window before. -/
def secondMeasured : State := { idleUnqualified with
  tim := { parent := 5, acq := .measuring 1 0, ports := [(5, {
    adv := some ({ good := true, holdover := false, tai := false, root := true, rootId := 7, prio := 3, depth := 0, announce := 4,
                   residual := -1 }, 0)
    exch := List.replicate 8 (0, 0) })] } }

/-- The state at the end of that window, but for the TIME event. -/
def secondMeasuredEnd : State :=
  (forEach (secondMeasured.alignedBeat beatWindow (32768 * ns)) (List.range 6) State.windowPort).windowSteer.boundaryRate

theorem exec_timeWindowEnd_secondMeasured :
    exec .timeWindowEnd secondMeasured = .next (secondMeasuredEnd.timeEvent secondMeasured.tim) := rfl

/-- The offset left after the measuring is written to machine time as an increment of 2^-16 ns (R60). -/
theorem secondMeasuredEnd_claimAt : secondMeasuredEnd.plc.claimAt = 2 ^ 32 := by decide +kernel

/-- Refutes O28 at the end of the measuring: the statement's frame leaves the placement state as it was, while the increment written there moves
the instant of the next CLAIM. -/
theorem not_windowsAverageAndSteer : ¬ Obligations.WindowsAverageAndSteer := by
  unfold Obligations.WindowsAverageAndSteer
  intro h
  obtain ⟨t, hexec, -, -, -, hframe⟩ := h secondMeasured
  have ht := Host.Outcome.next.inj (exec_timeWindowEnd_secondMeasured.symm.trans hexec)
  have hkept : t.plc.claimAt = 0 := by rw [hframe]; rfl
  rw [← ht, timeEvent_plc, secondMeasuredEnd_claimAt] at hkept
  exact absurd hkept (by decide)

end Sys2Proof.Machine

/-! ### Elections, parents and holdover (O29) -/

namespace Sys2Proof.Machine

/-! #### What elections and holdover leave as it was -/

/-- Everything but the time tree and the fault log is as before, and so are the clock, the ports' beacons and the roots given up. -/
structure ElectsOnly (s t : State) : Prop where
  frame : t = { s with tim := t.tim, flt := t.flt }
  now : t.tim.now = s.tim.now
  ports : t.tim.ports = s.tim.ports
  dead : t.tim.dead = s.tim.dead

section
variable {s t : State}

theorem ElectsOnly.refl (s : State) : ElectsOnly s s := ⟨rfl, rfl, rfl, rfl⟩

theorem ElectsOnly.updTim (h : ElectsOnly s t) {f : Tim → Tim}
    (hf : ∀ x, (f x).now = x.now ∧ (f x).ports = x.ports ∧ (f x).dead = x.dead) : ElectsOnly s (t.updTim f) := by
  obtain ⟨hnow, hports, hdead⟩ := hf t.tim
  exact ⟨congrArg (State.updTim · f) h.frame, hnow.trans h.now, hports.trans h.ports, hdead.trans h.dead⟩

theorem ElectsOnly.raise (h : ElectsOnly s t) (c : BitVec 16) (src agent : Nat) : ElectsOnly s (t.raise c src agent) where
  frame := (raise_spec t c src agent 0 none 0).1.trans (by rw [h.frame]; rfl)
  now := h.now
  ports := h.ports
  dead := h.dead

theorem ElectsOnly.leaveGood (h : ElectsOnly s t) (code : Option (BitVec 16)) : ElectsOnly s (t.leaveGood code) := by
  unfold State.leaveGood
  extract_lets u
  have hu : ElectsOnly s u := h.updTim fun _ => ⟨rfl, rfl, rfl⟩
  cases code with
  | none => exact hu
  | some c => exact hu.raise c 112 0

theorem ElectsOnly.noParent (h : ElectsOnly s t) : ElectsOnly s t.noParent := by
  unfold State.noParent
  extract_lets had u
  have hu : ElectsOnly s u := h.updTim fun _ => ⟨rfl, rfl, rfl⟩
  clear_value had u
  split
  case isTrue =>
    refine .raise (hu.updTim ?_) 0x4002 112 0
    exact fun _ => ⟨rfl, rfl, rfl⟩
  case isFalse => exact hu

theorem ElectsOnly.electRoot (h : ElectsOnly s t) : ElectsOnly s t.electRoot := by
  unfold State.electRoot
  cases t.bestRoot with
  | none => exact h.updTim fun x => by split <;> exact ⟨rfl, rfl, rfl⟩
  | some r =>
    dsimp -zeta only
    split
    case isTrue => exact h.updTim fun _ => ⟨rfl, rfl, rfl⟩
    case isFalse =>
      extract_lets u
      have hu : ElectsOnly s u := h.updTim fun x => by split <;> exact ⟨rfl, rfl, rfl⟩
      clear_value u
      cases u.bestParent r.2 with
      | none => exact hu.noParent
      | some x =>
        dsimp -zeta only
        extract_lets change v w
        have hv : ElectsOnly s v := hu.updTim fun _ => ⟨rfl, rfl, rfl⟩
        have hw : ElectsOnly s w := hv.updTim fun _ => ⟨rfl, rfl, rfl⟩
        clear_value v w
        split
        case isTrue =>
          split
          case isTrue => exact hw.leaveGood _
          case isFalse => exact hw
        case isFalse => exact hv.updTim fun _ => ⟨rfl, rfl, rfl⟩

end

/-! #### A module that no neighbour advertises a root to (R45, R47, R50) -/

theorem adverts_of_none {s : State} (h : ∀ p, (s.bcn p).adv = none) : s.adverts = [] := by
  unfold State.adverts
  refine List.filterMap_eq_nil_iff.mpr fun p _ => ?_
  rw [h p]

theorem bestParent_of_none {s : State} (h : s.adverts = []) (root : BitVec 64) : s.bestParent root = none := by
  simp [State.bestParent, h]

theorem standingRoot_cases (s : State) :
    s.standingRoot = [] ∨ s.standingRoot = [(s.tim.curPrio, s.tim.rootId)] ∧ s.tim.rootId ≠ s.sec.fuses.physId := by
  unfold State.standingRoot
  dsimp only
  split
  case isTrue => exact .inl rfl
  case isFalse h => exact .inr ⟨rfl, by simp at h; tauto⟩

/-- A module of priority 0, which may be no root, knows its standing root at most. -/
theorem bestRoot_of_none {s : State} (h : s.adverts = []) (hprio : field s.tim.prio 0 8 = 0) : s.bestRoot = s.standingRoot.head? := by
  obtain hs | ⟨hs, -⟩ := standingRoot_cases s <;> simp [State.bestRoot, h, hprio, hs]

/-- An election there leaves the module as it is, or without parent when its root still stands. -/
theorem electRoot_of_none {s : State} (h : s.adverts = []) (hprio : field s.tim.prio 0 8 = 0) (hroot : s.tim.isRoot = false) :
    s.bestRoot = none ∧ s.electRoot = s ∨ s.bestRoot ≠ none ∧ s.electRoot = s.noParent := by
  have hbest := bestRoot_of_none h hprio
  obtain hs | ⟨hs, hother⟩ := standingRoot_cases s
  case inl =>
    rw [hs] at hbest
    refine .inl ⟨hbest, ?_⟩
    simp [State.electRoot, hbest, hroot, State.updTim]
  case inr =>
    rw [hs] at hbest
    refine .inr ⟨by simp [hbest], ?_⟩
    simp -zeta only [State.electRoot, hbest, List.head?_cons, if_neg hother]
    extract_lets u
    have hu : u = s := congrArg (fun x => { s with tim := x }) (if_pos (by simp [hroot]))
    clear_value u
    rw [hu, bestParent_of_none h]

theorem raisedOne_raise {s t : State} (h : t.flt = s.flt) (code : BitVec 16) (src agent : Nat) :
    raisedOne s (t.raise code src agent) code src := by
  obtain ⟨r, hraised, hcode, hsrc, -⟩ := State.raise_raised t code src agent 0 none 0
  exact ⟨r, by rw [hraised, h], hcode, hsrc⟩

theorem noParent_of_parent {s u : State} (hhold : u.tim.holdover = false) (hparent : u.tim.parent < 6) (hflt : u.flt = s.flt) :
    u.noParent.tim.holdover = true ∧ u.noParent.tim.parent = 7 ∧ u.noParent.tim.good = u.tim.good ∧ raisedOne s u.noParent 0x4002 112 := by
  have hloss : u.noParent =
      (u.updTim (fun t => { t with parent := 7, isRoot := false, holdover := true, holdSince := t.now.toNat })).raise 0x4002 112 0 :=
    if_pos (by simp [hhold, hparent])
  rw [hloss]
  exact ⟨rfl, rfl, rfl, raisedOne_raise hflt _ _ _⟩

/-! #### The rows (R46, R50, R57) -/

/-- A row of the time tree moves machine time's state first, then elects or leaves time-good, and posts a TIME event last. -/
theorem timeEvent_frame_of_electsOnly {s a t : State} (ha : a = { s with tim := a.tim }) (h : ElectsOnly a t) (old : Tim) :
    t.timeEvent old = { s with tim := (t.timeEvent old).tim, flt := (t.timeEvent old).flt, hst := (t.timeEvent old).hst } := by
  rw [timeEvent_tim, timeEvent_flt]
  calc t.timeEvent old = { t with hst := (t.timeEvent old).hst } := timeEvent_frame t old
    _ = { a with tim := t.tim, flt := t.flt, hst := (t.timeEvent old).hst } := congrArg (fun x => { x with hst := (t.timeEvent old).hst }) h.frame
    _ = { s with tim := t.tim, flt := t.flt, hst := (t.timeEvent old).hst } := by rw [ha]

theorem raisedOne_timeEvent {s t : State} {code : BitVec 16} {src : Nat} (h : raisedOne s t code src) (old : Tim) :
    raisedOne s (t.timeEvent old) code src := by
  rwa [raisedOne, timeEvent_flt]

theorem exec_announceIncrement {s : State} (hroot : s.tim.isRoot = true) : exec .announceIncrement s =
    .next { s with tim := { (s.beat beatAnnounce (1048576 * ns)).tim with announce := s.tim.announce + 1 } } := by
  refine (if_pos hroot).trans ?_
  rw [State.beat_eq]
  rfl

/-- The state at an instant at which the parent's advertisement goes (R50). -/
def State.withoutParent (s : State) (time : Nat) : State :=
  (s.advance time).updTim (fun t => { t with ports := Tbl.upd {} t.ports t.parent (fun b => { b with adv := none }) })

theorem withoutParent_frame (s : State) (time : Nat) : s.withoutParent time = { s with tim := { s.tim with
    now := (s.withoutParent time).tim.now
    ports := Tbl.upd {} s.tim.ports s.tim.parent (fun b => { b with adv := none }) } } := by
  rw [State.withoutParent, State.advance_eq]
  rfl

theorem withoutParent_adverts {s : State} (hothers : ∀ p, p ≠ s.tim.parent → (s.bcn p).adv = none) (time : Nat) :
    (s.withoutParent time).adverts = [] := by
  refine adverts_of_none fun p => ?_
  rw [State.bcn, withoutParent_frame]
  by_cases hp : p = s.tim.parent
  case pos => simp [hp, Tbl.upd]
  case neg => exact (congrArg BeaconPort.adv (Tbl.get_set_ne _ _ _ _ _ hp)).trans (hothers p hp)

theorem exec_parentLoss {s u : State} (hparent : s.tim.parent < 6) (hu : s.withoutParent (s.tim.parentSeen + 16384 * ns) = u) :
    exec .parentLoss s = .next ((if u.bestRoot.isNone then u.electRoot.noParent else u.electRoot).timeEvent s.tim) := by
  subst hu
  exact if_neg (by omega)

/-- The loss of a parent with no other neighbour in sight, whether the root still stands or not, is that of the parent alone (R50, R57). -/
theorem exec_parentLoss_of_none {s u : State} (hparent : s.tim.parent < 6) (hu : s.withoutParent (s.tim.parentSeen + 16384 * ns) = u)
    (hadverts : u.adverts = []) (hprio : field u.tim.prio 0 8 = 0) (hroot : u.tim.isRoot = false) :
    exec .parentLoss s = .next (u.noParent.timeEvent s.tim) := by
  rw [exec_parentLoss hparent hu]
  obtain ⟨hbest, helect⟩ | ⟨hbest, helect⟩ := electRoot_of_none hadverts hprio hroot
  case inl => rw [hbest, helect]; rfl
  case inr => rw [if_neg (by simpa using hbest), helect]

/-- The state at an instant at which the root's advertisements are discarded (R46; log 45). -/
def State.withoutRoot (s : State) (time : Nat) : State :=
  (s.advance time).updTim (fun t => { t with dead := t.dead.filter (fun d => d.1 != t.rootId) ++ [(t.rootId, t.announce)] })

theorem withoutRoot_frame (s : State) (time : Nat) : s.withoutRoot time = { s with tim := { s.tim with
    now := (s.withoutRoot time).tim.now
    dead := s.tim.dead.filter (fun d => d.1 != s.tim.rootId) ++ [(s.tim.rootId, s.tim.announce)] } } := by
  rw [State.withoutRoot, State.advance_eq]
  rfl

theorem exec_rootLoss {s u : State} (hroot : s.tim.isRoot = false) (hid : s.tim.rootId ≠ 0)
    (hu : s.withoutRoot (s.tim.announceAt + 8388608 * ns) = u) : ∃ t, exec .rootLoss s = .next (t.timeEvent s.tim) ∧ ElectsOnly u t := by
  subst hu
  refine ⟨_, if_neg (by simpa [hroot] using hid), ?_⟩
  split
  case isTrue =>
    refine .noParent (.updTim (ElectsOnly.refl _).electRoot ?_)
    exact fun _ => ⟨rfl, rfl, rfl⟩
  case isFalse => exact (ElectsOnly.refl _).electRoot

theorem exec_holdoverExpiry {s u : State} (hhold : s.tim.holdover = true) (hgood : s.tim.good = true)
    (hu : s.advance (s.tim.holdSince + 4194304 * ns) = u) :
    exec .holdoverExpiry s = .next ((u.leaveGood (some 0x4004)).timeEvent s.tim) := by
  subst hu
  exact if_pos (by rw [hhold, hgood]; rfl)

/-- Settles O29: each row moves machine time's state, then elects or leaves time-good, which keep the clock and the roots given up. -/
theorem rootsParentsAndHoldover : Obligations.RootsParentsAndHoldover := by
  unfold Obligations.RootsParentsAndHoldover
  intro s
  refine ⟨exec_announceIncrement, ?parent, ?holdover, ?root⟩
  case parent =>
    intro hparent hroot hhold hprio hothers
    obtain ⟨u, hu⟩ : ∃ u, s.withoutParent (s.tim.parentSeen + 16384 * ns) = u := ⟨_, rfl⟩
    have hadverts := withoutParent_adverts hothers (s.tim.parentSeen + 16384 * ns)
    have hframe := withoutParent_frame s (s.tim.parentSeen + 16384 * ns)
    rw [hu] at hadverts hframe
    have hexec := exec_parentLoss_of_none hparent hu hadverts (by rw [hframe]; exact hprio) (by rw [hframe]; exact hroot)
    have hlast := timeEvent_frame_of_electsOnly (by rw [hframe]) (ElectsOnly.refl u).noParent s.tim
    obtain ⟨hheld, hnone, hgood, hraised⟩ : u.noParent.tim.holdover = true ∧ u.noParent.tim.parent = 7 ∧
        u.noParent.tim.good = u.tim.good ∧ raisedOne s u.noParent 0x4002 112 :=
      noParent_of_parent (by rw [hframe]; exact hhold) (by rw [hframe]; exact hparent) (by rw [hframe])
    have hkept : u.tim.good = s.tim.good := by rw [hframe]
    rw [← timeEvent_tim u.noParent s.tim] at hheld hnone hgood
    exact ⟨_, hexec, hheld, hnone, hgood.trans hkept, raisedOne_timeEvent hraised _, hlast⟩
  case holdover =>
    intro hhold hgood
    obtain ⟨u, hu⟩ : ∃ u, s.advance (s.tim.holdSince + 4194304 * ns) = u := ⟨_, rfl⟩
    have hreaches := advance_reaches s (s.tim.holdSince + 4194304 * ns)
    have hframe := advance_frame s (s.tim.holdSince + 4194304 * ns)
    rw [hu] at hreaches hframe
    refine ⟨_, exec_holdoverExpiry hhold hgood hu, ?good, ?raised, ?time, ?frame⟩
    case good => rw [timeEvent_tim]; rfl
    case raised => exact raisedOne_timeEvent (raisedOne_raise (by rw [hframe]; rfl) _ _ _) _
    case time =>
      intro hlt
      rw [timeEvent_tim]
      exact (hreaches hlt).1
    case frame => exact timeEvent_frame_of_electsOnly (by rw [hframe]) ((ElectsOnly.refl u).leaveGood _) s.tim
  case root =>
    intro hroot hid
    obtain ⟨u, hu⟩ : ∃ u, s.withoutRoot (s.tim.announceAt + 8388608 * ns) = u := ⟨_, rfl⟩
    have hframe := withoutRoot_frame s (s.tim.announceAt + 8388608 * ns)
    rw [hu] at hframe
    obtain ⟨t, hexec, helects⟩ := exec_rootLoss hroot hid hu
    refine ⟨_, hexec, ?dead, timeEvent_frame_of_electsOnly (by rw [hframe]) helects s.tim⟩
    rw [timeEvent_tim, helects.dead, hframe]
    exact List.mem_append_right _ (List.mem_singleton_self _)

end Sys2Proof.Machine

/-! ### Beacons received (O27) -/

namespace Sys2Proof.Machine

/-- A beacon of 48 bytes, of version 1, whose CRC is right (R40, R41). -/
def goodBeacon (b : List Byte) : Prop :=
  b.length = 48 ∧ crc32 (b.take 44) = BitVec.ofNat 32 (leAt b 44 4) ∧ leAt b 0 2 / 4096 = 1

/-- The state in which the beacon received last is to be echoed (R40). -/
def State.notedBeacon (s : State) (p : Nat) (b : List Byte) (rx : Nat) : State :=
  s.updTim (fun t => { t with ports := Tbl.upd {} t.ports p (fun x => { x with lastRx := some (BitVec.ofNat 16 (leAt b 2 2), rx) }) })

/-- The state in which a matched beacon has given its advertisement, and its exchange where it completes one, before the election (R41, R42). -/
def State.takenBeacon (s : State) (p : Nat) (b : List Byte) (rx : Nat) : State :=
  (s.notedBeacon p b rx).updTim (fun t =>
    { t with ports := Tbl.upd {} t.ports p (fun x => { x with lastOk := some (BitVec.ofNat 16 (leAt b 2 2), rx),
                                                              exch := x.exch ++ (exchangeOf (s.bcn p) b (s.asymOf p)).toList,
                                                              adv := some (advertOf b, s.now16) }),
             dead := t.dead.filter (fun d => !(d.1 == (advertOf b).rootId && laterCount (advertOf b).announce d.2)),
             parentSeen := if t.parent = p then t.now.toNat else t.parentSeen })

theorem bcn_notedBeacon (s : State) (p : Nat) (b : List Byte) (rx : Nat) :
    (s.notedBeacon p b rx).bcn p = { s.bcn p with lastRx := some (BitVec.ofNat 16 (leAt b 2 2), rx) } := Tbl.get_set _ _ _ _

theorem bcn_takenBeacon (s : State) (p : Nat) (b : List Byte) (rx : Nat) : (s.takenBeacon p b rx).bcn p = { s.bcn p with
    lastRx := some (BitVec.ofNat 16 (leAt b 2 2), rx)
    lastOk := some (BitVec.ofNat 16 (leAt b 2 2), rx)
    exch := (s.bcn p).exch ++ (exchangeOf (s.bcn p) b (s.asymOf p)).toList
    adv := some (advertOf b, s.now16) } := by
  have hset : (s.takenBeacon p b rx).bcn p = { (s.notedBeacon p b rx).bcn p with
      lastOk := some (BitVec.ofNat 16 (leAt b 2 2), rx)
      exch := ((s.notedBeacon p b rx).bcn p).exch ++ (exchangeOf (s.bcn p) b (s.asymOf p)).toList
      adv := some (advertOf b, s.now16) } := Tbl.get_set _ _ _ _
  rw [hset, bcn_notedBeacon]

theorem any_sentLately_iff (s : State) (p echo : Nat) : (s.sentLately p).any (fun x => x.1.toNat == echo) = true ↔
    ∃ x ∈ (s.bcn p).sent, x.1.toNat = echo ∧ s.now16 ≤ x.2 + 8 * 2048 * 65536 := by
  simp only [State.sentLately, List.any_filter, List.any_eq_true, Bool.and_eq_true, decide_eq_true_eq, beq_iff_eq]
  exact exists_congr fun x => and_congr_right fun _ => and_comm

section
variable {s : State} {p rx : Nat} {b : List Byte}

/-- The three checks of R41 discard the others. -/
theorem checks_iff_not_goodBeacon : (decide (b.length ≠ 48) || decide (crc32 (b.take 44) ≠ BitVec.ofNat 32 (leAt b 44 4)) ||
    decide (leAt b 0 2 / 4096 ≠ 1)) = true ↔ ¬ goodBeacon b := by
  simp only [goodBeacon, Bool.or_eq_true, decide_eq_true_eq]
  tauto

theorem exec_beaconReceive_of_bad (hp : p < 6) (hlink : s.beacons p = true) (hbad : ¬ goodBeacon b) :
    exec (.beaconReceive p b rx) s = .next { s with tim := { s.tim with cnt := satInc s.tim.cnt 32 16 1 } } := by
  change execBeaconReceive p b rx s = _
  rw [execBeaconReceive, if_neg (by omega), if_neg (by simp [hlink])]
  exact if_pos (checks_iff_not_goodBeacon.mpr hbad)

theorem exec_beaconReceive_of_unmatched (hp : p < 6) (hlink : s.beacons p = true) (hgood : goodBeacon b)
    (hecho : ¬ (s.sentLately p).any (fun x => x.1.toNat == leAt b 26 2) = true) : exec (.beaconReceive p b rx) s =
      .next ((s.updTim (fun t => { t with cnt := satInc t.cnt 32 16 1 })).notedBeacon p b rx) := by
  change execBeaconReceive p b rx s = _
  rw [execBeaconReceive, if_neg (by omega), if_neg (by simp [hlink])]
  exact (if_neg (mt checks_iff_not_goodBeacon.mp (not_not.mpr hgood))).trans (if_pos (by simpa using hecho))

theorem exec_beaconReceive_of_matched (hp : p < 6) (hlink : s.beacons p = true) (hgood : goodBeacon b)
    (hecho : (s.sentLately p).any (fun x => x.1.toNat == leAt b 26 2) = true) :
    ∃ t, exec (.beaconReceive p b rx) s = .next (t.timeEvent s.tim) ∧ ElectsOnly (s.takenBeacon p b rx) t := by
  have hrow : execBeaconReceive p b rx s = _ :=
    (if_neg (by omega)).trans ((if_neg (by simp [hlink])).trans
      ((if_neg (mt checks_iff_not_goodBeacon.mp (not_not.mpr hgood))).trans (if_neg (by simp [hecho]))))
  refine ⟨_, hrow, ?_⟩
  split
  case isTrue =>
    refine .updTim (ElectsOnly.refl (s.takenBeacon p b rx)).electRoot ?_
    exact fun _ => ⟨rfl, rfl, rfl⟩
  case isFalse => exact (ElectsOnly.refl _).electRoot

end

/-- The exchange of R42 on a link with no asymmetry: t1 and t4 are the port's own, t2 and t3 stand in the beacon. -/
theorem exchangeOf_of_symmetric {b : BeaconPort} {bytes : List Byte} {q m : BitVec 16} {t1 t4 : Nat} (hsent : b.sent = [(q, t1)])
    (hlast : b.lastOk = some (m, t4)) (hecho : leAt bytes 26 2 = q.toNat) (hnext : m + 1 = BitVec.ofNat 16 (leAt bytes 2 2)) :
    exchangeOf b bytes 0 = some (125 * (((stampAt bytes 28 : Nat) - t1 : Int) - (t4 - (stampAt bytes 16 : Nat))),
      125 * (((stampAt bytes 28 : Nat) - t1 : Int) + (t4 - (stampAt bytes 16 : Nat)))) := by
  have hfind : b.sent.find? (fun x => x.1.toNat == leAt bytes 26 2) = some (q, t1) := by simp [hsent, hecho]
  simp only [exchangeOf, hfind, hlast, if_pos hnext, mul_zero, sub_zero]

/-- Settles O27: the three checks of R41 tell bad beacons from good ones, and the echo tells which of these give a sample. -/
theorem beaconsGiveExchanges : Obligations.BeaconsGiveExchanges := by
  unfold Obligations.BeaconsGiveExchanges
  refine ⟨fun s p rx b hp hlink => ⟨?bad, ?unmatched, ?matched⟩, fun b bytes q m t1 t4 => exchangeOf_of_symmetric⟩
  case bad => exact exec_beaconReceive_of_bad hp hlink
  case unmatched =>
    intro hgood hold
    have hecho : ¬ (s.sentLately p).any (fun x => x.1.toNat == leAt b 26 2) = true := by
      rw [any_sentLately_iff]
      rintro ⟨x, hx, heq, hlate⟩
      exact absurd (hold x hx heq) (Nat.not_lt.mpr hlate)
    exact ⟨_, exec_beaconReceive_of_unmatched hp hlink hgood hecho, bcn_notedBeacon _ p b rx, rfl, rfl⟩
  case matched =>
    intro hgood hsent
    obtain ⟨t, hexec, helects⟩ := exec_beaconReceive_of_matched (rx := rx) hp hlink hgood ((any_sentLately_iff s p _).mpr hsent)
    have hbcn : (t.timeEvent s.tim).bcn p = (s.takenBeacon p b rx).bcn p := by
      rw [State.bcn, timeEvent_tim, helects.ports]
      rfl
    rw [bcn_takenBeacon] at hbcn
    have hnow : (t.timeEvent s.tim).tim.now = s.tim.now := (congrArg Tim.now (timeEvent_tim t s.tim)).trans helects.now
    have hframe := timeEvent_frame_of_electsOnly (s := s) rfl helects s.tim
    exact ⟨_, hexec, by rw [hbcn], by rw [hbcn], by rw [hbcn], by rw [hbcn], hnow, hframe⟩

end Sys2Proof.Machine

/-! ### Beacons sent (O26) -/

namespace Sys2Proof.Machine

/-! #### Numbers in byte strings -/

theorem leNat_leBytes (n k : Nat) : leNat (leBytes n k) = n % 256 ^ k := by
  induction k generalizing n with
  | zero => simp [leBytes, leNat, Nat.mod_one]
  | succ k ih =>
    have hbyte : (BitVec.ofNat 8 n).toNat = n % 256 := BitVec.toNat_ofNat n 8
    rw [leBytes, leNat, ih, hbyte, pow_succ', Nat.mod_mul]

theorem leAt_append {a b c : List Byte} {o n : Nat} (ha : a.length = o) (hb : b.length = n) : leAt (a ++ (b ++ c)) o n = leNat b := by
  subst ha hb
  simp [leAt, slice]

/-! #### The layout of a beacon (R40) -/

/-- Version 1 and the flags, the SEQ, whatever else fills 44 bytes, and the CRC of these. -/
theorem beacon_layout (s : State) (p : Nat) : ∃ ver rest body, s.beacon p = body ++ leBytes (crc32 body).toNat 4 ∧ body.length = 44 ∧
    body = leBytes ver 2 ++ (leBytes (s.bcn p).txSeq.toNat 2 ++ rest) ∧ ver / 4096 = 1 ∧ ver < 256 ^ 2 := by
  unfold State.beacon
  extract_lets t b ver prev echo body
  have hver : 0x1000 ≤ ver ∧ ver < 0x2000 := by
    have hbit : ∀ (c : Bool) (n : Nat), (if c then n else 0) ≤ n := fun c n => by cases c <;> simp
    have hgood := hbit t.good 0x800
    have hhold := hbit t.holdover 0x400
    have htai := hbit t.tai 0x200
    have hroot := hbit t.isRoot 0x100
    constructor <;> omega
  have hlen : body.length = 44 := by simp [body, stampBytes, leBytes_length, zeros]
  have hrest : ∃ rest, body = leBytes ver 2 ++ (leBytes b.txSeq.toNat 2 ++ rest) := by
    simp only [body, List.append_assoc, List.append_cancel_left_eq, exists_eq']
  obtain ⟨rest, hbody⟩ := hrest
  exact ⟨ver, rest, body, rfl, hlen, hbody, by omega, by omega⟩

theorem length_beacon (s : State) (p : Nat) : (s.beacon p).length = 48 := by
  obtain ⟨ver, rest, body, hbeacon, hlen, -⟩ := beacon_layout s p
  rw [hbeacon, List.length_append, leBytes_length, hlen]

theorem version_beacon (s : State) (p : Nat) : leAt (s.beacon p) 0 2 / 4096 = 1 := by
  obtain ⟨ver, rest, body, hbeacon, -, hbody, hver, hlt⟩ := beacon_layout s p
  have hat : leAt (s.beacon p) 0 2 = leNat (leBytes ver 2) := by
    rw [hbeacon, hbody, List.append_assoc]
    exact leAt_append (a := []) rfl (leBytes_length _ _)
  rw [hat, leNat_leBytes, Nat.mod_eq_of_lt hlt, hver]

theorem seq_beacon (s : State) (p : Nat) : leAt (s.beacon p) 2 2 = (s.bcn p).txSeq.toNat := by
  obtain ⟨ver, rest, body, hbeacon, -, hbody, -⟩ := beacon_layout s p
  have hat : leAt (s.beacon p) 2 2 = leNat (leBytes (s.bcn p).txSeq.toNat 2) := by
    rw [hbeacon, hbody, List.append_assoc, List.append_assoc]
    exact leAt_append (leBytes_length _ _) (leBytes_length _ _)
  rw [hat, leNat_leBytes]
  exact Nat.mod_eq_of_lt (s.bcn p).txSeq.isLt

theorem crc_beacon (s : State) (p : Nat) : BitVec.ofNat 32 (leAt (s.beacon p) 44 4) = crc32 ((s.beacon p).take 44) := by
  obtain ⟨ver, rest, body, hbeacon, hlen, -⟩ := beacon_layout s p
  have hat : leAt (s.beacon p) 44 4 = leNat (leBytes (crc32 body).toNat 4) := by
    rw [hbeacon, ← List.append_nil (leBytes _ 4)]
    exact leAt_append hlen (leBytes_length _ _)
  have htake : (s.beacon p).take 44 = body := by rw [hbeacon, List.take_left' hlen]
  have hcrc : (crc32 body).toNat % 256 ^ 4 = (crc32 body).toNat := Nat.mod_eq_of_lt (crc32 body).isLt
  rw [hat, htake, leNat_leBytes, hcrc, BitVec.ofNat_toNat, BitVec.setWidth_eq]

/-! #### A loop over units of which each pass touches its own -/

section
variable {α : Type} {g : State → α} {f : State → Nat → State} {q : Nat}

theorem forEach_skips (hne : ∀ u x, x ≠ q → g (f u x) = g u) (l : List Nat) (s : State) (h : q ∉ l) : g (forEach s l f) = g s := by
  induction l generalizing s with
  | nil => rfl
  | cons x r ih =>
    obtain ⟨hx, hr⟩ := not_or.mp (mt List.mem_cons.mpr h)
    exact (ih (f s x) hr).trans (hne s x (Ne.symm hx))

/-- What the passes of other units leave, and the pass of unit `q` makes of itself, is after the loop what that pass alone makes of it. -/
theorem forEach_passes (hne : ∀ u x, x ≠ q → g (f u x) = g u) (hself : ∀ u v, g u = g v → g (f u q) = g (f v q))
    (l : List Nat) (s : State) (hl : l.Nodup) (hq : q ∈ l) : g (forEach s l f) = g (f s q) := by
  induction l generalizing s with
  | nil => exact absurd hq List.not_mem_nil
  | cons x r ih =>
    obtain ⟨hx, hr⟩ := List.nodup_cons.mp hl
    by_cases h : x = q
    case pos =>
      subst h
      exact forEach_skips hne r (f s x) hx
    case neg => exact (ih (f s x) hr (List.mem_of_ne_of_mem (Ne.symm h) hq)).trans (hself _ _ (hne s x h))

end

/-! #### Machine time at the multiples of a period -/

theorem le_roundUp (n : Nat) {k : Nat} (hk : 0 < k) : n ≤ roundUp n k := by
  have hlt := Nat.lt_div_mul_add (a := n + k - 1) hk
  rw [roundUp]
  omega

theorem advance_now_of_le {s : State} {time : Nat} (hle : s.tim.now.toNat ≤ time) (hlt : time < 2 ^ 112) :
    (s.advance time).tim.now.toNat = time := by
  unfold State.advance
  split
  case isTrue => exact (BitVec.toNat_ofNat _ _).trans (Nat.mod_eq_of_lt hlt)
  case isFalse h => omega

/-- Work at the multiples comes at the next of them, or, where it has come there, at the one after. -/
theorem alignedBeat_now {s : State} (n : Nat) {period : Nat} (hp : 0 < period)
    (hlt : roundUp s.tim.now.toNat period + period < 2 ^ 112) : (s.alignedBeat n period).tim.now.toNat =
      if (n, roundUp s.tim.now.toNat period) ∈ s.tim.beats then roundUp s.tim.now.toNat period + period
      else roundUp s.tim.now.toNat period := by
  have hle := le_roundUp s.tim.now.toNat hp
  have hnow : (s.alignedBeat n period).tim.now = (s.advance (if s.tim.beats.contains (n, roundUp s.tim.now.toNat period) then
    roundUp s.tim.now.toNat period + period else roundUp s.tim.now.toNat period)).tim.now := rfl
  rw [hnow]
  simp only [List.contains_iff_mem]
  split <;> exact advance_now_of_le (by omega) (by omega)

/-! #### What a beacon is made of, and what its sending changes (R38 to R40) -/

/-- The state from which the beacon of port `p` is made: the time tree without the ports, the port's beacon state and its link. -/
def State.sender (s : State) (p : Nat) : Tim × BeaconPort × Olf := ({ s.tim with ports := [] }, s.bcn p, s.port p)

theorem sender_alignedBeat (s : State) (n period p : Nat) : ∃ t : Tim, (s.alignedBeat n period).sender p = (t, s.bcn p, s.port p) := by
  rw [State.alignedBeat_eq]
  exact ⟨_, rfl⟩

/-- A state that has what a beacon of port `p` is made of, and nothing else. -/
def senderState (p : Nat) (x : Tim × BeaconPort × Olf) : State := { State.reset with tim := { x.1 with ports := [(p, x.2.1)] } }

theorem beacon_eq_senderState (s : State) (p : Nat) : s.beacon p = (senderState p (s.sender p)).beacon p := by
  have hbcn : (senderState p (s.sender p)).bcn p = s.bcn p := if_pos rfl
  simp only [State.beacon, hbcn]
  rfl

theorem beacon_eq_of_sender {s u : State} {p : Nat} (h : u.sender p = s.sender p) : u.beacon p = s.beacon p := by
  rw [beacon_eq_senderState u, h, ← beacon_eq_senderState]

theorem beacons_eq_of_sender {s u : State} {p : Nat} (h : u.sender p = s.sender p) : u.beacons p = s.beacons p :=
  congrArg (fun x : Tim × BeaconPort × Olf => x.2.2.st == linkUp || x.2.2.st == 5) h

theorem sendBeacon_of_silent {s : State} {p : Nat} (h : s.beacons p = false) (tx : Nat) : s.sendBeacon p tx = s :=
  if_pos (by simp [h])

theorem sendBeacon_frame (s : State) (p tx : Nat) :
    s.sendBeacon p tx = { s with tim := (s.sendBeacon p tx).tim, olf := (s.sendBeacon p tx).olf } := by
  unfold State.sendBeacon
  split <;> rfl

theorem sender_sendBeacon_ne (s : State) {p q : Nat} (tx : Nat) (h : q ≠ p) : (s.sendBeacon p tx).sender q = s.sender q := by
  unfold State.sendBeacon
  split
  case isTrue => rfl
  case isFalse => simp [State.sender, State.bcn, State.updTim, State.port, State.updPort, State.setPort, Tbl.upd, h]

/-- What is left of that once the beacon `b` was sent at `tx`. -/
def afterBeacon (b : List Byte) (tx : Nat) (x : Tim × BeaconPort × Olf) : Tim × BeaconPort × Olf :=
  (x.1, { x.2.1 with txSeq := x.2.1.txSeq + 1, sent := ((x.2.1.txSeq, tx) :: x.2.1.sent).take 8 },
    { x.2.2 with msgs := x.2.2.msgs.filter (fun m => m.msg == 1) ++ ⟨1, padTo b 66⟩ :: x.2.2.msgs.filter (fun m => m.msg != 1) })

theorem sender_sendBeacon {s : State} {p : Nat} (tx : Nat) (hp : p < 6) (h : s.beacons p = true) :
    (s.sendBeacon p tx).sender p = afterBeacon (s.beacon p) tx (s.sender p) := by
  rw [State.sendBeacon, if_neg (by simp [hp, h])]
  simp [State.sender, afterBeacon, State.bcn, State.updTim, State.port, State.updPort, State.setPort, Tbl.upd]

theorem sender_sendBeacon_congr {s u : State} {p : Nat} (tx : Nat) (h : u.sender p = s.sender p) :
    (u.sendBeacon p tx).sender p = (s.sendBeacon p tx).sender p := by
  have hlinks := beacons_eq_of_sender h
  cases hcond : 6 ≤ p || !s.beacons p with
  | true => rw [State.sendBeacon, State.sendBeacon, hlinks, if_pos hcond, if_pos hcond, h]
  | false =>
    obtain ⟨hp, hs⟩ : p < 6 ∧ s.beacons p = true := by simpa using hcond
    rw [sender_sendBeacon tx hp (hlinks.trans hs), sender_sendBeacon tx hp hs, beacon_eq_of_sender h, h]

/-! #### BEACON_SEND -/

/-- The state after BEACON_SEND (R38 to R40), with the measured timestamps `tx`, at the instant at which `s` stands. -/
def State.sendBeacons (s : State) (tx : List (Nat × Nat)) : State :=
  forEach s (List.range 6) (fun u p => u.sendBeacon p (s.stampOf tx p))

theorem exec_beaconSend (s : State) (tx : List (Nat × Nat)) :
    exec (.beaconSend tx) s = .next ((s.alignedBeat beatBeacon (2048 * ns)).sendBeacons tx) := rfl

theorem sendBeacons_frame (s : State) (tx : List (Nat × Nat)) :
    s.sendBeacons tx = { s with tim := (s.sendBeacons tx).tim, olf := (s.sendBeacons tx).olf } := by
  refine forEach_keeps (fun u => u = { s with tim := u.tim, olf := u.olf }) _ (fun u p hu => ?_) (List.range 6) s rfl
  exact (sendBeacon_frame u p _).trans (by rw [hu])

theorem sender_sendBeacons {s : State} {p : Nat} (tx : List (Nat × Nat)) (hp : p < 6) (h : s.beacons p = true) :
    (s.sendBeacons tx).sender p = afterBeacon (s.beacon p) (s.stampOf tx p) (s.sender p) := by
  have hpass := forEach_passes (g := fun u => u.sender p) (f := fun u q => u.sendBeacon q (s.stampOf tx q)) (q := p)
    (fun u q hq => sender_sendBeacon_ne u _ (Ne.symm hq)) (fun u v hu => sender_sendBeacon_congr _ hu)
    (List.range 6) s List.nodup_range (List.mem_range.mpr hp)
  exact hpass.trans (sender_sendBeacon (s.stampOf tx p) hp h)

theorem bcn_sendBeacons {s : State} {p : Nat} (tx : List (Nat × Nat)) (hp : p < 6) (h : s.beacons p = true) :
    (s.sendBeacons tx).bcn p =
      { s.bcn p with txSeq := (s.bcn p).txSeq + 1, sent := (((s.bcn p).txSeq, s.stampOf tx p) :: (s.bcn p).sent).take 8 } := by
  have hsender := sender_sendBeacons tx hp h
  simp only [State.sender, afterBeacon, Prod.mk.injEq] at hsender
  exact hsender.2.1

theorem port_sendBeacons {s : State} {p : Nat} (tx : List (Nat × Nat)) (hp : p < 6) (h : s.beacons p = true) :
    (s.sendBeacons tx).port p = { s.port p with msgs := (s.port p).msgs.filter (fun m => m.msg == 1) ++
      ⟨1, padTo (s.beacon p) 66⟩ :: (s.port p).msgs.filter (fun m => m.msg != 1) } := by
  have hsender := sender_sendBeacons tx hp h
  simp only [State.sender, afterBeacon, Prod.mk.injEq] at hsender
  exact hsender.2.2

theorem now_sendBeacons (s : State) (tx : List (Nat × Nat)) : (s.sendBeacons tx).tim.now = s.tim.now := by
  have hpass : ∀ (u : State) (p t : Nat), (u.sendBeacon p t).tim.now = u.tim.now := fun u p t => by
    rw [State.sendBeacon]
    split <;> rfl
  rw [State.sendBeacons]
  exact forEach_frame (·.tim.now) _ (fun u p => hpass u p _) (List.range 6) s

/-- A port whose link carries no beacons is passed over. -/
theorem sender_sendBeacons_of_silent {s : State} {p : Nat} (tx : List (Nat × Nat)) (h : s.beacons p = false) :
    (s.sendBeacons tx).sender p = s.sender p := by
  refine forEach_keeps (fun u => u.sender p = s.sender p) _ (fun u q hu => ?_) (List.range 6) s rfl
  by_cases hq : p = q
  case pos =>
    subst hq
    rw [sendBeacon_of_silent ((beacons_eq_of_sender hu).trans h)]
    exact hu
  case neg => exact (sender_sendBeacon_ne u _ hq).trans hu

theorem stampOf_singleton (s : State) (p x : Nat) : s.stampOf [(p, x)] p = x := by
  simp [State.stampOf]

theorem beacon_alignedBeat (s : State) (n period p : Nat) : (s.alignedBeat n period).beacon p = s.beacon p := by
  rw [State.alignedBeat_eq]
  rfl

theorem take_padTo_beacon (s : State) (p : Nat) : (padTo (s.beacon p) 66).take 48 = s.beacon p := by
  have hlen := length_beacon s p
  rw [padTo, List.take_of_length_le (i := 66) (by omega), List.take_left' hlen]

/-- Settles O26: each pass of the loop touches its own port, and machine time stands at the multiple before the first. -/
theorem beaconsAreSent : Obligations.BeaconsAreSent := by
  unfold Obligations.BeaconsAreSent
  intro s p x hp
  refine ⟨length_beacon s p, version_beacon s p, seq_beacon s p, crc_beacon s p, fun hlink => ?_⟩
  obtain ⟨u, hu⟩ : ∃ u, s.alignedBeat beatBeacon (2048 * ns) = u := ⟨_, rfl⟩
  have hframe := State.alignedBeat_eq s beatBeacon (2048 * ns)
  have hnow := alignedBeat_now (s := s) beatBeacon (period := 2048 * ns) (by decide)
  have hbeacon := beacon_alignedBeat s beatBeacon (2048 * ns) p
  rw [hu] at hframe hnow hbeacon
  have hbcn : ∀ q, u.bcn q = s.bcn q := fun q => by rw [hframe]; rfl
  have hport : ∀ q, u.port q = s.port q := fun q => by rw [hframe]; rfl
  have hlinks : ∀ q, u.beacons q = s.beacons q := fun q => by rw [State.beacons, hport, State.beacons]
  have hself := bcn_sendBeacons [(p, x)] hp ((hlinks p).trans hlink)
  rw [stampOf_singleton, hbcn] at hself
  refine ⟨u.sendBeacons [(p, x)], by rw [exec_beaconSend, hu], ?seq, ?stamp, ?msg, ?every, ?silent, ?time, ?frame⟩
  case seq => rw [hself]
  case stamp => rw [hself]
  case msg =>
    refine ⟨padTo (s.beacon p) 66, ?_, take_padTo_beacon s p⟩
    rw [port_sendBeacons _ hp ((hlinks p).trans hlink), hport, hbeacon]
  case every =>
    intro q hq hl
    rw [bcn_sendBeacons _ hq ((hlinks q).trans hl), hbcn]
  case silent =>
    intro q hl
    have hq := sender_sendBeacons_of_silent [(p, x)] ((hlinks q).trans hl)
    simp only [State.sender, Prod.mk.injEq, hbcn, hport] at hq
    exact hq.2
  case time =>
    intro r hlt
    rw [now_sendBeacons]
    exact hnow hlt
  case frame => exact (sendBeacons_frame u _).trans (by rw [hframe])

end Sys2Proof.Machine

/-! ### The module right after a module reset (O2) -/

namespace Sys2Proof.Machine

theorem debtsOk_default : ({} : Msq).debtsOk := by
  unfold Msq.debtsOk
  decide +kernel

theorem queuesOk_default : ({} : Olf).queuesOk := ⟨⟨[], [], rfl, nofun, nofun⟩, by decide⟩

/-- No table lists a unit at reset, so that every unit is a default one. -/
theorem countsOk_reset : State.reset.countsOk := ⟨fun _ => debtsOk_default, fun _ => queuesOk_default, .nil, nofun⟩

/-- Settles O2: every register but the counts' is a default value of the state's fields. -/
theorem resetGivesTheResetValues : Obligations.ResetGivesTheResetValues := by
  unfold Obligations.ResetGivesTheResetValues
  refine ⟨rfl, rfl, rfl, rfl, ?spans, ?sequencers, ?ports, ?rows, ?clusters, rfl, rfl, rfl, rfl, rfl, rfl, rfl, rfl, rfl, rfl, rfl, countsOk_reset⟩
  case spans => exact fun _ => ⟨rfl, rfl, rfl, rfl, rfl⟩
  case sequencers => exact fun _ => ⟨rfl, rfl, rfl⟩
  case ports => exact fun _ => ⟨rfl, rfl, rfl, rfl⟩
  case rows => exact fun _ => ⟨rfl, rfl, rfl⟩
  case clusters => exact fun _ => ⟨rfl, rfl, rfl⟩

end Sys2Proof.Machine

/-! ### Keystones (O23): the start of a module that is unusable -/

namespace Sys2Proof.Machine

/-- The start keystone of an unusable module is cancelled, whether or not something else blocks it (R83; log 100). -/
theorem namedKeystone_start_of_unusable {s : State} (h : s.unusable = true) :
    s.namedKeystone true = (s.updTik (fun t => { t with keyArmed := false })).dropKeystone (bit s.tik.armAct 0) true true := by
  have hkept : (s.updTik (fun t => { t with keyArmed := false })).unusable = true := h
  unfold State.namedKeystone
  simp only [hkept, Bool.or_true, Bool.and_self, if_true, ite_self]

/-- A module that is STARTING, its START keystone armed and confirmed for the epoch 1 µs, with a tollhouse that hangs (R426). -/
def wedgedStart : State := { State.reset with
  hst := { State.reset.hst with st := stStarting }
  job := { loaded := true, armed := true }
  tik := { keyArmed := true, armAct := 2 }
  plc := { proposal := some { epoch := 1000, go := true } }
  flt := { State.reset.flt with wedged := true } }

/-- The state in which the start keystone leaves it. -/
def wedgedStartDropped : State :=
  (((wedgedStart.advance (1000 * ns)).updTik (fun t => { t with keyArmed := false })).dropKeystone false true true).pump

theorem exec_keystoneTick_wedgedStart : exec .keystoneTick wedgedStart = .next wedgedStartDropped := by
  have hfires : exec .keystoneTick wedgedStart = .next ((wedgedStart.advance (1000 * ns)).namedKeystone true).pump := rfl
  rw [hfires, namedKeystone_start_of_unusable (by decide +kernel)]
  rfl

theorem wedgedStartDropped_not_running : wedgedStartDropped.job.running = false := by decide +kernel

/-- Refutes O23 at the armed start: the statement does not ask that the module is usable, and the start keystone of a wedged one is cancelled,
with nothing else in its way and its step at the rated one, so that no job runs. -/
theorem not_keystonesAct : ¬ Obligations.KeystonesAct := by
  unfold Obligations.KeystonesAct
  intro h
  obtain ⟨-, -, -, -, -, -, hstart⟩ := h wedgedStart (by decide) rfl
  obtain ⟨t, hexec, hrun, -⟩ := hstart _ rfl rfl rfl rfl rfl (by decide +kernel) (by decide +kernel)
  have ht := Host.Outcome.next.inj (exec_keystoneTick_wedgedStart.symm.trans hexec)
  rw [← ht, wedgedStartDropped_not_running] at hrun
  exact Bool.false_ne_true hrun

end Sys2Proof.Machine

/-! ### Plan ends and droop (O21) -/

namespace Sys2Proof.Machine

/-! #### Fields of a register -/

theorem getLsbD_fmask (lo len i : Nat) : (fmask lo len).getLsbD i = (decide (i < 64) && decide (lo ≤ i) && decide (i - lo < len)) := by
  rw [fmask, BitVec.getLsbD_shiftLeft, BitVec.getLsbD_ofNat, Nat.testBit_two_pow_sub_one]
  rcases Nat.lt_or_ge i lo with h | h <;> grind

theorem setField_field (w : Reg) (lo len : Nat) : setField w lo len (field w lo len) = w := by
  apply BitVec.eq_of_getLsbD_eq
  intro i hi
  rw [setField, BitVec.getLsbD_or, BitVec.getLsbD_and, BitVec.getLsbD_and, BitVec.getLsbD_not, getLsbD_fmask, BitVec.getLsbD_shiftLeft,
    BitVec.getLsbD_ofNat, field, Nat.testBit_mod_two_pow, Nat.testBit_div_two_pow]
  by_cases h : lo ≤ i ∧ i - lo < len
  case pos =>
    obtain ⟨hlo, hlen⟩ := h
    have hsum : i - lo + lo = i := Nat.sub_add_cancel hlo
    simp [hi, hlo, hlen, hsum, BitVec.getLsbD, show i - lo < 64 by omega]
  case neg =>
    have hout : (decide (lo ≤ i) && decide (i - lo < len)) = false := by simpa using h
    simp [hi, hout]

/-- A counter raised by nothing stays. -/
theorem satInc_zero (w : Reg) (lo len : Nat) : satInc w lo len 0 = w := by
  have hlt : field w lo len < 2 ^ len := Nat.mod_lt _ (Nat.two_pow_pos len)
  rw [satInc, Nat.add_zero, Nat.min_eq_left (by omega), setField_field]

/-! #### One span controller changed -/

theorem onlySpan_updSpn (s : State) (p : Nat) (f : Spn → Spn) : onlySpan s (s.updSpn p f) p :=
  ⟨rfl, fun x hx => State.spn_updSpn_ne s p x f hx⟩

/-- A change of the droop state where the span's clock goes: only the machine time at which the new length begins is added to it. -/
theorem droopChange_of_going {s : State} {p : Nat} (hp : p < 100) (hgoing : (s.spn p).stopped = false) (cyc : Nat) (g : Spn → Spn) :
    ∃ t, droopChange p cyc s g = .next t ∧ onlySpan s t p ∧ t.spn p = { g (s.spn p) with modeAt := (t.spn p).modeAt } := by
  rw [droopChange, if_neg (by omega)]
  refine ⟨_, rfl, onlySpan_updSpn s p _, ?_⟩
  rw [State.spn_updSpn]
  simp only [hgoing, Bool.false_eq_true, if_false]
  split <;> rfl

/-- Where the clock stands, the trips change and the length does not. -/
theorem droopChange_of_stopped {s : State} {p : Nat} (hp : p < 100) (hstopped : (s.spn p).stopped = true) (cyc : Nat) (g : Spn → Spn) :
    ∃ t, droopChange p cyc s g = .next t ∧ onlySpan s t p ∧
      t.spn p = { g (s.spn p) with mode := (s.spn p).mode, modeFrom := (s.spn p).modeFrom, cleared := (s.spn p).cleared } := by
  rw [droopChange, if_neg (by omega)]
  refine ⟨_, rfl, onlySpan_updSpn s p _, ?_⟩
  rw [State.spn_updSpn]
  simp only [hstopped, if_true]

/-- With no work waiting in a span, its cycles are passed over at once. -/
theorem advanceSpan_of_idle {s : State} {p : Nat} (hidle : s.spanIdle p = true) (c : Nat) :
    advanceSpan s p c = s.updSpn p (fun k => { k with cycle := max k.cycle c }) := by
  rw [advanceSpan, runTo, if_pos hidle]

theorem execPlanEndReached_of_idle {s : State} {p : Nat} (hp : p < 100) (hrun : (s.spn p).running = true) (hheld : (s.spn p).overrun = false)
    (hidle : s.spanIdle p = true) (left : Nat) :
    ∃ t, execPlanEndReached p left s = .next t ∧ onlySpan s t p ∧ t.spn p = { s.spn p with
      cycle := max (s.spn p).cycle (s.planEnd p s.tik.phaseNo)
      planDone := true
      slackMin := BitVec.ofNat 64 (min (s.spn p).slackMin.toNat (min (left * (12 + s.tik.stepNow) / 2500) 0xFFFF)) } := by
  rw [execPlanEndReached, hrun, hheld, if_neg (by simpa using hp), advanceSpan_of_idle hidle]
  refine ⟨_, rfl, ⟨rfl, fun x hx => ?_⟩, ?_⟩
  · rw [State.spn_updSpn_ne _ _ _ _ hx, State.spn_updSpn_ne _ _ _ _ hx]
  · rw [State.spn_updSpn, State.spn_updSpn]
    rfl

/-! #### The length of a span's cycles -/

@[simp] theorem setMode_mode (k : Spn) (m : Stretch) (c : Nat) : (k.setMode m c).mode = m := rfl
@[simp] theorem setMode_modeFrom (k : Spn) (m : Stretch) (c : Nat) : (k.setMode m c).modeFrom = c := rfl
@[simp] theorem setMode_l1 (k : Spn) (m : Stretch) (c : Nat) : (k.setMode m c).l1 = k.l1 := rfl
@[simp] theorem setMode_l2 (k : Spn) (m : Stretch) (c : Nat) : (k.setMode m c).l2 = k.l2 := rfl
@[simp] theorem setMode_cnt (k : Spn) (m : Stretch) (c : Nat) :
    (k.setMode m c).cnt = satInc k.cnt 16 32 (k.stretchedTo c - k.cleared) := rfl

theorem stretchedTo_of_nominal {k : Spn} (h : k.mode = .nominal) (c : Nat) : k.stretchedTo c = 0 := by rw [Spn.stretchedTo, h]
theorem stretchedTo_of_hold {k : Spn} (h : k.mode = .hold) (c : Nat) : k.stretchedTo c = min (c - k.modeFrom) 8 := by
  rw [Spn.stretchedTo, h]
theorem stretchedTo_of_stretching {k : Spn} (h : k.mode = .l1 ∨ k.mode = .l2) (c : Nat) : k.stretchedTo c = c - k.modeFrom := by
  rcases h with h | h <;> rw [Spn.stretchedTo, h]

/-- Cycles of a stretching that has not begun by `c` count from its begin on. -/
theorem stretchedTo_max {k : Spn} (h : k.mode = .l1 ∨ k.mode = .l2) (c : Nat) : k.stretchedTo (max c k.modeFrom) = c - k.modeFrom := by
  rw [stretchedTo_of_stretching h]
  omega

/-! #### The rows -/

/-- A span's controller once it has taken a trip and counted a droop event (R86), but for the length of its cycles. -/
def Spn.withTrip (k : Spn) (l2 : Bool) (cyc : Nat) : Spn :=
  { k with cnt := if !k.l1 && !k.l2 && decide (k.clearAt.getD 0 + 64 ≤ cyc) then satInc k.cnt 0 16 1 else k.cnt, l1 := true, l2 := k.l2 || l2 }

@[simp] theorem withTrip_l1 (k : Spn) (l2 : Bool) (cyc : Nat) : (k.withTrip l2 cyc).l1 = true := rfl
@[simp] theorem withTrip_l2 (k : Spn) (l2 : Bool) (cyc : Nat) : (k.withTrip l2 cyc).l2 = (k.l2 || l2) := rfl
@[simp] theorem withTrip_cleared (k : Spn) (l2 : Bool) (cyc : Nat) : (k.withTrip l2 cyc).cleared = k.cleared := rfl
@[simp] theorem stretchedTo_withTrip (k : Spn) (l2 : Bool) (cyc c : Nat) : (k.withTrip l2 cyc).stretchedTo c = k.stretchedTo c := rfl

theorem withTrip_cnt {k : Spn} (hl1 : k.l1 = false) (hl2 : k.l2 = false) (l2 : Bool) (cyc : Nat) :
    (k.withTrip l2 cyc).cnt = if k.clearAt.getD 0 + 64 ≤ cyc then satInc k.cnt 0 16 1 else k.cnt := by
  simp [Spn.withTrip, hl1, hl2]

theorem exec_droopTrip (p : Nat) (l2 : Bool) (cyc : Nat) (s : State) : exec (.droopTrip p l2 cyc) s =
    droopChange p cyc s (fun k => (k.withTrip l2 cyc).setMode (if k.l2 || l2 then .l2 else .l1) (cyc + 2)) := rfl

theorem exec_droopLevel2Clear (p cyc : Nat) (s : State) : exec (.droopLevel2Clear p cyc) s =
    droopChange p cyc s (fun k => if k.l2 then { k with l2 := false }.setMode .l1 (max cyc k.modeFrom) else k) := rfl

theorem exec_droopClear (p cyc : Nat) (s : State) : exec (.droopClear p cyc) s = droopChange p cyc s (fun k =>
    if k.l1 || k.l2 then { k with l1 := false, l2 := false, clearAt := some cyc }.setMode .hold (max cyc k.modeFrom) else k) := rfl

theorem exec_stretchHoldEnd (p cyc : Nat) (s : State) : exec (.stretchHoldEnd p cyc) s = droopChange p cyc s (fun k =>
    if k.mode = .hold && decide (k.modeFrom + 8 ≤ cyc) then k.setMode .nominal (k.modeFrom + 8) else k) := rfl

/-- Settles O21: each row changes its span's controller by one function, and `setMode` counts the stretched cycles that it ends. -/
theorem planEndsAndDroop : Obligations.PlanEndsAndDroop := by
  unfold Obligations.PlanEndsAndDroop
  intro s p hp k
  refine ⟨?planEnd, ?trip, ?stopped, ?level2, ?clear, ?held, ?holdEnd⟩
  case planEnd =>
    intro left hrun hheld hidle
    obtain ⟨t, hexec, honly, hspan⟩ := execPlanEndReached_of_idle hp hrun hheld hidle left
    refine ⟨t, hexec, honly, by rw [hspan], by rw [hspan], ?_⟩
    rw [hspan]
    exact Nat.mod_eq_of_lt (lt_of_le_of_lt (min_le_left _ _) k.slackMin.isLt)
  case trip =>
    intro l2 cyc hgoing hl1 hl2 hmode
    obtain ⟨t, hexec, honly, hspan⟩ := droopChange_of_going hp hgoing cyc _
    refine ⟨t, (exec_droopTrip p l2 cyc s).trans hexec, honly, ?_⟩
    rw [hspan]
    simp [stretchedTo_of_nominal hmode, satInc_zero, withTrip_cnt hl1 hl2, hl2, k]
  case stopped =>
    intro l2 cyc hstopped
    obtain ⟨t, hexec, honly, hspan⟩ := droopChange_of_stopped hp hstopped cyc _
    refine ⟨t, (exec_droopTrip p l2 cyc s).trans hexec, honly, ?_⟩
    rw [hspan]
    exact ⟨rfl, rfl, rfl, rfl⟩
  case level2 =>
    intro cyc hgoing hl2 hmode
    obtain ⟨t, hexec, honly, hspan⟩ := droopChange_of_going hp hgoing cyc _
    refine ⟨t, (exec_droopLevel2Clear p cyc s).trans hexec, honly, ?_⟩
    rw [hspan, if_pos hl2]
    exact ⟨rfl, rfl, rfl, rfl, congrArg (fun n => satInc k.cnt 16 32 (n - k.cleared)) (stretchedTo_max (.inr hmode) cyc)⟩
  case clear =>
    intro cyc hgoing htrip hmode
    obtain ⟨t, hexec, honly, hspan⟩ := droopChange_of_going hp hgoing cyc _
    refine ⟨t, (exec_droopClear p cyc s).trans hexec, honly, ?_⟩
    rw [hspan, if_pos htrip]
    exact ⟨rfl, rfl, rfl, rfl, rfl, congrArg (fun n => satInc k.cnt 16 32 (n - k.cleared)) (stretchedTo_max hmode cyc)⟩
  case held =>
    intro cyc hgoing hmode _ hl1 hl2
    obtain ⟨t, hexec, honly, hspan⟩ := droopChange_of_going hp hgoing cyc _
    refine ⟨t, (exec_droopTrip p false cyc s).trans hexec, honly, ?_⟩
    rw [hspan]
    simp [stretchedTo_of_hold hmode, withTrip_cnt hl1 hl2, hl2, k]
  case holdEnd =>
    intro cyc hgoing hmode hle
    obtain ⟨t, hexec, honly, hspan⟩ := droopChange_of_going hp hgoing cyc _
    refine ⟨t, (exec_stretchHoldEnd p cyc s).trans hexec, honly, ?_⟩
    have hrun : k.stretchedTo (k.modeFrom + 8) = 8 := by rw [stretchedTo_of_hold hmode, Nat.add_sub_cancel_left, min_self]
    rw [hspan, if_pos (by simpa using ⟨hmode, hle⟩)]
    exact ⟨rfl, congrArg (fun n => satInc k.cnt 16 32 (n - k.cleared)) hrun⟩

end Sys2Proof.Machine

/-! ### Crossing writes (O22) -/

namespace Sys2Proof.Machine

/-! #### A write and the entry it reaches (R93 to R95) -/

theorem put_w0 (e : LandEntry) (w : MeshWrite) : (e.put w).1.w0 = (e.w0 || w.half0) := by
  change (e.w0 || (w.half0 && !e.w0)) = _
  cases e.w0 <;> simp

theorem put_w1 (e : LandEntry) (w : MeshWrite) : (e.put w).1.w1 = (e.w1 || w.half1) := by
  change (e.w1 || (w.half1 && !e.w1)) = _
  cases e.w1 <;> simp

theorem put_half0_of_free {e : LandEntry} {w : MeshWrite} (hhalf : w.half0 = true) (hfree : e.w0 = false) :
    (e.put w).1.h0 = w.data.take 64 ∧ (e.put w).1.e0 = w.empty ∧ (e.put w).1.tag = w.tag ∧ (e.put w).1.desc = w.desc := by
  simp [LandEntry.put, hhalf, hfree]

theorem put_half1_of_free {e : LandEntry} {w : MeshWrite} (hhalf : w.half1 = true) (hfree : e.w1 = false) :
    (e.put w).1.h1 = slice w.data 64 64 ∧ (e.put w).1.e1 = w.empty ∧ (e.put w).1.tag = w.tag ∧ (e.put w).1.desc = w.desc := by
  simp [LandEntry.put, hhalf, hfree]

theorem put_half0_of_written {e : LandEntry} {w : MeshWrite} (hhalf : w.half0 = true) (hw : e.w0 = true) :
    (e.put w).1.h0 = e.h0 ∧ (e.put w).2 = some 0 := by
  simp [LandEntry.put, hhalf, hw]

/-- Nothing is discarded where each half that is written was free. -/
theorem put_discards_none {e : LandEntry} {w : MeshWrite} (h0 : w.half0 = true → e.w0 = false) (h1 : w.half1 = true → e.w1 = false) :
    (e.put w).2 = none := by
  have hfirst : (w.half0 && e.w0) = false := by simpa using h0
  have hsecond : (w.half1 && e.w1) = false := by simpa using h1
  simp [LandEntry.put, hfirst, hsecond]

/-! #### The state once the entry is written -/

/-- The words of a landing line that a write gives new check bits (R109, R115): those of its halves that were free. -/
def freeWords (e : LandEntry) (w : MeshWrite) : List Nat :=
  (if w.half0 && !e.w0 then List.range 8 else []) ++ (if w.half1 && !e.w1 then (List.range 8).map (· + 8) else [])

/-- The state in which a write that has come in time is in its entry, and no fault of it is raised yet. -/
def State.landed (s : State) (w : MeshWrite) : State :=
  let e := s.landAt w.span w.q (w.phase % 3) w.entry
  let key := landKey w.span w.q (w.phase % 3) w.entry
  State.scrubWords { s with landing := Tbl.set s.landing key (e.put w).1 } .landing key (freeWords e w)

theorem landed_frame (s : State) (w : MeshWrite) :
    s.landed w = { s with landing := (s.landed w).landing, upsets := (s.landed w).upsets } := rfl

theorem landAt_landed (s : State) (w : MeshWrite) : (s.landed w).landAt w.span w.q (w.phase % 3) w.entry =
    ((s.landAt w.span w.q (w.phase % 3) w.entry).put w).1 := Tbl.get_set _ _ _ _

theorem mem_upsets_landed {s : State} {w : MeshWrite} {u : Upset} : u ∈ (s.landed w).upsets ↔ u ∈ s.upsets ∧
    ¬ (u.area = .landing ∧ u.line = landKey w.span w.q (w.phase % 3) w.entry ∧
      u.word ∈ freeWords (s.landAt w.span w.q (w.phase % 3) w.entry) w) := by
  simp only [State.landed, State.scrubWords, List.mem_filter, List.contains_eq_mem, Bool.not_eq_true', decide_eq_false_iff_not, decide_eq_true_eq]

/-! #### Crossing faults (R95, R96) -/

theorem raisedOne_of_flt_eq {s u t : State} {code : BitVec 16} {src : Nat} (h : u.flt = s.flt) (hraised : raisedOne u t code src) :
    raisedOne s t code src := by
  rwa [raisedOne, h] at hraised

theorem raisedOne_raise_detail {s t : State} (h : t.flt = s.flt) (code : BitVec 16) (src agent : Nat) (detail : Reg) :
    raisedOne s (t.raise code src agent detail) code src := by
  obtain ⟨r, hraised, hcode, hsrc, -⟩ := State.raise_raised t code src agent detail none 0
  exact ⟨r, by rw [hraised, h], hcode, hsrc⟩

/-- A crossing fault is noted at its span's controller and raised for the span. -/
theorem xqFault_spec (s : State) (code : BitVec 16) (span agent q entry half kind ph : Nat) :
    (s.xqFault code span agent q entry half kind ph) = { s with
      spans := (s.xqFault code span agent q entry half kind ph).spans, flt := (s.xqFault code span agent q entry half kind ph).flt } ∧
    raisedOne s (s.xqFault code span agent q entry half kind ph) code span ∧
    ((s.xqFault code span agent q entry half kind ph).spn span).xqFault = true := by
  refine ⟨rfl, ?raised, ?noted⟩
  case raised => exact raisedOne_raise_detail (t := s.xqNote span q entry half kind ph) rfl code span agent _
  case noted => exact congrArg Spn.xqFault (State.spn_setSpn s span _)

/-! #### The row -/

theorem land_of_late {s : State} {w : MeshWrite} (h : w.phase + 2 ≤ s.tik.phaseNo) :
    s.land w = s.xqFault 0x1003 w.span 0xFF w.q w.entry (if w.half0 then 0 else 1) 2 w.phase := if_pos h

theorem land_of_inTime {s : State} {w : MeshWrite} (h : s.tik.phaseNo < w.phase + 2) :
    s.land w = match ((s.landAt w.span w.q (w.phase % 3) w.entry).put w).2 with
      | some half => (s.landed w).xqFault 0x1004 w.span 0xFF w.q w.entry half 3 w.phase
      | none => s.landed w := if_neg (by omega)

theorem land_of_free {s : State} {w : MeshWrite} (h : s.tik.phaseNo < w.phase + 2)
    (h0 : w.half0 = true → (s.landAt w.span w.q (w.phase % 3) w.entry).w0 = false)
    (h1 : w.half1 = true → (s.landAt w.span w.q (w.phase % 3) w.entry).w1 = false) : s.land w = s.landed w := by
  rw [land_of_inTime h, put_discards_none h0 h1]

theorem land_of_double {s : State} {w : MeshWrite} (h : s.tik.phaseNo < w.phase + 2) (hhalf : w.half0 = true)
    (hwritten : (s.landAt w.span w.q (w.phase % 3) w.entry).w0 = true) :
    s.land w = (s.landed w).xqFault 0x1004 w.span 0xFF w.q w.entry 0 3 w.phase := by
  rw [land_of_inTime h, (put_half0_of_written hhalf hwritten).2]

theorem land_frame (s : State) (w : MeshWrite) : s.land w = { s with
    landing := (s.land w).landing, upsets := (s.land w).upsets, spans := (s.land w).spans, flt := (s.land w).flt } := by
  rcases Nat.lt_or_ge s.tik.phaseNo (w.phase + 2) with h | h
  · rw [land_of_inTime h]
    split <;> rfl
  · rw [land_of_late h]
    rfl

/-- The `i`-th write, whose phase has begun, leaves the mesh and lands. -/
theorem exec_crossingWriteLand {s : State} {i : Nat} {w : MeshWrite} (hw : s.mesh[i]? = some w) (hphase : w.phase ≤ s.tik.phaseNo) :
    exec (.crossingWriteLand i) s = .next (State.land { s with mesh := s.mesh.eraseIdx i } w) := by
  obtain ⟨hi, hget⟩ := List.getElem?_eq_some_iff.mp hw
  have hdrop : s.mesh.drop i = w :: s.mesh.drop (i + 1) := by rw [List.drop_eq_getElem_cons hi, hget]
  change execCrossingWriteLand i s = _
  rw [execCrossingWriteLand, hdrop, List.eraseIdx_eq_take_drop_succ]
  exact if_neg (by omega)

/-- Settles O22: in time, the write is put into its entry and a fault follows what was discarded; late, the fault is all. -/
theorem crossingWritesLand : Obligations.CrossingWritesLand := by
  unfold Obligations.CrossingWritesLand
  intro s i w hw hphase e
  obtain ⟨u, hu⟩ : ∃ u, { s with mesh := s.mesh.eraseIdx i } = u := ⟨_, rfl⟩
  have hexec := exec_crossingWriteLand hw hphase
  have hframe := land_frame u w
  have hphaseNo : u.tik.phaseNo = s.tik.phaseNo := by rw [← hu]
  have hentry : u.landAt w.span w.q (w.phase % 3) w.entry = e := by rw [← hu]; rfl
  have hlanding : u.landing = s.landing := by rw [← hu]
  have hupsets : u.upsets = s.upsets := by rw [← hu]
  have hflt : u.flt = s.flt := by rw [← hu]
  rw [hu] at hexec
  refine ⟨u.land w, hexec, by rw [hframe, ← hu], ?free, ?double, ?late, ?frame⟩
  case free =>
    intro hin h0 h1
    rw [land_of_free (by rwa [hphaseNo]) (by rwa [hentry]) (by rwa [hentry]), landAt_landed, hentry]
    refine ⟨put_w0 e w, put_w1 e w, fun hhalf => put_half0_of_free hhalf (h0 hhalf), fun hhalf => put_half1_of_free hhalf (h1 hhalf),
      fun x hx => ?kept, fun x hx hgone => ?gone, ?rest⟩
    case kept => exact hupsets ▸ (mem_upsets_landed.mp hx).1
    case gone =>
      rw [mem_upsets_landed, hupsets] at hgone
      obtain ⟨harea, hline, -⟩ := not_not.mp (fun h => hgone ⟨hx, h⟩)
      exact ⟨harea, hline⟩
    case rest => rw [landed_frame, ← hu]
  case double =>
    intro hin hhalf hwritten
    rw [land_of_double (by rwa [hphaseNo]) hhalf (by rwa [hentry])]
    obtain ⟨hx, hraised, hnoted⟩ := xqFault_spec (u.landed w) 0x1004 w.span 0xFF w.q w.entry 0 3 w.phase
    refine ⟨?_, ?_, hnoted⟩
    · rw [hx]
      exact (congrArg LandEntry.h0 ((landAt_landed u w).trans (by rw [hentry]))).trans (put_half0_of_written hhalf hwritten).1
    · exact raisedOne_of_flt_eq hflt hraised
  case late =>
    intro hlate
    rw [land_of_late (by rwa [hphaseNo])]
    obtain ⟨hx, hraised, hnoted⟩ := xqFault_spec u 0x1003 w.span 0xFF w.q w.entry (if w.half0 then 0 else 1) 2 w.phase
    exact ⟨by rw [hx, hlanding], by rw [hx, hupsets], raisedOne_of_flt_eq hflt hraised, hnoted⟩
  case frame => rw [hframe, ← hu]

end Sys2Proof.Machine

/-! ### Phase edges (O20) -/

namespace Sys2Proof.Machine

/-! #### Tables whose values are all changed -/

/-- What holds of the default, and of whatever the change makes of a value at key `k`, holds of what is read there. -/
theorem Tbl.get_map_of {α : Type} {Q : α → Prop} {d : α} {f : Nat → α → α} {k : Nat} (hd : Q d) (hf : ∀ v, Q (f k v)) (t : Tbl α) :
    Q (Tbl.get d (t.map (fun e => (e.1, f e.1 e.2))) k) := by
  induction t with
  | nil => exact hd
  | cons e r ih =>
    rw [List.map_cons, Tbl.get]
    split
    case isTrue h => exact h ▸ hf e.2
    case isFalse => exact ih

/-- A change that keeps the default shows in what is read. -/
theorem Tbl.get_map {α : Type} {d : α} {f : α → α} (hd : f d = d) (t : Tbl α) (k : Nat) :
    Tbl.get d (t.map (fun e => (e.1, f e.2))) k = f (Tbl.get d t k) := by
  induction t with
  | nil => exact hd.symm
  | cons e r ih =>
    rw [List.map_cons, Tbl.get, Tbl.get]
    split
    case isTrue => rfl
    case isFalse => exact ih

theorem Tbl.get_some_of_find {α : Type} {t : Tbl α} {k : Nat} {v : α} (h : t.find? (fun e => e.1 == k) = some (k, v)) :
    Tbl.get none (t.map (fun e => (e.1, some e.2))) k = some v := by
  induction t with
  | nil => cases h
  | cons e r ih =>
    rw [List.map_cons, Tbl.get]
    by_cases hk : k = e.1
    case pos =>
      rw [List.find?_cons_of_pos (by simp [hk])] at h
      rw [if_pos hk, Option.some.inj h]
    case neg =>
      rw [List.find?_cons_of_neg (by simpa using Ne.symm hk)] at h
      rw [if_neg hk, ih h]

/-! #### The log of an overrun (R89, R100) -/

theorem field_or (v w : Reg) (lo len : Nat) : field (v ||| w) lo len = field v lo len ||| field w lo len := by
  rw [field, BitVec.toNat_or, Nat.or_div_two_pow, Nat.or_mod_two_pow]
  rfl

theorem toNat_at {lo len : Nat} (h : lo + len ≤ 64) (v : Nat) : (at_ v lo len).toNat = v % 2 ^ len * 2 ^ lo := by
  have hcut : v % 2 ^ len < 2 ^ len := Nat.mod_lt v (Nat.two_pow_pos len)
  have hlt : v % 2 ^ len * 2 ^ lo < 2 ^ len * 2 ^ lo := Nat.mul_lt_mul_of_pos_right hcut (Nat.two_pow_pos lo)
  have hle : 2 ^ len * 2 ^ lo ≤ 2 ^ 64 := by
    rw [← pow_add]
    exact Nat.pow_le_pow_right (by decide) (by omega)
  rw [at_, BitVec.toNat_ofNat, Nat.mod_eq_of_lt (by omega)]

theorem field_at {lo len : Nat} (h : lo + len ≤ 64) (v : Nat) : field (at_ v lo len) lo len = v % 2 ^ len := by
  rw [field, toNat_at h, Nat.mul_div_cancel _ (Nat.two_pow_pos lo), Nat.mod_mod]

theorem field_at_above {lo len : Nat} (h : lo + len ≤ 64) (v n : Nat) : field (at_ v lo len) (lo + len) n = 0 := by
  have hcut : v % 2 ^ len < 2 ^ len := Nat.mod_lt v (Nat.two_pow_pos len)
  have hlt : v % 2 ^ len * 2 ^ lo < 2 ^ (lo + len) := by
    rw [pow_add, mul_comm]
    exact Nat.mul_lt_mul_of_pos_left hcut (Nat.two_pow_pos lo)
  rw [field, toNat_at h, Nat.div_eq_of_lt hlt, Nat.zero_mod]

theorem orAll_pair (v w : Reg) : orAll [v, w] = v ||| w := by simp [orAll]

theorem field_overrunLog (tick phase : Nat) : field (orAll [at_ tick 0 61, at_ phase 61 3]) 61 3 = phase % 8 := by
  have htick : field (at_ tick 0 61) 61 3 = 0 := field_at_above (lo := 0) (by decide) tick 3
  have hphase : field (at_ phase 61 3) 61 3 = phase % 8 := field_at (by decide) phase
  rw [orAll_pair, field_or, htick, hphase, Nat.zero_or]

/-! #### The spans at the edge (R89) -/

/-- A span's controller that an overrun holds. -/
def Spn.overrunWith (k : Spn) (log : Reg) : Spn := { k with overrun := true, ovrLog := log, cnt := satInc k.cnt 48 8 1 }

/-- A span's controller after the edge of a phase, when no work waits in the span. -/
def State.edgeSpn (s : State) (p : Nat) : Spn :=
  let k := s.spn p
  if k.overrun then k
  else if k.running && !s.reached p then k.overrunWith (orAll [at_ s.tick 0 61, at_ s.phase 61 3])
  else { k with cycle := 0, planDone := false }

theorem edgeSpn_of_reached {s : State} {p : Nat} (hheld : (s.spn p).overrun = false) (hreach : s.reached p = true) :
    s.edgeSpn p = { s.spn p with cycle := 0, planDone := false } := by
  simp [State.edgeSpn, hheld, hreach]

theorem edgeSpn_of_short {s : State} {p : Nat} (hheld : (s.spn p).overrun = false) (hrun : (s.spn p).running = true)
    (hshort : s.reached p = false) : s.edgeSpn p = (s.spn p).overrunWith (orAll [at_ s.tick 0 61, at_ s.phase 61 3]) := by
  simp [State.edgeSpn, hheld, hrun, hshort]

/-- The state `t` is `s` after the edge of a phase in the spans `l`, in which no work waits. -/
structure EdgesOf (s t : State) (l : List Nat) : Prop where
  frame : t = { s with spans := t.spans, flt := t.flt }
  edge : ∀ q ∈ l, t.spn q = s.edgeSpn q
  others : ∀ q, q ∉ l → t.spn q = s.spn q
  kept : ∀ r ∈ s.flt.raised, r ∈ t.flt.raised
  raised : ∀ q ∈ l, (s.spn q).overrun = false → (s.spn q).running = true → s.reached q = false →
    ∃ r ∈ t.flt.raised, r.code = 0x1002 ∧ r.source = q

theorem overrunSpan_eq (s : State) (p : Nat) : s.overrunSpan p = (s.updSpn p (·.overrunWith (orAll [at_ s.tick 0 61, at_ s.phase 61 3]))).raise
    0x1002 p 0xFF (orAll [at_ s.tick 0 61, at_ s.phase 61 3]) := rfl

theorem spn_raise (s : State) (code : BitVec 16) (src agent : Nat) (detail : Reg) (q : Nat) : (s.raise code src agent detail).spn q = s.spn q := rfl

theorem overrunSpan_spec (s : State) (p : Nat) :
    s.overrunSpan p = { s with spans := (s.overrunSpan p).spans, flt := (s.overrunSpan p).flt } ∧
    (∀ q, q ≠ p → (s.overrunSpan p).spn q = s.spn q) ∧
    (s.overrunSpan p).spn p = (s.spn p).overrunWith (orAll [at_ s.tick 0 61, at_ s.phase 61 3]) ∧
    raisedOne s (s.overrunSpan p) 0x1002 p := by
  refine ⟨rfl, fun q hq => ?others, ?self, ?raised⟩
  case others => rw [overrunSpan_eq, spn_raise, State.spn_updSpn_ne _ _ _ _ hq]
  case self => rw [overrunSpan_eq, spn_raise, State.spn_updSpn]
  case raised =>
    rw [overrunSpan_eq]
    exact raisedOne_raise_detail rfl 0x1002 p 0xFF _

theorem EdgesOf.single {s t : State} {p : Nat} (hframe : t = { s with spans := t.spans, flt := t.flt }) (hedge : t.spn p = s.edgeSpn p)
    (hothers : ∀ q, q ≠ p → t.spn q = s.spn q) (hkept : ∀ r ∈ s.flt.raised, r ∈ t.flt.raised)
    (hraised : (s.spn p).overrun = false → (s.spn p).running = true → s.reached p = false →
      ∃ r ∈ t.flt.raised, r.code = 0x1002 ∧ r.source = p) : EdgesOf s t [p] where
  frame := hframe
  edge _ hq := List.mem_singleton.mp hq ▸ hedge
  others q hq := hothers q (mt List.mem_singleton.mpr hq)
  kept := hkept
  raised _ hq := List.mem_singleton.mp hq ▸ hraised

theorem edgesOf_spanEdge {s : State} {p : Nat} (hidle : s.spanIdle p = true) : EdgesOf s (s.spanEdge p) [p] := by
  have hdrain : drainSpan s p = s := if_pos hidle
  cases hheld : (s.spn p).overrun with
  | true =>
    have hedge : s.edgeSpn p = s.spn p := if_pos hheld
    have hspan : s.spanEdge p = s := if_pos hheld
    rw [hspan]
    exact .single rfl hedge.symm (fun _ _ => rfl) (fun _ hr => hr) (fun h => absurd hheld (by simp [h]))
  | false =>
    cases hshort : (s.spn p).running && !s.reached p with
    | true =>
      obtain ⟨hrun, hreach⟩ : (s.spn p).running = true ∧ s.reached p = false := by simpa using hshort
      have hspan : s.spanEdge p = s.overrunSpan p := by simp [State.spanEdge, hheld, hrun, hreach]
      obtain ⟨hframe, hothers, hself, r, hraised, hcode, hsrc⟩ := overrunSpan_spec s p
      rw [hspan]
      exact .single hframe (hself.trans (edgeSpn_of_short hheld hrun hreach).symm) hothers
        (fun x hx => hraised ▸ List.mem_append_left _ hx) (fun _ _ _ => ⟨r, by simp [hraised], hcode, hsrc⟩)
    | false =>
      have hspan : s.spanEdge p = s.updSpn p (fun k => { k with cycle := 0, planDone := false }) := by
        simp [State.spanEdge, hheld, hshort, hdrain]
      have hedge : s.edgeSpn p = { s.spn p with cycle := 0, planDone := false } := by simp [State.edgeSpn, hheld, hshort]
      rw [hspan]
      exact .single rfl ((State.spn_updSpn s p _).trans hedge.symm) (fun q hq => State.spn_updSpn_ne s p q _ hq) (fun _ hr => hr)
        (fun _ hrun hreach => absurd hshort (by simp [hrun, hreach]))

theorem edgeSpn_congr {s u : State} {q : Nat} (hframe : u = { s with spans := u.spans, flt := u.flt }) (hspn : u.spn q = s.spn q) :
    u.edgeSpn q = s.edgeSpn q ∧ u.reached q = s.reached q := by
  have hend : u.planEnd q u.tik.phaseNo = s.planEnd q s.tik.phaseNo := by rw [hframe]; rfl
  have htik : u.tik = s.tik := by rw [hframe]
  have hreached : u.reached q = s.reached q := by rw [State.reached, State.reached, hspn, hend]
  refine ⟨?_, hreached⟩
  rw [State.edgeSpn, State.edgeSpn, hspn, hreached, State.tick, State.tick, State.phase, State.phase, htik]

theorem EdgesOf.cons {s u t : State} {p : Nat} {l : List Nat} (hu : EdgesOf s u [p]) (ht : EdgesOf u t l) (hp : p ∉ l) :
    EdgesOf s t (p :: l) := by
  have hothers : ∀ q, q ≠ p → u.spn q = s.spn q := fun q hq => hu.others q (mt List.mem_singleton.mp hq)
  refine ⟨by rw [ht.frame, hu.frame], fun q hq => ?edge, fun q hq => ?others, fun r hr => ht.kept r (hu.kept r hr), fun q hq => ?raised⟩
  case edge =>
    rcases List.mem_cons.mp hq with rfl | hq
    · rw [ht.others q hp, hu.edge q (List.mem_singleton_self q)]
    · rw [ht.edge q hq, (edgeSpn_congr hu.frame (hothers q (ne_of_mem_of_not_mem hq hp))).1]
  case others =>
    obtain ⟨hne, hl⟩ := not_or.mp (mt List.mem_cons.mpr hq)
    rw [ht.others q hl, hothers q hne]
  case raised =>
    rcases List.mem_cons.mp hq with rfl | hq
    · intro hheld hrun hreach
      obtain ⟨r, hr, hfault⟩ := hu.raised q (List.mem_singleton_self q) hheld hrun hreach
      exact ⟨r, ht.kept r hr, hfault⟩
    · have hsame := hothers q (ne_of_mem_of_not_mem hq hp)
      rw [← hsame, ← (edgeSpn_congr hu.frame hsame).2]
      exact ht.raised q hq

theorem EdgesOf.refl (s : State) : EdgesOf s s [] := ⟨rfl, nofun, fun _ _ => rfl, fun _ hr => hr, nofun⟩

theorem spanIdle_of_clusters_eq {s u : State} (h : u.clusters = s.clusters) (p : Nat) : u.spanIdle p = s.spanIdle p := by
  simp only [State.spanIdle, State.clu, h]

theorem edgesOf_forEach (l : List Nat) (s : State) (hl : l.Nodup) (hidle : ∀ p ∈ l, s.spanIdle p = true) :
    EdgesOf s (forEach s l State.spanEdge) l := by
  induction l generalizing s with
  | nil => exact .refl s
  | cons p r ih =>
    obtain ⟨hp, hr⟩ := List.nodup_cons.mp hl
    have hfirst := edgesOf_spanEdge (hidle p List.mem_cons_self)
    have hclusters : (s.spanEdge p).clusters = s.clusters := by rw [hfirst.frame]
    exact hfirst.cons (ih _ hr (fun q hq => (spanIdle_of_clusters_eq hclusters q).trans (hidle q (List.mem_cons_of_mem p hq)))) hp

/-! #### The phase opens (R68, R69, R93, R216) -/

/-- The state once the next phase is open, at machine time `time`, from the one in which the spans have ended theirs, before a branch point takes
or the step ends. -/
def State.openPhase (s : State) (us : List Upset) (time : Nat) : State :=
  let P := s.tik.phaseNo + 1
  let u := s.updTik (fun t => { t with phaseNo := P, slotNo := P * 32 * s.k, running := s.job.running })
  let v := (u.advance time).clearFrame P
  { v with cwy := v.cwy.map (fun e => (e.1, e.2.turnPage P)), upsets := v.upsets ++ us }

/-- What phase `P`, once open, leads to in a running job: a branch point takes, or the step ends. -/
def State.afterEdge (s : State) (P : Nat) : State :=
  if !(s.job.running && s.job.boundary.isNone) then s
  else if P % (8 * s.stepTicks) == 0 then s.stepBoundary
  else if P % 8 = 0 then s.takeBranch (P / 8 % s.stepTicks)
  else s

/-- The state `u` is `s` with phase `P` open at machine time `time`. -/
structure OpensPhase (s u : State) (P time : Nat) : Prop where
  frame : u = { s with tik := u.tik, tim := u.tim, landing := u.landing, upsets := u.upsets, cwy := u.cwy, spans := u.spans, flt := u.flt }
  tik : u.tik = { s.tik with phaseNo := P, slotNo := P * 32 * s.k, running := s.job.running }
  now : time < 2 ^ 112 → u.tim.now.toNat = max s.tim.now.toNat time
  cleared : ∀ sp q e, e < 512 → u.landAt sp q (P % 3) e = {}
  page : ∀ x, u.rtr x = (s.rtr x).turnPage P
  edges : EdgesOf s { s with spans := u.spans, flt := u.flt } (List.range 100)

theorem advance_now (s : State) {time : Nat} (hlt : time < 2 ^ 112) : (s.advance time).tim.now.toNat = max s.tim.now.toNat time := by
  rcases Nat.le_total s.tim.now.toNat time with h | h
  · rw [advance_now_of_le h hlt, max_eq_right h]
  · rw [State.advance, if_neg (by omega), max_eq_left h]

theorem landKey_frame (sp q frame : Nat) {e : Nat} (he : e < 512) (hframe : frame < 3) : landKey sp q frame e / 512 % 3 = frame := by
  unfold landKey
  omega

theorem Tbl.get_filter_out {α : Type} {d : α} {p : Nat × α → Bool} {k : Nat} (h : ∀ v, p (k, v) = false) (t : Tbl α) :
    Tbl.get d (t.filter p) k = d := by
  induction t with
  | nil => rfl
  | cons e r ih =>
    by_cases hk : e.1 = k
    case pos =>
      have hout : p e = false := by rw [← h e.2, ← hk]
      rw [List.filter_cons_of_neg (by simp [hout]), ih]
    case neg =>
      rw [List.filter_cons]
      split
      · rw [Tbl.get, if_neg (Ne.symm hk), ih]
      · exact ih

theorem landAt_clearFrame (s : State) (P sp q : Nat) {e : Nat} (he : e < 512) : (s.clearFrame P).landAt sp q (P % 3) e = {} :=
  Tbl.get_filter_out (fun v => by simp [landKey_frame sp q (P % 3) he (Nat.mod_lt P (by decide))]) s.landing

theorem turnPage_default (P : Nat) : ({} : Cwy).turnPage P = {} := rfl

theorem turnPage_pages (r : Cwy) (P : Nat) : (r.turnPage P).active = r.next.getD r.active ∧ (r.turnPage P).next = none := by
  unfold Cwy.turnPage
  split
  case h_1 p hnext => exact ⟨by rw [hnext]; rfl, rfl⟩
  case h_2 hnext => exact ⟨by rw [hnext]; rfl, hnext⟩

theorem advance_updTik (s : State) (f : Tik → Tik) (time : Nat) : (s.updTik f).advance time = (s.advance time).updTik f := by
  unfold State.advance
  rw [State.updTik_tim]
  split <;> rfl

theorem openPhase_frame (s : State) (us : List Upset) (time : Nat) : s.openPhase us time = { s with
    tik := { s.tik with phaseNo := s.tik.phaseNo + 1, slotNo := (s.tik.phaseNo + 1) * 32 * s.k, running := s.job.running }
    tim := { s.tim with now := (s.advance time).tim.now }
    landing := (s.clearFrame (s.tik.phaseNo + 1)).landing
    upsets := (s.clearFrame (s.tik.phaseNo + 1)).upsets ++ us
    cwy := s.cwy.map (fun e => (e.1, e.2.turnPage (s.tik.phaseNo + 1))) } := by
  unfold State.openPhase
  dsimp only
  rw [advance_updTik, State.advance_eq]
  rfl

theorem opensPhase_openPhase {s v : State} (h : EdgesOf s v (List.range 100)) (us : List Upset) (time : Nat) :
    OpensPhase s (v.openPhase us time) (s.tik.phaseNo + 1) time := by
  have htik : v.tik = s.tik := by rw [h.frame]
  have hjob : v.job = s.job := by rw [h.frame]
  have htim : v.tim = s.tim := by rw [h.frame]
  have hcwy : v.cwy = s.cwy := by rw [h.frame]
  have hk : v.k = s.k := by rw [State.k, htik, State.k]
  rw [openPhase_frame, htik, hk, hjob]
  refine ⟨by rw [h.frame], rfl, fun hlt => ?now, fun sp q e he => landAt_clearFrame v _ sp q he, fun x => ?page, ?edges⟩
  case now => exact htim ▸ advance_now v hlt
  case page =>
    rw [State.rtr, State.rtr, ← hcwy]
    exact Tbl.get_map (f := (Cwy.turnPage · (s.tik.phaseNo + 1))) (turnPage_default _) v.cwy x
  case edges =>
    dsimp only
    rwa [← h.frame]

theorem next_afterEdge (s : State) (P : Nat) : (.next (s.afterEdge P) : Host.Outcome State Fault Refusal) =
    if !(s.job.running && s.job.boundary.isNone) then .next s
    else if P % (8 * s.stepTicks) == 0 then .next s.stepBoundary
    else if P % 8 = 0 then .next (s.takeBranch (P / 8 % s.stepTicks))
    else .next s := by
  simp only [State.afterEdge, apply_ite Host.Outcome.next]

theorem execPhaseEdge_eq (s : State) (us : List Upset) {v : State} (hv : forEach s (List.range 100) State.spanEdge = v) :
    execPhaseEdge us s = .next ((v.openPhase us (v.phaseTime (v.tik.phaseNo + 1))).afterEdge (v.tik.phaseNo + 1)) := by
  rw [execPhaseEdge, hv, next_afterEdge]
  rfl

theorem phaseTime_congr {s u : State} (htim : u.tim = s.tim) (htik : u.tik = s.tik) (P : Nat) : u.phaseTime P = s.phaseTime P := by
  rw [State.phaseTime, State.phaseTime, State.k, State.k, htim, htik]

/-- With no work waiting in the spans, a phase edge opens the next phase at its time, and goes on from there. -/
theorem exec_phaseEdge {s : State} {P : Nat} (us : List Upset) (hidle : ∀ p, p < 100 → s.spanIdle p = true) (hP : s.tik.phaseNo + 1 = P) :
    ∃ u, exec (.phaseEdge us) s = .next (u.afterEdge P) ∧ OpensPhase s u P (s.phaseTime P) := by
  have hedges := edgesOf_forEach (List.range 100) s List.nodup_range (fun p hp => hidle p (List.mem_range.mp hp))
  obtain ⟨v, hv⟩ : ∃ v, forEach s (List.range 100) State.spanEdge = v := ⟨_, rfl⟩
  rw [hv] at hedges
  have htik : v.tik = s.tik := by rw [hedges.frame]
  have htime : v.phaseTime P = s.phaseTime P := phaseTime_congr (by rw [hedges.frame]) htik P
  refine ⟨v.openPhase us (s.phaseTime P), ?_, hP ▸ opensPhase_openPhase hedges us _⟩
  change execPhaseEdge us s = _
  rw [execPhaseEdge_eq s us hv, htik, hP, htime]

/-! #### What the opened phase leads to (R167, R175, R176, R178, R211, R213, R281) -/

/-- Does the step of a running job end at the edge of phase `P`? -/
def State.stepEnds (s : State) (P : Nat) : Prop := s.job.running = true ∧ s.job.boundary = none ∧ P % (8 * s.stepTicks) = 0

theorem stepEnds_congr {s u : State} (h : u.job = s.job) (P : Nat) : u.stepEnds P ↔ s.stepEnds P := by
  rw [State.stepEnds, State.stepEnds, State.stepTicks, State.stepTicks, State.imgAt, State.imgAt, h]

theorem stopsHere_congr {s u : State} (h : u.job = s.job) : u.stopsHere = s.stopsHere := by
  unfold State.stopsHere State.stepAborted State.step
  rw [h]

theorem stepDigest_congr {s u : State} (h : u.digs = s.digs) : u.stepDigest = s.stepDigest := by
  simp only [State.stepDigest, State.dig, h]

theorem takeBranch_frame (s : State) (n : Nat) :
    s.takeBranch n = { s with job := { s.job with taken := (s.takeBranch n).job.taken }, cxl := (s.takeBranch n).cxl } := by
  unfold State.takeBranch
  split
  · rfl
  · split <;> rfl

theorem takeBranch_of_none {s : State} {n : Nat} (h : takesAt s.job.img s.chipOr0 n = none) : s.takeBranch n = s := by
  rw [State.takeBranch, h]

theorem takeBranch_of_value {s : State} {n b : Nat} {v : BitVec 2} (h : takesAt s.job.img s.chipOr0 n = some b)
    (hv : s.tik.agree.find? (fun e => e.1 == b) = some (b, v)) : s.takeBranch n = { s with
      job := { s.job with taken := Tbl.set s.job.taken b v.toNat }
      cxl := { s.cxl with arms := s.cxl.arms ++ [(b, stagingArm s.job.img s.chipOr0 b v.toNat)] } } := by
  rw [State.takeBranch, h]
  dsimp only
  rw [Tbl.get_some_of_find hv]

/-- The job once the step has been digested (R213). -/
def State.digested (s : State) : Job :=
  { s.job with digests := s.job.digests ++ [(s.step, s.stepDigest)], ends := s.job.ends ++ [(s.step, s.tim.now.toNat)],
               lastStep := if s.stepAborted then s.job.lastStep else some s.step }

theorem stepBoundary_of_stop {s : State} (h : s.stopsHere = true) :
    s.stepBoundary = { s with digs := [], job := { s.digested with boundary := some s.tim.now.toNat } } := if_pos h

theorem stepBoundary_of_next {s : State} (h : s.stopsHere = false) :
    s.stepBoundary = State.beginStep { s with digs := [], job := { s.digested with stepNo := s.job.stepNo + 1 } } := if_neg (Bool.eq_false_iff.mp h)

/-- A cluster whose span is not held begins the step with P all ones and FS zero, its streams at their first words. -/
theorem clu_beginStep {s : State} {c : Nat} (h : (s.spn (spanOf c)).overrun = false) :
    (s.beginStep.clu c).p = 0xFF ∧ (s.beginStep.clu c).fs = 0 ∧
      ∀ u, ((s.beginStep.clu c).stream u).pos = 0 ∧ ((s.beginStep.clu c).stream u).first = true := by
  refine Tbl.get_map_of (Q := fun k : Cluster => k.p = 0xFF ∧ k.fs = 0 ∧ ∀ u, (k.stream u).pos = 0 ∧ (k.stream u).first = true)
    (f := fun c k => if (s.spn (spanOf c)).overrun then k else k.beginStep s.tik.phaseNo) ?unlisted (fun k => ?listed) s.clusters
  case unlisted => exact ⟨rfl, rfl, fun u => by cases u <;> exact ⟨rfl, rfl⟩⟩
  case listed =>
    rw [if_neg (by simp [h])]
    exact ⟨rfl, rfl, fun u => by cases u <;> exact ⟨rfl, rfl⟩⟩

theorem afterEdge_of_stepEnds {s : State} {P : Nat} (h : s.stepEnds P) : s.afterEdge P = s.stepBoundary := by
  obtain ⟨hrun, hgoing, hend⟩ := h
  simp [State.afterEdge, hrun, hgoing, hend]

/-- Within a step, or without a job that goes on, a branch point may take. -/
theorem afterEdge_of_not_stepEnds {s : State} {P : Nat} (h : ¬ s.stepEnds P) : s.afterEdge P =
    if s.job.running = true ∧ s.job.boundary = none ∧ P % 8 = 0 then s.takeBranch (P / 8 % s.stepTicks) else s := by
  unfold State.stepEnds at h
  unfold State.afterEdge
  cases hrun : s.job.running with
  | false => simp
  | true =>
    cases hbound : s.job.boundary with
    | some b => simp
    | none =>
      have hend : P % (8 * s.stepTicks) ≠ 0 := fun hP => h ⟨hrun, hbound, hP⟩
      simp [hend]

theorem afterEdge_frame_inStep {s : State} {P : Nat} (h : ¬ s.stepEnds P) :
    s.afterEdge P = { s with job := { s.job with taken := (s.afterEdge P).job.taken }, cxl := (s.afterEdge P).cxl } := by
  rw [afterEdge_of_not_stepEnds h]
  split
  · exact takeBranch_frame s _
  · rfl

theorem afterEdge_frame (s : State) (P : Nat) : s.afterEdge P = { s with
    tik := { s.tik with agree := (s.afterEdge P).tik.agree }, job := (s.afterEdge P).job, cxl := (s.afterEdge P).cxl
    digs := (s.afterEdge P).digs, clusters := (s.afterEdge P).clusters, pts := (s.afterEdge P).pts, msq := (s.afterEdge P).msq
    olf := (s.afterEdge P).olf } := by
  by_cases h : s.stepEnds P
  case pos =>
    rw [afterEdge_of_stepEnds h]
    cases hstop : s.stopsHere with
    | true => rw [stepBoundary_of_stop hstop]
    | false =>
      rw [stepBoundary_of_next hstop]
      rfl
  case neg =>
    rw [afterEdge_frame_inStep h]

/-- Settles O20: the spans end their phase each for itself, the next phase opens, and then a branch point takes or the step ends. -/
theorem phaseEdgesOpenPhasesAndSteps : Obligations.PhaseEdgesOpenPhasesAndSteps := by
  unfold Obligations.PhaseEdgesOpenPhasesAndSteps
  intro s us hidle P stepEnd
  obtain ⟨u, hexec, hopens⟩ := exec_phaseEdge us hidle (P := P) rfl
  have hframe := afterEdge_frame u P
  have hjob : u.job = s.job := by rw [hopens.frame]
  have hends : u.stepEnds P ↔ stepEnd := stepEnds_congr hjob P
  have hticks : u.stepTicks = s.stepTicks := by rw [State.stepTicks, State.imgAt, hjob]; rfl
  have hchip : u.chipOr0 = s.chipOr0 := by rw [hopens.frame]; rfl
  have hstops : u.stopsHere = s.stopsHere := stopsHere_congr hjob
  have hspn : ∀ p, p < 100 → (u.afterEdge P).spn p = s.edgeSpn p := fun p hp => by
    rw [hframe]
    exact hopens.edges.edge p (List.mem_range.mpr hp)
  refine ⟨u.afterEdge P, hexec, ?phase, ?slot, ?now, ?cleared, ?page, ?begins, ?held, ?inStep, ?nothing, ?takes, ?next, ?stops, ?frame⟩
  case phase => rw [hframe, hopens.tik]
  case slot => rw [hframe, hopens.tik]
  case now => 
    rw [hframe]
    exact hopens.now
  case cleared =>
    intro sp q e _ he
    rw [hframe]
    exact hopens.cleared sp q e he
  case page =>
    intro x
    have hrtr : (u.afterEdge P).rtr x = (s.rtr x).turnPage P := by rw [hframe]; exact hopens.page x
    rw [hrtr]
    exact turnPage_pages _ P
  case begins =>
    intro p hp hheld _ hreach
    rw [hspn p hp, edgeSpn_of_reached hheld hreach]
    exact ⟨rfl, rfl, hheld⟩
  case held =>
    intro p hp hheld hrun hshort
    rw [hspn p hp, edgeSpn_of_short hheld hrun hshort]
    refine ⟨rfl, ?log, ?raised⟩
    case log =>
      have hphase : s.phase % 8 = s.phase := Nat.mod_mod _ _
      exact (field_overrunLog _ _).trans hphase
    case raised =>
      rw [hframe]
      obtain ⟨r, hr, hcode, hsrc⟩ := hopens.edges.raised p (List.mem_range.mpr hp) hheld hrun hshort
      exact ⟨r, hr, hcode, hsrc⟩
  case inStep =>
    intro hin
    rw [afterEdge_frame_inStep (mt hends.mp hin), hopens.frame]
    exact ⟨rfl, rfl, rfl⟩
  case nothing =>
    intro hin hnothing
    have hnone : u.afterEdge P = u := by
      rw [afterEdge_of_not_stepEnds (mt hends.mp hin), hjob]
      split
      case isTrue h =>
        obtain ⟨hrun, hbound, heighth⟩ := h
        have htakes : takesAt s.job.img s.chipOr0 (P / 8 % s.stepTicks) = none := by
          simpa [hrun, hbound, heighth] using hnothing
        exact takeBranch_of_none (by rwa [hjob, hchip, hticks])
      case isFalse => rfl
    rw [hnone, hopens.frame]
    exact ⟨rfl, rfl⟩
  case takes =>
    intro b v hin hrun hbound heighth htakes hvalue
    have htaken : u.afterEdge P = u.takeBranch (P / 8 % u.stepTicks) := by
      rw [afterEdge_of_not_stepEnds (mt hends.mp hin), hjob, if_pos ⟨hrun, hbound, heighth⟩]
    have hagree : u.tik.agree = s.tik.agree := by rw [hopens.tik]
    have hcxl : u.cxl = s.cxl := by rw [hopens.frame]
    rw [htaken, takeBranch_of_value (by rwa [hjob, hchip, hticks]) (by rwa [hagree]), hjob, hchip, hcxl]
    exact ⟨Tbl.get_set _ _ _ _, rfl⟩
  case next =>
    intro hend hgo
    have hdigs : u.digs = s.digs := by rw [hopens.frame]
    have hdigest : u.digested.digests = s.job.digests ++ [(s.step, s.stepDigest)] := by
      rw [← stepDigest_congr hdigs, State.step, ← hjob]
      rfl
    have hnext : u.afterEdge P = State.beginStep { u with digs := [], job := { u.digested with stepNo := s.job.stepNo + 1 } } := by
      rw [afterEdge_of_stepEnds (hends.mpr hend), stepBoundary_of_next (hstops.trans hgo), hjob]
    rw [hnext]
    exact ⟨rfl, hdigest, rfl, fun c hheld => clu_beginStep hheld⟩
  case stops =>
    intro hend hstop
    rw [afterEdge_of_stepEnds (hends.mpr hend), stepBoundary_of_stop (hstops.trans hstop), ← hjob]
    refine ⟨rfl, rfl, ?_⟩
    rw [hopens.frame]
  case frame => rw [hframe, hopens.frame]

end Sys2Proof.Machine

/-! ### Written bytes read back (O5) -/

namespace Sys2Proof.Machine

theorem length_memRead (m : List Host.Cell) (a n : Nat) : (memRead m a n).length = n := by
  induction n generalizing a with
  | zero => rfl
  | succ n ih => rw [memRead, List.length_cons, ih]

theorem getElem_memRead (m : List Host.Cell) (a n i : Nat) (hi : i < (memRead m a n).length) : (memRead m a n)[i] = memGet m (a + i) := by
  induction n generalizing a i with
  | zero => simp [memRead] at hi
  | succ n ih =>
    cases i with
    | zero => rfl
    | succ i => simp only [memRead, List.getElem_cons_succ, ih, Nat.add_assoc, Nat.add_comm 1 i]

theorem memRead_memWrite {m : List Host.Cell} (hm : memWf m = true) (a : Nat) (bs : List Byte) :
    memRead (memWrite m a bs) a bs.length = bs := by
  refine List.ext_getElem (length_memRead _ _ _) fun i _ hi => ?_
  rw [getElem_memRead, memGet_memWrite bs a (a + i) hm, dif_pos (by omega)]
  simp

theorem memGet_memWrite_of_outside {m : List Host.Cell} (hm : memWf m = true) {a x : Nat} {bs : List Byte} (hx : x < a ∨ a + bs.length ≤ x) :
    memGet (memWrite m a bs) x = memGet m x := by
  rw [memGet_memWrite bs a x hm, dif_neg (by omega)]

/-- Settles O5: byte by byte, from what a read returns after a write. -/
theorem memoryReadsBackWhatWasWritten : Obligations.MemoryReadsBackWhatWasWritten := fun _ a bs hm =>
  ⟨memWf_memWrite bs a hm, memRead_memWrite hm a bs, fun _ hx => memGet_memWrite_of_outside hm hx⟩

end Sys2Proof.Machine

/-! ### Every step keeps both memories in canonical form (O3) -/

namespace Sys2Proof.Machine

/-! #### The two memories of a state -/

/-- Both memories of a state. -/
def State.mems (s : State) : List Host.Cell × List Host.Cell := (s.mem, s.xfer)

@[simp] theorem mem_xfer_eq_mems (s : State) : (s.mem, s.xfer) = s.mems := rfl

@[simp] theorem mems_mk {pending freeCtr mem xfer upsets landing mesh tim eth tik spans clusters digs rows padsSet msq cxl pts olf cwy svc plc job hst
    ctl flt dmp cfg pwr sec rst pins ucie} :
    (⟨pending, freeCtr, mem, xfer, upsets, landing, mesh, tim, eth, tik, spans, clusters, digs, rows, padsSet, msq, cxl, pts, olf, cwy, svc, plc,
      job, hst, ctl, flt, dmp, cfg, pwr, sec, rst, pins, ucie⟩ : State).mems = (mem, xfer) := rfl

@[simp] theorem mems_ite (p : Prop) [Decidable p] (s t : State) : (if p then s else t).mems = if p then s.mems else t.mems :=
  apply_ite State.mems p s t

@[simp] theorem mems_forEach {f : State → Nat → State} (hf : ∀ s x, (f s x).mems = s.mems) (l : List Nat) (s : State) :
    (forEach s l f).mems = s.mems := forEach_frame State.mems f hf l s

@[simp] theorem mems_foldl {α : Type} {f : State → α → State} (hf : ∀ s x, (f s x).mems = s.mems) (l : List α) (s : State) :
    (l.foldl f s).mems = s.mems := by
  induction l generalizing s with
  | nil => rfl
  | cons x r ih => rw [List.foldl_cons, ih, hf]

@[simp] theorem mems_foldl_snd {α β : Type} {f : β × State → α → β × State} (hf : ∀ p x, (f p x).2.mems = p.2.mems) (l : List α) (p : β × State) :
    (l.foldl f p).2.mems = p.2.mems := by
  induction l generalizing p with
  | nil => rfl
  | cons x r ih => rw [List.foldl_cons, ih, hf]

/-! #### Functions that leave both memories as they are

One lemma per function of the model, in the model's order; a later lemma uses the earlier ones through `simp`. -/

/-! State operations -/

@[simp] theorem mems_setClu (s : State) (c : Nat) (k : Cluster) : (State.setClu s c k).mems = s.mems := by rfl
@[simp] theorem mems_updClu (s : State) (c : Nat) (f : Cluster → Cluster) : (State.updClu s c f).mems = s.mems := by rfl
@[simp] theorem mems_updSpn (s : State) (p : Nat) (f : Spn → Spn) : (State.updSpn s p f).mems = s.mems := by rfl
@[simp] theorem mems_setMs (s : State) (st : Nat) (k : Msq) : (State.setMs s st k).mems = s.mems := by rfl
@[simp] theorem mems_updMs (s : State) (st : Nat) (f : Msq → Msq) : (State.updMs s st f).mems = s.mems := by rfl
@[simp] theorem mems_setPort (s : State) (p : Nat) (k : Olf) : (State.setPort s p k).mems = s.mems := by rfl
@[simp] theorem mems_updPort (s : State) (p : Nat) (f : Olf → Olf) : (State.updPort s p f).mems = s.mems := by rfl
@[simp] theorem mems_updRtr (s : State) (p : Nat) (f : Cwy → Cwy) : (State.updRtr s p f).mems = s.mems := by rfl
@[simp] theorem mems_setPt (s : State) (p : Nat) (k : Machine.Stream) : (State.setPt s p k).mems = s.mems := by rfl
@[simp] theorem mems_updTim (s : State) (f : Tim → Tim) : (State.updTim s f).mems = s.mems := by rfl
@[simp] theorem mems_updHst (s : State) (f : Hst → Hst) : (State.updHst s f).mems = s.mems := by rfl
@[simp] theorem mems_updFlt (s : State) (f : Flt → Flt) : (State.updFlt s f).mems = s.mems := by rfl
@[simp] theorem mems_updPlc (s : State) (f : Plc → Plc) : (State.updPlc s f).mems = s.mems := by rfl
@[simp] theorem mems_updSvc (s : State) (f : Svc → Svc) : (State.updSvc s f).mems = s.mems := by rfl
@[simp] theorem mems_updCfg (s : State) (f : Cfg → Cfg) : (State.updCfg s f).mems = s.mems := by rfl
@[simp] theorem mems_updPwr (s : State) (f : Pwr → Pwr) : (State.updPwr s f).mems = s.mems := by rfl
@[simp] theorem mems_updJob (s : State) (f : Job → Job) : (State.updJob s f).mems = s.mems := by rfl
@[simp] theorem mems_updTik (s : State) (f : Tik → Tik) : (State.updTik s f).mems = s.mems := by rfl
@[simp] theorem mems_updCxl (s : State) (f : Cxl → Cxl) : (State.updCxl s f).mems = s.mems := by rfl

@[simp] theorem mems_advance (s : State) (t : Nat) : (s.advance t).mems = s.mems := by
  rw [advance_frame]; rfl

@[simp] theorem mems_beat (s : State) (n period : Nat) : (State.beat s n period).mems = s.mems := by
  unfold State.beat
  split <;> simp

@[simp] theorem mems_alignedBeat (s : State) (n period : Nat) : (State.alignedBeat s n period).mems = s.mems := by simp [State.alignedBeat]
@[simp] theorem mems_stopClocks (s : State) : (State.stopClocks s).mems = s.mems := by simp [State.stopClocks]
@[simp] theorem mems_ask (s : State) (q : CtlReq) : (State.ask s q).mems = s.mems := by rfl
@[simp] theorem mems_raiseFull (s : State) (r : Raised) : (State.raiseFull s r).mems = s.mems := by rfl

@[simp] theorem mems_raise (s : State) (code : BitVec 16) (src agent : Nat) (detail : Reg) (addr : Option Nat) (aux : Nat) :
    (State.raise s code src agent detail addr aux).mems = s.mems := by
  rfl

@[simp] theorem mems_raiseEdge (s : State) (code : BitVec 16) (src agent : Nat) (detail : Reg) :
    (State.raiseEdge s code src agent detail).mems = s.mems := by
  rfl

@[simp] theorem mems_signal (s : State) (v : Nat) : (State.signal s v).mems = s.mems := by rfl

@[simp] theorem mems_clamp (w : Wr) (r lsb len lo hi : Nat) (code : Bool) : (w.clamp r lsb len lo hi code).s.mems = w.s.mems := by
  unfold Wr.clamp
  dsimp only
  split
  · rfl
  · split <;> rfl

@[simp] theorem mems_event (s : State) (ty : Nat) (body : List Byte) : (s.event ty body).mems = s.mems := by
  rw [event_frame]; rfl

@[simp] theorem mems_askAbort (s : State) (step : Nat) (code : BitVec 16) : (State.askAbort s step code).mems = s.mems := by rfl
@[simp] theorem mems_freeBytes (s : State) (n : Nat) : (State.freeBytes s n).2.mems = s.mems := by rfl

/-! Flash -/

@[simp] theorem mems_bootAppend (s : State) (r : BootRec) : (State.bootAppend s r).mems = s.mems := by rfl

/-! Journal -/

@[simp] theorem mems_startCompact (s : State) : (State.startCompact s).mems = s.mems := by simp [State.startCompact]

@[simp] theorem mems_journal (s : State) (ty : BitVec 16) (payload : List Byte) : (s.journal ty payload).mems = s.mems := by
  rw [journal_frame]; rfl

@[simp] theorem mems_cutAppend (b s : State) : (b.cutAppend s).mems = b.mems := by
  unfold State.cutAppend
  dsimp only
  split <;> rfl

@[simp] theorem mems_tileFail (s : State) (row col src : Nat) : (State.tileFail s row col src).mems = s.mems := by simp [State.tileFail]
@[simp] theorem mems_ueLine (s : State) (cl line : Nat) : (State.ueLine s cl line).mems = s.mems := by simp [State.ueLine]

/-! Operands -/

@[simp] theorem mems_scrubWords (s : State) (area : Area) (line : Nat) (ws : List Nat) : (State.scrubWords s area line ws).mems = s.mems := by
  rfl

@[simp] theorem mems_reportCorr (s : State) (code : BitVec 16) (area line src agent : Nat) (log : Reg) (addr : Nat) :
    (State.reportCorr s code area line src agent log addr).mems = s.mems := by
  simp [State.reportCorr]

@[simp] theorem mems_readLine (s : State) (cl line : Nat) : (State.readLine s cl line).2.mems = s.mems := by
  simp only [State.readLine]
  repeat' split
  all_goals simp

@[simp] theorem mems_clearFrame (s : State) (P : Nat) : (State.clearFrame s P).mems = s.mems := by rfl

@[simp] theorem mems_xqNote (s : State) (span q entry : Nat) (half kind ph : Nat) :
    (State.xqNote s span q entry half kind ph).mems = s.mems := by
  rfl

@[simp] theorem mems_xqFault (s : State) (code : BitVec 16) (span agent q entry : Nat) (half kind ph : Nat) :
    (State.xqFault s code span agent q entry half kind ph).mems = s.mems := by
  rfl

@[simp] theorem mems_readEntry (s : State) (span agent q entry P : Nat) (quiet : Bool) :
    (State.readEntry s span agent q entry P quiet).2.mems = s.mems := by
  simp only [State.readEntry]
  repeat' split
  all_goals simp

@[simp] theorem mems_landFlaw (s : State) (cl span q entry key : Nat) : (State.landFlaw s cl span q entry key).mems = s.mems := by
  simp [State.landFlaw]

@[simp] theorem mems_readLanding (s : State) (cl agent q entry P : Nat) (quiet : Bool) :
    (State.readLanding s cl agent q entry P quiet).2.2.mems = s.mems := by
  simp [State.readLanding]

@[simp] theorem mems_put (s : State) (span q entry : Nat) (half0 : Bool) (half1 : Bool) (data : List Byte) (empty : Bool)
    (tag : Option (BitVec 12)) (desc : Option Nat) (P : Nat) : (State.put s span q entry half0 half1 data empty tag desc P).mems = s.mems := by
  rfl

@[simp] theorem mems_cross (s : State) (span q entry : Nat) (half0 : Bool) (half1 : Bool) (data : List Byte) (empty : Bool)
    (tag : Option (BitVec 12)) (desc : Option Nat) (P : Nat) : (State.cross s span q entry half0 half1 data empty tag desc P).mems = s.mems := by
  rfl

@[simp] theorem mems_updFly (s : State) (cl iid : Nat) (g : Fly → Fly) : (State.updFly s cl iid g).mems = s.mems := by
  unfold State.updFly
  split <;> simp

@[simp] theorem mems_unitRaise (s : State) (cl iid part : Nat) (code : BitVec 16) (detail : Reg) :
    (State.unitRaise s cl iid part code detail).mems = s.mems := by
  unfold State.unitRaise
  split <;> simp

/-! Matrix engines -/

@[simp] theorem mems_updMe (s : State) (cl : Nat) (g : Me → Me) : (State.updMe s cl g).mems = s.mems := by rfl

@[simp] theorem mems_accAdd (s : State) (cl iid : Nat) (b : Bool) (row : Nat) (t : List Fw) (out : Bool) :
    (State.accAdd s cl iid b row t out).mems = s.mems := by
  simp [State.accAdd]

@[simp] theorem mems_workMac (s : State) (cl iid : Nat) (f : Fly) (b t : Bool) (a w : Fmt) (row : Nat) (scaled : Bool) (m idx : Nat) :
    (workMac s cl iid f b t a w row scaled m idx).mems = s.mems := by
  simp [workMac]

@[simp] theorem mems_workMacv (s : State) (cl iid : Nat) (f : Fly) (b : Bool) (fmt : Fmt) (ic g row idx : Nat) :
    (workMacv s cl iid f b fmt ic g row idx).mems = s.mems := by
  simp [workMacv]

@[simp] theorem mems_workMe (s : State) (cl iid : Nat) (f : Fly) (idx : Nat) : (workMe s cl iid f idx).mems = s.mems := by
  unfold workMe
  split <;> simp

/-! Vector units -/

@[simp] theorem mems_workVu (s : State) (cl _iid : Nat) (f : Fly) (idx : Nat) : (workVu s cl _iid f idx).mems = s.mems := by
  unfold workVu
  split
  · simp
  · split <;> simp

/-! Cluster pipelines -/

@[simp] theorem mems_collide (s : State) (cl cyc : Nat) (sup : List Op) : (State.collide s cl cyc sup).mems = s.mems := by
  unfold State.collide
  split <;> simp

@[simp] theorem mems_onceFor (t s : State) (cl iid : Nat) : (t.onceFor s cl iid).mems = t.mems := by
  unfold State.onceFor
  dsimp only
  split
  · rfl
  · simp

@[simp] theorem mems_gotLine (s : State) (cl iid idx : Nat) (d : List Byte) : (State.gotLine s cl iid idx d).mems = s.mems := by
  simp [State.gotLine]

@[simp] theorem mems_readOp (s : State) (cl : Nat) (o : Op) (ok : Bool) : (readOp s cl o ok).mems = s.mems := by
  unfold readOp
  split <;> simp

@[simp] theorem mems_addOp (s : State) (cl : Nat) (o : Op) : (State.addOp s cl o).mems = s.mems := by rfl

@[simp] theorem mems_spokeOutOp (s : State) (cl : Nat) (o : Op) (idx : Nat) : (spokeOutOp s cl o idx).mems = s.mems := by
  unfold spokeOutOp
  split
  · simp
  · split <;> simp

@[simp] theorem mems_workMv (s : State) (cl : Nat) (f : Fly) (idx : Nat) : (workMv s cl f idx).mems = s.mems := by
  unfold workMv
  split <;> simp

@[simp] theorem mems_workSq (s : State) (cl iid : Nat) (f : Fly) (idx : Nat) : (workSq s cl iid f idx).mems = s.mems := by
  unfold workSq
  split <;> simp

@[simp] theorem mems_workOp (s : State) (cl : Nat) (o : Op) : (workOp s cl o).mems = s.mems := by
  unfold workOp
  repeat' split
  all_goals simp

@[simp] theorem mems_launch (s : State) (cl : Nat) (u : Unit4) (w : Wd) (i : Instr) (c : Nat) : (State.launch s cl u w i c).mems = s.mems := by
  unfold State.launch
  split <;> simp

/-! HBM stacks -/

@[simp] theorem mems_memLog (s : State) (st kind pc bank param j : Nat) : (State.memLog s st kind pc bank param j).mems = s.mems := by
  simp [State.memLog]

@[simp] theorem mems_memFault (s : State) (st : Nat) (code : BitVec 16) : (State.memFault s st code).mems = s.mems := by rfl
@[simp] theorem mems_memCount (s : State) (st lo : Nat) : (State.memCount s st lo).mems = s.mems := by rfl

@[simp] theorem mems_readHbm (s : State) (st ls : Nat) (told : List (BitVec 16)) : (readHbm s st ls told).2.2.mems = s.mems := by
  simp only [readHbm]
  repeat' split
  all_goals simp

@[simp] theorem mems_rdLines (s : State) (st pclo bank col dspan q entry ph j : Nat) (pcs : List Nat) :
    (rdLines s st pclo bank col dspan q entry ph j pcs).mems = s.mems := by
  refine mems_foldl_snd (fun a pc => ?_) pcs ([], s)
  dsimp only
  split
  · simp
  · split <;> simp

/-! Host rings -/

@[simp] theorem mems_violation (s : State) (ofs chip : Nat) : (State.violation s ofs chip).mems = s.mems := by rfl
@[simp] theorem mems_clamped (s : State) (r lsb : Nat) (code : Bool) : (s.clamped r lsb code).mems = s.mems := by rfl
@[simp] theorem mems_rsvdWrite (s : State) : s.rsvdWrite.mems = s.mems := by rfl

@[simp] theorem mems_finish (s : State) (r : RunCmd) (status : Nat) (fault : BitVec 16) (detail : Nat) (result : List Byte) :
    (State.finish s r status fault detail result).mems = s.mems := by
  unfold State.finish
  split <;> simp

@[simp] theorem mems_reject (s : State) (r : RunCmd) (status : Nat) (code : BitVec 16) (detail : Nat) :
    (State.reject s r status code detail).mems = s.mems := by
  simp [State.reject]

@[simp] theorem mems_badParam (s : State) (r : RunCmd) (ofs : Nat) : (State.badParam s r ofs).mems = s.mems := by simp [State.badParam]
@[simp] theorem mems_wrongState (s : State) (r : RunCmd) : (State.wrongState s r).mems = s.mems := by simp [State.wrongState]
@[simp] theorem mems_runs (s : State) (r : RunCmd) : (State.runs s r).mems = s.mems := by rfl

@[simp] theorem mems_finishAll (s : State) (p : Instr → Bool) (status : Nat) (fault : BitVec 16) (detail : Nat) (result : List Byte) :
    (State.finishAll s p status fault detail result).mems = s.mems := by
  simp [State.finishAll]

@[simp] theorem mems_refuseStops (s : State) : (State.refuseStops s).mems = s.mems := by simp [State.refuseStops]
@[simp] theorem mems_setSt (s : State) (st : Nat) : (State.setSt s st).mems = s.mems := by rfl

/-! Commands in progress -/

@[simp] theorem mems_writeShadow (s : State) (g i : Nat) (v : Reg) : (State.writeShadow s g i v).mems = s.mems := by rfl
@[simp] theorem mems_writeGrpRef (s : State) (g : Nat) (v : Reg) : (State.writeGrpRef s g v).mems = s.mems := by rfl
@[simp] theorem mems_capture (s : State) : (State.capture s).mems = s.mems := by rfl

@[simp] theorem mems_uncapture (s : State) (out reason group lsb word : Nat) : (State.uncapture s out reason group lsb word).mems = s.mems := by
  rfl

@[simp] theorem mems_refuseCommit (s : State) (f : CapFail) : (State.refuseCommit s f).mems = s.mems := by rfl
@[simp] theorem mems_setLive (s : State) (g : Nat) (regs : List Reg) : (State.setLive s g regs).mems = s.mems := by simp [State.setLive]
@[simp] theorem mems_commit (s : State) : (State.commit s).mems = s.mems := by simp [State.commit]

/-! Flags -/

@[simp] theorem mems_ibi (s : State) : s.ibi.mems = s.mems := by
  rw [ibi_frame]; rfl

/-! Faults and step aborts -/

@[simp] theorem mems_faultEvent (s : State) (b : List Byte) (upd : Bool) : (State.faultEvent s b upd).mems = s.mems := by simp [State.faultEvent]

@[simp] theorem mems_abortOn (s : State) (r : Raised) (sev : Nat) (sec : Bool) : (State.abortOn s r sev sec).mems = s.mems := by
  simp [State.abortOn]

@[simp] theorem mems_enterRecord (s : State) (r : Raised) (sev : Nat) : (State.enterRecord s r sev).mems = s.mems := by simp [State.enterRecord]
@[simp] theorem mems_formRecord (s : State) (r : Raised) : (State.formRecord s r).mems = s.mems := by simp [State.formRecord]
@[simp] theorem mems_closeFolds (s : State) : (State.closeFolds s).mems = s.mems := by simp [State.closeFolds]
@[simp] theorem mems_foldRecord (s : State) (r : Raised) : (State.foldRecord s r).mems = s.mems := by simp [State.foldRecord]

@[simp] theorem mems_olfFault (s : State) (p : Nat) (code : BitVec 16) (kind seq : Nat) : (State.olfFault s p code kind seq).mems = s.mems := by
  rfl

@[simp] theorem mems_digestsAgree (s : State) : (State.digestsAgree s).mems = s.mems := by simp [State.digestsAgree]
@[simp] theorem mems_flood (s : State) (c : Cell) (except : Nat) : (State.flood s c except).mems = s.mems := by simp [State.flood]

@[simp] theorem mems_noteAbort (s : State) (step : Nat) (code : BitVec 16) (origin : Nat) :
    (State.noteAbort s step code origin).mems = s.mems := by
  rfl

@[simp] theorem mems_abortFault (s : State) (step : Nat) (code : BitVec 16) (detail : Reg) :
    (State.abortFault s step code detail).mems = s.mems := by
  simp [State.abortFault]

@[simp] theorem mems_issueAbort (s : State) (step : Nat) (code : BitVec 16) (origin : Nat) (detail : Reg) :
    (State.issueAbort s step code origin detail).mems = s.mems := by
  simp [State.issueAbort]

@[simp] theorem mems_staleGen (s : State) : (State.staleGen s).mems = s.mems := by rfl

/-! Service messages -/

@[simp] theorem mems_queueCell (s : State) (p : Nat) (c : Cell) : (State.queueCell s p c).mems = s.mems := by rfl
@[simp] theorem mems_sendPlc (s : State) (p ty : Nat) (body : List Byte) : (State.sendPlc s p ty body).mems = s.mems := by simp [State.sendPlc]

@[simp] theorem mems_sendChildren (s : State) (ty : Nat) (body : List Byte) : (State.sendChildren s ty body).mems = s.mems := by
  simp [State.sendChildren]

@[simp] theorem mems_sendParent (s : State) (ty : Nat) (body : List Byte) : (State.sendParent s ty body).mems = s.mems := by
  unfold State.sendParent
  split <;> simp

@[simp] theorem mems_stopAt (s : State) (step : Nat) : (State.stopAt s step).mems = s.mems := by simp [State.stopAt]
@[simp] theorem mems_takeStop (s : State) (last cause : Nat) : (State.takeStop s last cause).mems = s.mems := by simp [State.takeStop]

@[simp] theorem mems_sendStop (s : State) (last cause : Nat) : (State.sendStop s last cause).mems = s.mems := by
  unfold State.sendStop
  split <;> simp

@[simp] theorem mems_requestStop (s : State) (last cause : Nat) : (State.requestStop s last cause).mems = s.mems := by simp [State.requestStop]

/-! Clock rate -/

@[simp] theorem mems_timeEvent (s : State) (old : Tim) : (State.timeEvent s old).mems = s.mems := by simp [State.timeEvent]
@[simp] theorem mems_setRail (s : State) (i : Nat) : (State.setRail s i).mems = s.mems := by simp [State.setRail]
@[simp] theorem mems_applyStep (s : State) (i : Nat) : (State.applyStep s i).mems = s.mems := by simp [State.applyStep]

@[simp] theorem mems_wantStep (s : State) (i : Nat) : (State.wantStep s i).mems = s.mems := by
  simp only [State.wantStep]
  repeat' split
  all_goals simp

@[simp] theorem mems_freeStep (s : State) : (State.freeStep s).mems = s.mems := by simp [State.freeStep]
@[simp] theorem mems_keystoneStep (s : State) : (State.keystoneStep s).mems = s.mems := by simp [State.keystoneStep]
@[simp] theorem mems_writeStepSet (s : State) (v : Reg) : (State.writeStepSet s v).mems = s.mems := by simp [State.writeStepSet]

@[simp] theorem mems_armKeystone (s : State) : (State.armKeystone s).2.mems = s.mems := by
  unfold State.armKeystone
  split <;> simp

@[simp] theorem mems_disarmKeystone (s : State) : (State.disarmKeystone s).mems = s.mems := by rfl

/-! Time -/

@[simp] theorem mems_leaveGood (s : State) (code : Option (BitVec 16)) : (State.leaveGood s code).mems = s.mems := by
  unfold State.leaveGood
  split <;> simp

@[simp] theorem mems_noParent (s : State) : (State.noParent s).mems = s.mems := by simp [State.noParent]

@[simp] theorem mems_electRoot (s : State) : s.electRoot.mems = s.mems := by
  unfold State.electRoot
  split
  · simp
  · dsimp only
    split
    · simp
    · split
      · simp
      · simp

@[simp] theorem mems_judgeOffset (s : State) : (State.judgeOffset s).mems = s.mems := by simp [State.judgeOffset]
@[simp] theorem mems_addIncrement (s : State) (d : Int) : (State.addIncrement s d).mems = s.mems := by rfl

@[simp] theorem mems_windowFollow (s : State) (residual phi : Int) : (State.windowFollow s residual phi).mems = s.mems := by
  unfold State.windowFollow
  split <;> simp

@[simp] theorem mems_windowMissed (s : State) : (State.windowMissed s).mems = s.mems := by rfl
@[simp] theorem mems_setManualRate (s : State) (v : Reg) : (State.setManualRate s v).mems = s.mems := by rfl
@[simp] theorem mems_boundaryRate (s : State) : (State.boundaryRate s).mems = s.mems := by simp [State.boundaryRate]

/-! Doorbells -/

@[simp] theorem mems_ringDoorbell (s : State) (ring1 : Bool) (v : Reg) : (State.ringDoorbell s ring1 v).mems = s.mems := by
  simp [State.ringDoorbell]

@[simp] theorem mems_compDoorbell (s : State) (v : Reg) : (State.compDoorbell s v).mems = s.mems := by simp [State.compDoorbell]
@[simp] theorem mems_evtDoorbell (s : State) (v : Reg) : (State.evtDoorbell s v).mems = s.mems := by simp [State.evtDoorbell]
@[simp] theorem mems_mboxComplete (s : State) (bytes : List Byte) : (State.mboxComplete s bytes).mems = s.mems := by rfl

@[simp] theorem mems_mboxDoorbell (s : State) (v : Reg) : (State.mboxDoorbell s v).mems = s.mems := by
  simp only [State.mboxDoorbell]
  repeat' split
  all_goals simp

/-! Registers -/

@[simp] theorem mems_readReg (s : State) (r chip : Nat) : (State.readReg s r chip).2.mems = s.mems := by
  unfold State.readReg
  split <;> simp

@[simp] theorem mems_wrStart (s : State) (v mask : Reg) : (wrStart s v mask).s.mems = s.mems := by simp [wrStart]
@[simp] theorem mems_stale (s : State) : (State.stale s).mems = s.mems := by rfl

@[simp] theorem mems_plainWrite {put : State → Reg → State} (hput : ∀ s v, (put s v).mems = s.mems) (s : State) (v mask : Reg) :
    (plainWrite s v mask put).2.mems = s.mems :=
  (hput _ _).trans (mems_wrStart s v mask)

@[simp] theorem mems_refuseWrite (s : State) (r : Nat) : (refuseWrite s r).2.mems = s.mems := by rfl

@[simp] theorem mems_ignored (s : State) (r : Nat) (v : Reg) : (State.ignored s r v).2.mems = s.mems := by
  unfold State.ignored
  split <;> simp

@[simp] theorem mems_clearCmd {f : State → State} (hf : ∀ s, (f s).mems = s.mems) (s : State) (v : Reg) : (clearCmd s v f).2.mems = s.mems := by
  simp [clearCmd, hf]

@[simp] theorem mems_writeTimStep (s : State) (v : Reg) : (State.writeTimStep s v).2.mems = s.mems := by
  unfold State.writeTimStep
  split <;> simp

@[simp] theorem mems_writeTimCtl (s : State) (v : Reg) : (State.writeTimCtl s v).2.mems = s.mems := by
  simp only [State.writeTimCtl]
  repeat' split
  all_goals simp

@[simp] theorem mems_writeEthLat (s : State) (v : Reg) : (State.writeEthLat s v).2.mems = s.mems := by simp [State.writeEthLat]

@[simp] theorem mems_writeTim (s : State) (r o : Nat) (v : Reg) : (State.writeTim s r o v).2.mems = s.mems := by
  unfold State.writeTim
  repeat' split
  all_goals simp

@[simp] theorem mems_writeKeyArm (s : State) (v : Reg) : (State.writeKeyArm s v).2.mems = s.mems := by
  simp only [State.writeKeyArm]
  repeat' split
  all_goals simp

@[simp] theorem mems_writeTik (s : State) (r o : Nat) (v : Reg) : (State.writeTik s r o v).2.mems = s.mems := by
  unfold State.writeTik
  split <;> simp

@[simp] theorem mems_writeDroopThr (s : State) (p : Nat) (v : Reg) : (State.writeDroopThr s p v).2.mems = s.mems := by simp [State.writeDroopThr]
@[simp] theorem mems_clearSpn (s : State) (p : Nat) : (State.clearSpn s p).mems = s.mems := by rfl

@[simp] theorem mems_writeSpn (s : State) (r p o : Nat) (v : Reg) : (State.writeSpn s r p o v).2.mems = s.mems := by
  unfold State.writeSpn
  repeat' split
  all_goals simp

@[simp] theorem mems_clearClu (s : State) (c : Nat) : (State.clearClu s c).mems = s.mems := by rfl
@[simp] theorem mems_clearMsq (s : State) (st : Nat) : (State.clearMsq s st).mems = s.mems := by rfl

@[simp] theorem mems_writeScrub (s : State) (st : Nat) (v : Reg) : (State.writeScrub s st v).2.mems = s.mems := by
  unfold State.writeScrub
  split <;> simp

@[simp] theorem mems_writeSh (s : State) (fw : Bool) (r g i : Nat) (v : Reg) : (State.writeSh s fw r g i v).2.mems = s.mems := by
  unfold State.writeSh
  split <;> simp

@[simp] theorem mems_writeMsq (s : State) (r st o : Nat) (v : Reg) : (State.writeMsq s r st o v).2.mems = s.mems := by
  unfold State.writeMsq
  split
  · simp
  · split <;> simp

@[simp] theorem mems_writeSvcCtl (s : State) (v : Reg) : (State.writeSvcCtl s v).2.mems = s.mems := by simp [State.writeSvcCtl]

@[simp] theorem mems_writeSvc (s : State) (r o : Nat) (v : Reg) : (State.writeSvc s r o v).2.mems = s.mems := by
  unfold State.writeSvc
  split <;> simp

@[simp] theorem mems_clearCxl (s : State) : (State.clearCxl s).mems = s.mems := by rfl
@[simp] theorem mems_clearCwy (s : State) (p : Nat) : (State.clearCwy s p).mems = s.mems := by rfl

@[simp] theorem mems_writeRing (s : State) (r : Nat) (v : Reg) (put : Hst → Reg → Hst) : (State.writeRing s r v put).2.mems = s.mems := by
  unfold State.writeRing
  split <;> simp

@[simp] theorem mems_resetDoneEvent (s : State) : (State.resetDoneEvent s).mems = s.mems := by simp [State.resetDoneEvent]

@[simp] theorem mems_writeHstCtl (s : State) (v : Reg) : (State.writeHstCtl s v).2.mems = s.mems := by
  simp only [State.writeHstCtl]
  repeat' split
  all_goals simp

@[simp] theorem mems_writeHst (s : State) (r o : Nat) (v : Reg) : (State.writeHst s r o v).2.mems = s.mems := by
  unfold State.writeHst
  repeat' split
  all_goals simp

@[simp] theorem mems_writePwr (s : State) (r o : Nat) (v : Reg) : (State.writePwr s r o v).2.mems = s.mems := by
  unfold State.writePwr
  split <;> simp

@[simp] theorem mems_writeFlt (s : State) (r o : Nat) (v : Reg) : (State.writeFlt s r o v).2.mems = s.mems := by
  unfold State.writeFlt
  split <;> simp

@[simp] theorem mems_writeDmp (s : State) (r o : Nat) (v : Reg) : (s.writeDmp r o v).2.mems = s.mems := by
  unfold State.writeDmp
  split
  · split
    · simp
    · rw [mems_plainWrite (fun _ _ => by rfl)]
  · simp

@[simp] theorem mems_writePlc (s : State) (r o : Nat) (v : Reg) : (State.writePlc s r o v).2.mems = s.mems := by
  unfold State.writePlc
  repeat' split
  all_goals simp

@[simp] theorem mems_persist (s : State) : (State.persist s).2.mems = s.mems := by
  simp only [State.persist]
  repeat' split
  all_goals simp

@[simp] theorem mems_forget (s : State) : (State.forget s).2.mems = s.mems := by
  simp only [State.forget]
  repeat' split
  all_goals simp

@[simp] theorem mems_compact (s : State) : (State.compact s).mems = s.mems := by simp [State.compact]
@[simp] theorem mems_clearCfg (s : State) : (State.clearCfg s).mems = s.mems := by rfl

@[simp] theorem mems_writeCfgCmd (s : State) (v : Reg) : (State.writeCfgCmd s v).2.mems = s.mems := by
  unfold State.writeCfgCmd
  split <;> simp

@[simp] theorem mems_writeTRef (s : State) (v : Reg) : (State.writeTRef s v).mems = s.mems := by rfl

@[simp] theorem mems_writeRef (s : State) (fw : Bool) (g : Nat) (v : Reg) : (State.writeRef s fw g v).2.mems = s.mems := by
  unfold State.writeRef
  split <;> simp

@[simp] theorem mems_writeCfg (s : State) (r o : Nat) (v : Reg) : (State.writeCfg s r o v).2.mems = s.mems := by
  unfold State.writeCfg
  repeat' split
  all_goals simp

/-! Placement -/

@[simp] theorem mems_startElection (s : State) : (State.startElection s).mems = s.mems := by rfl
@[simp] theorem mems_dropMap (s : State) : (State.dropMap s).mems = s.mems := by simp [State.dropMap]
@[simp] theorem mems_dropPlace (s : State) : (State.dropPlace s).mems = s.mems := by simp [State.dropPlace]

@[simp] theorem mems_endPlace (s : State) (st status : Nat) (code : BitVec 16) (detail : Nat) :
    (State.endPlace s st status code detail).mems = s.mems := by
  simp [State.endPlace]

@[simp] theorem mems_loseAdmission (s : State) : (State.loseAdmission s).mems = s.mems := by simp [State.loseAdmission]
@[simp] theorem mems_restartElection (s : State) : (State.restartElection s).mems = s.mems := by simp [State.restartElection]

@[simp] theorem mems_passExclude (s : State) (cause : Nat) (hall : Nat) : (State.passExclude s cause hall).mems = s.mems := by
  simp [State.passExclude]

@[simp] theorem mems_dropTwins (s : State) : (State.dropTwins s).mems = s.mems := by simp [State.dropTwins]

@[simp] theorem mems_takeClaim (s : State) (p : Nat) (hall depth : Nat) : (State.takeClaim s p hall depth).mems = s.mems := by
  simp [State.takeClaim]

@[simp] theorem mems_closeElection (s : State) : (State.closeElection s).mems = s.mems := by simp [State.closeElection]

@[simp] theorem mems_mapPort (s : State) (m : List MapEntry) (i p : Nat) : (State.mapPort s m i p).mems = s.mems := by
  unfold State.mapPort
  split
  · simp
  · split <;> simp

@[simp] theorem mems_takeMap (s : State) (m : List MapEntry) (digest : List Byte) : (State.takeMap s m digest).mems = s.mems := by
  unfold State.takeMap
  split <;> simp

@[simp] theorem mems_passMap (s : State) (m : List MapEntry) (d : List Byte) : (State.passMap s m d).mems = s.mems := by simp [State.passMap]
@[simp] theorem mems_distribute (s : State) (seats : List Seat) : (State.distribute s seats).mems = s.mems := by simp [State.distribute]
@[simp] theorem mems_askSwitch (s : State) : (State.askSwitch s).mems = s.mems := by simp [State.askSwitch]

/-! Starts and stops -/

@[simp] theorem mems_refuseUp (s : State) (code : BitVec 16) : (State.refuseUp s code).mems = s.mems := by simp [State.refuseUp]
@[simp] theorem mems_cancelStart (s : State) : (State.cancelStart s).mems = s.mems := by simp [State.cancelStart]
@[simp] theorem mems_abortStart (s : State) (code : BitVec 16) : (State.abortStart s code).mems = s.mems := by simp [State.abortStart]

@[simp] theorem mems_takeGo (s : State) (e : Nat) : (State.takeGo s e).mems = s.mems := by
  unfold State.takeGo
  split <;> simp

@[simp] theorem mems_tryReady (s : State) : (State.tryReady s).mems = s.mems := by
  unfold State.tryReady
  split <;> simp

@[simp] theorem mems_leaderCancel (s : State) : (State.leaderCancel s).mems = s.mems := by
  unfold State.leaderCancel
  split <;> simp

@[simp] theorem mems_selfRefuse (s : State) (code : BitVec 16) : (State.selfRefuse s code).mems = s.mems := by simp [State.selfRefuse]

@[simp] theorem mems_takePropose (s : State) (digest8 : List Byte) (e : Nat) : (State.takePropose s digest8 e).mems = s.mems := by
  simp only [State.takePropose]
  repeat' split
  all_goals simp

@[simp] theorem mems_propose (s : State) : (State.propose s).mems = s.mems := by simp [State.propose]
@[simp] theorem mems_stopUnits (s : State) : (State.stopUnits s).mems = s.mems := by simp [State.stopUnits]
@[simp] theorem mems_settleStep (s : State) : (State.settleStep s).mems = s.mems := by simp [State.settleStep]
@[simp] theorem mems_jobStopped (s : State) (cause : Nat) : (State.jobStopped s cause).mems = s.mems := by simp [State.jobStopped]
@[simp] theorem mems_stepDoneEvent (s : State) (n : Nat) : (State.stepDoneEvent s n).mems = s.mems := by simp [State.stepDoneEvent]

@[simp] theorem mems_lastStepDone (s : State) : (State.lastStepDone s).mems = s.mems := by
  unfold State.lastStepDone
  split <;> simp

@[simp] theorem mems_abortStop (s : State) (a : Nat × BitVec 16 × Nat) : (State.abortStop s a).mems = s.mems := by simp [State.abortStop]
@[simp] theorem mems_orderlyStop (s : State) : (State.orderlyStop s).mems = s.mems := by simp [State.orderlyStop]
@[simp] theorem mems_pairFail (s : State) (step : Nat) (timeout : Bool) : (State.pairFail s step timeout).mems = s.mems := by rfl
@[simp] theorem mems_confirm (s : State) (step : Nat) (agree : Bool) : (State.confirm s step agree).mems = s.mems := by simp [State.confirm]

@[simp] theorem mems_comparePair (s : State) (step : Nat) (mine : BitVec 64) : (State.comparePair s step mine).mems = s.mems := by
  unfold State.comparePair
  split <;> simp

@[simp] theorem mems_digestTry (s : State) (step : Nat) : (State.digestTry s step).mems = s.mems := by
  unfold State.digestTry
  split
  · simp
  · split <;> simp

/-! Service requests -/

@[simp] theorem mems_noRoute (s : State) : (State.noRoute s).mems = s.mems := by rfl

@[simp] theorem mems_answer (s : State) (rtag : BitVec 16) (status : Nat) (data : List Byte) :
    (State.answer s rtag status data).mems = s.mems := by
  rfl

@[simp] theorem mems_svcDeny (s : State) (c : Cell) (ofs : Nat) : (State.svcDeny s c ofs).2.mems = s.mems := by rfl

@[simp] theorem mems_svcRegs (s : State) (c : Cell) (r n : Nat) : (s.svcRegs c r n).2.mems = s.mems := by
  unfold State.svcRegs
  dsimp only
  split
  · simp
  · split
    · rfl
    · refine mems_foldl_snd (fun x r => ?_) _ ([], s)
      have hread := mems_readReg x.2 r (svcSrc c)
      split <;> simp_all

@[simp] theorem mems_takeResponse (s : State) (p : Nat) (c : Cell) : (State.takeResponse s p c).mems = s.mems := by simp [State.takeResponse]

@[simp] theorem mems_respond (s : State) (p : Nat) (c : Cell) (status : Nat) (data : List Byte) :
    (State.respond s p c status data).mems = s.mems := by
  unfold State.respond
  split
  · simp
  · split <;> simp

/-! Cluster pipelines -/

@[simp] theorem mems_served (s : State) (p : Nat) (c : Cell) (r : Nat × List Byte) : (State.served s p c r).mems = s.mems := by
  simp [State.served]

/-! Links -/

@[simp] theorem mems_clearOlf (s : State) (p : Nat) : (State.clearOlf s p).mems = s.mems := by rfl

/-! Register file -/

@[simp] theorem mems_challenge (s : State) : (State.challenge s).mems = s.mems := by rfl
@[simp] theorem mems_refuseUnlock (s : State) (badToken : Bool) : (State.refuseUnlock s badToken).2.mems = s.mems := by rfl

@[simp] theorem mems_unlock (s : State) : (State.unlock s).2.mems = s.mems := by
  simp only [State.unlock]
  repeat' split
  all_goals simp

@[simp] theorem mems_writeSec (s : State) (r o : Nat) (v : Reg) : (s.writeSec r o v).2.mems = s.mems := by
  unfold State.writeSec
  split
  · simp
  · dsimp only
    split <;> simp
  · rw [mems_clearCmd (fun _ => by rfl)]
  · split
    · rfl
    · simp

/-! Images loaded -/

@[simp] theorem mems_armCluster (s : State) (c : Nat) : (State.armCluster s c).mems = s.mems := by simp [State.armCluster]

@[simp] theorem mems_armPort (s : State) (lp : Nat) : (State.armPort s lp).mems = s.mems := by
  simp only [State.armPort]
  repeat' split
  all_goals simp

@[simp] theorem mems_armPreset (s : State) (st : Nat) : (s.armPreset st).mems = s.mems := by
  unfold State.armPreset
  split
  · rfl
  · refine (mems_writeGrpRef _ _ _).trans (mems_foldl (fun s e => ?_) _ s)
    split <;> simp

/-! Streams -/

@[simp] theorem mems_setStream (s : State) (i : StreamId) (t : Machine.Stream) : (State.setStream s i t).mems = s.mems := by
  unfold State.setStream
  split <;> simp

/-! Dumps -/

@[simp] theorem mems_dumpReads (s : State) : (State.dumpReads s).mems = s.mems := by simp [State.dumpReads]
@[simp] theorem mems_issueAk (s : State) : (State.issueAk s).mems = s.mems := by simp [State.issueAk]
@[simp] theorem mems_report (s : State) (nonce : List Byte) : (State.report s nonce).2.mems = s.mems := by rfl

@[simp] theorem mems_halfWritten (s : State) (i : Instr) : (s.halfWritten i).mems = s.mems := by
  unfold State.halfWritten
  split <;> rfl

@[simp] theorem mems_cutUpdates (s : State) : (State.cutUpdates s).mems = s.mems := by simp [State.cutUpdates]
@[simp] theorem mems_badImage (s : State) : (State.badImage s).mems = s.mems := by rfl

/-! Reset requests -/

@[simp] theorem mems_resetAppends (s : State) : (State.resetAppends s).mems = s.mems := by simp [State.resetAppends]
@[simp] theorem mems_endDrain (s : State) : (State.endDrain s).mems = s.mems := by simp [State.endDrain]
@[simp] theorem mems_prepareReset (s : State) : (State.prepareReset s).mems = s.mems := by simp [State.prepareReset]
@[simp] theorem mems_requestReset (s : State) (cause : Nat) : (State.requestReset s cause).mems = s.mems := by simp [State.requestReset]
@[simp] theorem mems_unplannedReset (s : State) (cause : Nat) : (State.unplannedReset s cause).mems = s.mems := by simp [State.unplannedReset]

/-! Host commands -/

@[simp] theorem mems_regReads (s : State) (r : RunCmd) (base n i : Nat) (got : List Reg) : (s.regReads r base n i got).mems = s.mems := by
  induction n generalizing s i got with
  | zero => simp [State.regReads]
  | succ n ih =>
    have hread := mems_readReg s (base + 8 * i) s.chipOr0
    rw [State.regReads]
    split
    · simp
    · split <;> simp_all

@[simp] theorem mems_doLoad (s : State) (r : RunCmd) (hbuf ofs len : Nat) (res : HostRes) :
    (State.doLoad s r hbuf ofs len res).mems = s.mems := by
  simp only [State.doLoad]
  repeat' split
  all_goals simp

@[simp] theorem mems_doUnload (s : State) (r : RunCmd) : (State.doUnload s r).mems = s.mems := by simp [State.doUnload]
@[simp] theorem mems_doPlace (s : State) (r : RunCmd) : (State.doPlace s r).mems = s.mems := by simp [State.doPlace]
@[simp] theorem mems_doStart (s : State) (r : RunCmd) (first : Reg) : (State.doStart s r first).mems = s.mems := by simp [State.doStart]
@[simp] theorem mems_doRelease (s : State) (r : RunCmd) : (State.doRelease s r).mems = s.mems := by simp [State.doRelease]

@[simp] theorem mems_doAbort (s : State) (r : RunCmd) : (State.doAbort s r).mems = s.mems := by
  unfold State.doAbort
  split
  · simp
  · split <;> simp

@[simp] theorem mems_doStop (s : State) (r : RunCmd) (last : Reg) : (State.doStop s r last).mems = s.mems := by simp [State.doStop]
@[simp] theorem mems_doIdentify (s : State) (r : RunCmd) : (State.doIdentify s r).mems = s.mems := by simp [State.doIdentify]

@[simp] theorem mems_doBufReg (s : State) (r : RunCmd) (hbuf : Nat) (mask : BitVec 2) (addr len : Nat) :
    (State.doBufReg s r hbuf mask addr len).mems = s.mems := by
  simp [State.doBufReg]

@[simp] theorem mems_doBufFree (s : State) (r : RunCmd) (hbuf : Nat) : (State.doBufFree s r hbuf).mems = s.mems := by simp [State.doBufFree]

@[simp] theorem mems_doSwitchGet (s : State) (r : RunCmd) (req page : Nat) : (State.doSwitchGet s r req page).mems = s.mems := by
  unfold State.doSwitchGet
  split <;> simp

@[simp] theorem mems_doSwitchDone (s : State) (r : RunCmd) (req : Nat) : (State.doSwitchDone s r req).mems = s.mems := by
  unfold State.doSwitchDone
  split <;> simp

@[simp] theorem mems_doDma (s : State) (r : RunCmd) (hbuf : Nat) (toHost : Bool) (bufOfs loc len : Nat) :
    (State.doDma s r hbuf toHost bufOfs loc len).mems = s.mems := by
  simp only [State.doDma]
  repeat' split
  all_goals simp

@[simp] theorem mems_doRegRead (s : State) (r : RunCmd) (base count : Nat) : (State.doRegRead s r base count).mems = s.mems := by
  simp [State.doRegRead]

@[simp] theorem mems_doDump (s : State) (r : RunCmd) (hbuf : Nat) (force : Bool) (ofs space : Nat) :
    (State.doDump s r hbuf force ofs space).mems = s.mems := by
  unfold State.doDump
  split <;> simp

@[simp] theorem mems_supersedeAll (s : State) : (State.supersedeAll s).mems = s.mems := by simp [State.supersedeAll]
@[simp] theorem mems_doReset (s : State) (r : RunCmd) : (State.doReset s r).mems = s.mems := by simp [State.doReset]
@[simp] theorem mems_attestDenied (s : State) (r : RunCmd) : (State.attestDenied s r).mems = s.mems := by simp [State.attestDenied]

@[simp] theorem mems_doAttest (s : State) (r : RunCmd) (hbuf ofs : Nat) : (State.doAttest s r hbuf ofs).mems = s.mems := by
  unfold State.doAttest
  split
  · simp
  · split <;> simp

@[simp] theorem mems_doFwUpdate (s : State) (r : RunCmd) (hbuf ofs len : Nat) : (State.doFwUpdate s r hbuf ofs len).mems = s.mems := by
  unfold State.doFwUpdate
  split
  · simp
  · split <;> simp

/-! Staging -/

@[simp] theorem mems_updRun (s : State) (d st : Nat) (f : StgRun → StgRun) : (State.updRun s d st f).mems = s.mems := by rfl
@[simp] theorem mems_dropRun (s : State) (d st : Nat) : (State.dropRun s d st).mems = s.mems := by rfl
@[simp] theorem mems_stgFault (s : State) (d kind line st : Nat) : (State.stgFault s d kind line st).mems = s.mems := by rfl
@[simp] theorem mems_extLog (s : State) (addr : Nat) (hbuf : Nat) (host : Bool) : (State.extLog s addr hbuf host).mems = s.mems := by rfl
@[simp] theorem mems_extFault (s : State) (a : Desc) (line : Nat) : (State.extFault s a line).mems = s.mems := by rfl

@[simp] theorem mems_accessFault (s : State) (a : Desc) (d st line : Nat) (kind : CxlErr) :
    (State.accessFault s a d st line kind).mems = s.mems := by
  simp [State.accessFault]

@[simp] theorem mems_hostLineFail (s : State) (a : Desc) (desc step line : Nat) : (State.hostLineFail s a desc step line).mems = s.mems := by
  unfold State.hostLineFail
  split <;> simp

@[simp] theorem mems_beginAccess {go : State → State} (hgo : ∀ s, (go s).mems = s.mems) (s : State) (a : Desc) (desc step : Nat)
    (lines : List Nat) : (s.beginAccess a desc step lines go).mems = s.mems := by
  unfold State.beginAccess
  split
  · simp
  · split <;> simp [hgo]

@[simp] theorem mems_startReads (s : State) : s.startReads.mems = s.mems := by
  unfold State.startReads
  split
  · rfl
  · refine mems_foldl (fun s r => ?_) _ s
    split
    · split <;> simp
    · rfl

@[simp] theorem mems_lineArrive (s : State) (a : Desc) (desc step line : Nat) (data : List Byte) :
    (State.lineArrive s a desc step line data).mems = s.mems := by
  unfold State.lineArrive
  split <;> simp

@[simp] theorem mems_writeAck (s : State) (a : Desc) (desc step line : Nat) : (State.writeAck s a desc step line).mems = s.mems := by
  simp [State.writeAck]

@[simp] theorem mems_localRead (s : State) (a : Nat) : (State.localRead s a).2.mems = s.mems := by
  unfold State.localRead
  repeat' split
  all_goals simp

@[simp] theorem mems_localReads (s : State) (a n : Nat) : (State.localReads s a n).2.mems = s.mems := by simp [State.localReads]

/-! Host transfers and doorbells -/

@[simp] theorem mems_fwDone (s : State) (r : RunCmd) (img : List Byte) : (State.fwDone s r img).mems = s.mems := by simp [State.fwDone]

@[simp] theorem mems_writeCompletion (s : State) : (State.writeCompletion s).mems = s.mems := by
  unfold State.writeCompletion
  split <;> simp

@[simp] theorem mems_writeCompletions (s : State) : (State.writeCompletions s).mems = s.mems := by simp [State.writeCompletions]
@[simp] theorem mems_diagNote (s : State) (r kind : Nat) (write : Bool) : (State.diagNote s r kind write).mems = s.mems := by rfl
@[simp] theorem mems_windowDetail (s : State) : (State.windowDetail s).mems = s.mems := by rfl

/-! Link events -/

@[simp] theorem mems_whenPort {f : State → State} (hf : ∀ s, (f s).mems = s.mems) (s : State) (ok : Bool) : (whenPort s ok f).mems = s.mems := by
  simp [whenPort, hf]

@[simp] theorem mems_sendIdent (s : State) (p : Nat) (b : List Byte) : (State.sendIdent s p b).mems = s.mems := by rfl

/-! Service cells -/

@[simp] theorem mems_takeCell (s : State) (p : Nat) (c : Cell) : (State.takeCell s p c).mems = s.mems := by rfl
@[simp] theorem mems_absorb (s : State) : (State.absorb s).mems = s.mems := by rfl
@[simp] theorem mems_takeAbort (s : State) (p step : Nat) (c : Cell) : (State.takeAbort s p step c).mems = s.mems := by simp [State.takeAbort]

/-! Control paths -/

@[simp] theorem mems_dropCtl (s : State) (i : Nat) : (State.dropCtl s i).mems = s.mems := by rfl
@[simp] theorem mems_svcSettled (s : State) : (State.svcSettled s).mems = s.mems := by rfl
@[simp] theorem mems_setUcie (s : State) (m up : Bool) : (State.setUcie s m up).mems = s.mems := by simp [State.setUcie]

/-! Frames -/

@[simp] theorem mems_holdCell (s : State) (p slot : Nat) (c : Cell) : (State.holdCell s p slot c).mems = s.mems := by simp [State.holdCell]

/-! Phases -/

@[simp] theorem mems_overrunSpan (s : State) (span : Nat) : (State.overrunSpan s span).mems = s.mems := by rfl
@[simp] theorem mems_beginStep (s : State) : (State.beginStep s).mems = s.mems := by rfl

@[simp] theorem mems_takeBranch (s : State) (t : Nat) : (State.takeBranch s t).mems = s.mems := by
  unfold State.takeBranch
  split
  · simp
  · split <;> simp

@[simp] theorem mems_stepBoundary (s : State) : (State.stepBoundary s).mems = s.mems := by
  simp only [State.stepBoundary]
  repeat' split
  all_goals simp

@[simp] theorem mems_land (s : State) (w : MeshWrite) : (State.land s w).mems = s.mems := by
  simp only [State.land]
  repeat' split
  all_goals simp

/-! Keystones -/

@[simp] theorem mems_startJob (s : State) : s.startJob.mems = s.mems := by
  unfold State.startJob
  dsimp only
  refine (mems_foldl (fun s r => ?_) _ _).trans ?_
  · split <;> simp
  · rw [mems_finishAll, mems_setSt, mems_mk, mem_xfer_eq_mems, mems_forEach (fun s st => mems_updMs s st _)]
    rfl

@[simp] theorem mems_cancelKeystone (s : State) (commit start step : Bool) : (State.cancelKeystone s commit start step).mems = s.mems := by
  simp [State.cancelKeystone]

@[simp] theorem mems_commitAndStep (s : State) (commit step : Bool) : (State.commitAndStep s commit step).mems = s.mems := by
  simp [State.commitAndStep]

@[simp] theorem mems_fireKeystone (s : State) (commit start step : Bool) : (State.fireKeystone s commit start step).mems = s.mems := by
  simp [State.fireKeystone]

@[simp] theorem mems_dropKeystone (s : State) (commit start step : Bool) : (State.dropKeystone s commit start step).mems = s.mems := by
  simp [State.dropKeystone]

@[simp] theorem mems_namedKeystone (s : State) (start : Bool) : (State.namedKeystone s start).mems = s.mems := by simp [State.namedKeystone]

/-! Upkeep -/

@[simp] theorem mems_assizeBad (s : State) (n : Nat) : (State.assizeBad s n).mems = s.mems := by rfl

/-! Reset -/

@[simp] theorem mems_selfRefreshAll (s : State) : (State.selfRefreshAll s).mems = s.mems := by simp [State.selfRefreshAll]

@[simp] theorem mems_chooseSlot (s : State) : (State.chooseSlot s).2.mems = s.mems := by
  simp only [State.chooseSlot]
  repeat' split
  all_goals simp

@[simp] theorem mems_bootChain (s : State) : (State.bootChain s).mems = s.mems := by simp [State.bootChain]
@[simp] theorem mems_openJournal (s : State) : (State.openJournal s).mems = s.mems := by simp [State.openJournal]

@[simp] theorem mems_restoreFreq (s : State) (recs : List JRec) : (State.restoreFreq s recs).mems = s.mems := by
  unfold State.restoreFreq
  split <;> simp

@[simp] theorem mems_senseStraps (s : State) (straps opens : BitVec 16) : (State.senseStraps s straps opens).mems = s.mems := by
  simp [State.senseStraps]

@[simp] theorem mems_noteUnplanned (s : State) : (State.noteUnplanned s).mems = s.mems := by simp [State.noteUnplanned]

@[simp] theorem mems_repairRow (s : State) (row : Nat) (failed : List (Nat × Nat)) : (State.repairRow s row failed).mems = s.mems := by
  simp [State.repairRow]

@[simp] theorem mems_confirmFirmware (s : State) : (State.confirmFirmware s).mems = s.mems := by simp [State.confirmFirmware]

/-! Power -/

@[simp] theorem mems_pwrFault (s : State) (code : BitVec 16) (src kind rail : Nat) : (State.pwrFault s code src kind rail).mems = s.mems := by
  rfl

@[simp] theorem mems_countFeed (s : State) : (State.countFeed s).mems = s.mems := by rfl
@[simp] theorem mems_feedRecord (s : State) : (State.feedRecord s).mems = s.mems := by rfl
@[simp] theorem mems_feedsAtStart (s : State) : (State.feedsAtStart s).mems = s.mems := by simp [State.feedsAtStart]
@[simp] theorem mems_setFeed (s : State) (f : Feed) (good rev : Bool) : (State.setFeed s f good rev).mems = s.mems := by rfl
@[simp] theorem mems_readSensors (s : State) (x : Sensors) : (State.readSensors s x).mems = s.mems := by rfl

/-! Pins -/

@[simp] theorem mems_flashWritten (s : State) : (State.flashWritten s).mems = s.mems := by rfl
@[simp] theorem mems_i3cRead (s : State) (rom : Bool) (bytes : List Byte) : (State.i3cRead s rom bytes).mems = s.mems := by rfl

/-! Causeways -/

@[simp] theorem mems_cwyFault (s : State) (p : Nat) (code : BitVec 16) (source tag : Nat) :
    (State.cwyFault s p code source tag).mems = s.mems := by
  rfl

@[simp] theorem mems_cwyCount (s : State) (p lo len : Nat) : (State.cwyCount s p lo len).mems = s.mems := by rfl
@[simp] theorem mems_cwyCount2 (s : State) (p lo len : Nat) : (State.cwyCount2 s p lo len).mems = s.mems := by rfl

@[simp] theorem mems_present (s : State) (lp p : Nat) (w0 : Reg) : (State.present s lp p w0).2.mems = s.mems := by
  unfold State.present
  repeat' split
  all_goals simp

@[simp] theorem mems_inject (s : State) (lp p : Nat) (w1 : Reg) : (State.inject s lp p w1).2.mems = s.mems := by
  simp only [State.inject]
  repeat' split
  all_goals simp

@[simp] theorem mems_sources (s : State) (rs : List (Nat × Nat)) (ws : List (Reg × Reg)) : (State.sources s rs ws).2.mems = s.mems := by
  simp [State.sources]

@[simp] theorem mems_combine (s : State) (p : Nat) (x y : SlotSrc) : (State.combine s p x y).2.mems = s.mems := by simp [State.combine]
@[simp] theorem mems_formCell (s : State) (p : Nat) (c : Cell) : (State.formCell s p c).mems = s.mems := by simp [State.formCell]
@[simp] theorem mems_sinkClash (s : State) (p : Nat) (l : List SlotSrc) : (State.sinkClash s p l).mems = s.mems := by rfl

@[simp] theorem mems_egress (s : State) (l : List SlotSrc) (e : Nat) (w0 : Reg) : (State.egress s l e w0).mems = s.mems := by
  simp only [State.egress]
  repeat' split
  all_goals simp

@[simp] theorem mems_deliverCell (s : State) (p : Nat) (c : Cell) (t : Nat × Nat × Nat × Nat) : (State.deliverCell s p c t).mems = s.mems := by
  simp [State.deliverCell]

@[simp] theorem mems_deliver (s : State) (l : List SlotSrc) : (State.deliver s l).mems = s.mems := by
  simp only [State.deliver]
  repeat' split
  all_goals simp

/-! Time messages -/

@[simp] theorem mems_sendBeacon (s : State) (p tx : Nat) : (State.sendBeacon s p tx).mems = s.mems := by simp [State.sendBeacon]
@[simp] theorem mems_windowPort (s : State) (p : Nat) : (State.windowPort s p).mems = s.mems := by simp [State.windowPort]

@[simp] theorem mems_windowSteer (s : State) : (State.windowSteer s).mems = s.mems := by
  unfold State.windowSteer
  repeat' split
  all_goals simp

@[simp] theorem mems_ptpEstimate (s : State) (o : Int) : (State.ptpEstimate s o).mems = s.mems := by simp [State.ptpEstimate]

/-! #### Canonical form, and the ways it is kept -/

/-- Two memories are in canonical form. -/
def memsWf (m : List Host.Cell × List Host.Cell) : Bool := memWf m.1 && memWf m.2

theorem memOk_eq_memsWf (s : State) : s.memOk = memsWf s.mems := rfl

@[simp] theorem memsWf_mk (m x : List Host.Cell) : memsWf (m, x) = (memWf m && memWf x) := by rfl

@[simp] theorem memsWf_ite (p : Prop) [Decidable p] (m n : List Host.Cell × List Host.Cell) :
    memsWf (if p then m else n) = if p then memsWf m else memsWf n := apply_ite memsWf p m n

@[simp] theorem memWf_mem {s : State} (h : memsWf s.mems = true) : memWf s.mem = true := (Bool.and_eq_true_iff.mp h).1
@[simp] theorem memWf_xfer {s : State} (h : memsWf s.mems = true) : memWf s.xfer = true := (Bool.and_eq_true_iff.mp h).2

@[simp] theorem memsWf_foldl {α : Type} {f : State → α → State} (hf : ∀ s x, memsWf s.mems = true → memsWf (f s x).mems = true) {s : State}
    (h : memsWf s.mems = true) (l : List α) : memsWf (l.foldl f s).mems = true := by
  induction l generalizing s with
  | nil => exact h
  | cons x r ih => exact ih (hf s x h)

@[simp] theorem memsWf_forEach {f : State → Nat → State} (hf : ∀ s x, memsWf s.mems = true → memsWf (f s x).mems = true) {s : State}
    (h : memsWf s.mems = true) (l : List Nat) : memsWf (forEach s l f).mems = true := memsWf_foldl hf h l

@[simp] theorem memsWf_foldl_snd {α β : Type} {f : β × State → α → β × State}
    (hf : ∀ p x, memsWf p.2.mems = true → memsWf (f p x).2.mems = true) {p : β × State} (h : memsWf p.2.mems = true) (l : List α) :
    memsWf (l.foldl f p).2.mems = true := by
  induction l generalizing p with
  | nil => exact h
  | cons x r ih => exact ih (hf p x h)

@[simp] theorem memWf_foldl {α : Type} {f : List Host.Cell → α → List Host.Cell} (hf : ∀ m x, memWf m = true → memWf (f m x) = true)
    {m : List Host.Cell} (h : memWf m = true) (l : List α) : memWf (l.foldl f m) = true := by
  induction l generalizing m with
  | nil => exact h
  | cons x r ih => exact ih (hf m x h)

/-- Where a command answers a next state, its memories are in canonical form. -/
def answerWf (o : Host.Outcome State Fault Refusal) : Bool :=
  match o with
  | .next t => memsWf t.mems
  | _ => true

@[simp] theorem answerWf_next (t : State) : answerWf (.next t) = memsWf t.mems := by rfl
@[simp] theorem answerWf_refused (r : Refusal) : answerWf (.refused r) = true := by rfl
@[simp] theorem answerWf_ite (p : Prop) [Decidable p] (a b : Host.Outcome State Fault Refusal) :
    answerWf (if p then a else b) = if p then answerWf a else answerWf b := apply_ite answerWf p a b

/-! #### Functions and commands that keep the canonical form

In the model's order: what writes a memory, or calls what does, and each command's answer. -/

/-! Operands -/

@[simp] theorem memsWf_writeWords (s : State) (cl line : Nat) (data : List Byte) (ws : List Nat) (hs : memsWf s.mems = true) :
    memsWf (s.writeWords cl line data ws).mems = true := by
  have hmem := memWf_foldl (fun m w hm => memWf_memWrite (padTo (slice data (8 * w) 8) 8) (m := m) (storeAddr cl line + 8 * w) hm)
    (memWf_mem hs) ws
  simp [State.writeWords, hmem, hs]

@[simp] theorem memsWf_writeLine (s : State) (cl line : Nat) (data : List Byte) (hs : memsWf s.mems = true) :
    memsWf (State.writeLine s cl line data).mems = true := by
  simp [State.writeLine, hs]

/-! Cluster pipelines -/

@[simp] theorem memsWf_writeOp (s : State) (cl : Nat) (o : Op) (ok : Bool) (hs : memsWf s.mems = true) :
    memsWf (writeOp s cl o ok).mems = true := by
  unfold writeOp
  dsimp only
  repeat' split
  all_goals simp [hs]

@[simp] theorem memsWf_runCycle (s : State) (span : Nat) (hs : memsWf s.mems = true) : memsWf (runCycle s span).mems = true := by
  simp +contextual [runCycle, hs]

@[simp] theorem memsWf_runTo (s : State) (span c n : Nat) (hs : memsWf s.mems = true) : memsWf (runTo s span c n).mems = true := by
  induction n generalizing s with
  | zero => exact hs
  | succ n ih =>
    rw [runTo]
    split
    · simp [hs]
    · split
      · exact ih _ (memsWf_runCycle _ _ hs)
      · exact hs

@[simp] theorem memsWf_advanceSpan (s : State) (span c : Nat) (hs : memsWf s.mems = true) : memsWf (advanceSpan s span c).mems = true := by
  simp [advanceSpan, hs]

@[simp] theorem memsWf_drainSpan (s : State) (span : Nat) (hs : memsWf s.mems = true) : memsWf (drainSpan s span).mems = true := by
  simp [drainSpan, hs]

theorem memsWf_issueAt {go : State → Nat → State} (hgo : ∀ s c, memsWf s.mems = true → memsWf (go s c).mems = true) (s : State) (cl : Nat)
    (u : Unit4) (delta words : Nat) (hs : memsWf s.mems = true) : memsWf (issueAt s cl u delta words go).mems = true := by
  unfold issueAt
  split
  · exact hs
  · dsimp only
    split
    · simp [hs]
    · exact hgo _ _ (by simp [hs])

theorem answerWf_issueWith {go : Nat → Unit4 → Wd → State → Nat → State}
    (hgo : ∀ cl u w s c, memsWf s.mems = true → memsWf (go cl u w s c).mems = true) (i : Instr) (s : State) (words : Nat)
    (hs : memsWf s.mems = true) : answerWf (issueWith i s words go) = true := by
  unfold issueWith
  split
  · rfl
  · split
    · rfl
    · exact memsWf_issueAt (hgo _ _ _) _ _ _ _ _ hs

@[simp] theorem answerWf_issueWord (i : Instr) (s : State) (hs : memsWf s.mems = true) : answerWf (issueWord i s) = true :=
  answerWf_issueWith (fun _ _ _ _ _ h => by simp [h]) i s 1 hs

/-! HBM stacks -/

theorem answerWf_memIssue {go : State → Nat → List Nat → State} (hgo : ∀ s j pcs, memsWf s.mems = true → memsWf (go s j pcs).mems = true)
    (i : Instr) (st delta : Nat) (c : MemCmd) (pclo pcn bank row : Nat) (all : Bool) (s : State) (hs : memsWf s.mems = true) :
    answerWf (memIssue i st delta c pclo pcn bank row all go s) = true := by
  unfold memIssue
  dsimp only
  split
  · rfl
  · split
    · exact hs
    · split <;> simp [hs, hgo]

@[simp] theorem answerWf_execAct (st delta pclo pcn bank row : Nat) (s : State) (hs : memsWf s.mems = true) :
    answerWf (execAct st delta pclo pcn bank row s) = true :=
  answerWf_memIssue (fun _ _ _ h => by simp [h]) _ _ _ _ _ _ _ _ _ s hs

@[simp] theorem answerWf_execPre (st delta pclo pcn bank : Nat) (all : Bool) (s : State) (hs : memsWf s.mems = true) :
    answerWf (execPre st delta pclo pcn bank all s) = true :=
  answerWf_memIssue (fun _ _ _ h => by simp [h]) _ _ _ _ _ _ _ _ _ s hs

@[simp] theorem answerWf_execRefa (st delta pclo pcn : Nat) (s : State) (hs : memsWf s.mems = true) :
    answerWf (execRefa st delta pclo pcn s) = true :=
  answerWf_memIssue (fun _ _ _ h => by simp [h]) _ _ _ _ _ _ _ _ _ s hs

@[simp] theorem answerWf_execRefb (st delta pclo pcn bank : Nat) (s : State) (hs : memsWf s.mems = true) :
    answerWf (execRefb st delta pclo pcn bank s) = true :=
  answerWf_memIssue (fun _ _ _ h => by simp [h]) _ _ _ _ _ _ _ _ _ s hs

@[simp] theorem memsWf_wrLines (s : State) (st pclo bank col q entry j : Nat) (pcs : List Nat) (hs : memsWf s.mems = true) :
    memsWf (wrLines s st pclo bank col q entry j pcs).mems = true := by
  refine memsWf_foldl_snd (fun a pc ha => ?_) (p := ([], s)) hs pcs
  dsimp only
  repeat' split
  all_goals simp [ha, memWf_memWrite]

@[simp] theorem answerWf_execRd (st delta pclo pcn bank col dspan q entry ph : Nat) (s : State) (hs : memsWf s.mems = true) :
    answerWf (execRd st delta pclo pcn bank col dspan q entry ph s) = true :=
  answerWf_memIssue (fun _ _ _ h => by simp [h]) _ _ _ _ _ _ _ _ _ s hs

@[simp] theorem answerWf_execWr (st delta pclo pcn bank col q entry : Nat) (s : State) (hs : memsWf s.mems = true) :
    answerWf (execWr st delta pclo pcn bank col q entry s) = true :=
  answerWf_memIssue (fun _ _ _ h => by simp [h]) _ _ _ _ _ _ _ _ _ s hs

@[simp] theorem answerWf_execRefreshDebtIncrease (st : Nat) (s : State) (hs : memsWf s.mems = true) :
    answerWf (execRefreshDebtIncrease st s) = true := by
  simp [execRefreshDebtIncrease, hs]

@[simp] theorem answerWf_execForcedRefresh (st pc bank : Nat) (s : State) (hs : memsWf s.mems = true) :
    answerWf (execForcedRefresh st pc bank s) = true := by
  simp [execForcedRefresh, hs]

@[simp] theorem answerWf_execMsqAutoRefresh (st : Nat) (s : State) (hs : memsWf s.mems = true) : answerWf (execMsqAutoRefresh st s) = true := by
  simp [execMsqAutoRefresh, hs]

@[simp] theorem answerWf_execMsqRecoveryPrecharge (st : Nat) (s : State) (hs : memsWf s.mems = true) :
    answerWf (execMsqRecoveryPrecharge st s) = true := by
  simp [execMsqRecoveryPrecharge, hs]

@[simp] theorem answerWf_execHbmTempRead (st temp die : Nat) (s : State) (hs : memsWf s.mems = true) :
    answerWf (execHbmTempRead st temp die s) = true := by
  simp [execHbmTempRead, hs]

@[simp] theorem memsWf_scrubHbm (s : State) (st key : Nat) (hs : memsWf s.mems = true) : memsWf (s.scrubHbm st key).mems = true := by
  have hread : memsWf (readHbm s st (key % stackLines) []).2.2.mems = true := by simp [hs]
  unfold State.scrubHbm
  dsimp only
  split
  · exact hread
  · simp [memWf_foldl (fun m w hm => memWf_memWrite _ (m := m) (hbmAddr key + 8 * w) hm) (memWf_mem hread), memWf_xfer hread]

@[simp] theorem memsWf_scrubDone (s : State) (st : Nat) (hs : memsWf s.mems = true) : memsWf (State.scrubDone s st).mems = true := by
  unfold State.scrubDone
  split
  · exact hs
  · rw [mems_updMs]
    exact memsWf_forEach (fun _ l h => memsWf_scrubHbm _ st l h) hs _

/-! Faults and step aborts -/

@[simp] theorem answerWf_execFaultRecord (s : State) (hs : memsWf s.mems = true) : answerWf (execFaultRecord s) = true := by
  unfold execFaultRecord
  split <;> simp [hs]

@[simp] theorem answerWf_execFoldMillisecondEnd (s : State) (hs : memsWf s.mems = true) : answerWf (execFoldMillisecondEnd s) = true := by
  simp [execFoldMillisecondEnd, hs]

@[simp] theorem answerWf_execStepAbort (s : State) (hs : memsWf s.mems = true) : answerWf (execStepAbort s) = true := by
  unfold execStepAbort
  split <;> simp [hs]

/-! Starts and stops -/

@[simp] theorem answerWf_execStepDigestHandover (s : State) (hs : memsWf s.mems = true) : answerWf (execStepDigestHandover s) = true := by
  simp only [execStepDigestHandover]
  repeat' split
  all_goals simp [hs]

@[simp] theorem answerWf_execStepdigReceive (p step : Nat) (digest : BitVec 64) (s : State) (hs : memsWf s.mems = true) :
    answerWf (execStepdigReceive p step digest s) = true := by
  simp only [execStepdigReceive]
  repeat' split
  all_goals simp [hs]

@[simp] theorem answerWf_execConfirmReceive (step : Nat) (agree : Bool) (s : State) (hs : memsWf s.mems = true) :
    answerWf (execConfirmReceive step agree s) = true := by
  simp [execConfirmReceive, hs]

@[simp] theorem answerWf_execPairTimeout (step : Nat) (s : State) (hs : memsWf s.mems = true) : answerWf (execPairTimeout step s) = true := by
  unfold execPairTimeout
  split <;> simp [hs]

/-! Service requests -/

@[simp] theorem memsWf_svcMemory (s : State) (c : Cell) (a n : Nat) (hs : memsWf s.mems = true) : memsWf (s.svcMemory c a n).2.mems = true := by
  unfold State.svcMemory
  dsimp only
  split
  · split
    · simp [hs]
    · split
      · exact hs
      · split <;> simp [hs]
  · split
    · simp [hs]
    · split
      · exact hs
      · split <;> simp [hs, memWf_memWrite]

@[simp] theorem memsWf_svcAccess (s : State) (c : Cell) (hs : memsWf s.mems = true) : memsWf (State.svcAccess s c).2.mems = true := by
  unfold State.svcAccess
  dsimp only
  repeat' split
  all_goals simp [hs]

@[simp] theorem memsWf_carry (s : State) (p : Nat) (c : Cell) (hs : memsWf s.mems = true) : memsWf (s.carry p c).mems = true := by
  have hacc := memsWf_svcAccess s c hs
  unfold State.carry
  split <;> simp_all

@[simp] theorem memsWf_serve (s : State) (p : Nat) (c : Cell) (hs : memsWf s.mems = true) : memsWf (State.serve s p c).mems = true := by
  simp [State.serve, hs]

@[simp] theorem memsWf_sendIn (s : State) (r : SvcReq) (slot : Nat) (hs : memsWf s.mems = true) :
    memsWf (State.sendIn s r slot).mems = true := by
  simp only [State.sendIn]
  repeat' split
  all_goals simp [hs]

@[simp] theorem memsWf_sendRequest (s : State) (r : SvcReq) (hs : memsWf s.mems = true) : memsWf (State.sendRequest s r).mems = true := by
  unfold State.sendRequest
  split <;> simp [hs]

@[simp] theorem memsWf_sendWaiting (s : State) (hs : memsWf s.mems = true) : memsWf (State.sendWaiting s).mems = true := by
  simp +contextual [State.sendWaiting, hs]

/-! Links -/

@[simp] theorem memsWf_linkLost (s : State) (p : Nat) (hs : memsWf s.mems = true) : memsWf (State.linkLost s p).mems = true := by
  simp [State.linkLost, hs]

@[simp] theorem memsWf_linkDown (s : State) (p : Nat) (fault : Bool) (hs : memsWf s.mems = true) :
    memsWf (State.linkDown s p fault).mems = true := by
  simp [State.linkDown, hs]

@[simp] theorem memsWf_beginRetrain (s : State) (p width : Nat) (starts : Bool) (hs : memsWf s.mems = true) :
    memsWf (State.beginRetrain s p width starts).mems = true := by
  simp [State.beginRetrain, hs]

@[simp] theorem memsWf_startRetrain (s : State) (p width seq : Nat) (hs : memsWf s.mems = true) :
    memsWf (State.startRetrain s p width seq).mems = true := by
  simp [State.startRetrain, hs]

@[simp] theorem memsWf_writeOlfCtl (s : State) (p : Nat) (v : Reg) (hs : memsWf s.mems = true) :
    memsWf (State.writeOlfCtl s p v).2.mems = true := by
  simp [State.writeOlfCtl, hs]

@[simp] theorem memsWf_cmdRetrain (s : State) (p : Nat) (hs : memsWf s.mems = true) : memsWf (State.cmdRetrain s p).mems = true := by
  simp [State.cmdRetrain, hs]

@[simp] theorem memsWf_cmdDown (s : State) (p : Nat) (hs : memsWf s.mems = true) : memsWf (State.cmdDown s p).mems = true := by
  simp [State.cmdDown, hs]

@[simp] theorem memsWf_writeOlfCmd (s : State) (p : Nat) (v : Reg) (hs : memsWf s.mems = true) :
    memsWf (State.writeOlfCmd s p v).2.mems = true := by
  unfold State.writeOlfCmd
  split <;> simp [hs]

@[simp] theorem memsWf_writeOlf (s : State) (r p o : Nat) (v : Reg) (hs : memsWf s.mems = true) :
    memsWf (State.writeOlf s r p o v).2.mems = true := by
  unfold State.writeOlf
  split <;> simp [hs]

/-! Register file -/

@[simp] theorem memsWf_writeReg (s : State) (r : Nat) (v : Reg) (hs : memsWf s.mems = true) : memsWf (State.writeReg s r v).2.mems = true := by
  unfold State.writeReg
  repeat' split
  all_goals simp [hs]

@[simp] theorem memsWf_restoreReg (s : State) (r : Nat) (v : Reg) (hs : memsWf s.mems = true) : memsWf (State.restoreReg s r v).mems = true := by
  simp [State.restoreReg, hs]

/-! Images loaded -/

@[simp] theorem memsWf_loadLines (s : State) (x : Section) (base : Nat) (hs : memsWf s.mems = true) :
    memsWf (s.loadLines x base).mems = true := by
  simp [State.loadLines, memWf_memWrite, hs]

@[simp] theorem memsWf_loadContents (s : State) (ty base : Nat) (hs : memsWf s.mems = true) : memsWf (s.loadContents ty base).mems = true :=
  memsWf_foldl (fun _ x h => memsWf_loadLines _ x base h) (memsWf_foldl (fun _ x h => memsWf_loadLines _ x base h) hs _) _

@[simp] theorem memsWf_armUnits (s : State) (hs : memsWf s.mems = true) : memsWf (State.armUnits s).mems = true := by simp [State.armUnits, hs]

/-! Streams -/

@[simp] theorem answerWf_execSqWait (cl delta q : Nat) (s : State) (hs : memsWf s.mems = true) : answerWf (execSqWait cl delta q s) = true :=
  answerWf_issueWith (fun _ _ _ _ _ h => by simp [h]) _ s _ hs

@[simp] theorem answerWf_execSqBr (cl delta sel n : Nat) (l0 l1 : ArmLens) (s : State) (hs : memsWf s.mems = true) :
    answerWf (execSqBr cl delta sel n l0 l1 s) = true :=
  answerWf_issueWith (fun _ _ _ _ _ h => by simp [h]) _ s _ hs

@[simp] theorem answerWf_execSqEnd (cl delta : Nat) (s : State) (hs : memsWf s.mems = true) : answerWf (execSqEnd cl delta s) = true :=
  answerWf_issueWith (fun _ _ _ _ _ h => by simp [h]) _ s _ hs

@[simp] theorem answerWf_execPtPage (lport delta page : Nat) (s : State) (hs : memsWf s.mems = true) :
    answerWf (execPtPage lport delta page s) = true := by
  simp [execPtPage, hs]

@[simp] theorem answerWf_execPtPad (lport pad : Nat) (s : State) (hs : memsWf s.mems = true) : answerWf (execPtPad lport pad s) = true := by
  simp [execPtPad, hs]

@[simp] theorem answerWf_execPhaseMark (st : StreamId) (advance bp : Nat) (s : State) (hs : memsWf s.mems = true) :
    answerWf (execPhaseMark st advance bp s) = true := by
  simp [execPhaseMark, hs]

@[simp] theorem answerWf_execIdleWord (st : StreamId) (delta : Nat) (s : State) (hs : memsWf s.mems = true) :
    answerWf (execIdleWord st delta s) = true := by
  unfold execIdleWord
  split
  · rfl
  · split
    · exact hs
    · split
      · exact memsWf_issueAt (fun _ _ h => h) _ _ _ _ _ hs
      · simp [hs]

/-! Host commands -/

@[simp] theorem memsWf_toBuf (s : State) (hbuf ofs : Nat) (bytes : List Byte) (hs : memsWf s.mems = true) :
    memsWf (s.toBuf hbuf ofs bytes).mems = true := by
  simp [State.toBuf, memWf_memWrite, hs]

@[simp] theorem memsWf_regWrites (s : State) (r : RunCmd) (base : Nat) (vals : List Reg) (i : Nat) (hs : memsWf s.mems = true) :
    memsWf (s.regWrites r base vals i).mems = true := by
  induction vals generalizing s i with
  | nil => simp [State.regWrites, hs]
  | cons v rest ih =>
    have hwrite := memsWf_writeReg s (base + 8 * i) v hs
    rw [State.regWrites]
    split
    · simp [hs]
    · split <;> simp_all

@[simp] theorem memsWf_doArm (s : State) (r : RunCmd) (hs : memsWf s.mems = true) : memsWf (State.doArm s r).mems = true := by
  simp [State.doArm, hs]

@[simp] theorem memsWf_doRegWrite (s : State) (r : RunCmd) (base count : Nat) (vals : List Reg) (hs : memsWf s.mems = true) :
    memsWf (State.doRegWrite s r base count vals).mems = true := by
  simp [State.doRegWrite, hs]

@[simp] theorem memsWf_startCmd (s : State) (r : RunCmd) (hs : memsWf s.mems = true) : memsWf (State.startCmd s r).mems = true := by
  unfold State.startCmd
  repeat' split
  all_goals simp [hs]

@[simp] theorem memsWf_pumpN (s : State) (n : Nat) (hs : memsWf s.mems = true) : memsWf (s.pumpN n).mems = true := by
  induction n generalizing s with
  | zero => exact hs
  | succ n ih =>
    rw [State.pumpN]
    split
    · exact hs
    · exact ih _ (by simp [hs])

@[simp] theorem memsWf_pump (s : State) (hs : memsWf s.mems = true) : memsWf (State.pump s).mems = true := by simp [State.pump, hs]

/-! Staging -/

@[simp] theorem answerWf_execStagingIssue (desc : Nat) (s : State) (hs : memsWf s.mems = true) : answerWf (execStagingIssue desc s) = true := by
  unfold execStagingIssue
  split <;> simp [hs]

@[simp] theorem answerWf_execStagingLineArrive (desc step line : Nat) (data : List Byte) (s : State) (hs : memsWf s.mems = true) :
    answerWf (execStagingLineArrive desc step line data s) = true := by
  unfold execStagingLineArrive
  split <;> simp [hs]

@[simp] theorem answerWf_execStagingDeadline (desc : Nat) (s : State) (hs : memsWf s.mems = true) :
    answerWf (execStagingDeadline desc s) = true := by
  simp only [execStagingDeadline]
  repeat' split
  all_goals simp [hs]

@[simp] theorem answerWf_execStagingDelivery (desc : Nat) (s : State) (hs : memsWf s.mems = true) :
    answerWf (execStagingDelivery desc s) = true := by
  simp only [execStagingDelivery]
  repeat' split
  all_goals simp [hs]

theorem mems_captureLine (a : Desc) (d : Nat) (x : List (BitVec 16) × List Nat × State) (i : Nat) :
    (State.captureLine a d x i).2.2.mems = x.2.2.mems := by
  unfold State.captureLine
  dsimp only
  split <;> split <;> split <;> simp

theorem mems_foldl_captureLine (a : Desc) (d : Nat) (l : List Nat) (x : List (BitVec 16) × List Nat × State) :
    (l.foldl (State.captureLine a d) x).2.2.mems = x.2.2.mems := by
  induction l generalizing x with
  | nil => rfl
  | cons i r ih => rw [List.foldl_cons, ih, mems_captureLine]

@[simp] theorem answerWf_execStagingCapture (desc : Nat) (s : State) (hs : memsWf s.mems = true) :
    answerWf (execStagingCapture desc s) = true := by
  unfold execStagingCapture
  split
  · exact hs
  · split
    · exact hs
    · simp [mems_foldl_captureLine, hs]

@[simp] theorem answerWf_execStagingExternalWrite (desc step : Nat) (s : State) (hs : memsWf s.mems = true) :
    answerWf (execStagingExternalWrite desc step s) = true := by
  unfold execStagingExternalWrite
  split
  · simp [hs]
  · split <;> simp [hs]

@[simp] theorem answerWf_execStagingWriteAck (desc step line : Nat) (s : State) (hs : memsWf s.mems = true) :
    answerWf (execStagingWriteAck desc step line s) = true := by
  unfold execStagingWriteAck
  split <;> simp [hs]

@[simp] theorem answerWf_execCxlAccessError (desc step line : Nat) (kind : CxlErr) (s : State) (hs : memsWf s.mems = true) :
    answerWf (execCxlAccessError desc step line kind s) = true := by
  unfold execCxlAccessError
  split
  · simp [hs]
  · split <;> simp [hs]

@[simp] theorem answerWf_execCxlLinkTrain (width speed devices : Nat) (hdm : List HdmDecoder) (s : State) (hs : memsWf s.mems = true) :
    answerWf (execCxlLinkTrain width speed devices hdm s) = true := by
  simp [execCxlLinkTrain, hs]

@[simp] theorem answerWf_execCxlHotAdd (devices : Nat) (hdm : List HdmDecoder) (s : State) (hs : memsWf s.mems = true) :
    answerWf (execCxlHotAdd devices hdm s) = true := by
  simp [execCxlHotAdd, hs]

@[simp] theorem answerWf_execCxlLinkDown (s : State) (hs : memsWf s.mems = true) : answerWf (execCxlLinkDown s) = true := by
  unfold execCxlLinkDown
  refine memsWf_foldl (s := s.updCxl _) ?_ hs _
  intro s r h
  repeat' split
  all_goals simp [h]

@[simp] theorem memsWf_localWrite (s : State) (a : Nat) (data : List Byte) (hs : memsWf s.mems = true) :
    memsWf (s.localWrite a data).mems = true := by
  simp [State.localWrite, memWf_memWrite, hs]

@[simp] theorem memsWf_localWrites (s : State) (a : Nat) (data : List Byte) (n : Nat) (hs : memsWf s.mems = true) :
    memsWf (State.localWrites s a data n).mems = true := by
  simp +contextual [State.localWrites, hs]

/-! Host transfers and doorbells -/

@[simp] theorem memsWf_command (s : State) (i : Instr) (h : Hdr) (hs : memsWf s.mems = true) : memsWf (State.command s i h).mems = true := by
  unfold State.command
  split <;> simp [hs]

@[simp] theorem answerWf_execIdentify (h : Hdr) (s : State) (hs : memsWf s.mems = true) : answerWf (execIdentify h s) = true := by
  simp [execIdentify, hs]

@[simp] theorem answerWf_execBufReg (h : Hdr) (hbuf : Nat) (mask : BitVec 2) (addr len : Nat) (s : State) (hs : memsWf s.mems = true) :
    answerWf (execBufReg h hbuf mask addr len s) = true := by
  simp [execBufReg, hs]

@[simp] theorem answerWf_execBufFree (h : Hdr) (hbuf : Nat) (s : State) (hs : memsWf s.mems = true) :
    answerWf (execBufFree h hbuf s) = true := by
  simp [execBufFree, hs]

@[simp] theorem answerWf_execLoad (h : Hdr) (hbuf ofs len : Nat) (res : HostRes) (s : State) (hs : memsWf s.mems = true) :
    answerWf (execLoad h hbuf ofs len res s) = true := by
  simp [execLoad, hs]

@[simp] theorem answerWf_execUnload (h : Hdr) (s : State) (hs : memsWf s.mems = true) : answerWf (execUnload h s) = true := by
  simp [execUnload, hs]

@[simp] theorem answerWf_execPlace (h : Hdr) (s : State) (hs : memsWf s.mems = true) : answerWf (execPlace h s) = true := by simp [execPlace, hs]

@[simp] theorem answerWf_execSwitchGet (h : Hdr) (req page : Nat) (s : State) (hs : memsWf s.mems = true) :
    answerWf (execSwitchGet h req page s) = true := by
  simp [execSwitchGet, hs]

@[simp] theorem answerWf_execSwitchDone (h : Hdr) (req : Nat) (s : State) (hs : memsWf s.mems = true) :
    answerWf (execSwitchDone h req s) = true := by
  simp [execSwitchDone, hs]

@[simp] theorem answerWf_execArm (h : Hdr) (s : State) (hs : memsWf s.mems = true) : answerWf (execArm h s) = true := by simp [execArm, hs]

@[simp] theorem answerWf_execStart (h : Hdr) (first : Reg) (s : State) (hs : memsWf s.mems = true) : answerWf (execStart h first s) = true := by
  simp [execStart, hs]

@[simp] theorem answerWf_execStop (h : Hdr) (last : Reg) (s : State) (hs : memsWf s.mems = true) : answerWf (execStop h last s) = true := by
  simp [execStop, hs]

@[simp] theorem answerWf_execAbort (h : Hdr) (s : State) (hs : memsWf s.mems = true) : answerWf (execAbort h s) = true := by simp [execAbort, hs]

@[simp] theorem answerWf_execRelease (h : Hdr) (s : State) (hs : memsWf s.mems = true) : answerWf (execRelease h s) = true := by
  simp [execRelease, hs]

@[simp] theorem answerWf_execDma (h : Hdr) (hbuf : Nat) (toHost : Bool) (bufOfs loc len : Nat) (s : State) (hs : memsWf s.mems = true) :
    answerWf (execDma h hbuf toHost bufOfs loc len s) = true := by
  simp [execDma, hs]

@[simp] theorem answerWf_execRegRead (h : Hdr) (r count : Nat) (s : State) (hs : memsWf s.mems = true) :
    answerWf (execRegRead h r count s) = true := by
  simp [execRegRead, hs]

@[simp] theorem answerWf_execRegWrite (h : Hdr) (r count : Nat) (vals : List Reg) (s : State) (hs : memsWf s.mems = true) :
    answerWf (execRegWrite h r count vals s) = true := by
  simp [execRegWrite, hs]

@[simp] theorem answerWf_execDump (h : Hdr) (hbuf : Nat) (force : Bool) (ofs space : Nat) (s : State) (hs : memsWf s.mems = true) :
    answerWf (execDump h hbuf force ofs space s) = true := by
  simp [execDump, hs]

@[simp] theorem answerWf_execReset (h : Hdr) (s : State) (hs : memsWf s.mems = true) : answerWf (execReset h s) = true := by simp [execReset, hs]

@[simp] theorem answerWf_execAttest (h : Hdr) (hbuf ofs : Nat) (nonce : List Byte) (s : State) (hs : memsWf s.mems = true) :
    answerWf (execAttest h hbuf ofs nonce s) = true := by
  simp [execAttest, hs]

@[simp] theorem answerWf_execFwUpdate (h : Hdr) (hbuf ofs len : Nat) (s : State) (hs : memsWf s.mems = true) :
    answerWf (execFwUpdate h hbuf ofs len s) = true := by
  simp [execFwUpdate, hs]

@[simp] theorem memsWf_dumpItem (s : State) (hbuf ofs : Nat) (deaf : List (Nat × Nat)) (hs : memsWf s.mems = true) :
    memsWf (State.dumpItem s hbuf ofs deaf).mems = true := by
  simp [State.dumpItem, hs]

@[simp] theorem memsWf_dumpDone (s : State) (r : RunCmd) (hbuf : Nat) (force : Bool) (ofs : Nat) (hs : memsWf s.mems = true) :
    memsWf (State.dumpDone s r hbuf force ofs).mems = true := by
  simp [State.dumpDone, hs]

@[simp] theorem memsWf_dumpStep (s : State) (r : RunCmd) (hbuf : Nat) (force : Bool) (ofs : Nat) (deaf : List (Nat × Nat))
    (hs : memsWf s.mems = true) : memsWf (State.dumpStep s r hbuf force ofs deaf).mems = true := by
  simp [State.dumpStep, hs]

@[simp] theorem memsWf_transferDone (s : State) (r : RunCmd) (deaf : List (Nat × Nat)) (data : List Byte) (hs : memsWf s.mems = true) :
    memsWf (State.transferDone s r deaf data).mems = true := by
  unfold State.transferDone
  split <;> simp [hs]

@[simp] theorem mems_transferFail (s : State) (r : RunCmd) : (s.transferFail r).mems = s.mems := by
  unfold State.transferFail
  split <;> (dsimp only; split <;> simp)

@[simp] theorem answerWf_execHostDmaComplete (ref : DmaRef) (res : HostRes) (s : State) (hs : memsWf s.mems = true) :
    answerWf (execHostDmaComplete ref res s) = true := by
  unfold execHostDmaComplete
  split
  · split
    · exact hs
    · split
      · exact hs
      · split <;> simp [hs]
  · split
    · exact hs
    · split
      · exact hs
      · split <;> simp [hs]

@[simp] theorem answerWf_hostWrite {f : State → State} (s : State) (hf : memsWf (f s).mems = true) (hs : memsWf s.mems = true) :
    answerWf (hostWrite s f) = true := by
  simp [hostWrite, hf, hs]

@[simp] theorem answerWf_execCommandRingDoorbell (ring1 : Bool) (v : Reg) (s : State) (hs : memsWf s.mems = true) :
    answerWf (execCommandRingDoorbell ring1 v s) = true := by
  simp [execCommandRingDoorbell, hs]

@[simp] theorem answerWf_execCompletionDoorbell (v : Reg) (s : State) (hs : memsWf s.mems = true) :
    answerWf (execCompletionDoorbell v s) = true := by
  simp [execCompletionDoorbell, hs]

@[simp] theorem answerWf_execEventDoorbell (v : Reg) (s : State) (hs : memsWf s.mems = true) : answerWf (execEventDoorbell v s) = true := by
  simp [execEventDoorbell, hs]

@[simp] theorem answerWf_execMailboxDoorbell (v : Reg) (s : State) (hs : memsWf s.mems = true) : answerWf (execMailboxDoorbell v s) = true := by
  simp [execMailboxDoorbell, hs]

@[simp] theorem answerWf_execCompletionWrite (s : State) (hs : memsWf s.mems = true) : answerWf (execCompletionWrite s) = true := by
  simp [execCompletionWrite, hs]

@[simp] theorem answerWf_execEventsLost (s : State) (hs : memsWf s.mems = true) : answerWf (execEventsLost s) = true := by
  simp [execEventsLost, hs]

@[simp] theorem answerWf_execInterruptCoalesceEnd (vector : Nat) (s : State) (hs : memsWf s.mems = true) :
    answerWf (execInterruptCoalesceEnd vector s) = true := by
  unfold execInterruptCoalesceEnd
  split <;> simp [hs]

@[simp] theorem answerWf_execPcieReset (_kind : PcieResetKind) (s : State) (hs : memsWf s.mems = true) :
    answerWf (execPcieReset _kind s) = true := by
  simp [execPcieReset, hs]

@[simp] theorem memsWf_diagAccess (s : State) (write : Bool) (r : Nat) (v : Reg) (hs : memsWf s.mems = true) :
    memsWf (s.diagAccess write r v).mems = true := by
  have hwrite := memsWf_writeReg s r v hs
  have hread := mems_readReg s r s.chipOr0
  unfold State.diagAccess
  dsimp only
  split
  · split <;> simp_all
  · split <;> simp_all

@[simp] theorem answerWf_execDiagWindowAccess (write : Bool) (ofs size : Nat) (v : Reg) (s : State) (hs : memsWf s.mems = true) :
    answerWf (execDiagWindowAccess write ofs size v s) = true := by
  simp [execDiagWindowAccess, hs]

@[simp] theorem answerWf_execTransferAreaAccess (write : Bool) (ofs len : Nat) (data : List Byte) (s : State) (hs : memsWf s.mems = true) :
    answerWf (execTransferAreaAccess write ofs len data s) = true := by
  simp [execTransferAreaAccess, memWf_memWrite, hs]

@[simp] theorem answerWf_execRegisterWrite (r : Nat) (v : Reg) (s : State) (hs : memsWf s.mems = true) :
    answerWf (execRegisterWrite r v s) = true := by
  simp [execRegisterWrite, hs]

@[simp] theorem answerWf_execMsqScrubDone (st : Nat) (s : State) (hs : memsWf s.mems = true) : answerWf (execMsqScrubDone st s) = true := by
  simp [execMsqScrubDone, hs]

/-! Link events -/

@[simp] theorem answerWf_portRow {f : State → State} (p : Nat) (s : State) (hf : memsWf (f s).mems = true) (hs : memsWf s.mems = true) :
    answerWf (portRow p s f) = true := by
  simp [portRow, hf, hs]

@[simp] theorem memsWf_whenPort {f : State → State} (s : State) (ok : Bool) (hf : memsWf (f s).mems = true) (hs : memsWf s.mems = true) :
    memsWf (whenPort s ok f).mems = true := by
  unfold whenPort
  split
  · exact hf
  · exact hs

@[simp] theorem answerWf_execDetectRetest (p : Nat) (peer : Bool) (lanes : List (BitVec 3)) (s : State) (hs : memsWf s.mems = true) :
    answerWf (execDetectRetest p peer lanes s) = true := by
  refine answerWf_portRow _ _ ?_ hs
  refine memsWf_whenPort _ _ ?_ hs
  dsimp only
  rw [mems_updPort]
  exact memsWf_foldl (fun _ _ h => by simp [h]) (by simp [hs]) _

@[simp] theorem answerWf_execEqualiseDone (p : Nat) (s : State) (hs : memsWf s.mems = true) : answerWf (execEqualiseDone p s) = true := by
  simp [execEqualiseDone, hs]

@[simp] theorem answerWf_execAlignDone (p : Nat) (lanes : List LaneObs) (skewPs : Nat) (s : State) (hs : memsWf s.mems = true) :
    answerWf (execAlignDone p lanes skewPs s) = true := by
  refine answerWf_portRow _ _ ?_ hs
  refine memsWf_whenPort _ _ ?_ hs
  exact memsWf_whenPort _ _ (by simp [hs]) (by simp [hs])

@[simp] theorem memsWf_exchangeEnd (s : State) (p : Nat) (hs : memsWf s.mems = true) : memsWf (State.exchangeEnd s p).mems = true := by
  simp [State.exchangeEnd, hs]

@[simp] theorem answerWf_execIdentReceive (p : Nat) (bytes : List Byte) (s : State) (hs : memsWf s.mems = true) :
    answerWf (execIdentReceive p bytes s) = true := by
  refine answerWf_portRow _ _ ?_ hs
  refine memsWf_whenPort _ _ ?_ hs
  dsimp only
  repeat' split
  all_goals simp [hs]

@[simp] theorem answerWf_execMeasureDone (p : Nat) (s : State) (hs : memsWf s.mems = true) : answerWf (execMeasureDone p s) = true := by
  simp [execMeasureDone, hs]

@[simp] theorem answerWf_execTrainingTimeout (p : Nat) (s : State) (hs : memsWf s.mems = true) : answerWf (execTrainingTimeout p s) = true := by
  simp [execTrainingTimeout, hs]

@[simp] theorem answerWf_execAuditSend (p : Nat) (s : State) (hs : memsWf s.mems = true) : answerWf (execAuditSend p s) = true := by
  simp [execAuditSend, hs]

@[simp] theorem answerWf_execAuditReceive (p : Nat) (bytes : List Byte) (s : State) (hs : memsWf s.mems = true) :
    answerWf (execAuditReceive p bytes s) = true := by
  simp [execAuditReceive, hs]

@[simp] theorem answerWf_execRunchkSend (s : State) (hs : memsWf s.mems = true) : answerWf (execRunchkSend s) = true := by
  simp [execRunchkSend, hs]

@[simp] theorem answerWf_execRunchkReceive (p : Nat) (bytes : List Byte) (s : State) (hs : memsWf s.mems = true) :
    answerWf (execRunchkReceive p bytes s) = true := by
  simp [execRunchkReceive, hs]

@[simp] theorem answerWf_execRunchkMissing (p : Nat) (s : State) (hs : memsWf s.mems = true) : answerWf (execRunchkMissing p s) = true := by
  simp [execRunchkMissing, hs]

@[simp] theorem answerWf_execLockLoss (p : Nat) (s : State) (hs : memsWf s.mems = true) : answerWf (execLockLoss p s) = true := by
  simp [execLockLoss, hs]

@[simp] theorem answerWf_execLockLossTimeout (p : Nat) (s : State) (hs : memsWf s.mems = true) : answerWf (execLockLossTimeout p s) = true := by
  refine answerWf_portRow _ _ ?_ hs
  split <;> simp [hs]

@[simp] theorem answerWf_execLockRegain (p : Nat) (s : State) (hs : memsWf s.mems = true) : answerWf (execLockRegain p s) = true := by
  simp [execLockRegain, hs]

@[simp] theorem answerWf_execLaneLockLoss (p lane : Nat) (s : State) (hs : memsWf s.mems = true) :
    answerWf (execLaneLockLoss p lane s) = true := by
  unfold execLaneLockLoss
  split
  · exact hs
  · refine answerWf_portRow _ _ (memsWf_whenPort _ _ ?_ hs) hs
    dsimp only
    repeat' split
    all_goals simp [hs]

@[simp] theorem answerWf_execRetrainReceive (p : Nat) (width : BitVec 2) (s : State) (hs : memsWf s.mems = true) :
    answerWf (execRetrainReceive p width s) = true := by
  simp [execRetrainReceive, hs]

@[simp] theorem answerWf_execWidthReceive (p : Nat) (width : BitVec 2) (s : State) (hs : memsWf s.mems = true) :
    answerWf (execWidthReceive p width s) = true := by
  refine answerWf_portRow _ _ ?_ hs
  refine memsWf_whenPort _ _ ?_ hs
  dsimp only
  repeat' split
  all_goals simp [hs]

@[simp] theorem answerWf_execDownHoldExpiry (p : Nat) (s : State) (hs : memsWf s.mems = true) : answerWf (execDownHoldExpiry p s) = true := by
  simp [execDownHoldExpiry, hs]

/-! Service cells -/

@[simp] theorem answerWf_execServiceRequestSend (r : SvcReq) (s : State) (hs : memsWf s.mems = true) :
    answerWf (execServiceRequestSend r s) = true := by
  simp [execServiceRequestSend, hs]

@[simp] theorem answerWf_execServiceRequestReceive (p : Nat) (c : Cell) (s : State) (hs : memsWf s.mems = true) :
    answerWf (execServiceRequestReceive p c s) = true := by
  refine answerWf_portRow _ _ ?_ hs
  refine memsWf_whenPort _ _ ?_ hs
  dsimp only
  repeat' split
  all_goals simp [hs]

@[simp] theorem answerWf_execServiceResponseReceive (p : Nat) (c : Cell) (s : State) (hs : memsWf s.mems = true) :
    answerWf (execServiceResponseReceive p c s) = true := by
  refine answerWf_portRow _ _ ?_ hs
  refine memsWf_whenPort _ _ ?_ hs
  simp [hs]

@[simp] theorem answerWf_execServiceCellForward (p : Nat) (c : Cell) (s : State) (hs : memsWf s.mems = true) :
    answerWf (execServiceCellForward p c s) = true := by
  refine answerWf_portRow _ _ ?_ hs
  refine memsWf_whenPort _ _ ?_ hs
  dsimp only
  repeat' split
  all_goals simp [hs]

@[simp] theorem answerWf_execServiceMessageReceive (p : Nat) (c : Cell) (s : State) (hs : memsWf s.mems = true) :
    answerWf (execServiceMessageReceive p c s) = true := by
  simp [execServiceMessageReceive, hs]

@[simp] theorem answerWf_execServiceRequestTimeout (slot : Nat) (s : State) (hs : memsWf s.mems = true) :
    answerWf (execServiceRequestTimeout slot s) = true := by
  unfold execServiceRequestTimeout
  split <;> simp [hs]

@[simp] theorem answerWf_execAbortCellReceive (p : Nat) (c : Cell) (s : State) (hs : memsWf s.mems = true) :
    answerWf (execAbortCellReceive p c s) = true := by
  simp [execAbortCellReceive, hs]

/-! Control paths -/

@[simp] theorem memsWf_noAnswer (s : State) (a : CtlReq) (hs : memsWf s.mems = true) : memsWf (State.noAnswer s a).mems = true := by
  unfold State.noAnswer
  split <;> simp [hs]

@[simp] theorem answerWf_execControlRequestTimeout (i : Nat) (s : State) (hs : memsWf s.mems = true) :
    answerWf (execControlRequestTimeout i s) = true := by
  unfold execControlRequestTimeout
  split <;> simp [hs]

@[simp] theorem memsWf_acknowledged (s : State) (a : CtlReq) (hs : memsWf s.mems = true) : memsWf (State.acknowledged s a).mems = true := by
  unfold State.acknowledged
  repeat' split
  all_goals simp [hs]

@[simp] theorem answerWf_execControlAcknowledgement (i : Nat) (s : State) (hs : memsWf s.mems = true) :
    answerWf (execControlAcknowledgement i s) = true := by
  unfold execControlAcknowledgement
  split
  · exact hs
  · split
    · exact hs
    · dsimp only
      split <;> simp [hs]

@[simp] theorem answerWf_execSpanPoll (s : State) (hs : memsWf s.mems = true) : answerWf (execSpanPoll s) = true := by simp [execSpanPoll, hs]

@[simp] theorem answerWf_execStopCheck (s : State) (hs : memsWf s.mems = true) : answerWf (execStopCheck s) = true := by
  unfold execStopCheck
  split <;> simp [hs]

@[simp] theorem answerWf_execTollhousePoll (s : State) (hs : memsWf s.mems = true) : answerWf (execTollhousePoll s) = true := by
  simp [execTollhousePoll, hs]

@[simp] theorem answerWf_execTollhousePollTimeout (s : State) (hs : memsWf s.mems = true) : answerWf (execTollhousePollTimeout s) = true := by
  unfold execTollhousePollTimeout
  split
  · exact hs
  · rw [answerWf_next, mems_raise, mems_mk, mem_xfer_eq_mems, mems_advance]
    exact hs

@[simp] theorem answerWf_execUcieTrainFail (m : Bool) (s : State) (hs : memsWf s.mems = true) : answerWf (execUcieTrainFail m s) = true := by
  simp [execUcieTrainFail, hs]

@[simp] theorem answerWf_execUcieModuleDown (m : Bool) (s : State) (hs : memsWf s.mems = true) : answerWf (execUcieModuleDown m s) = true := by
  simp [execUcieModuleDown, hs]

@[simp] theorem answerWf_execUcieModuleReturn (m : Bool) (s : State) (hs : memsWf s.mems = true) :
    answerWf (execUcieModuleReturn m s) = true := by
  simp [execUcieModuleReturn, hs]

@[simp] theorem answerWf_execUcieDownTimeout (s : State) (hs : memsWf s.mems = true) : answerWf (execUcieDownTimeout s) = true := by
  unfold execUcieDownTimeout
  split <;> simp [hs]

@[simp] theorem answerWf_execWatchdogFeed (s : State) (hs : memsWf s.mems = true) : answerWf (execWatchdogFeed s) = true := by
  unfold execWatchdogFeed
  split
  · exact hs
  · rw [answerWf_next, mems_mk, mem_xfer_eq_mems, mems_advance]
    exact hs

@[simp] theorem answerWf_execWatchdogExpiry (s : State) (hs : memsWf s.mems = true) : answerWf (execWatchdogExpiry s) = true := by
  simp [execWatchdogExpiry, hs]

@[simp] theorem answerWf_execAutoResetTimer (s : State) (hs : memsWf s.mems = true) : answerWf (execAutoResetTimer s) = true := by
  unfold execAutoResetTimer
  split
  · dsimp only
    split
    · rw [answerWf_next, mems_mk, mem_xfer_eq_mems, mems_advance]
      exact hs
    · simp [hs]
  · exact hs

/-! Frames -/

@[simp] theorem memsWf_takeNak (s : State) (p ack : Nat) (hs : memsWf s.mems = true) : memsWf (State.takeNak s p ack).mems = true := by
  simp [State.takeNak, hs]

@[simp] theorem answerWf_execFrameSend (p : Nat) (s : State) (hs : memsWf s.mems = true) : answerWf (execFrameSend p s) = true := by
  simp [execFrameSend, hs]

@[simp] theorem answerWf_execLinkWordReceive (p : Nat) (bytes : List Byte) (s : State) (hs : memsWf s.mems = true) :
    answerWf (execLinkWordReceive p bytes s) = true := by
  simp [execLinkWordReceive, hs]

@[simp] theorem answerWf_execCellReceive (p slot : Nat) (bytes : List Byte) (fec : FecObs) (s : State) (hs : memsWf s.mems = true) :
    answerWf (execCellReceive p slot bytes fec s) = true := by
  unfold execCellReceive
  repeat' split
  all_goals simp [hs]

/-! Register rows -/

@[simp] theorem answerWf_regRow {w : State → RegAns × State} (s : State) (r : Nat) (v : Reg) (hw : memsWf (w s).2.mems = true)
    (hs : memsWf s.mems = true) : answerWf (regRow s r w v) = true := by
  unfold regRow
  split
  · exact hs
  · split
    · simp [hs]
    · exact hw

@[simp] theorem answerWf_unitRow {w : State → RegAns × State} (s : State) (u n r : Nat) (v : Reg) (hw : memsWf (w s).2.mems = true)
    (hs : memsWf s.mems = true) : answerWf (unitRow s u n r w v) = true := by
  refine answerWf_regRow s r v ?_ hs
  split
  · exact hw
  · simp [hs]

@[simp] theorem answerWf_execTimStep (v : Reg) (s : State) (hs : memsWf s.mems = true) : answerWf (execTimStep v s) = true := by
  simp [execTimStep, hs]

@[simp] theorem answerWf_execTimCtlWrite (v : Reg) (s : State) (hs : memsWf s.mems = true) : answerWf (execTimCtlWrite v s) = true := by
  simp [execTimCtlWrite, hs]

@[simp] theorem answerWf_execTimEthLatWrite (v : Reg) (s : State) (hs : memsWf s.mems = true) : answerWf (execTimEthLatWrite v s) = true := by
  simp [execTimEthLatWrite, hs]

@[simp] theorem answerWf_execTimClear (v : Reg) (s : State) (hs : memsWf s.mems = true) : answerWf (execTimClear v s) = true := by
  simp [execTimClear, hs]

theorem answerWf_regRow_writeKeyArm (s : State) (r : Nat) (u v : Reg) (hs : memsWf s.mems = true) :
    answerWf (regRow s r (·.writeKeyArm u) v) = true := by
  simp [answerWf_regRow, hs]

@[simp] theorem answerWf_execTikKeyArm (s : State) (hs : memsWf s.mems = true) : answerWf (execTikKeyArm s) = true :=
  answerWf_regRow_writeKeyArm s _ _ _ hs

@[simp] theorem answerWf_execTikKeyDisarm (s : State) (hs : memsWf s.mems = true) : answerWf (execTikKeyDisarm s) = true :=
  answerWf_regRow_writeKeyArm s _ _ _ hs

@[simp] theorem answerWf_execTikStepSetWrite (fw : Bool) (v : Reg) (s : State) (hs : memsWf s.mems = true) :
    answerWf (execTikStepSetWrite fw v s) = true := by
  simp [execTikStepSetWrite, hs]

@[simp] theorem answerWf_execTikClear (v : Reg) (s : State) (hs : memsWf s.mems = true) : answerWf (execTikClear v s) = true := by
  simp [execTikClear, hs]

@[simp] theorem answerWf_execSpnClear (span : Nat) (v : Reg) (s : State) (hs : memsWf s.mems = true) :
    answerWf (execSpnClear span v s) = true := by
  simp [execSpnClear, hs]

@[simp] theorem answerWf_execCluClear (cl : Nat) (v : Reg) (s : State) (hs : memsWf s.mems = true) : answerWf (execCluClear cl v s) = true := by
  simp [execCluClear, hs]

@[simp] theorem answerWf_execMsqClear (st : Nat) (v : Reg) (s : State) (hs : memsWf s.mems = true) : answerWf (execMsqClear st v s) = true := by
  simp [execMsqClear, hs]

@[simp] theorem answerWf_execMsqScrub (st : Nat) (v : Reg) (s : State) (hs : memsWf s.mems = true) : answerWf (execMsqScrub st v s) = true := by
  simp [execMsqScrub, hs]

@[simp] theorem answerWf_execCxlClear (v : Reg) (s : State) (hs : memsWf s.mems = true) : answerWf (execCxlClear v s) = true := by
  simp [execCxlClear, hs]

@[simp] theorem answerWf_execOlfRetrainCmd (p : Nat) (s : State) (hs : memsWf s.mems = true) : answerWf (execOlfRetrainCmd p s) = true := by
  simp [execOlfRetrainCmd, hs]

@[simp] theorem answerWf_execOlfDownCmd (p : Nat) (s : State) (hs : memsWf s.mems = true) : answerWf (execOlfDownCmd p s) = true := by
  simp [execOlfDownCmd, hs]

@[simp] theorem answerWf_execOlfCtlWrite (p : Nat) (v : Reg) (s : State) (hs : memsWf s.mems = true) :
    answerWf (execOlfCtlWrite p v s) = true := by
  simp [execOlfCtlWrite, hs]

@[simp] theorem answerWf_execOlfClear (p : Nat) (v : Reg) (s : State) (hs : memsWf s.mems = true) : answerWf (execOlfClear p v s) = true := by
  simp [execOlfClear, hs]

@[simp] theorem answerWf_execCwyClear (p : Nat) (v : Reg) (s : State) (hs : memsWf s.mems = true) : answerWf (execCwyClear p v s) = true := by
  simp [execCwyClear, hs]

@[simp] theorem answerWf_execSvcCtlWrite (v : Reg) (s : State) (hs : memsWf s.mems = true) : answerWf (execSvcCtlWrite v s) = true := by
  simp [execSvcCtlWrite, hs]

@[simp] theorem answerWf_execSvcClear (v : Reg) (s : State) (hs : memsWf s.mems = true) : answerWf (execSvcClear v s) = true := by
  simp [execSvcClear, hs]

@[simp] theorem answerWf_execPlcClear (v : Reg) (s : State) (hs : memsWf s.mems = true) : answerWf (execPlcClear v s) = true := by
  simp [execPlcClear, hs]

@[simp] theorem answerWf_execHstCtlWrite (v : Reg) (s : State) (hs : memsWf s.mems = true) : answerWf (execHstCtlWrite v s) = true := by
  simp [execHstCtlWrite, hs]

@[simp] theorem answerWf_execHstClear (v : Reg) (s : State) (hs : memsWf s.mems = true) : answerWf (execHstClear v s) = true := by
  simp [execHstClear, hs]

@[simp] theorem answerWf_execFltClear (v : Reg) (s : State) (hs : memsWf s.mems = true) : answerWf (execFltClear v s) = true := by
  simp [execFltClear, hs]

@[simp] theorem answerWf_execCfgPersist (s : State) (hs : memsWf s.mems = true) : answerWf (execCfgPersist s) = true := by
  simp [execCfgPersist, hs]

@[simp] theorem answerWf_execCfgForget (s : State) (hs : memsWf s.mems = true) : answerWf (execCfgForget s) = true := by simp [execCfgForget, hs]

@[simp] theorem answerWf_execCfgCompact (s : State) (hs : memsWf s.mems = true) : answerWf (execCfgCompact s) = true := by
  simp [execCfgCompact, hs]

@[simp] theorem answerWf_execCfgClear (v : Reg) (s : State) (hs : memsWf s.mems = true) : answerWf (execCfgClear v s) = true := by
  simp [execCfgClear, hs]

@[simp] theorem answerWf_execCfgGrpRefWrite (fw : Bool) (g : Nat) (v : Reg) (s : State) (hs : memsWf s.mems = true) :
    answerWf (execCfgGrpRefWrite fw g v s) = true := by
  simp [execCfgGrpRefWrite, hs]

@[simp] theorem answerWf_execCfgAszTRefWrite (v : Reg) (s : State) (hs : memsWf s.mems = true) : answerWf (execCfgAszTRefWrite v s) = true := by
  simp [execCfgAszTRefWrite, hs]

@[simp] theorem answerWf_execShadowWrite (fw : Bool) (r : Nat) (v : Reg) (s : State) (hs : memsWf s.mems = true) :
    answerWf (execShadowWrite fw r v s) = true := by
  unfold execShadowWrite
  repeat' split
  all_goals simp [hs]

@[simp] theorem answerWf_execPwrClear (v : Reg) (s : State) (hs : memsWf s.mems = true) : answerWf (execPwrClear v s) = true := by
  simp [execPwrClear, hs]

@[simp] theorem answerWf_execSecDbgChallenge (s : State) (hs : memsWf s.mems = true) : answerWf (execSecDbgChallenge s) = true := by
  simp [execSecDbgChallenge, hs]

@[simp] theorem answerWf_execSecDbgUnlock (s : State) (hs : memsWf s.mems = true) : answerWf (execSecDbgUnlock s) = true := by
  simp [execSecDbgUnlock, hs]

@[simp] theorem answerWf_execSecClear (v : Reg) (s : State) (hs : memsWf s.mems = true) : answerWf (execSecClear v s) = true := by
  simp [execSecClear, hs]

/-! Job events -/

@[simp] theorem answerWf_execAbortStop (s : State) (hs : memsWf s.mems = true) : answerWf (execAbortStop s) = true := by
  unfold execAbortStop
  split <;> simp [hs]

@[simp] theorem answerWf_execJobStop (s : State) (hs : memsWf s.mems = true) : answerWf (execJobStop s) = true := by simp [execJobStop, hs]

@[simp] theorem answerWf_execStopRequestReceive (last cause : Nat) (s : State) (hs : memsWf s.mems = true) :
    answerWf (execStopRequestReceive last cause s) = true := by
  simp [execStopRequestReceive, hs]

@[simp] theorem answerWf_execStopStepReceive (step : Nat) (s : State) (hs : memsWf s.mems = true) :
    answerWf (execStopStepReceive step s) = true := by
  simp [execStopStepReceive, hs]

@[simp] theorem answerWf_execStepDonePost (s : State) (hs : memsWf s.mems = true) : answerWf (execStepDonePost s) = true := by
  simp only [execStepDonePost]
  repeat' split
  all_goals simp [hs]

/-! Phases -/

@[simp] theorem answerWf_execPlanEndReached (span leftPs : Nat) (s : State) (hs : memsWf s.mems = true) :
    answerWf (execPlanEndReached span leftPs s) = true := by
  simp [execPlanEndReached, hs]

@[simp] theorem memsWf_spanEdge (s : State) (span : Nat) (hs : memsWf s.mems = true) : memsWf (State.spanEdge s span).mems = true := by
  simp [State.spanEdge, hs]

theorem mems_openPhase (s : State) (us : List Upset) (time : Nat) : (s.openPhase us time).mems = s.mems := by
  unfold State.openPhase
  dsimp only
  rw [mems_mk, mem_xfer_eq_mems, mems_clearFrame, mems_advance, mems_updTik]

theorem mems_afterEdge (s : State) (P : Nat) : (s.afterEdge P).mems = s.mems := by simp [State.afterEdge]

@[simp] theorem answerWf_execPhaseEdge (upsets : List Upset) (s : State) (hs : memsWf s.mems = true) :
    answerWf (execPhaseEdge upsets s) = true := by
  rw [execPhaseEdge_eq s upsets rfl, answerWf_next, mems_afterEdge, mems_openPhase]
  exact memsWf_forEach (fun _ _ h => memsWf_spanEdge _ _ h) hs _

@[simp] theorem answerWf_droopChange (span cyc : Nat) (s : State) (g : Spn → Spn) (hs : memsWf s.mems = true) :
    answerWf (droopChange span cyc s g) = true := by
  simp [droopChange, hs]

@[simp] theorem answerWf_execDroopTrip (span : Nat) (level2 : Bool) (cyc : Nat) (s : State) (hs : memsWf s.mems = true) :
    answerWf (execDroopTrip span level2 cyc s) = true := by
  simp [execDroopTrip, hs]

@[simp] theorem answerWf_execDroopLevel2Clear (span cyc : Nat) (s : State) (hs : memsWf s.mems = true) :
    answerWf (execDroopLevel2Clear span cyc s) = true := by
  simp [execDroopLevel2Clear, hs]

@[simp] theorem answerWf_execDroopClear (span cyc : Nat) (s : State) (hs : memsWf s.mems = true) :
    answerWf (execDroopClear span cyc s) = true := by
  simp [execDroopClear, hs]

@[simp] theorem answerWf_execStretchHoldEnd (span cyc : Nat) (s : State) (hs : memsWf s.mems = true) :
    answerWf (execStretchHoldEnd span cyc s) = true := by
  simp [execStretchHoldEnd, hs]

@[simp] theorem answerWf_execCrossingWriteLand (i : Nat) (s : State) (hs : memsWf s.mems = true) :
    answerWf (execCrossingWriteLand i s) = true := by
  unfold execCrossingWriteLand
  split <;> simp [hs]

/-! Keystones -/

@[simp] theorem answerWf_execKeystoneTick (s : State) (hs : memsWf s.mems = true) : answerWf (execKeystoneTick s) = true := by
  unfold execKeystoneTick
  split <;> simp [hs]

/-! Upkeep -/

@[simp] theorem memsWf_scrubLine (s : State) (cl line : Nat) (hs : memsWf s.mems = true) : memsWf (State.scrubLine s cl line).mems = true := by
  simp [State.scrubLine, hs]

@[simp] theorem answerWf_execStoreScrubPass (s : State) (hs : memsWf s.mems = true) : answerWf (execStoreScrubPass s) = true := by
  simp +contextual [execStoreScrubPass, hs]

@[simp] theorem answerWf_execAssizePass (s : State) (hs : memsWf s.mems = true) : answerWf (execAssizePass s) = true := by
  simp [execAssizePass, hs]

@[simp] theorem answerWf_execJournalAppend (ty : BitVec 16) (payload : List Byte) (s : State) (hs : memsWf s.mems = true) :
    answerWf (execJournalAppend ty payload s) = true := by
  simp [execJournalAppend, hs]

@[simp] theorem answerWf_execCompactionComplete (s : State) (hs : memsWf s.mems = true) : answerWf (execCompactionComplete s) = true := by
  simp [execCompactionComplete, hs]

@[simp] theorem answerWf_execOldBankErased (s : State) (hs : memsWf s.mems = true) : answerWf (execOldBankErased s) = true := by
  simp only [execOldBankErased]
  repeat' split
  all_goals simp [hs]

/-! Reset -/

@[simp] theorem answerWf_execDrainEnd (s : State) (hs : memsWf s.mems = true) : answerWf (execDrainEnd s) = true := by simp [execDrainEnd, hs]

@[simp] theorem answerWf_execResetHoldExpiry (s : State) (hs : memsWf s.mems = true) : answerWf (execResetHoldExpiry s) = true := by
  simp [execResetHoldExpiry, hs]

@[simp] theorem answerWf_execResetBegin (s : State) (hs : memsWf s.mems = true) : answerWf (execResetBegin s) = true := by
  simp [execResetBegin, hs]

@[simp] theorem answerWf_execSelfRefreshTimeout (st : Nat) (s : State) (hs : memsWf s.mems = true) :
    answerWf (execSelfRefreshTimeout st s) = true := by
  simp [execSelfRefreshTimeout, hs]

theorem mems_lasting (s : State) : s.lasting.mems = ([], []) := by rfl

@[simp] theorem memsWf_lasting (s : State) : memsWf (State.lasting s).mems = true := by
  rw [mems_lasting]
  rfl

@[simp] theorem memsWf_joinFlash (s : State) (hs : memsWf s.mems = true) : memsWf (State.joinFlash s).mems = true := by
  simp [State.joinFlash, hs]

@[simp] theorem memsWf_heldInReset (s : State) (hs : memsWf s.mems = true) : memsWf (State.heldInReset s).mems = true := by
  unfold State.heldInReset
  rw [mems_ibi]
  refine memsWf_joinFlash _ ?_
  simp [memWf_mem hs, memWf_xfer (memsWf_lasting s)]

@[simp] theorem answerWf_execCoresHeldInReset (s : State) (hs : memsWf s.mems = true) : answerWf (execCoresHeldInReset s) = true := by
  simp [execCoresHeldInReset, hs]

@[simp] theorem answerWf_execTollhouseRelease (s : State) (hs : memsWf s.mems = true) : answerWf (execTollhouseRelease s) = true := by
  simp [execTollhouseRelease, hs]

@[simp] theorem memsWf_restoreRegs (s : State) (recs : List JRec) (hs : memsWf s.mems = true) : memsWf (State.restoreRegs s recs).mems = true :=
  memsWf_foldl (fun _ _ h => memsWf_restoreReg _ _ _ h) hs _

@[simp] theorem answerWf_execFirmwareStart (straps opens : BitVec 16) (s : State) (hs : memsWf s.mems = true) :
    answerWf (execFirmwareStart straps opens s) = true := by
  simp [execFirmwareStart, hs]

@[simp] theorem memsWf_restoreStack (s : State) (st : Nat) (tact : List Reg) (hs : memsWf s.mems = true) :
    memsWf (State.restoreStack s st tact).mems = true := by
  simp [State.restoreStack, hs, memWf_memZero]

@[simp] theorem answerWf_execComputeDieRelease (tact : List (List Reg)) (s : State) (hs : memsWf s.mems = true) :
    answerWf (execComputeDieRelease tact s) = true := by
  unfold execComputeDieRelease
  split
  · exact memsWf_forEach (f := fun s st => s.restoreStack st (nth [] tact st)) (fun _ _ h => memsWf_restoreStack _ _ _ h) hs (List.range 4)
  · exact hs

@[simp] theorem answerWf_execSelfTestDone (failed : List (Nat × Nat)) (s : State) (hs : memsWf s.mems = true) :
    answerWf (execSelfTestDone failed s) = true := by
  have hrows : memsWf (forEach s (List.range 25) fun s row => s.repairRow row (failed.filter (fun f => decide (f.2 < 33)))).mems = true :=
    memsWf_forEach (fun _ _ h => by simp [h]) hs _
  unfold execSelfTestDone
  split
  · simp [memWf_filter _ (memWf_mem hrows), memWf_xfer hrows]
  · exact hs

/-! Power -/

@[simp] theorem memsWf_powerOff (s : State) : memsWf (State.powerOff s).mems = true := by simp [State.powerOff]
@[simp] theorem memsWf_coldStart (s : State) : memsWf (State.coldStart s).mems = true := by simp [State.coldStart]

@[simp] theorem answerWf_execInputGood (feedA feedB : Bool) (s : State) (hs : memsWf s.mems = true) :
    answerWf (execInputGood feedA feedB s) = true := by
  simp [execInputGood, hs]

@[simp] theorem answerWf_execRailGood (r : Rail) (s : State) (hs : memsWf s.mems = true) : answerWf (execRailGood r s) = true := by
  simp [execRailGood, hs]

@[simp] theorem answerWf_execRailStartTimeout (r : Rail) (s : State) (hs : memsWf s.mems = true) :
    answerWf (execRailStartTimeout r s) = true := by
  simp [execRailStartTimeout, hs]

@[simp] theorem answerWf_execUndervoltage (s : State) (hs : memsWf s.mems = true) : answerWf (execUndervoltage s) = true := by
  simp [execUndervoltage, hs]

@[simp] theorem answerWf_execPowerDown (s : State) (hs : memsWf s.mems = true) : answerWf (execPowerDown s) = true := by simp [execPowerDown, hs]

@[simp] theorem answerWf_execOvervoltage (s : State) (hs : memsWf s.mems = true) : answerWf (execOvervoltage s) = true := by
  simp [execOvervoltage, hs]

@[simp] theorem answerWf_execOvervoltageClear (s : State) (hs : memsWf s.mems = true) : answerWf (execOvervoltageClear s) = true := by
  unfold execOvervoltageClear
  split
  · dsimp only
    split <;> simp [hs]
  · exact hs

@[simp] theorem memsWf_removeCompute (s : State) (hs : memsWf s.mems = true) : memsWf (State.removeCompute s).mems = true := by
  rw [State.removeCompute, mems_setUcie, mems_setUcie]
  refine memsWf_forEach ?_ ?_ _
  · intro s p h
    split <;> simp [h]
  · simp [hs]

@[simp] theorem memsWf_railFault (s : State) (kind rail : Nat) (hs : memsWf s.mems = true) :
    memsWf (State.railFault s kind rail).mems = true := by
  simp [State.railFault, hs]

@[simp] theorem answerWf_execOvercurrent (s : State) (hs : memsWf s.mems = true) : answerWf (execOvercurrent s) = true := by
  simp [execOvercurrent, hs]

@[simp] theorem answerWf_execRailWindowFault (r : Rail) (s : State) (hs : memsWf s.mems = true) : answerWf (execRailWindowFault r s) = true := by
  simp [execRailWindowFault, hs]

@[simp] theorem answerWf_execThermalTrip (hbm : Bool) (s : State) (hs : memsWf s.mems = true) : answerWf (execThermalTrip hbm s) = true := by
  simp [execThermalTrip, hs]

@[simp] theorem answerWf_execFeedReversed (f : Feed) (otherGood : Bool) (s : State) (hs : memsWf s.mems = true) :
    answerWf (execFeedReversed f otherGood s) = true := by
  simp [execFeedReversed, hs]

@[simp] theorem answerWf_execFeedLoss (f : Feed) (s : State) (hs : memsWf s.mems = true) : answerWf (execFeedLoss f s) = true := by
  simp [execFeedLoss, hs]

@[simp] theorem answerWf_execFeedReturn (f : Feed) (s : State) (hs : memsWf s.mems = true) : answerWf (execFeedReturn f s) = true := by
  simp [execFeedReturn, hs]

@[simp] theorem answerWf_execRailSettled (s : State) (hs : memsWf s.mems = true) : answerWf (execRailSettled s) = true := by
  simp [execRailSettled, hs]

@[simp] theorem answerWf_execPowerPolicyEval (x : Sensors) (s : State) (hs : memsWf s.mems = true) :
    answerWf (execPowerPolicyEval x s) = true := by
  simp [execPowerPolicyEval, hs]

@[simp] theorem answerWf_execCoolantFault (s : State) (hs : memsWf s.mems = true) : answerWf (execCoolantFault s) = true := by
  simp [execCoolantFault, hs]

/-! Pins -/

@[simp] theorem answerWf_execResetNAssert (s : State) (hs : memsWf s.mems = true) : answerWf (execResetNAssert s) = true := by
  simp [execResetNAssert, hs]

@[simp] theorem answerWf_execResetNRelease (s : State) (hs : memsWf s.mems = true) : answerWf (execResetNRelease s) = true := by
  simp [execResetNRelease, hs]

@[simp] theorem answerWf_execFlashOwnRise (s : State) (hs : memsWf s.mems = true) : answerWf (execFlashOwnRise s) = true := by
  simp [execFlashOwnRise, hs]

@[simp] theorem answerWf_execFlashOwnFall (s : State) (hs : memsWf s.mems = true) : answerWf (execFlashOwnFall s) = true := by
  simp [execFlashOwnFall, hs]

@[simp] theorem answerWf_execPwrEnNAssert (s : State) (hs : memsWf s.mems = true) : answerWf (execPwrEnNAssert s) = true := by
  simp [execPwrEnNAssert, hs]

@[simp] theorem answerWf_execPwrEnNRelease (s : State) (hs : memsWf s.mems = true) : answerWf (execPwrEnNRelease s) = true := by
  simp [execPwrEnNRelease, hs]

@[simp] theorem answerWf_execI3cStatus (s : State) (hs : memsWf s.mems = true) : answerWf (execI3cStatus s) = true := by simp [execI3cStatus, hs]

@[simp] theorem answerWf_execI3cSensors (s : State) (hs : memsWf s.mems = true) : answerWf (execI3cSensors s) = true := by
  simp [execI3cSensors, hs]

@[simp] theorem answerWf_execI3cIdent (s : State) (hs : memsWf s.mems = true) : answerWf (execI3cIdent s) = true := by simp [execI3cIdent, hs]

@[simp] theorem answerWf_execI3cReset (second : Byte) (s : State) (hs : memsWf s.mems = true) : answerWf (execI3cReset second s) = true := by
  simp [execI3cReset, hs]

@[simp] theorem answerWf_execI3cAddressAssign (addr : BitVec 7) (s : State) (hs : memsWf s.mems = true) :
    answerWf (execI3cAddressAssign addr s) = true := by
  simp [execI3cAddressAssign, hs]

@[simp] theorem memsWf_debugDone (s : State) (a : DbgAccess) (hs : memsWf s.mems = true) : memsWf (State.debugDone s a).mems = true := by
  unfold State.debugDone
  split <;> simp [hs]

@[simp] theorem answerWf_execDebugPortAccess (a : DbgAccess) (s : State) (hs : memsWf s.mems = true) :
    answerWf (execDebugPortAccess a s) = true := by
  simp [execDebugPortAccess, hs]

/-! Placement events -/

@[simp] theorem answerWf_asCandidate {f : State → State} (s : State) (hf : memsWf (f s).mems = true) (hs : memsWf s.mems = true) :
    answerWf (asCandidate s f) = true := by
  simp [asCandidate, hf, hs]

@[simp] theorem answerWf_execClaimSend (s : State) (hs : memsWf s.mems = true) : answerWf (execClaimSend s) = true := by simp [execClaimSend, hs]

@[simp] theorem answerWf_execClaimReceive (p : Nat) (hall depth : Nat) (digest8 : List Byte) (s : State) (hs : memsWf s.mems = true) :
    answerWf (execClaimReceive p hall depth digest8 s) = true := by
  simp [execClaimReceive, hs]

@[simp] theorem answerWf_execElectionClose (s : State) (hs : memsWf s.mems = true) : answerWf (execElectionClose s) = true := by
  simp [execElectionClose, hs]

@[simp] theorem answerWf_execSwitchRegather (s : State) (hs : memsWf s.mems = true) : answerWf (execSwitchRegather s) = true := by
  simp [execSwitchRegather, hs]

@[simp] theorem answerWf_execHealthReceive (p : Nat) (r : Health) (digest8 : List Byte) (s : State) (hs : memsWf s.mems = true) :
    answerWf (execHealthReceive p r digest8 s) = true := by
  simp [execHealthReceive, hs]

@[simp] theorem answerWf_execMapCompute (s : State) (hs : memsWf s.mems = true) : answerWf (execMapCompute s) = true := by
  refine answerWf_asCandidate _ ?_ hs
  dsimp only
  repeat' split
  all_goals simp [hs]

@[simp] theorem answerWf_execMapReceive (p : Nat) (m : List MapEntry) (digest : List Byte) (s : State) (hs : memsWf s.mems = true) :
    answerWf (execMapReceive p m digest s) = true := by
  simp [execMapReceive, hs]

@[simp] theorem answerWf_execReleaseReceive (s : State) (hs : memsWf s.mems = true) : answerWf (execReleaseReceive s) = true := by
  refine answerWf_asCandidate _ (memsWf_pump _ ?_) hs
  rw [mems_endPlace]
  exact memsWf_forEach (fun _ _ h => by simp [h]) hs _

@[simp] theorem answerWf_execExcludeReceive (x : Exclusion) (s : State) (hs : memsWf s.mems = true) :
    answerWf (execExcludeReceive x s) = true := by
  simp [execExcludeReceive, hs]

@[simp] theorem answerWf_execProposeReceive (x : Proposer) (epoch : Nat) (s : State) (hs : memsWf s.mems = true) :
    answerWf (execProposeReceive x epoch s) = true := by
  simp [execProposeReceive, hs]

@[simp] theorem answerWf_execReadyReceive (p count : Nat) (s : State) (hs : memsWf s.mems = true) :
    answerWf (execReadyReceive p count s) = true := by
  unfold execReadyReceive
  split
  · simp [hs]
  · split <;> simp [hs]

@[simp] theorem answerWf_execRefuseReceive (p : Nat) (hall : Nat) (code : BitVec 16) (s : State) (hs : memsWf s.mems = true) :
    answerWf (execRefuseReceive p hall code s) = true := by
  simp [execRefuseReceive, hs]

@[simp] theorem answerWf_execGoReceive (digest8 : List Byte) (epoch : Nat) (s : State) (hs : memsWf s.mems = true) :
    answerWf (execGoReceive digest8 epoch s) = true := by
  simp [execGoReceive, hs]

@[simp] theorem answerWf_execCancelReceive (digest8 : List Byte) (epoch : Nat) (s : State) (hs : memsWf s.mems = true) :
    answerWf (execCancelReceive digest8 epoch s) = true := by
  simp only [execCancelReceive]
  repeat' split
  all_goals simp [hs]

@[simp] theorem answerWf_execReadyDeadline (s : State) (hs : memsWf s.mems = true) : answerWf (execReadyDeadline s) = true := by
  unfold execReadyDeadline
  split <;> simp [hs]

@[simp] theorem answerWf_execGoDeadline (s : State) (hs : memsWf s.mems = true) : answerWf (execGoDeadline s) = true := by
  unfold execGoDeadline
  split <;> simp [hs]

@[simp] theorem answerWf_execPlaceTimeout (s : State) (hs : memsWf s.mems = true) : answerWf (execPlaceTimeout s) = true := by
  simp [execPlaceTimeout, hs]

/-! Causeways -/

@[simp] theorem answerWf_execRouterSlot (s : State) (hs : memsWf s.mems = true) : answerWf (execRouterSlot s) = true := by
  simp [execRouterSlot, hs]

/-! Time messages -/

@[simp] theorem answerWf_execBeaconSend (tx : List (Nat × Nat)) (s : State) (hs : memsWf s.mems = true) :
    answerWf (execBeaconSend tx s) = true := by
  simp [execBeaconSend, hs]

@[simp] theorem answerWf_execBeaconReceive (port : Nat) (bytes : List Byte) (rx : Nat) (s : State) (hs : memsWf s.mems = true) :
    answerWf (execBeaconReceive port bytes rx s) = true := by
  simp [execBeaconReceive, hs]

@[simp] theorem answerWf_execTimeWindowEnd (s : State) (hs : memsWf s.mems = true) : answerWf (execTimeWindowEnd s) = true := by
  simp [execTimeWindowEnd, hs]

@[simp] theorem answerWf_execAnnounceIncrement (s : State) (hs : memsWf s.mems = true) : answerWf (execAnnounceIncrement s) = true := by
  simp [execAnnounceIncrement, hs]

@[simp] theorem answerWf_execRootLoss (s : State) (hs : memsWf s.mems = true) : answerWf (execRootLoss s) = true := by simp [execRootLoss, hs]

@[simp] theorem answerWf_execParentLoss (s : State) (hs : memsWf s.mems = true) : answerWf (execParentLoss s) = true := by
  simp [execParentLoss, hs]

@[simp] theorem answerWf_execHoldoverExpiry (s : State) (hs : memsWf s.mems = true) : answerWf (execHoldoverExpiry s) = true := by
  simp [execHoldoverExpiry, hs]

@[simp] theorem answerWf_execFollowerSteer (err : Int) (s : State) (hs : memsWf s.mems = true) : answerWf (execFollowerSteer err s) = true := by
  simp [execFollowerSteer, hs]

@[simp] theorem answerWf_execPpsOutEdge (s : State) (hs : memsWf s.mems = true) : answerWf (execPpsOutEdge s) = true := by
  simp [execPpsOutEdge, hs]

@[simp] theorem answerWf_execPpsInEdge (quarterNs : Nat) (s : State) (hs : memsWf s.mems = true) :
    answerWf (execPpsInEdge quarterNs s) = true := by
  simp [execPpsInEdge, hs]

@[simp] theorem answerWf_execPpsInTimeout (s : State) (hs : memsWf s.mems = true) : answerWf (execPpsInTimeout s) = true := by
  unfold execPpsInTimeout
  repeat' split
  all_goals simp [hs]

@[simp] theorem answerWf_execEthFrameTransmit (frame : List Byte) (tag : BitVec 16) (one : OneStep) (err : EthErr) (s : State)
    (hs : memsWf s.mems = true) : answerWf (execEthFrameTransmit frame tag one err s) = true := by
  simp [execEthFrameTransmit, hs]

@[simp] theorem answerWf_execEthFrameReceive (frame : List Byte) (tag : BitVec 16) (err : EthErr) (ptpOffset : Option Int) (s : State)
    (hs : memsWf s.mems = true) : answerWf (execEthFrameReceive frame tag err ptpOffset s) = true := by
  simp only [execEthFrameReceive]
  repeat' split
  all_goals simp [hs]

@[simp] theorem answerWf_execMgmtLaneTrain (fec : FecMode) (s : State) (hs : memsWf s.mems = true) :
    answerWf (execMgmtLaneTrain fec s) = true := by
  simp [execMgmtLaneTrain, hs]

/-! Unit words -/

@[simp] theorem answerWf_execMeWin (cl : Nat) (w : Wd) (b : Bool) (wcode : BitVec 6) (ta tw : Int) (s : State) (hs : memsWf s.mems = true) :
    answerWf (execMeWin cl w b wcode ta tw s) = true := by
  simp [execMeWin, hs]

@[simp] theorem answerWf_execMeClear (cl : Nat) (w : Wd) (b : Bool) (s : State) (hs : memsWf s.mems = true) :
    answerWf (execMeClear cl w b s) = true := by
  simp [execMeClear, hs]

@[simp] theorem answerWf_execMeLoadw (cl : Nat) (w : Wd) (t : Bool) (wfmt : Fmt) (tline : Nat) (s : State) (hs : memsWf s.mems = true) :
    answerWf (execMeLoadw cl w t wfmt tline s) = true := by
  simp [execMeLoadw, hs]

@[simp] theorem answerWf_execMeMac (cl : Nat) (w : Wd) (b t : Bool) (afmt wfmt : Fmt) (aline m row : Nat) (s : State)
    (hs : memsWf s.mems = true) : answerWf (execMeMac cl w b t afmt wfmt aline m row s) = true := by
  simp [execMeMac, hs]

@[simp] theorem answerWf_execMeMacs (cl : Nat) (w : Wd) (b t : Bool) (afmt wfmt : Fmt) (aline m row : Nat) (s : State)
    (hs : memsWf s.mems = true) : answerWf (execMeMacs cl w b t afmt wfmt aline m row s) = true := by
  simp [execMeMacs, hs]

@[simp] theorem answerWf_execMeMacv (cl : Nat) (w : Wd) (b : Bool) (fmt : Fmt) (wgrp agrp ic g row : Nat) (s : State)
    (hs : memsWf s.mems = true) : answerWf (execMeMacv cl w b fmt wgrp agrp ic g row s) = true := by
  simp [execMeMacv, hs]

@[simp] theorem answerWf_execMeAddx (cl : Nat) (w : Wd) (b : Bool) (wcode : BitVec 6) (sline r row : Nat) (s : State)
    (hs : memsWf s.mems = true) : answerWf (execMeAddx cl w b wcode sline r row s) = true := by
  simp [execMeAddx, hs]

@[simp] theorem answerWf_execMeRound (cl : Nat) (w : Wd) (b : Bool) (ofmt : Fmt) (tOut : Int) (dline r row : Nat) (s : State)
    (hs : memsWf s.mems = true) : answerWf (execMeRound cl w b ofmt tOut dline r row s) = true := by
  simp [execMeRound, hs]

@[simp] theorem answerWf_execMeDrain (cl : Nat) (w : Wd) (b : Bool) (dline r row : Nat) (s : State) (hs : memsWf s.mems = true) :
    answerWf (execMeDrain cl w b dline r row s) = true := by
  simp [execMeDrain, hs]

@[simp] theorem answerWf_execMvCopy (cl : Nat) (w : Wd) (sline dline dpos n : Nat) (s : State) (hs : memsWf s.mems = true) :
    answerWf (execMvCopy cl w sline dline dpos n s) = true := by
  simp [execMvCopy, hs]

@[simp] theorem answerWf_execMvSend (cl : Nat) (w : Wd) (sline dspan q entry n : Nat) (s : State) (hs : memsWf s.mems = true) :
    answerWf (execMvSend cl w sline dspan q entry n s) = true := by
  simp [execMvSend, hs]

@[simp] theorem answerWf_execMvRecv (cl : Nat) (w : Wd) (q entry : Nat) (dst : RecvDst) (n : Nat) (s : State) (hs : memsWf s.mems = true) :
    answerWf (execMvRecv cl w q entry dst n s) = true := by
  simp [execMvRecv, hs]

@[simp] theorem answerWf_execMvHbm (cl : Nat) (w : Wd) (sline stack q entry n tagb : Nat) (s : State) (hs : memsWf s.mems = true) :
    answerWf (execMvHbm cl w sline stack q entry n tagb s) = true := by
  simp [execMvHbm, hs]

@[simp] theorem answerWf_execMvStage (cl : Nat) (w : Wd) (sline q entry n desc : Nat) (s : State) (hs : memsWf s.mems = true) :
    answerWf (execMvStage cl w sline q entry n desc s) = true := by
  simp [execMvStage, hs]

@[simp] theorem answerWf_execMvFill (cl : Nat) (w : Wd) (dline n : Nat) (pat : BitVec 16) (s : State) (hs : memsWf s.mems = true) :
    answerWf (execMvFill cl w dline n pat s) = true := by
  simp [execMvFill, hs]

@[simp] theorem answerWf_execSqFlag (cl delta : Nat) (act : FlagAct) (s : State) (hs : memsWf s.mems = true) :
    answerWf (execSqFlag cl delta act s) = true := by
  simp [execSqFlag, hs]

@[simp] theorem answerWf_execSqAgree (cl delta port q entry bp : Nat) (vs : Bool) (val : BitVec 2) (p1 p0 : Nat) (s : State)
    (hs : memsWf s.mems = true) : answerWf (execSqAgree cl delta port q entry bp vs val p1 p0 s) = true := by
  simp [execSqAgree, hs]

@[simp] theorem answerWf_execSqDigest (cl delta line n : Nat) (s : State) (hs : memsWf s.mems = true) :
    answerWf (execSqDigest cl delta line n s) = true := by
  simp [execSqDigest, hs]

@[simp] theorem answerWf_execVuLd (cl : Nat) (w : Wd) (vd : Nat) (src : LdSrc) (nl : Nat) (tag : Option (BitVec 6)) (s : State)
    (hs : memsWf s.mems = true) : answerWf (execVuLd cl w vd src nl tag s) = true := by
  simp [execVuLd, hs]

@[simp] theorem answerWf_execVuSt (cl : Nat) (w : Wd) (va line nl : Nat) (s : State) (hs : memsWf s.mems = true) :
    answerWf (execVuSt cl w va line nl s) = true := by
  simp [execVuSt, hs]

@[simp] theorem answerWf_execVuAdd (cl : Nat) (w : Wd) (ty : FTy) (vd va vb : Nat) (s : State) (hs : memsWf s.mems = true) :
    answerWf (execVuAdd cl w ty vd va vb s) = true := by
  simp [execVuAdd, hs]

@[simp] theorem answerWf_execVuSub (cl : Nat) (w : Wd) (ty : FTy) (vd va vb : Nat) (s : State) (hs : memsWf s.mems = true) :
    answerWf (execVuSub cl w ty vd va vb s) = true := by
  simp [execVuSub, hs]

@[simp] theorem answerWf_execVuMul (cl : Nat) (w : Wd) (ty : FTy) (vd va vb : Nat) (s : State) (hs : memsWf s.mems = true) :
    answerWf (execVuMul cl w ty vd va vb s) = true := by
  simp [execVuMul, hs]

@[simp] theorem answerWf_execVuFma (cl : Nat) (w : Wd) (ty : FTy) (vd va vb vc : Nat) (s : State) (hs : memsWf s.mems = true) :
    answerWf (execVuFma cl w ty vd va vb vc s) = true := by
  simp [execVuFma, hs]

@[simp] theorem answerWf_execVuMin (cl : Nat) (w : Wd) (ty : VTy) (vd va vb : Nat) (s : State) (hs : memsWf s.mems = true) :
    answerWf (execVuMin cl w ty vd va vb s) = true := by
  simp [execVuMin, hs]

@[simp] theorem answerWf_execVuMax (cl : Nat) (w : Wd) (ty : VTy) (vd va vb : Nat) (s : State) (hs : memsWf s.mems = true) :
    answerWf (execVuMax cl w ty vd va vb s) = true := by
  simp [execVuMax, hs]

@[simp] theorem answerWf_execVuCmp (cl : Nat) (w : Wd) (ty : VTy) (cond : Cond) (vd va vb : Nat) (s : State) (hs : memsWf s.mems = true) :
    answerWf (execVuCmp cl w ty cond vd va vb s) = true := by
  simp [execVuCmp, hs]

@[simp] theorem answerWf_execVuSel (cl : Nat) (w : Wd) (vd va vb vc : Nat) (s : State) (hs : memsWf s.mems = true) :
    answerWf (execVuSel cl w vd va vb vc s) = true := by
  simp [execVuSel, hs]

@[simp] theorem answerWf_execVuIadd (cl : Nat) (w : Wd) (vd va : Nat) (b : Opnd) (li neg : Bool) (s : State) (hs : memsWf s.mems = true) :
    answerWf (execVuIadd cl w vd va b li neg s) = true := by
  simp [execVuIadd, hs]

@[simp] theorem answerWf_execVuAnd (cl : Nat) (w : Wd) (vd va : Nat) (b : Opnd) (s : State) (hs : memsWf s.mems = true) :
    answerWf (execVuAnd cl w vd va b s) = true := by
  simp [execVuAnd, hs]

@[simp] theorem answerWf_execVuOr (cl : Nat) (w : Wd) (vd va : Nat) (b : Opnd) (s : State) (hs : memsWf s.mems = true) :
    answerWf (execVuOr cl w vd va b s) = true := by
  simp [execVuOr, hs]

@[simp] theorem answerWf_execVuXor (cl : Nat) (w : Wd) (vd va : Nat) (b : Opnd) (s : State) (hs : memsWf s.mems = true) :
    answerWf (execVuXor cl w vd va b s) = true := by
  simp [execVuXor, hs]

@[simp] theorem answerWf_execVuShl (cl : Nat) (w : Wd) (vd va : Nat) (b : ShOp) (s : State) (hs : memsWf s.mems = true) :
    answerWf (execVuShl cl w vd va b s) = true := by
  simp [execVuShl, hs]

@[simp] theorem answerWf_execVuShr (cl : Nat) (w : Wd) (vd va : Nat) (b : ShOp) (arith : Bool) (s : State) (hs : memsWf s.mems = true) :
    answerWf (execVuShr cl w vd va b arith s) = true := by
  simp [execVuShr, hs]

@[simp] theorem answerWf_execVuCvt (cl : Nat) (w : Wd) (vd va vb mode : Nat) (h : Bool) (t : Int) (pos : Nat) (s : State)
    (hs : memsWf s.mems = true) : answerWf (execVuCvt cl w vd va vb mode h t pos s) = true := by
  simp [execVuCvt, hs]

@[simp] theorem answerWf_execVuQmx (cl : Nat) (w : Wd) (vd va ve : Nat) (fmt : Fmt) (sb : Nat) (s : State) (hs : memsWf s.mems = true) :
    answerWf (execVuQmx cl w vd va ve fmt sb s) = true := by
  simp [execVuQmx, hs]

@[simp] theorem answerWf_execVuExp2 (cl : Nat) (w : Wd) (ty : FTy) (vd va : Nat) (s : State) (hs : memsWf s.mems = true) :
    answerWf (execVuExp2 cl w ty vd va s) = true := by
  simp [execVuExp2, hs]

@[simp] theorem answerWf_execVuLog2 (cl : Nat) (w : Wd) (ty : FTy) (vd va : Nat) (s : State) (hs : memsWf s.mems = true) :
    answerWf (execVuLog2 cl w ty vd va s) = true := by
  simp [execVuLog2, hs]

@[simp] theorem answerWf_execVuRcp (cl : Nat) (w : Wd) (ty : FTy) (vd va : Nat) (s : State) (hs : memsWf s.mems = true) :
    answerWf (execVuRcp cl w ty vd va s) = true := by
  simp [execVuRcp, hs]

@[simp] theorem answerWf_execVuRsq (cl : Nat) (w : Wd) (ty : FTy) (vd va : Nat) (s : State) (hs : memsWf s.mems = true) :
    answerWf (execVuRsq cl w ty vd va s) = true := by
  simp [execVuRsq, hs]

@[simp] theorem answerWf_execVuTanh (cl : Nat) (w : Wd) (ty : FTy) (vd va : Nat) (s : State) (hs : memsWf s.mems = true) :
    answerWf (execVuTanh cl w ty vd va s) = true := by
  simp [execVuTanh, hs]

@[simp] theorem answerWf_execVuSin (cl : Nat) (w : Wd) (ty : FTy) (vd va : Nat) (s : State) (hs : memsWf s.mems = true) :
    answerWf (execVuSin cl w ty vd va s) = true := by
  simp [execVuSin, hs]

@[simp] theorem answerWf_execVuCos (cl : Nat) (w : Wd) (ty : FTy) (vd va : Nat) (s : State) (hs : memsWf s.mems = true) :
    answerWf (execVuCos cl w ty vd va s) = true := by
  simp [execVuCos, hs]

@[simp] theorem answerWf_execVuXsum (cl : Nat) (w : Wd) (ty : VTy) (vd va seg : Nat) (wcode : BitVec 6) (acc : Bool) (s : State)
    (hs : memsWf s.mems = true) : answerWf (execVuXsum cl w ty vd va seg wcode acc s) = true := by
  simp [execVuXsum, hs]

@[simp] theorem answerWf_execVuTopk (cl : Nat) (w : Wd) (s32 : Bool) (vd va vb : Nat) (two : Bool) (k : Nat) (s : State)
    (hs : memsWf s.mems = true) : answerWf (execVuTopk cl w s32 vd va vb two k s) = true := by
  simp [execVuTopk, hs]

@[simp] theorem answerWf_execVuRng (cl : Nat) (w : Wd) (vd va : Nat) (uni : Bool) (ofs : Nat) (s : State) (hs : memsWf s.mems = true) :
    answerWf (execVuRng cl w vd va uni ofs s) = true := by
  simp [execVuRng, hs]

@[simp] theorem answerWf_execVuPerm (cl : Nat) (w : Wd) (vd va vb vc : Nat) (s : State) (hs : memsWf s.mems = true) :
    answerWf (execVuPerm cl w vd va vb vc s) = true := by
  simp [execVuPerm, hs]

/-! #### A command, and a step -/

/-- A case per command, which its own lemma above closes. -/
theorem answerWf_exec (i : Instr) (s : State) (hs : memsWf s.mems = true) : answerWf (exec i s) = true := by
  cases i <;> simp [exec, hs]

theorem answerWf_step (s : State) (hs : memsWf s.mems = true) : answerWf (step s) = true := by
  unfold step
  split
  · exact hs
  · exact answerWf_exec _ _ hs

/-- Settles O3: every command's answer keeps both memories in canonical form. -/
theorem everyStepKeepsMemoryCanonical : Obligations.EveryStepKeepsMemoryCanonical := by
  unfold Obligations.EveryStepKeepsMemoryCanonical
  intro s t hs hstep
  rw [memOk_eq_memsWf] at hs ⊢
  have hanswer := answerWf_step s hs
  rwa [hstep, answerWf_next] at hanswer

end Sys2Proof.Machine

/-! ### A write of a whole store line -/

namespace Sys2Proof.Machine

theorem memWrite_append (m : List Host.Cell) (a : Nat) (xs ys : List Byte) :
    memWrite m a (xs ++ ys) = memWrite (memWrite m a xs) (a + xs.length) ys := by
  induction xs generalizing m a with
  | nil => rfl
  | cons x r ih => rw [List.cons_append, memWrite, memWrite, ih, List.length_cons, Nat.add_assoc, Nat.add_comm 1]

theorem padTo_of_length {l : List Byte} {n : Nat} (h : l.length = n) : padTo l n = l := by
  simp [padTo, zeros, ← h]

theorem length_slice {l : List Byte} {o n : Nat} (h : o + n ≤ l.length) : (slice l o n).length = n := by
  simp [slice]
  omega

/-- Word after word, a write covers what it covers at once. -/
theorem foldl_memWrite_words (m : List Host.Cell) (a : Nat) {data : List Byte} {n : Nat} (h : 8 * n ≤ data.length) :
    (List.range n).foldl (fun m w => memWrite m (a + 8 * w) (padTo (slice data (8 * w) 8) 8)) m = memWrite m a (data.take (8 * n)) := by
  induction n with
  | zero => rfl
  | succ n ih =>
    have hword : padTo (slice data (8 * n) 8) 8 = slice data (8 * n) 8 := padTo_of_length (length_slice (by omega))
    have htake : data.take (8 * (n + 1)) = data.take (8 * n) ++ slice data (8 * n) 8 := by
      rw [Nat.mul_add, List.take_add, slice]
    rw [List.range_succ, List.foldl_append, ih (by omega), List.foldl_cons, List.foldl_nil, hword, htake, memWrite_append,
      List.length_take_of_le (by omega)]

/-- A write of a whole line leaves the line's bytes in memory and ends the upsets of its words (R104). -/
theorem writeLine_eq (s : State) (cl line : Nat) {data : List Byte} (h : data.length = 128) : s.writeLine cl line data =
    State.scrubWords { s with mem := memWrite s.mem (storeAddr cl line) data } .store (storeKey cl line) (List.range 16) := by
  rw [State.writeLine, State.writeWords, foldl_memWrite_words _ _ (by omega), List.take_of_length_le (by omega)]

end Sys2Proof.Machine

/-! ### The store scrub, the assize check and the journal (O54) -/

namespace Sys2Proof.Machine

/-! #### A scrub's read (R110 to R112, R119) -/

theorem length_flatten_of_const {α : Type} (n : Nat) (ls : List (List α)) (h : ∀ l ∈ ls, l.length = n) : ls.flatten.length = n * ls.length := by
  rw [List.length_flatten, List.map_congr_left h]
  simp [Nat.mul_comm]

theorem length_eccRead_data {us : List Upset} {area : Area} {line : Nat} {raw : List Byte} (h : raw.length = 128) :
    (eccRead us area line raw).data.length = 128 := by
  unfold eccRead
  split
  · exact h
  · rw [length_flatten_of_const 8 _ (by simp +contextual [leBytes_length])]
    simp

/-- The rows' repairs and the journal are all that a failed tile changes. -/
theorem tileFail_frame (s : State) (row col src : Nat) :
    s.tileFail row col src = { s with rows := (s.tileFail row col src).rows, cfg := (s.tileFail row col src).cfg } := by
  unfold State.tileFail
  dsimp only
  split
  · rfl
  · rw [journal_frame]

theorem ueLine_frame (s : State) (cl line : Nat) : s.ueLine cl line =
    { s with rows := (s.ueLine cl line).rows, flt := (s.ueLine cl line).flt, cfg := (s.ueLine cl line).cfg } := by
  unfold State.ueLine
  dsimp only
  split
  · rw [tileFail_frame]
  · rw [journal_frame]
    split <;> rfl

theorem raised_ueLine (s : State) (cl line : Nat) : (s.ueLine cl line).flt.raised = s.flt.raised := by
  unfold State.ueLine
  dsimp only
  split
  · rw [tileFail_frame]
  · rw [journal_frame]
    split <;> rfl

theorem reportCorr_frame (s : State) (code : BitVec 16) (area line src agent : Nat) (log : Reg) (addr : Nat) :
    s.reportCorr code area line src agent log addr = { s with flt := (s.reportCorr code area line src agent log addr).flt } := by
  unfold State.reportCorr
  split
  · rfl
  · rw [(raise_spec _ _ _ _ _ _ _).1]

/-- What the corrector reads of a store line. -/
abbrev State.storeEcc (s : State) (cl line : Nat) : EccRead :=
  eccRead s.upsets .store (storeKey cl line) (memRead s.mem (storeAddr cl line) 128)

theorem readLine_data (s : State) (cl line : Nat) : (s.readLine cl line).1 = (s.storeEcc cl line).data := by
  unfold State.readLine
  dsimp only
  split <;> rfl

theorem length_storeEcc_data (s : State) (cl line : Nat) : (s.storeEcc cl line).data.length = 128 := length_eccRead_data (length_memRead _ _ _)

theorem readLine_frame (s : State) (cl line : Nat) : (s.readLine cl line).2 =
    { s with clusters := (s.readLine cl line).2.clusters, rows := (s.readLine cl line).2.rows, flt := (s.readLine cl line).2.flt
             cfg := (s.readLine cl line).2.cfg } := by
  unfold State.readLine
  dsimp only
  split
  · rfl
  · dsimp only
    split
    · rw [ueLine_frame, (raise_spec _ _ _ _ _ _ _).1]
      rfl
    · rw [reportCorr_frame]
      rfl

/-- A corrected read counts at its cluster and reports, and changes no more (R110). -/
theorem readLine_corrected {s : State} {cl line : Nat} (hbad : (s.storeEcc cl line).bad = []) (hcorr : (s.storeEcc cl line).corr ≠ []) :
    ((s.readLine cl line).2.clu cl).eccCnt = satInc (s.clu cl).eccCnt 0 32 1 ∧
      (s.readLine cl line).2 = { s with clusters := (s.readLine cl line).2.clusters, flt := (s.readLine cl line).2.flt } := by
  unfold State.readLine
  simp only [hbad, List.isEmpty_eq_false_iff.mpr hcorr, List.isEmpty_nil, Bool.false_and, Bool.not_true, Bool.false_eq_true, if_false]
  rw [reportCorr_frame]
  exact ⟨congrArg Cluster.eccCnt (State.clu_setClu _ _ _), rfl⟩

/-- An uncorrectable one counts, stands in the cluster's register and is raised (R111). -/
theorem readLine_uncorrectable {s : State} {cl line : Nat} (hbad : (s.storeEcc cl line).bad ≠ []) :
    ((s.readLine cl line).2.clu cl).eccCnt = satInc (s.clu cl).eccCnt 32 16 1 ∧ ((s.readLine cl line).2.clu cl).eccUe = true ∧
      raisedOne s (s.readLine cl line).2 0x3002 (spanOf cl) := by
  unfold State.readLine
  simp only [List.isEmpty_eq_false_iff.mpr hbad, Bool.and_false, Bool.false_eq_true, if_false, Bool.not_false, if_true]
  refine ⟨?_, ?_, ?_⟩
  · rw [ueLine_frame, (raise_spec _ _ _ _ _ _ _).1]
    exact congrArg Cluster.eccCnt (State.clu_setClu _ _ _)
  · rw [ueLine_frame, (raise_spec _ _ _ _ _ _ _).1]
    exact (congrArg Cluster.eccUe (State.clu_setClu _ _ _)).trans (Bool.or_true _)
  · rw [raisedOne, raised_ueLine]
    obtain ⟨-, r, hraised, hcode, hsrc, -⟩ := raise_spec _ _ _ _ _ _ _
    exact ⟨r, hraised, hcode, hsrc⟩

/-! #### The rewrite of a line (R112, R119) -/

/-- The state in which a corrected line has been read and rewritten. -/
def State.rewritten (s : State) (cl line : Nat) : State :=
  { (s.readLine cl line).2 with
    mem := memWrite s.mem (storeAddr cl line) (s.storeEcc cl line).data
    upsets := s.upsets.filter (fun u => u.hard || !(u.area == .store && u.line == storeKey cl line)) }

theorem scrubLine_of_not_corrected {s : State} {cl line : Nat} (h : (s.storeEcc cl line).bad ≠ [] ∨ (s.storeEcc cl line).corr = []) :
    s.scrubLine cl line = (s.readLine cl line).2 := by
  unfold State.scrubLine
  exact if_pos (by simpa using h)

theorem scrubLine_of_corrected {s : State} {cl line : Nat} (hbad : (s.storeEcc cl line).bad = []) (hcorr : (s.storeEcc cl line).corr ≠ []) :
    s.scrubLine cl line =
      if s.stuckLine cl line then (s.rewritten cl line).tileFail (cl / 32) (s.physColOf cl) 3 else s.rewritten cl line := by
  obtain ⟨-, hframe⟩ := readLine_corrected hbad hcorr
  have hmem : (s.readLine cl line).2.mem = s.mem := by rw [hframe]
  have hupsets : (s.readLine cl line).2.upsets = s.upsets := by rw [hframe]
  have hwrite : { (s.readLine cl line).2.writeWords cl line (s.readLine cl line).1 (List.range 16) with
      upsets := (s.readLine cl line).2.upsets.filter (fun u => u.hard || !(u.area == .store && u.line == storeKey cl line)) } =
      s.rewritten cl line := by
    rw [← State.writeLine, readLine_data, writeLine_eq _ _ _ (length_storeEcc_data s cl line), State.scrubWords, hmem, hupsets]
    rfl
  have hcol : (s.rewritten cl line).physColOf cl = s.physColOf cl := by
    rw [State.rewritten, hframe]
    rfl
  unfold State.scrubLine
  dsimp only
  rw [if_neg (by simpa using ⟨hbad, hcorr⟩), hwrite, hcol]

/-- What a scrub may change, and that it ends no other upsets than the store's. -/
structure Scrubbed (s t : State) : Prop where
  frame : t = { s with mem := t.mem, upsets := t.upsets, clusters := t.clusters, rows := t.rows, flt := t.flt, cfg := t.cfg }
  others : ∀ u, u.area ≠ .store → (u ∈ t.upsets ↔ u ∈ s.upsets)

theorem Scrubbed.refl (s : State) : Scrubbed s s := ⟨rfl, fun _ _ => Iff.rfl⟩

theorem Scrubbed.trans {s t u : State} (h : Scrubbed s t) (h' : Scrubbed t u) : Scrubbed s u :=
  ⟨by rw [h'.frame, h.frame], fun x hx => (h'.others x hx).trans (h.others x hx)⟩

theorem scrubbed_readLine (s : State) (cl line : Nat) : Scrubbed s (s.readLine cl line).2 := by
  rw [readLine_frame]
  exact ⟨rfl, fun _ _ => Iff.rfl⟩

theorem scrubbed_rewritten (s : State) (cl line : Nat) : Scrubbed s (s.rewritten cl line) := by
  refine ⟨?_, fun u hu => ?_⟩
  · rw [State.rewritten, readLine_frame]
  · simp [State.rewritten, hu]

theorem scrubbed_tileFail (s : State) (row col src : Nat) : Scrubbed s (s.tileFail row col src) := by
  rw [tileFail_frame]
  exact ⟨rfl, fun _ _ => Iff.rfl⟩

theorem scrubbed_scrubLine (s : State) (cl line : Nat) : Scrubbed s (s.scrubLine cl line) := by
  by_cases h : (s.storeEcc cl line).bad ≠ [] ∨ (s.storeEcc cl line).corr = []
  · rw [scrubLine_of_not_corrected h]
    exact scrubbed_readLine s cl line
  · obtain ⟨hbad, hcorr⟩ := not_or.mp h
    rw [scrubLine_of_corrected (not_ne_iff.mp hbad) hcorr]
    split
    · exact (scrubbed_rewritten s cl line).trans (scrubbed_tileFail _ _ _ _)
    · exact scrubbed_rewritten s cl line

/-- A pass over the store takes line after line, but those of spans that run or do not answer. -/
def State.scrubStep (s : State) (x : Nat × Nat) : State :=
  if x.1 < 800 && !(s.spn (spanOf x.1)).running && !s.mute (spanOf x.1) then s.scrubLine x.1 x.2 else s

theorem scrubbed_foldl (l : List (Nat × Nat)) (s : State) : Scrubbed s (l.foldl State.scrubStep s) := by
  induction l generalizing s with
  | nil => exact Scrubbed.refl s
  | cons x r ih =>
    refine Scrubbed.trans ?_ (ih _)
    unfold State.scrubStep
    split
    · exact scrubbed_scrubLine s x.1 x.2
    · exact Scrubbed.refl s

theorem exec_storeScrubPass (s : State) : exec .storeScrubPass s = .next (if s.busy then s else s.upsetLines.foldl State.scrubStep s) :=
  (apply_ite Host.Outcome.next (s.busy = true) _ _).symm

theorem exec_storeScrubPass_of_busy {s : State} (h : s.busy = true) : exec .storeScrubPass s = .next s := by
  rw [exec_storeScrubPass, if_pos h]

theorem exec_storeScrubPass_of_one {s : State} {cl line : Nat} (hbusy : s.busy = false) (hone : s.upsetLines = [(cl, line)]) (hcl : cl < 800)
    (hrun : (s.spn (spanOf cl)).running = false) (hmute : s.mute (spanOf cl) = false) :
    exec .storeScrubPass s = .next (s.scrubLine cl line) := by
  rw [exec_storeScrubPass, if_neg (by simp [hbusy]), hone]
  simp [State.scrubStep, hcl, hrun, hmute]

/-- A rewritten line holds what the corrector read, and no upset but those of failed cells; no other byte has changed (R112). -/
theorem rewritten_spec {s : State} {cl line : Nat} (hbad : (s.storeEcc cl line).bad = []) (hcorr : (s.storeEcc cl line).corr ≠ [])
    (hstuck : s.stuckLine cl line = false) (hm : memWf s.mem = true) :
    let t := s.rewritten cl line
    (t.clu cl).eccCnt = satInc (s.clu cl).eccCnt 0 32 1 ∧ memRead t.mem (storeAddr cl line) 128 = (s.storeEcc cl line).data ∧
      (∀ u ∈ t.upsets, ¬ (u.area = .store ∧ u.line = storeKey cl line)) ∧
      (∀ a, (a < storeAddr cl line ∨ storeAddr cl line + 128 ≤ a) → memGet t.mem a = memGet s.mem a) ∧
      t = { s with mem := t.mem, upsets := t.upsets, clusters := t.clusters, flt := t.flt } := by
  obtain ⟨hcnt, hframe⟩ := readLine_corrected hbad hcorr
  have hlen := length_storeEcc_data s cl line
  refine ⟨hcnt, ?_, fun u hu hline => ?_, fun a ha => memGet_memWrite_of_outside hm (hlen.symm ▸ ha), ?_⟩
  · exact hlen ▸ memRead_memWrite hm (storeAddr cl line) (s.storeEcc cl line).data
  · obtain ⟨hmem, hkept⟩ := List.mem_filter.mp hu
    have hhard : u.hard = true := by simpa [hline] using hkept
    have hsoft := List.any_eq_false.mp hstuck u hmem
    simp [hhard, hline] at hsoft
  · rw [State.rewritten, hframe]

/-- A first failed tile of a row is pending (R119). -/
theorem pending_tileFail {s : State} {row col src : Nat} (hactive : (s.row row).active = 33) (hpending : (s.row row).pending = 33) (hcol : col < 33) :
    ((s.tileFail row col src).row row).pending = col := by
  have hne : (s.row row).active ≠ col := by omega
  unfold State.tileFail
  dsimp only
  rw [if_neg (by omega), if_neg (by simp [hactive, hpending]), if_neg hne, journal_frame]
  exact congrArg Repair.pending (Tbl.get_set _ _ _ _)

theorem row_rewritten {s : State} {cl line : Nat} (hbad : (s.storeEcc cl line).bad = []) (hcorr : (s.storeEcc cl line).corr ≠ []) (row : Nat) :
    (s.rewritten cl line).row row = s.row row := by
  obtain ⟨-, hframe⟩ := readLine_corrected hbad hcorr
  rw [State.rewritten, hframe]
  rfl

/-! #### A pass of the assize (R456 to R460) -/

/-- A state in which a pass has come so far: at machine time `now`, `pass` passes counted and the regions `bad` marked. -/
def State.inPass (s : State) (now : BitVec 112) (beats : Tbl Nat) (pass : Nat) (bad : List Nat) : State :=
  { s with tim := { s.tim with now, beats }, cfg := { s.cfg with pass, bad } }

/-- Registers whose values depend neither on machine time nor on the assize. -/
def Place.steady : Place → Bool
  | .tim o => o != 0x10
  | .spn _ o => o == 0x08
  | .olf .. | .svc _ => true
  | .hst o => o == 0x10
  | .flt o => o == 0
  | .plc o => o != 0x08
  | _ => false

theorem steady_region6Regs : region6Regs.all (fun x => (placeOf x.1).steady) = true := by decide +kernel

section
variable (s : State) (now : BitVec 112) (beats : Tbl Nat) (pass : Nat) (bad : List Nat)

theorem readTim_inPass {o : Nat} (h : o ≠ 0x10) : (s.inPass now beats pass bad).readTim o = s.readTim o := by
  unfold State.readTim
  split
  case h_3 => contradiction
  all_goals rfl

theorem readPlc_inPass {o : Nat} (h : o ≠ 0x08) : (s.inPass now beats pass bad).readPlc o = s.readPlc o := by
  unfold State.readPlc
  split
  case h_2 => contradiction
  all_goals rfl

theorem regValue_inPass {r : Nat} (h : (placeOf r).steady = true) : (s.inPass now beats pass bad).regValue r = s.regValue r := by
  unfold State.regValue
  generalize placeOf r = p at h
  cases p with
  | tim o => exact readTim_inPass s now beats pass bad (bne_iff_ne.mp h)
  | plc o => exact readPlc_inPass s now beats pass bad (bne_iff_ne.mp h)
  | spn _ o | hst o | flt o =>
    rw [Place.steady, beq_iff_eq] at h
    subst h
    rfl
  | olf | svc => rfl
  | cfg | tik | msq | cwy | cxl | pwr | sec | dmp | clu | repair | shadow | none => exact absurd h (by simp [Place.steady])

theorem region6_inPass : (s.inPass now beats pass bad).region6 = s.region6 := by
  have hsteady := List.all_eq_true.mp steady_region6Regs
  simp only [State.region6, List.flatMap_def]
  rw [List.map_congr_left fun x hx => by rw [regValue_inPass s now beats pass bad (hsteady x hx)]]

theorem regionOk_inPass (n : Nat) : (s.inPass now beats pass bad).regionOk n = s.regionOk n := by
  unfold State.regionOk
  rw [region6_inPass]
  rfl

end

/-- A pass checks one region. -/
def State.assizeStep (s : State) (n : Nat) : State :=
  if s.regionOk n then s.updCfg (fun c => { c with bad := c.bad.filter (· ≠ n) }) else s.assizeBad n

/-- The state at the start of a pass: the next integer millisecond, with the pass counted. -/
def State.passBegun (s : State) : State := (s.alignedBeat beatAssize (1000000 * ns)).updCfg (fun c => { c with pass := c.pass + 1 })

theorem exec_assizePass {s : State} (hup : s.rst.dieUp = true) (hstage : s.rst.stage ≠ .begun) (hdie : s.pwr.computeOff = false) :
    exec .assizePass s = .next (forEach s.passBegun s.regions State.assizeStep) := by
  have hruns : s.assizeRuns = true := by simp [State.assizeRuns, hup, hstage, hdie]
  have hregions : s.passBegun.regions = s.regions := by
    rw [State.passBegun, State.alignedBeat_eq]
    rfl
  show execAssizePass s = _
  rw [execAssizePass, if_neg (by simp [hruns]), ← hregions]
  rfl

theorem passBegun_eq (s : State) :
    s.passBegun = s.inPass (s.alignedBeat beatAssize (1000000 * ns)).tim.now (s.alignedBeat beatAssize (1000000 * ns)).tim.beats
      (s.cfg.pass + 1) s.cfg.bad := by
  rw [State.passBegun, State.alignedBeat_eq]
  rfl

theorem tim_passBegun (s : State) : s.passBegun.tim = (s.alignedBeat beatAssize (1000000 * ns)).tim := by rfl

/-- Where every region matches, those of the pass are cleared. -/
theorem forEach_assizeStep_of_ok (s : State) (now : BitVec 112) (beats : Tbl Nat) (pass : Nat) {l : List Nat} (h : ∀ n ∈ l, s.regionOk n = true)
    (bad : List Nat) : forEach (s.inPass now beats pass bad) l State.assizeStep =
      s.inPass now beats pass (bad.filter (fun n => !l.contains n)) := by
  induction l generalizing bad with
  | nil => simp [forEach]
  | cons n r ih =>
    have hstep : (s.inPass now beats pass bad).assizeStep n = s.inPass now beats pass (bad.filter (· ≠ n)) := by
      rw [State.assizeStep, regionOk_inPass, if_pos (h n List.mem_cons_self)]
      rfl
    have hfilter : (bad.filter (· ≠ n)).filter (fun m => !r.contains m) = bad.filter (fun m => !(n :: r).contains m) := by
      rw [List.filter_filter]
      exact List.filter_congr fun m _ => by simp [Bool.and_comm]
    rw [forEach, List.foldl_cons, hstep, ← hfilter]
    exact ih (fun m hm => h m (List.mem_cons_of_mem n hm)) _

/-- What the steps of a pass may change, and that the references of the groups stand. -/
structure Passing (s t : State) : Prop where
  frame : t = { s with cfg := t.cfg, flt := t.flt }
  pass : t.cfg.pass = s.cfg.pass
  live : t.cfg.grpLive = s.cfg.grpLive

theorem passing_assizeStep (s : State) (n : Nat) : Passing s (s.assizeStep n) := by
  unfold State.assizeStep
  split
  · exact ⟨rfl, rfl, rfl⟩
  · exact ⟨rfl, rfl, rfl⟩

theorem Passing.regionOk {s t : State} (h : Passing s t) {n : Nat} (hn : n < 6) : t.regionOk n = s.regionOk n := by
  have hlive : t.groupLive n = s.groupLive n := by
    rw [h.frame]
    rfl
  rw [State.regionOk, State.regionOk, if_pos hn, if_pos hn, State.grpLive, State.grpLive, h.live, hlive]

theorem Passing.trans {s t u : State} (h : Passing s t) (h' : Passing t u) : Passing s u :=
  ⟨by rw [h'.frame, h.frame], h'.pass.trans h.pass, h'.live.trans h.live⟩

/-- Region `n` is marked and its fault stands. -/
def State.marked (s : State) (n : Nat) : Prop := n ∈ s.cfg.bad ∧ ∃ r ∈ s.flt.raised, r.code = 0x6003 ∧ r.source = 113

theorem marked_assizeStep_self {s : State} {n : Nat} (h : s.regionOk n = false) : (s.assizeStep n).marked n := by
  rw [State.assizeStep, if_neg (by simp [h])]
  obtain ⟨-, r, hraised, hcode, hsrc, -⟩ := raise_spec _ _ _ _ _ _ _
  refine ⟨?_, r, ?_, hcode, hsrc⟩
  · show n ∈ if s.cfg.bad.contains n then s.cfg.bad else s.cfg.bad ++ [n]
    split
    case isTrue hmem => exact List.contains_iff_mem.mp hmem
    case isFalse => simp
  · exact hraised ▸ List.mem_append_right _ (List.mem_singleton_self r)

theorem marked_assizeStep {s : State} {n m : Nat} (h : s.regionOk n = false) (hmarked : s.marked n) : (s.assizeStep m).marked n := by
  obtain ⟨hbad, r, hr, hfault⟩ := hmarked
  unfold State.assizeStep
  split
  case isTrue hok =>
    refine ⟨List.mem_filter.mpr ⟨hbad, ?_⟩, r, hr, hfault⟩
    exact decide_eq_true (fun hnm => by simp [← hnm, h] at hok)
  case isFalse =>
    obtain ⟨-, _, hraised, -⟩ := raise_spec _ _ _ _ _ _ _
    refine ⟨?_, r, hraised ▸ List.mem_append_left _ hr, hfault⟩
    show n ∈ if s.cfg.bad.contains m then s.cfg.bad else s.cfg.bad ++ [m]
    split
    · exact hbad
    · exact List.mem_append_left _ hbad

/-- A region that does not match is marked in its turn, and stays so. -/
theorem forEach_assizeStep {s : State} {n : Nat} (hn : n < 6) (h : s.regionOk n = false) {l : List Nat} (hl : n ∈ l ∨ s.marked n) :
    Passing s (forEach s l State.assizeStep) ∧ (forEach s l State.assizeStep).marked n := by
  induction l generalizing s with
  | nil => exact ⟨⟨rfl, rfl, rfl⟩, hl.resolve_left List.not_mem_nil⟩
  | cons m r ih =>
    have hstep := passing_assizeStep s m
    have hmark : n ∈ r ∨ (s.assizeStep m).marked n := by
      rcases hl with hmem | hmarked
      · rcases List.mem_cons.mp hmem with rfl | hr
        · exact .inr (marked_assizeStep_self h)
        · exact .inl hr
      · exact .inr (marked_assizeStep h hmarked)
    obtain ⟨hrest, hmarked⟩ := ih (s := s.assizeStep m) ((hstep.regionOk hn).trans h) hmark
    exact ⟨hstep.trans hrest, hmarked⟩

/-- A pass that finds every region as it should be (R457). -/
theorem assizePass_of_ok {s : State} (hok : ∀ n ∈ s.regions, s.regionOk n = true) :
    let t := forEach s.passBegun s.regions State.assizeStep
    t.cfg = { s.cfg with pass := s.cfg.pass + 1, bad := s.cfg.bad.filter (fun n => !s.regions.contains n) } ∧
      t.tim = (s.alignedBeat beatAssize (1000000 * ns)).tim ∧ t = { s with cfg := t.cfg, tim := t.tim } := by
  dsimp only
  rw [← tim_passBegun, passBegun_eq, forEach_assizeStep_of_ok s _ _ _ hok]
  exact ⟨rfl, rfl, rfl⟩

/-- A pass that finds region `n` changed (R460). -/
theorem assizePass_of_mismatch {s : State} {n : Nat} (hn : n < 6) (h : s.regionOk n = false) :
    let t := forEach s.passBegun s.regions State.assizeStep
    t.cfg.pass = s.cfg.pass + 1 ∧ t.marked n ∧ t.tim = (s.alignedBeat beatAssize (1000000 * ns)).tim ∧
      t = { s with cfg := t.cfg, flt := t.flt, tim := t.tim } := by
  have hbegun : s.passBegun.regionOk n = false := by rw [passBegun_eq, regionOk_inPass, h]
  have hmem : n ∈ s.regions := by simp [State.regions, hn]
  obtain ⟨hpassing, hmarked⟩ := forEach_assizeStep hn hbegun (.inl hmem)
  refine ⟨hpassing.pass.trans (by rw [passBegun_eq]; rfl), hmarked, ?_, ?_⟩
  · rw [hpassing.frame, tim_passBegun]
  · rw [hpassing.frame, passBegun_eq]
    rfl

/-! #### Records of the journal (R461 to R464) -/

theorem slice_skip {a : List Byte} {k : Nat} (ha : a.length = k) (b : List Byte) (o n : Nat) : slice (a ++ b) (k + o) n = slice b o n := by
  rw [slice, slice, ← List.drop_drop, List.drop_left' ha]

theorem slice_here {b : List Byte} {n : Nat} (hb : b.length = n) (c : List Byte) : slice (b ++ c) 0 n = b := by
  rw [slice, List.drop_zero, List.take_left' hb]

theorem length_padTo (l : List Byte) (n : Nat) : (padTo l n).length = n := by
  simp [padTo, zeros]
  omega

/-- What the CRC of a record covers (R462). -/
def JRec.body (r : JRec) : List Byte :=
  leBytes r.ty.toNat 2 ++ (leBytes r.payload.length 2 ++ (leBytes r.seq 8 ++ (leBytes r.time 8 ++ (leBytes r.gen.toNat 1 ++ (zeros 3 ++
    padTo r.payload (roundUp r.payload.length 8))))))

theorem JRec.bytes_eq (r : JRec) : r.bytes = r.body ++ (leBytes (crc32 r.body).toNat 4 ++ zeros 4) := by
  have hbody : leBytes r.ty.toNat 2 ++ leBytes r.payload.length 2 ++ leBytes r.seq 8 ++ leBytes r.time 8 ++ leBytes r.gen.toNat 1 ++ zeros 3 ++
      padTo r.payload (roundUp r.payload.length 8) = r.body := by simp only [JRec.body, List.append_assoc]
  rw [JRec.bytes, hbody, sealed, List.append_assoc]

theorem JRec.length_body (r : JRec) : r.body.length = 24 + roundUp r.payload.length 8 := by
  simp only [JRec.body, List.length_append, leBytes_length, length_padTo, zeros, List.length_replicate]
  omega

/-- The fields of a record's bytes, from the first on. -/
theorem JRec.bytes_fields (r : JRec) : r.bytes = leBytes r.ty.toNat 2 ++ (leBytes r.payload.length 2 ++ (leBytes r.seq 8 ++ (leBytes r.time 8 ++
    (leBytes r.gen.toNat 1 ++ (zeros 3 ++ (r.payload ++ (zeros (roundUp r.payload.length 8 - r.payload.length) ++
      (leBytes (crc32 r.body).toNat 4 ++ zeros 4)))))))) := by
  have hpad : padTo r.payload (roundUp r.payload.length 8) = r.payload ++ zeros (roundUp r.payload.length 8 - r.payload.length) := by
    rw [padTo, List.take_of_length_le (le_roundUp _ (by omega))]
  rw [JRec.bytes_eq]
  generalize leBytes (crc32 r.body).toNat 4 ++ zeros 4 = tail
  simp only [JRec.body, hpad, List.append_assoc]

theorem leNat_leBytes_of_lt {n k : Nat} (h : n < 256 ^ k) : leNat (leBytes n k) = n := by
  rw [leNat_leBytes, Nat.mod_eq_of_lt h]

section
variable (r : JRec)

theorem JRec.ty_bytes : leAt r.bytes 0 2 = r.ty.toNat := by
  rw [JRec.bytes_fields, leAt, slice_here (leBytes_length _ _), leNat_leBytes_of_lt r.ty.isLt]

theorem JRec.len_bytes (h : r.payload.length ≤ 4064) : leAt r.bytes 2 2 = r.payload.length := by
  rw [JRec.bytes_fields, leAt, slice_skip (leBytes_length _ 2) _ 0, slice_here (leBytes_length _ _), leNat_leBytes_of_lt (by omega)]

theorem JRec.seq_bytes (h : r.seq < 2 ^ 64) : leAt r.bytes 4 8 = r.seq := by
  rw [JRec.bytes_fields, leAt, slice_skip (leBytes_length _ 2) _ 2, slice_skip (leBytes_length _ 2) _ 0, slice_here (leBytes_length _ _),
    leNat_leBytes_of_lt h]

theorem JRec.time_bytes (h : r.time < 2 ^ 64) : leAt r.bytes 12 8 = r.time := by
  rw [JRec.bytes_fields, leAt, slice_skip (leBytes_length _ 2) _ 10, slice_skip (leBytes_length _ 2) _ 8, slice_skip (leBytes_length _ 8) _ 0,
    slice_here (leBytes_length _ _), leNat_leBytes_of_lt h]

theorem JRec.gen_bytes : leAt r.bytes 20 1 = r.gen.toNat := by
  rw [JRec.bytes_fields, leAt, slice_skip (leBytes_length _ 2) _ 18, slice_skip (leBytes_length _ 2) _ 16, slice_skip (leBytes_length _ 8) _ 8,
    slice_skip (leBytes_length _ 8) _ 0, slice_here (leBytes_length _ _), leNat_leBytes_of_lt (by omega)]

theorem JRec.payload_bytes : slice r.bytes 24 r.payload.length = r.payload := by
  rw [JRec.bytes_fields, slice_skip (leBytes_length _ 2) _ 22, slice_skip (leBytes_length _ 2) _ 20, slice_skip (leBytes_length _ 8) _ 12,
    slice_skip (leBytes_length _ 8) _ 4, slice_skip (leBytes_length _ 1) _ 3, slice_skip (show (zeros 3).length = 3 from rfl) _ 0, slice_here rfl]

theorem JRec.jrecOf_bytes (hlen : r.payload.length ≤ 4064) (hseq : r.seq < 2 ^ 64) (htime : r.time < 2 ^ 64) : jrecOf r.bytes = r := by
  rw [jrecOf, r.ty_bytes, r.len_bytes hlen, r.seq_bytes hseq, r.time_bytes htime, r.gen_bytes, r.payload_bytes, BitVec.ofNat_toNat,
    BitVec.ofNat_toNat, BitVec.setWidth_eq, BitVec.setWidth_eq]

theorem JRec.length_bytes : r.bytes.length = 32 + roundUp r.payload.length 8 := by
  rw [JRec.bytes_eq, List.length_append, r.length_body, List.length_append, leBytes_length, zeros, List.length_replicate]
  omega

/-- A record stands where its SEQ is above the last (R464). -/
theorem JRec.recStands_bytes (hseq : r.seq < 2 ^ 64) (last : Option Nat) :
    recStands r.bytes (24 + roundUp r.payload.length 8) 4 last = last.all (fun q => decide (q < r.seq)) := by
  have hcommit : leAt r.bytes (24 + roundUp r.payload.length 8 + 4) 4 = 0 := by
    rw [JRec.bytes_eq, leAt, slice_skip r.length_body, slice_skip (leBytes_length _ 4) _ 0]
    rfl
  have hcrc : leAt r.bytes (24 + roundUp r.payload.length 8) 4 = (crc32 r.body).toNat := by
    have hskip := slice_skip r.length_body (leBytes (crc32 r.body).toNat 4 ++ zeros 4) 0 4
    rw [Nat.add_zero] at hskip
    rw [JRec.bytes_eq, leAt, hskip, slice_here (leBytes_length _ _), leNat_leBytes_of_lt (crc32 r.body).isLt]
  have htake : r.bytes.take (24 + roundUp r.payload.length 8) = r.body := by rw [JRec.bytes_eq, List.take_left' r.length_body]
  rw [recStands, hcommit, hcrc, htake, r.seq_bytes hseq]
  simp

end

/-- A record starts at or after the append point, within its 4 KiB, and on a multiple of 32 (R461). -/
theorem recStart_spec (a : Nat) {n : Nat} (h : n ≤ 4064) : a ≤ recStart a (recLen n) ∧ recStart a (recLen n) % 4096 + recLen n ≤ 4096 ∧
    (a % 32 = 0 → recStart a (recLen n) % 32 = 0) := by
  have hlen : recLen n ≤ 4096 := by
    rw [recLen, roundUp, roundUp]
    omega
  unfold recStart
  split
  · rw [roundUp]
    omega
  · omega

/-! #### Appending, and compaction (R418, R465, R466) -/

theorem bank_setBank (c : Cfg) (b : JBank) : (c.setBank b).bank = b := by
  unfold Cfg.setBank Cfg.bank
  split <;> simp [*]

/-- The start of a compaction leaves the active bank and the next SEQ as they are. -/
theorem startCompact_keeps (s : State) : s.startCompact.cfg.bank = s.cfg.bank ∧ s.startCompact.cfg.nextSeq = s.cfg.nextSeq := by
  unfold State.startCompact
  split
  · exact ⟨rfl, rfl⟩
  · split
    · unfold State.updCfg Cfg.setSpare Cfg.bank
      dsimp only
      split <;> simp [*]
    · exact ⟨rfl, rfl⟩

/-- A record that the journal takes goes to the active bank with the next SEQ. -/
theorem journal_of_takes {s : State} {ty : BitVec 16} {b : List Byte} (h : s.cfg.takes ty b.length = true) :
    (s.journal ty b).cfg.nextSeq = s.cfg.nextSeq + 1 ∧ (s.journal ty b).cfg.bank = s.cfg.bank.add (s.jrec ty b s.cfg.nextSeq) := by
  have hbank : ∀ (u : Cfg) (n : Nat) (f : Bool) (a : Option Nat), ({ u with nextSeq := n, full := f, appAt := a } : Cfg).bank = u.bank :=
    fun _ _ _ _ => rfl
  unfold State.journal
  dsimp only
  rw [if_pos h]
  split
  · obtain ⟨hb, hn⟩ := startCompact_keeps { s with cfg :=
      { s.cfg.setBank (s.cfg.bank.add (s.jrec ty b s.cfg.nextSeq)) with
        nextSeq := s.cfg.nextSeq + 1
        full := s.cfg.full || decide (bankReserve ≤ (s.cfg.bank.add (s.jrec ty b s.cfg.nextSeq)).append)
        appAt := some s.tim.now.toNat } }
    exact ⟨hn, hb.trans (bank_setBank _ _)⟩
  · exact ⟨rfl, bank_setBank _ _⟩

theorem journal_of_not_takes {s : State} {ty : BitVec 16} {b : List Byte} (h : s.cfg.takes ty b.length = false) :
    s.journal ty b = { s with cfg := { s.cfg with full := true } } := by
  unfold State.journal
  dsimp only
  rw [if_neg (by simp [h])]

theorem exec_journalAppend {s : State} {ty : BitVec 16} {b : List Byte} (hb : b.length ≤ 4064) (hty : ty ≠ jrFault) :
    exec (.journalAppend ty b) s = .next (s.journal ty b) := by
  show execJournalAppend ty b s = _
  rw [execJournalAppend, if_neg (by omega), if_neg hty]

/-- The faults once the journal has taken the FAULT record of number `seq`. -/
def Flt.journaled (f : Flt) (seq : Nat) : Flt :=
  { f with toJournal := f.toJournal.filter (· ≠ seq)
           log := if f.toJournal.contains seq then
               Tbl.set f.log (seq % faultLogSize) (markJournaled (Tbl.get (zeros 64) f.log (seq % faultLogSize)))
             else f.log }

theorem exec_journalAppend_fault {s : State} {b : List Byte} (hb : b.length ≤ 4064) (htakes : s.cfg.takes jrFault b.length = true) :
    exec (.journalAppend jrFault b) s = .next { s.journal jrFault b with flt := s.flt.journaled (leAt b 4 4) } := by
  have hflt : (s.journal jrFault b).flt = s.flt := by rw [journal_frame]
  show execJournalAppend jrFault b s = _
  rw [execJournalAppend, if_neg (by omega), if_pos rfl, State.updFlt, hflt, htakes]
  rfl

theorem log_journaled {f : Flt} {seq : Nat} (h : f.toJournal.contains seq = true) :
    Tbl.get [] (f.journaled seq).log (seq % 65536) = markJournaled (Tbl.get (zeros 64) f.log (seq % 65536)) := by
  rw [Flt.journaled, if_pos h]
  exact Tbl.get_set _ _ _ _

theorem exec_compactionComplete {s : State} (h : s.cfg.compacting = true) : exec .compactionComplete s =
    .next { s with cfg := { s.cfg.setSpare (s.sealBank s.cfg.spare s.cfg.carried) with
      active := !s.cfg.active
      compacting := false
      nextSeq := s.cfg.nextSeq + 1
      full := decide (bankReserve ≤ (s.sealBank s.cfg.spare s.cfg.carried).append) } } :=
  if_neg (by simp [h])

theorem exec_compactionComplete_of_none {s : State} (h : s.cfg.compacting = false) : exec .compactionComplete s = .next s :=
  if_pos (by simp [h])

theorem exec_oldBankErased_of_not {s : State} (h : s.cfg.spareReady = true ∨ s.cfg.compacting = true) : exec .oldBankErased s = .next s :=
  if_pos (by simpa using h)

/-- The state with its spare bank erased. -/
def State.spareErased (s : State) : State := { s with cfg := { s.cfg.setSpare {} with spareReady := true } }

theorem exec_oldBankErased {s : State} (hspare : s.cfg.spareReady = false) (hcompacting : s.cfg.compacting = false) :
    exec .oldBankErased s = .next (if s.cfg.compactDue then s.spareErased.startCompact else s.spareErased) := by
  have hdue : s.spareErased.cfg.compactDue = s.cfg.compactDue := by
    unfold State.spareErased Cfg.setSpare
    split <;> rfl
  rw [← hdue]
  exact if_neg (by simp [hspare, hcompacting])

/-- A compaction that waited begins in the erased bank, with BANK at its start. -/
theorem startCompact_spareErased {s : State} (hcompacting : s.cfg.compacting = false) :
    let t := s.spareErased.startCompact
    t.cfg.compacting = true ∧ t.cfg.compactDue = false ∧ t.cfg.compactSeq = s.cfg.nextSeq ∧ t.cfg.spare = s.openBank (s.cfg.bank.count + 1) ∧
      t.cfg.bank = s.cfg.bank ∧ t = { s with cfg := t.cfg } := by
  have hnot : s.spareErased.cfg.compacting = false := by
    rw [← hcompacting]
    unfold State.spareErased Cfg.setSpare
    split <;> rfl
  have hready : s.spareErased.cfg.spareReady = true := rfl
  dsimp only
  rw [State.startCompact, if_neg (by simp [hnot]), if_pos hready]
  unfold State.spareErased State.updCfg Cfg.setSpare Cfg.spare Cfg.bank
  cases s.cfg.active <;> exact ⟨rfl, rfl, rfl, rfl, rfl, rfl⟩

/-! #### The statement -/

/-- A line whose rewrite fails marks its tile (R119). -/
theorem scrubLine_of_stuck {s : State} {cl line : Nat} (hbad : (s.storeEcc cl line).bad = []) (hcorr : (s.storeEcc cl line).corr ≠ [])
    (hstuck : s.stuckLine cl line = true) (hactive : (s.row (cl / 32)).active = 33) (hpending : (s.row (cl / 32)).pending = 33)
    (hcol : s.physColOf cl < 33) :
    let t := s.scrubLine cl line
    (t.row (cl / 32)).pending = s.physColOf cl ∧
      (∀ u, u ∈ t.upsets ↔ u ∈ s.upsets ∧ (u.hard = true ∨ ¬ (u.area = .store ∧ u.line = storeKey cl line))) ∧
      t = { s with mem := t.mem, upsets := t.upsets, clusters := t.clusters, rows := t.rows, flt := t.flt, cfg := t.cfg } := by
  have hrow := row_rewritten hbad hcorr (cl / 32)
  have hline := scrubLine_of_corrected hbad hcorr
  rw [if_pos hstuck] at hline
  refine ⟨?_, fun u => ?_, (scrubbed_scrubLine s cl line).frame⟩
  · rw [hline]
    exact pending_tileFail (hrow ▸ hactive) (hrow ▸ hpending) hcol
  · rw [hline, tileFail_frame]
    simp [State.rewritten, imp_iff_not_or]

theorem scrubLine_of_uncorrectable {s : State} {cl line : Nat} (hbad : (s.storeEcc cl line).bad ≠ []) :
    let t := s.scrubLine cl line
    (t.clu cl).eccCnt = satInc (s.clu cl).eccCnt 32 16 1 ∧ (t.clu cl).eccUe = true ∧ raisedOne s t 0x3002 (spanOf cl) ∧
      t = { s with clusters := t.clusters, rows := t.rows, flt := t.flt, cfg := t.cfg } := by
  obtain ⟨hcnt, hue, hraised⟩ := readLine_uncorrectable hbad
  rw [scrubLine_of_not_corrected (.inl hbad)]
  exact ⟨hcnt, hue, hraised, readLine_frame s cl line⟩

/-- Settles O54: each part from what its command does. -/
theorem scrubAssizeAndJournal : Obligations.ScrubAssizeAndJournal := by
  unfold Obligations.ScrubAssizeAndJournal
  intro s
  refine ⟨?idle, ?scrub, ?line, ?assize, ?record, ?start, ?append, ?complete, ?erased, ?notCompacting, ?notErased⟩
  case idle =>
    rintro (hbusy | hnone)
    · exact exec_storeScrubPass_of_busy hbusy
    · rw [exec_storeScrubPass, hnone]
      exact congrArg _ (ite_self s)
  case scrub =>
    refine ⟨_, exec_storeScrubPass s, ?_⟩
    split
    · exact ⟨(Scrubbed.refl s).others, (Scrubbed.refl s).frame⟩
    · exact ⟨(scrubbed_foldl _ s).others, (scrubbed_foldl _ s).frame⟩
  case line =>
    intro cl line hbusy hone hcl hrun hmute e
    have hexec := exec_storeScrubPass_of_one hbusy hone hcl hrun hmute
    refine ⟨fun hbad hcorr hstuck hm => ?_, fun hbad hcorr hstuck hactive hpending hcol => ?_, fun hbad => ?_⟩
    · rw [scrubLine_of_corrected hbad hcorr, hstuck, if_neg Bool.false_ne_true] at hexec
      exact ⟨_, hexec, rewritten_spec hbad hcorr hstuck hm⟩
    · exact ⟨_, hexec, scrubLine_of_stuck hbad hcorr hstuck hactive hpending hcol⟩
    · exact ⟨_, hexec, scrubLine_of_uncorrectable hbad⟩
  case assize =>
    intro hup hstage hdie
    have hexec := exec_assizePass hup hstage hdie
    refine ⟨fun hok => ⟨_, hexec, assizePass_of_ok hok⟩, fun n hn hbad => ?_⟩
    obtain ⟨hpass, ⟨hmem, hraised⟩, htim, hframe⟩ := assizePass_of_mismatch hn hbad
    exact ⟨_, hexec, hpass, hmem, hraised, htim, hframe⟩
  case record =>
    exact fun r hlen hseq htime => ⟨r.length_bytes, r.payload_bytes, r.jrecOf_bytes hlen hseq htime, r.recStands_bytes hseq⟩
  case start => exact fun a n hn => recStart_spec a hn
  case append =>
    intro ty b hb
    refine ⟨fun htakes => ?_, fun htakes hty => ?_⟩
    · obtain ⟨hseq, hbank⟩ := journal_of_takes htakes
      by_cases hty : ty = jrFault
      · subst hty
        exact ⟨_, exec_journalAppend_fault hb htakes, hseq, hbank, fun h => absurd rfl h,
          fun _ hwaits => ⟨log_journaled hwaits, rfl, by rw [journal_frame]⟩⟩
      · exact ⟨_, exec_journalAppend hb hty, hseq, hbank, fun _ => journal_frame s ty b, fun h => absurd h hty⟩
    · rw [exec_journalAppend hb hty, journal_of_not_takes htakes]
  case complete => exact fun h => exec_compactionComplete h
  case erased =>
    intro hspare hcompacting
    have hexec := exec_oldBankErased hspare hcompacting
    refine ⟨fun hdue => ?_, fun hdue => ?_⟩
    · rw [hexec, hdue]
      rfl
    · rw [hdue, if_pos rfl] at hexec
      exact ⟨_, hexec, startCompact_spareErased hcompacting⟩
  case notCompacting => exact fun h => exec_compactionComplete_of_none h
  case notErased => exact fun h => exec_oldBankErased_of_not h

end Sys2Proof.Machine

/-! ### Accesses take effect in their cycles (O15) -/

namespace Sys2Proof.Machine

/-! #### The clusters of a span -/

theorem cluAt_posOf (cl : Nat) : cluAt (spanOf cl) (posOf cl) = cl := by
  unfold cluAt spanOf posOf
  omega

theorem mem_clustersOf (cl : Nat) : cl ∈ clustersOf (spanOf cl) :=
  List.mem_map.mpr ⟨posOf cl, List.mem_range.mpr (Nat.mod_lt _ (by omega)), cluAt_posOf cl⟩

theorem nodup_clustersOf (span : Nat) : (clustersOf span).Nodup := by
  refine List.Nodup.map (fun a b h => ?_) List.nodup_range
  unfold cluAt at h
  omega

/-! #### A cycle with one access (R105 to R108) -/

theorem flatMap_of_single {α β : Type} {l : List α} (hl : l.Nodup) {a : α} (ha : a ∈ l) {f : α → List β}
    (h : ∀ x ∈ l, x ≠ a → f x = []) : l.flatMap f = f a := by
  induction l with
  | nil => exact absurd ha List.not_mem_nil
  | cons x r ih =>
    obtain ⟨hx, hr⟩ := List.nodup_cons.mp hl
    rw [List.flatMap_cons]
    rcases List.mem_cons.mp ha with rfl | har
    · have hrest : r.flatMap f = [] := List.flatMap_eq_nil_iff.mpr fun y hy => h y (List.mem_cons_of_mem a hy) (fun hya => hx (hya ▸ hy))
      rw [hrest, List.append_nil]
    · rw [h x List.mem_cons_self (fun hxa => hx (hxa ▸ har)), List.nil_append, ih hr har fun y hy => h y (List.mem_cons_of_mem x hy)]

/-- A cluster without the operations due up to cycle `m`. -/
def State.takeDue (m : Nat) (s : State) (c : Nat) : State := s.updClu c (fun k => { k with ops := k.ops.filter (fun o => !(o.cyc ≤ m)) })

/-- A cluster without the instructions in flight whose operations are done. -/
def State.retireFly (s : State) (c : Nat) : State := if (s.clu c).fly.isEmpty then s else s.updClu c Cluster.retire

/-- The state at the start of a span's cycle, its due operations taken from their clusters. -/
def State.cycleStart (s : State) (span : Nat) : State := forEach s (clustersOf span) (State.takeDue (s.spn span).cycle)

/-- The state at the end of a span's cycle `m`. -/
def State.cycleEnd (s : State) (span m : Nat) : State :=
  (forEach s (clustersOf span) State.retireFly).updSpn span (fun k => { k with cycle := m + 1 })

theorem forEach_id (s : State) (l : List Nat) : forEach s l (fun s _ => s) = s := forEach_keeps (· = s) _ (fun _ _ h => h) l s rfl

/-- The one access that is due is served: it reads, writes and works. -/
theorem runCycle_of_lone {s : State} {cl iid : Nat} {u : Unit4} {act : Micro} {later : List Op} (h : s.loneOp cl u iid act later) :
    let m := (s.spn (spanOf cl)).cycle
    let o : Op := ⟨m, u, iid, act⟩
    runCycle s (spanOf cl) =
      (workOp (writeOp (readOp (s.cycleStart (spanOf cl)) cl o true) cl o true) cl o).cycleEnd (spanOf cl) m := by
  obtain ⟨-, hops, hlater, hothers⟩ := h
  intro m o
  have hnone : ∀ l : List Op, (∀ x ∈ l, m < x.cyc) → l.filter (fun x => decide (x.cyc ≤ m)) = [] := fun l hl =>
    List.filter_eq_nil_iff.mpr fun x hx => by simpa using hl x hx
  have hdue : (clustersOf (spanOf cl)).flatMap (fun c => ((s.clu c).ops.filter (fun x => decide (x.cyc ≤ m))).mapIdx (fun j x => (c, j, x))) =
      [(cl, 0, o)] := by
    rw [flatMap_of_single (nodup_clustersOf _) (mem_clustersOf cl) fun c hc hne => by rw [hnone _ (hothers c hc hne), List.mapIdx_nil]]
    rw [hops, List.filter_cons_of_pos (by simp [m]), hnone later hlater]
    rfl
  have hserved : served [(cl, 0, o)] (cl, 0, o) = true := by simp [served]
  have hcollide : ∀ v : State, forEach v (clustersOf (spanOf cl)) (fun v c => v.collide c m
      ([((cl, 0, o), true)].filterMap (fun p => if p.1.1 = c && !p.2 then some p.1.2.2 else none))) = v := fun v => by
    simp only [Bool.not_true, Bool.and_false, Bool.false_eq_true, if_false, List.filterMap_cons, List.filterMap_nil]
    exact forEach_id v _
  unfold runCycle
  dsimp only
  rw [hdue, List.map_singleton, hserved]
  simp only [List.foldl_cons, List.foldl_nil]
  rw [hcollide]
  rfl

/-- What is left once operations due are taken: all but the operations, and of these those of each cluster that are not due. -/
structure TakesDue (s v : State) (m : Nat) (l : List Nat) : Prop where
  frame : v = { s with clusters := v.clusters }
  clu : ∀ c, v.clu c = if c ∈ l then { s.clu c with ops := (s.clu c).ops.filter (fun o => !(o.cyc ≤ m)) } else s.clu c

theorem takesDue_takeDue (s : State) (m c : Nat) : TakesDue s (State.takeDue m s c) m [c] := by
  refine ⟨rfl, fun x => ?_⟩
  by_cases hx : x = c
  · rw [hx, State.takeDue, State.clu_updClu, if_pos (List.mem_singleton_self c)]
  · rw [State.takeDue, State.clu_updClu_ne _ _ _ _ hx, if_neg (by simpa using hx)]

theorem takesDue_forEach (m : Nat) (l : List Nat) (s : State) : TakesDue s (forEach s l (State.takeDue m)) m l := by
  induction l generalizing s with
  | nil => exact ⟨rfl, fun _ => rfl⟩
  | cons c r ih =>
    have hfirst := takesDue_takeDue s m c
    have hrest := ih (State.takeDue m s c)
    refine ⟨by rw [forEach, List.foldl_cons, ← forEach, hrest.frame, hfirst.frame], fun x => ?_⟩
    rw [forEach, List.foldl_cons, ← forEach, hrest.clu x, hfirst.clu x]
    by_cases hr : x ∈ r <;> by_cases hc : x = c <;> simp [hr, hc]

/-- Where one access is due, the cycle starts with it taken from its cluster and nothing else changed. -/
theorem cycleLeaves_start {s : State} {cl iid : Nat} {u : Unit4} {act : Micro} {later : List Op} (h : s.loneOp cl u iid act later) :
    cycleLeaves s (s.cycleStart (spanOf cl)) cl (s.clu cl) later := by
  obtain ⟨-, hops, hlater, hothers⟩ := h
  have htakes := takesDue_forEach (s.spn (spanOf cl)).cycle (clustersOf (spanOf cl)) s
  have hkeep : ∀ l : List Op, (∀ o ∈ l, (s.spn (spanOf cl)).cycle < o.cyc) →
      l.filter (fun o => !(o.cyc ≤ (s.spn (spanOf cl)).cycle)) = l := fun l hl => List.filter_eq_self.mpr fun o ho => by simpa using hl o ho
  refine ⟨?_, ?_, fun c hc => ?_⟩
  · rw [State.cycleStart, htakes.frame]
  · rw [State.cycleStart, htakes.clu cl, if_pos (mem_clustersOf cl), hops, List.filter_cons_of_neg (by simp), hkeep later hlater]
  · rw [State.cycleStart, htakes.clu c]
    split
    · rw [hkeep _ (hothers c ‹_› hc)]
    · rfl

theorem flyOf_cycleStart (s : State) (span cl iid : Nat) : (s.cycleStart span).flyOf cl iid = s.flyOf cl iid := by
  rw [State.flyOf, State.cycleStart, (takesDue_forEach _ _ s).clu cl, State.flyOf]
  split <;> rfl

/-- What retiring leaves: all but the lists of instructions in flight, and of these every one with an operation that waits. -/
structure Retires (v w : State) : Prop where
  frame : w = { v with clusters := w.clusters }
  clu : ∀ c, w.clu c = { v.clu c with fly := (w.clu c).fly }
  kept : ∀ c iid, (∃ o ∈ (v.clu c).ops, o.iid = iid) → w.flyOf c iid = v.flyOf c iid

theorem Retires.refl (v : State) : Retires v v := ⟨rfl, fun _ => rfl, fun _ _ _ => rfl⟩

theorem Retires.trans {v w x : State} (h : Retires v w) (h' : Retires w x) : Retires v x := by
  have hops : ∀ c, (w.clu c).ops = (v.clu c).ops := fun c => by rw [h.clu c]
  refine ⟨by rw [h'.frame, h.frame], fun c => by rw [h'.clu c, h.clu c], fun c iid ho => ?_⟩
  rw [h'.kept c iid (hops c ▸ ho), h.kept c iid ho]

theorem get_filter_map {α : Type} {d : Option α} {p : Nat × α → Bool} {k : Nat} (h : ∀ v, p (k, v) = true) (t : Tbl α) :
    Tbl.get d ((t.filter p).map (fun e => (e.1, some e.2))) k = Tbl.get d (t.map (fun e => (e.1, some e.2))) k := by
  induction t with
  | nil => rfl
  | cons e r ih =>
    by_cases hk : e.1 = k
    · obtain ⟨a, b⟩ := e
      subst hk
      rw [List.filter_cons_of_pos (h b)]
      simp [Tbl.get]
    · rw [List.map_cons, Tbl.get, if_neg (Ne.symm hk), ← ih]
      by_cases hp : p e = true
      · rw [List.filter_cons_of_pos hp, List.map_cons, Tbl.get, if_neg (Ne.symm hk)]
      · rw [List.filter_cons_of_neg hp]

theorem retires_retireFly (v : State) (c : Nat) : Retires v (v.retireFly c) := by
  unfold State.retireFly
  split
  · exact Retires.refl v
  · refine ⟨rfl, fun x => ?_, fun x iid ho => ?_⟩
    · by_cases hx : x = c
      · rw [hx, State.clu_updClu]
        rfl
      · rw [State.clu_updClu_ne _ _ _ _ hx]
    · by_cases hx : x = c
      · subst hx
        obtain ⟨o, hmem, hiid⟩ := ho
        rw [State.flyOf, State.clu_updClu]
        exact get_filter_map (fun _ => List.any_eq_true.mpr ⟨o, hmem, by simp [hiid]⟩) _
      · rw [State.flyOf, State.clu_updClu_ne _ _ _ _ hx, State.flyOf]

theorem retires_forEach (l : List Nat) (v : State) : Retires v (forEach v l State.retireFly) :=
  forEach_keeps (Retires v) _ (fun w c h => h.trans (retires_retireFly w c)) l v (Retires.refl v)

theorem clu_cycleEnd (v : State) (span m c : Nat) : (v.cycleEnd span m).clu c = { v.clu c with fly := ((v.cycleEnd span m).clu c).fly } := by
  rw [State.cycleEnd, State.clu_updSpn]
  exact (retires_forEach (clustersOf span) v).clu c

theorem flyOf_cycleEnd {v : State} {span m c iid : Nat} (h : ∃ o ∈ (v.clu c).ops, o.iid = iid) :
    (v.cycleEnd span m).flyOf c iid = v.flyOf c iid := by
  rw [State.cycleEnd, State.flyOf, State.clu_updSpn]
  exact (retires_forEach (clustersOf span) v).kept c iid h

theorem cycleEnd_frame (v : State) (span m : Nat) :
    v.cycleEnd span m = { v with clusters := (v.cycleEnd span m).clusters, spans := (v.cycleEnd span m).spans } := by
  unfold State.cycleEnd
  rw [(retires_forEach (clustersOf span) v).frame]
  rfl

theorem frame_cycleEnd {u v : State} (h : v = { u with clusters := v.clusters, spans := v.spans }) (span m : Nat) :
    v.cycleEnd span m = { u with clusters := (v.cycleEnd span m).clusters, spans := (v.cycleEnd span m).spans } := by
  rw [cycleEnd_frame, h]

/-- The end of a cycle leaves what its access left. -/
theorem cycleLeaves_end {u v : State} {cl : Nat} {k : Cluster} {later : List Op} (h : cycleLeaves u v cl k later) (span m : Nat) :
    cycleLeaves u (v.cycleEnd span m) cl k later := by
  obtain ⟨hframe, hcl, hothers⟩ := h
  refine ⟨frame_cycleEnd hframe span m, ?_, fun c hc => ?_⟩
  · rw [clu_cycleEnd, hcl]
  · rw [clu_cycleEnd, hothers c hc]

/-! #### What an access does once served -/

/-- An operation of cluster `cl` that is served reads, writes and works. -/
def State.acted (v : State) (cl : Nat) (o : Op) : State := workOp (writeOp (readOp v cl o true) cl o true) cl o

/-- The line that a write access of VU.ST, MV.FILL, MV.COPY or MV.RECV writes. -/
def Fly.lineOut (f : Fly) (idx : Nat) : Option (List Byte) :=
  match f.ins with
  | .vuSt .. => some ((List.range 32).flatMap (fun i => leBytes (nth 0 f.src (32 * idx + i)).toNat 4))
  | .mvFill _ _ _ _ pat => some (List.replicate 64 (leBytes pat.toNat 2)).flatten
  | .mvCopy .. | .mvRecv .. => some (Tbl.get (zeros 128) f.lines idx)
  | _ => none

theorem cycleLeaves_runCycle {s u : State} {cl iid : Nat} {unit : Unit4} {act : Micro} {later later' : List Op} {k : Cluster}
    (h : s.loneOp cl unit iid act later)
    (hv : cycleLeaves u ((s.cycleStart (spanOf cl)).acted cl ⟨(s.spn (spanOf cl)).cycle, unit, iid, act⟩) cl k later') :
    cycleLeaves u (runCycle s (spanOf cl)) cl k later' := by
  rw [runCycle_of_lone h]
  exact cycleLeaves_end hv _ _

theorem onceFor_self (v : State) (cl iid : Nat) : v.onceFor v cl iid = v := by
  rw [State.onceFor, List.drop_length]
  rfl

theorem readLine_of_upsets_nil {v : State} (h : v.upsets = []) (cl line : Nat) :
    v.readLine cl line = (memRead v.mem (storeAddr cl line) 128, v) := by
  rw [State.readLine, h]
  rfl

theorem readLanding_of_upsets_nil {v : State} (h : v.upsets = []) (cl agent q entry P : Nat) (quiet : Bool)
    (h0 : (v.landAt (spanOf cl) q (readFrame P) entry).w0 = true) (h1 : (v.landAt (spanOf cl) q (readFrame P) entry).w1 = true) :
    v.readLanding cl agent q entry P quiet =
      (v.landAt (spanOf cl) q (readFrame P) entry, (v.landAt (spanOf cl) q (readFrame P) entry).bytes, v) := by
  have hentry : v.readEntry (spanOf cl) agent q entry P quiet = (v.landAt (spanOf cl) q (readFrame P) entry, v) :=
    if_pos (by simp [h0, h1])
  rw [State.readLanding, hentry]
  dsimp only
  rw [State.landFlaw, h]
  rfl

section
variable (v : State) (cl m iid : Nat) (u : Unit4)

theorem acted_arrive (idx src ln : Nat) (d : List Byte) (keep : Bool) :
    v.acted cl ⟨m, u, iid, .arrive idx src ln d keep⟩ = v.addOp cl ⟨m + 3, u, iid, .arrWr ln d keep⟩ := by
  rfl

theorem acted_arrWr_kept {ln : Nat} (hln : ln < 6144) (d : List Byte) :
    v.acted cl ⟨m, u, iid, .arrWr ln d true⟩ = v.writeLine cl ln d := by
  have hhole : (Micro.arrWr ln d true).toHole = false := by simpa [Micro.toHole] using hln
  simp [State.acted, readOp, writeOp, workOp, hhole]

theorem acted_arrWr_dropped (ln : Nat) (d : List Byte) : v.acted cl ⟨m, u, iid, .arrWr ln d false⟩ = v := by
  simp [State.acted, readOp, writeOp, workOp]

theorem acted_rd {idx ln : Nat} (hln : ln < 6144) (hups : v.upsets = []) :
    v.acted cl ⟨m, u, iid, .rd idx ln⟩ = v.gotLine cl iid idx (memRead v.mem (storeAddr cl ln) 128) := by
  have hread : readOp v cl ⟨m, u, iid, .rd idx ln⟩ true = v.gotLine cl iid idx (memRead v.mem (storeAddr cl ln) 128) := by
    simp only [readOp, readLine_of_upsets_nil hups, onceFor_self, if_neg (show ¬ 6144 ≤ ln by omega), if_true]
  rw [State.acted, hread]
  rfl

theorem acted_land {idx q e : Nat} (hups : v.upsets = []) (h0 : (v.landAt (spanOf cl) q (readFrame v.tik.phaseNo) e).w0 = true)
    (h1 : (v.landAt (spanOf cl) q (readFrame v.tik.phaseNo) e).w1 = true) :
    let x := v.landAt (spanOf cl) q (readFrame v.tik.phaseNo) e
    v.acted cl ⟨m, u, iid, .land idx q e⟩ =
      (v.gotLine cl iid idx x.bytes).updFly cl iid (fun f => { f with marks := Tbl.set f.marks idx (true, x.e0 || x.e1) }) := by
  intro x
  have hread : readOp v cl ⟨m, u, iid, .land idx q e⟩ true =
      (v.gotLine cl iid idx x.bytes).updFly cl iid (fun f => { f with marks := Tbl.set f.marks idx (true, x.e0 || x.e1) }) := by
    simp only [readOp, readLanding_of_upsets_nil hups cl _ q e _ _ h0 h1, onceFor_self, if_true, h0, h1, Bool.and_self]
    rfl
  rw [State.acted, hread]
  rfl

theorem acted_spokeOut (idx : Nat) : v.acted cl ⟨m, u, iid, .spokeOut idx⟩ = spokeOutOp v cl ⟨m, u, iid, .spokeOut idx⟩ idx := by
  rfl

theorem acted_work (idx : Nat) : v.acted cl ⟨m, u, iid, .work idx⟩ = workOp v cl ⟨m, u, iid, .work idx⟩ := by rfl

section
variable {v cl iid} {f : Fly} (hfly : v.flyOf cl iid = some f)
include hfly

theorem acted_wr_off (hoff : f.on = false) (idx ln : Nat) : v.acted cl ⟨m, u, iid, .wr idx ln⟩ = v := by
  simp [State.acted, readOp, writeOp, workOp, hfly, hoff]

/-- A write access writes the line that its instruction gives. -/
theorem acted_wr (hon : f.on = true) {idx ln : Nat} (hln : ln < 6144) {d : List Byte} (hd : f.lineOut idx = some d) :
    v.acted cl ⟨m, u, iid, .wr idx ln⟩ = v.writeLine cl ln d := by
  have hhole : (Micro.wr idx ln).toHole = false := by simpa [Micro.toHole] using hln
  simp only [State.acted, readOp, writeOp, workOp, hhole, hfly, hon]
  unfold Fly.lineOut at hd
  split at hd <;> simp_all

theorem workOp_vu (idx : Nat) : workOp v cl ⟨m, .vu, iid, .work idx⟩ = workVu v cl iid f idx := by rw [workOp, hfly]
theorem workOp_mv (idx : Nat) : workOp v cl ⟨m, .mv, iid, .work idx⟩ = workMv v cl f idx := by rw [workOp, hfly]
theorem workOp_sq (idx : Nat) : workOp v cl ⟨m, .sq, iid, .work idx⟩ = workSq v cl iid f idx := by rw [workOp, hfly]

end
end

/-! #### What an access leaves in the clusters and elsewhere -/

section
variable {u v : State} {cl : Nat} {k : Cluster} {later : List Op} (h : cycleLeaves u v cl k later)
include h

theorem cycleLeaves_updClu {g : Cluster → Cluster} {k' : Cluster} {later' : List Op}
    (hg : ∀ x, g { k with ops := later, fly := x } = { k' with ops := later', fly := (g { k with ops := later, fly := x }).fly }) :
    cycleLeaves u (v.updClu cl g) cl k' later' := by
  obtain ⟨hframe, hcl, hothers⟩ := h
  refine ⟨?_, ?_, fun c hc => ?_⟩
  · rw [hframe]
    rfl
  · rw [State.clu_updClu, hcl]
    exact hg _
  · rw [State.clu_updClu_ne _ _ _ _ hc]
    exact hothers c hc

theorem cycleLeaves_put (span q entry : Nat) (half0 half1 : Bool) (data : List Byte) (empty : Bool) (tag : Option (BitVec 12)) (desc : Option Nat)
    (P : Nat) : cycleLeaves (u.put span q entry half0 half1 data empty tag desc P) (v.put span q entry half0 half1 data empty tag desc P)
      cl k later := by
  obtain ⟨hframe, hclu⟩ := h
  refine ⟨?_, hclu⟩
  rw [hframe]
  rfl

theorem cycleLeaves_writeLine (hups : u.upsets = []) {d : List Byte} (hd : d.length = 128) (ln : Nat) :
    cycleLeaves { u with mem := memWrite u.mem (storeAddr cl ln) d } (v.writeLine cl ln d) cl k later := by
  obtain ⟨hframe, hclu⟩ := h
  have hvups : v.upsets = [] := by rw [hframe, hups]
  rw [writeLine_eq v cl ln hd, State.scrubWords, hvups, List.filter_nil]
  refine ⟨?_, hclu⟩
  rw [hframe, hups]

theorem cycleLeaves_digs (d : List Byte) :
    cycleLeaves { u with digs := Tbl.set u.digs cl (crc64 (u.dig cl) d) } { v with digs := Tbl.set v.digs cl (crc64 (v.dig cl) d) } cl k later := by
  obtain ⟨hframe, hclu⟩ := h
  refine ⟨?_, hclu⟩
  rw [hframe]
  rfl

end

theorem updFly_eq {v : State} {cl iid : Nat} {f : Fly} (h : v.flyOf cl iid = some f) (g : Fly → Fly) :
    v.updFly cl iid g = v.updClu cl (fun k => { k with fly := Tbl.set k.fly iid (g f) }) := by
  rw [State.updFly, h]

theorem flyOf_updFly {v : State} {cl iid : Nat} {f : Fly} (h : v.flyOf cl iid = some f) (g : Fly → Fly) :
    (v.updFly cl iid g).flyOf cl iid = some (g f) := by
  rw [updFly_eq h, State.flyOf, State.clu_updClu, Tbl.map_some_set, Tbl.get_set]

theorem cycleLeaves_updFly {u v : State} {cl iid : Nat} {k : Cluster} {later : List Op} (h : cycleLeaves u v cl k later) (g : Fly → Fly) :
    cycleLeaves u (v.updFly cl iid g) cl k later := by
  unfold State.updFly
  split
  · exact cycleLeaves_updClu h fun _ => rfl
  · exact h

/-! #### Lines, lanes and bytes -/

theorem leBytes_leNat (b : List Byte) : leBytes (leNat b) b.length = b := by
  induction b with
  | nil => rfl
  | cons x r ih =>
    have hx := x.isLt
    rw [List.length_cons, leNat, leBytes]
    congr 1
    · apply BitVec.eq_of_toNat_eq
      rw [BitVec.toNat_ofNat]
      omega
    · rw [show (x.toNat + 256 * leNat r) / 256 = leNat r by omega, ih]

theorem leNat_lt (b : List Byte) : leNat b < 256 ^ b.length := by
  induction b with
  | nil => simp [leNat]
  | cons x r ih =>
    have hx := x.isLt
    rw [List.length_cons, leNat, Nat.pow_succ]
    omega

/-- A line is what its words say, one after another. -/
theorem flatMap_leBytes {d : List Byte} {k n : Nat} {f : Nat → Nat} (hd : k * n ≤ d.length) (h : ∀ i, i < n → leAt d (k * i) k = f i) :
    (List.range n).flatMap (fun i => leBytes (f i) k) = d.take (k * n) := by
  induction n with
  | zero => simp
  | succ n ih =>
    have hle : k * n + k ≤ d.length := hd
    have hword : leBytes (f n) k = slice d (k * n) k := by
      have hlen := length_slice hle
      have hback := leBytes_leNat (slice d (k * n) k)
      rw [hlen] at hback
      rw [← h n (by omega), leAt, hback]
    rw [List.range_succ, List.flatMap_append, ih (by omega) fun i hi => h i (by omega), List.flatMap_singleton, hword,
      Nat.mul_succ, List.take_add, slice]

theorem nth_append_left {α : Type} {d : α} {l r : List α} {i : Nat} (h : i < l.length) : nth d (l ++ r) i = nth d l i := by
  rw [nth, nth, List.getD_append _ _ _ _ h]

theorem nth_append_right {α : Type} {d : α} {l r : List α} {i : Nat} (h : l.length ≤ i) : nth d (l ++ r) i = nth d r (i - l.length) := by
  rw [nth, nth, List.getD_append_right _ _ _ _ h]

theorem nth_map_range {α : Type} {d : α} (f : Nat → α) {n i : Nat} (h : i < n) : nth d ((List.range n).map f) i = f i := by
  simp [nth, List.getD_eq_getElem?_getD, h]

theorem nth_flatMap {α : Type} {d : α} {f : Nat → List α} {c : Nat} (hf : ∀ j, (f j).length = c) {n i : Nat} (hi : i < c * n) :
    nth d ((List.range n).flatMap f) i = nth d (f (i / c)) (i % c) := by
  have hlen : ∀ n, ((List.range n).flatMap f).length = c * n := fun n => by simp [List.length_flatMap, hf, Nat.mul_comm]
  induction n with
  | zero => omega
  | succ n ih =>
    rw [List.range_succ, List.flatMap_append, List.flatMap_singleton]
    by_cases h : i < c * n
    · rw [nth_append_left (by rw [hlen]; exact h), ih h]
    · have hdiv : i / c = n := Nat.div_eq_of_lt_le (by rw [Nat.mul_comm]; omega) (by rw [Nat.mul_comm]; exact hi)
      have hmod : i % c = i - c * n := by
        have := Nat.div_add_mod i c
        rw [hdiv] at this
        omega
      rw [nth_append_right (by rw [hlen]; omega), hlen, hdiv, hmod]

theorem length_lanesOf (bs : List Byte) : (lanesOf bs).length = 32 := by simp [lanesOf]

theorem nth_lanesOf {bs : List Byte} (hbs : bs.length = 128) {i : Nat} (hi : i < 32) : (nth 0 (lanesOf bs) i).toNat = leAt bs (4 * i) 4 := by
  have hlt := leNat_lt (slice bs (4 * i) 4)
  rw [length_slice (by omega)] at hlt
  rw [lanesOf, nth_map_range _ hi, BitVec.toNat_ofNat, Nat.mod_eq_of_lt (by simpa [leAt] using hlt)]

/-- A register filled from `n` lines holds their lanes, and zeros beyond (R227). -/
theorem nth_lanesOf_lines {line : Nat → List Byte} (hline : ∀ j, (line j).length = 128) {n : Nat} (hn : n ≤ 4) {i : Nat} (hi : i < 128) :
    (nth 0 ((List.range n).flatMap (fun j => lanesOf (line j)) ++ List.replicate (128 - 32 * n) 0) i).toNat =
      if i < 32 * n then leAt (line (i / 32)) (4 * (i % 32)) 4 else 0 := by
  have hlen : ((List.range n).flatMap (fun j => lanesOf (line j))).length = 32 * n := by
    simp [List.length_flatMap, length_lanesOf, Nat.mul_comm]
  split
  case isTrue h =>
    rw [nth_append_left (by omega), nth_flatMap (fun j => length_lanesOf (line j)) h, nth_lanesOf (hline _) (by omega)]
  case isFalse h =>
    rw [nth_append_right (by omega), hlen, nth, List.getD_replicate _ (by omega)]
    rfl

/-- A register in which one line's lanes replace what it held (R227). -/
theorem nth_splice {base : List Lane} (hbase : base.length = 128) {bs : List Byte} (hbs : bs.length = 128) {j : Nat} (hj : j < 4) {i : Nat} :
    (nth 0 (base.take (32 * j) ++ lanesOf bs ++ base.drop (32 * j + 32)) i).toNat =
      if i / 32 = j then leAt bs (4 * (i % 32)) 4 else (nth 0 base i).toNat := by
  have htake : (base.take (32 * j)).length = 32 * j := List.length_take_of_le (by omega)
  have hls := length_lanesOf bs
  rw [List.append_assoc]
  rcases Nat.lt_trichotomy (i / 32) j with h | h | h
  · rw [if_neg (by omega), nth_append_left (by omega), nth, nth, List.getD_eq_getElem?_getD, List.getElem?_take_of_lt (by omega),
      List.getD_eq_getElem?_getD]
  · rw [if_pos h, nth_append_right (by omega), htake, nth_append_left (by omega), nth_lanesOf hbs (by omega), show i - 32 * j = i % 32 by omega]
  · rw [if_neg (by omega), nth_append_right (by omega), htake, nth_append_right (by omega), hls, nth, nth, List.getD_eq_getElem?_getD,
      List.getElem?_drop, List.getD_eq_getElem?_getD, show 32 * j + 32 + (i - 32 * j - 32) = i by omega]

theorem getLsbD_setFlagBit (fs : BitVec 8) {i j : Nat} (hi : i < 8) (hj : j < 8) (b : Bool) :
    (setFlagBit fs i b).getLsbD j = if j = i then b else fs.getLsbD j := by
  have hbit : (BitVec.ofNat 8 (2 ^ i)).getLsbD j = decide (j = i) := by
    rw [BitVec.getLsbD_ofNat, Nat.testBit_two_pow, decide_eq_true hj, Bool.true_and]
    exact decide_eq_decide.mpr eq_comm
  cases b with
  | false =>
    rw [setFlagBit, if_neg Bool.false_ne_true, BitVec.getLsbD_and, BitVec.getLsbD_not, hbit]
    by_cases h : j = i <;> simp [h, hj, hi]
  | true =>
    rw [setFlagBit, if_pos rfl, BitVec.getLsbD_or, hbit]
    by_cases h : j = i <;> simp [h]

/-! #### The accesses, one by one -/

section
variable {s v : State} {cl : Nat} {k : Cluster} {later : List Op} (h : cycleLeaves s v cl k later)
include h

theorem upsets_of_leaves : v.upsets = s.upsets := by rw [h.1]

theorem mem_of_leaves : v.mem = s.mem := by rw [h.1]

theorem landAt_of_leaves (q e : Nat) :
    v.landAt (spanOf cl) q (readFrame v.tik.phaseNo) e = s.landAt (spanOf cl) q (readFrame s.tik.phaseNo) e := by
  rw [h.1]
  rfl

theorem destSpan_of_leaves (span : Nat) : v.destSpan span = s.destSpan span := by
  rw [h.1]
  rfl

theorem step_of_leaves : v.step = s.step := by
  rw [h.1]
  rfl

theorem cycleLeaves_addOp (o : Op) : cycleLeaves s (v.addOp cl o) cl k (later ++ [o]) := cycleLeaves_updClu h fun _ => rfl

/-- An operation added to another cluster. -/
theorem addOp_of_leaves {c : Nat} (hne : c ≠ cl) (o : Op) :
    ((v.addOp c o).clu c).ops = (s.clu c).ops ++ [o] ∧ ((v.addOp c o).clu cl).ops = later ∧
      v.addOp c o = { s with clusters := (v.addOp c o).clusters, spans := (v.addOp c o).spans } := by
  obtain ⟨hframe, hcl, hothers⟩ := h
  refine ⟨?_, ?_, ?_⟩
  · rw [State.addOp, State.clu_updClu, hothers _ hne]
  · rw [State.addOp, State.clu_updClu_ne _ _ _ _ (Ne.symm hne), hcl]
  · rw [hframe]
    rfl

end

section
variable {s : State} {cl iid : Nat} {u : Unit4} {later : List Op}

/-- A line that arrives is written 3 cycles later (R114). -/
theorem runCycle_arrive {idx src ln : Nat} {d : List Byte} {keep : Bool} (h : s.loneOp cl u iid (.arrive idx src ln d keep) later) :
    cycleLeaves s (runCycle s (spanOf cl)) cl (s.clu cl) (later ++ [⟨(s.spn (spanOf cl)).cycle + 3, u, iid, .arrWr ln d keep⟩]) := by
  refine cycleLeaves_runCycle h ?_
  rw [acted_arrive]
  exact cycleLeaves_addOp (cycleLeaves_start h) _

/-- A line that is written stands in the store. -/
theorem runCycle_writes {act : Micro} {ln : Nat} {d : List Byte} (h : s.loneOp cl u iid act later) (hups : s.upsets = []) (hd : d.length = 128)
    (hacted : (s.cycleStart (spanOf cl)).acted cl ⟨(s.spn (spanOf cl)).cycle, u, iid, act⟩ = (s.cycleStart (spanOf cl)).writeLine cl ln d) :
    cycleLeaves { s with mem := memWrite s.mem (storeAddr cl ln) d } (runCycle s (spanOf cl)) cl (s.clu cl) later := by
  refine cycleLeaves_runCycle h ?_
  rw [hacted]
  exact cycleLeaves_writeLine (cycleLeaves_start h) hups hd ln

theorem runCycle_idle {act : Micro} (h : s.loneOp cl u iid act later)
    (hacted : (s.cycleStart (spanOf cl)).acted cl ⟨(s.spn (spanOf cl)).cycle, u, iid, act⟩ = s.cycleStart (spanOf cl)) :
    cycleLeaves s (runCycle s (spanOf cl)) cl (s.clu cl) later := by
  refine cycleLeaves_runCycle h ?_
  rw [hacted]
  exact cycleLeaves_start h

/-- An access that gives its instruction in flight what it has read. -/
theorem runCycle_updFly {act : Micro} {f : Fly} {v : State} (h : s.loneOp cl u iid act later) (hwaits : ∃ o ∈ later, o.iid = iid)
    (hleaves : cycleLeaves s v cl (s.clu cl) later) (hfly : v.flyOf cl iid = some f)
    (hacted : (s.cycleStart (spanOf cl)).acted cl ⟨(s.spn (spanOf cl)).cycle, u, iid, act⟩ = v) :
    cycleLeaves s (runCycle s (spanOf cl)) cl (s.clu cl) later ∧ (runCycle s (spanOf cl)).flyOf cl iid = some f := by
  refine ⟨cycleLeaves_runCycle h (hacted ▸ hleaves), ?_⟩
  have hops : ∃ o ∈ (v.clu cl).ops, o.iid = iid := by
    rw [hleaves.2.1]
    exact hwaits
  rw [runCycle_of_lone h, ← State.acted, hacted, flyOf_cycleEnd hops, hfly]

/-- Work that changes its cluster, but neither its operations nor its instructions in flight. -/
theorem runCycle_work {idx : Nat} {g : Cluster → Cluster} {k' : Cluster} (h : s.loneOp cl u iid (.work idx) later)
    (hwork : workOp (s.cycleStart (spanOf cl)) cl ⟨(s.spn (spanOf cl)).cycle, u, iid, .work idx⟩ = (s.cycleStart (spanOf cl)).updClu cl g)
    (hg : ∀ x, g { s.clu cl with ops := later, fly := x } = { k' with ops := later, fly := (g { s.clu cl with ops := later, fly := x }).fly }) :
    cycleLeaves s (runCycle s (spanOf cl)) cl k' later := by
  refine cycleLeaves_runCycle h ?_
  rw [acted_work, hwork]
  exact cycleLeaves_updClu (cycleLeaves_start h) hg

section
variable {f : Fly} (hfly : s.flyOf cl iid = some f)
include hfly

theorem flyOf_start : (s.cycleStart (spanOf cl)).flyOf cl iid = some f := (flyOf_cycleStart s _ cl iid).trans hfly

theorem runCycle_rd {idx ln : Nat} (h : s.loneOp cl u iid (.rd idx ln) later) (hups : s.upsets = []) (hln : ln < 6144)
    (hwaits : ∃ o ∈ later, o.iid = iid) : cycleLeaves s (runCycle s (spanOf cl)) cl (s.clu cl) later ∧
      (runCycle s (spanOf cl)).flyOf cl iid = some { f with lines := Tbl.set f.lines idx (memRead s.mem (storeAddr cl ln) 128) } := by
  refine runCycle_updFly h hwaits ?_ ?_ (acted_rd _ _ _ _ _ hln ((upsets_of_leaves (cycleLeaves_start h)).trans hups))
  · exact cycleLeaves_updFly (cycleLeaves_start h) _
  · rw [State.gotLine, flyOf_updFly (flyOf_start hfly), mem_of_leaves (cycleLeaves_start h)]

theorem runCycle_land {idx q e : Nat} (h : s.loneOp cl u iid (.land idx q e) later) (hups : s.upsets = [])
    (hwaits : ∃ o ∈ later, o.iid = iid) (h0 : (s.landAt (spanOf cl) q (readFrame s.tik.phaseNo) e).w0 = true)
    (h1 : (s.landAt (spanOf cl) q (readFrame s.tik.phaseNo) e).w1 = true) :
    let x := s.landAt (spanOf cl) q (readFrame s.tik.phaseNo) e
    cycleLeaves s (runCycle s (spanOf cl)) cl (s.clu cl) later ∧ (runCycle s (spanOf cl)).flyOf cl iid =
      some { f with lines := Tbl.set f.lines idx x.bytes, marks := Tbl.set f.marks idx (true, x.e0 || x.e1) } := by
  have hstart := cycleLeaves_start h
  have hland := landAt_of_leaves hstart q e
  have hacted := acted_land (s.cycleStart (spanOf cl)) cl (s.spn (spanOf cl)).cycle iid u (idx := idx) ((upsets_of_leaves hstart).trans hups)
    ((congrArg LandEntry.w0 hland).trans h0) ((congrArg LandEntry.w1 hland).trans h1)
  rw [hland] at hacted
  refine runCycle_updFly h hwaits ?_ ?_ hacted
  · exact cycleLeaves_updFly (cycleLeaves_updFly hstart _) _
  · exact flyOf_updFly (flyOf_updFly (flyOf_start hfly) _) _

end

/-- A line on the outbound spoke of a crossing write goes to the mesh. -/
theorem runCycle_sends {idx span q entry : Nat} {d : List Byte} {empty : Bool} {tag : Option (BitVec 12)} {desc : Option Nat} {P : Nat}
    (h : s.loneOp cl u iid (.spokeOut idx) later)
    (hsends : spokeOutOp (s.cycleStart (spanOf cl)) cl ⟨(s.spn (spanOf cl)).cycle, u, iid, .spokeOut idx⟩ idx =
      (s.cycleStart (spanOf cl)).put span q entry true true d empty tag desc P) :
    cycleLeaves (s.put span q entry true true d empty tag desc P) (runCycle s (spanOf cl)) cl (s.clu cl) later := by
  refine cycleLeaves_runCycle h ?_
  rw [acted_spokeOut, hsends]
  exact cycleLeaves_put (cycleLeaves_start h) _ _ _ _ _ _ _ _ _ _

/-- A line for another cluster of the span is added to what waits there (R114). -/
theorem runCycle_copies {idx to_ : Nat} {o : Op} (h : s.loneOp cl u iid (.spokeOut idx) later) (hne : to_ ≠ cl)
    (hcopies : spokeOutOp (s.cycleStart (spanOf cl)) cl ⟨(s.spn (spanOf cl)).cycle, u, iid, .spokeOut idx⟩ idx =
      (s.cycleStart (spanOf cl)).addOp to_ o) :
    let t := runCycle s (spanOf cl)
    (t.clu to_).ops = (s.clu to_).ops ++ [o] ∧ (t.clu cl).ops = later ∧ t = { s with clusters := t.clusters, spans := t.spans } := by
  obtain ⟨hto, hcl, hframe⟩ := addOp_of_leaves (cycleLeaves_start h) hne o
  dsimp only
  rw [runCycle_of_lone h, ← State.acted, acted_spokeOut, hcopies]
  refine ⟨?_, ?_, frame_cycleEnd hframe _ _⟩
  · rw [clu_cycleEnd]
    exact hto
  · rw [clu_cycleEnd]
    exact hcl

end

/-! #### Work of movers, vector units and sequencers -/

theorem workMv_imem {v : State} {f : Fly} {c q e wl sln nn : Nat} {w : Wd} (hins : f.ins = .mvRecv c w q e (.imem wl sln) nn) (cl idx : Nat) :
    workMv v cl f idx = if f.on = true ∧ Tbl.get (false, false) f.marks idx = (true, false)
      then v.updClu cl (fun k => { k with imem := Tbl.set k.imem (wl + idx) ⟨Tbl.get (zeros 128) f.lines idx, (sln + idx) % 65536⟩ }) else v := by
  have hcond : (f.on && (Tbl.get (false, false) f.marks idx).1 && !(Tbl.get (false, false) f.marks idx).2) = true ↔
      f.on = true ∧ Tbl.get (false, false) f.marks idx = (true, false) := by
    simp [Prod.ext_iff, and_assoc]
  rw [workMv, hins]
  exact if_congr hcond rfl rfl

theorem workVu_off {f : Fly} (hoff : f.on = false) (v : State) (cl iid idx : Nat) : workVu v cl iid f idx = v := by
  rw [workVu, hoff]
  rfl

theorem workVu_store {f : Fly} {c vd ln nl : Nat} {w : Wd} {tag : Option (BitVec 6)} (hins : f.ins = .vuLd c w vd (.store ln) nl tag)
    (hon : f.on = true) (v : State) (cl iid idx : Nat) : workVu v cl iid f idx = v.updClu cl (fun k => k.setVreg vd
      ⟨(List.range nl).flatMap (fun j => lanesOf (Tbl.get (zeros 128) f.lines j)) ++ List.replicate (128 - 32 * nl) 0, tag⟩) := by
  rw [workVu, hins, hon]
  rfl

/-- What register `old` holds once the lanes of line `idx` of `nl` have replaced some of its own (R227). -/
def Vreg.withLine (old : Vreg) (nl idx : Nat) (bs : List Byte) (tag : Option (BitVec 6)) : Vreg :=
  let base := (List.range 128).map (fun i => if 32 * nl ≤ i && idx == 0 then 0 else nth 0 old.lanes i)
  ⟨base.take (32 * idx) ++ lanesOf bs ++ base.drop (32 * idx + 32), if idx + 1 = nl then tag else if idx = 0 then none else old.tag⟩

theorem lane_withLine (old : Vreg) (nl : Nat) {idx : Nat} {bs : List Byte} (hbs : bs.length = 128) (hidx : idx < 4) (tag : Option (BitVec 6))
    {i : Nat} (hi : i < 128) : ((old.withLine nl idx bs tag).lane i).toNat =
      if i / 32 = idx then leAt bs (4 * (i % 32)) 4 else if idx = 0 ∧ 32 * nl ≤ i then 0 else (old.lane i).toNat := by
  have hbase : ∀ p : Prop, ∀ _ : Decidable p, (p ↔ idx = 0 ∧ 32 * nl ≤ i) →
      (if p then (0 : Lane) else nth 0 old.lanes i).toNat = if idx = 0 ∧ 32 * nl ≤ i then 0 else (old.lane i).toNat := by
    intro p _ hp
    by_cases h : p
    · rw [if_pos h, if_pos (hp.mp h)]
      rfl
    · rw [if_neg h, if_neg (mt hp.mpr h)]
      rfl
  rw [Vreg.lane, Vreg.withLine, nth_splice (by simp) hbs hidx, nth_map_range _ hi, hbase _ _ (by simp [and_comm])]

theorem workVu_landing {f : Fly} {c vd q e nl : Nat} {w : Wd} {tag : Option (BitVec 6)} (hins : f.ins = .vuLd c w vd (.landing q e) nl tag)
    (hon : f.on = true) (v : State) (cl iid idx : Nat) : workVu v cl iid f idx =
      v.updClu cl (fun k => k.setVreg vd ((k.vreg vd).withLine nl idx (Tbl.get (zeros 128) f.lines idx) tag)) := by
  rw [workVu, hins, hon]
  rfl

theorem workSq_digest {f : Fly} {c dl ln nn : Nat} (hins : f.ins = .sqDigest c dl ln nn) (v : State) (cl iid idx : Nat) :
    workSq v cl iid f idx = { v with digs := Tbl.set v.digs cl (crc64 (v.dig cl) (Tbl.get (zeros 128) f.lines idx)) } := by
  rw [workSq, hins]

/-- What LOADE takes of an entry's two halves, or of both (R211). -/
def pickHalf (half : HalfSel) (x0 x1 both : Bool) : Bool :=
  match half with
  | .first => x0
  | .second => x1
  | .both => both

/-- Is what LOADE reads written, and is it marked empty? -/
def LandEntry.picked (x : LandEntry) (half : HalfSel) : Bool × Bool :=
  (pickHalf half x.w0 x.w1 (x.w0 && x.w1), pickHalf half x.e0 x.e1 (x.e0 || x.e1))

theorem workSq_loade {f : Fly} {c dl q e db : Nat} {half : HalfSel} (hins : f.ins = .sqFlag c dl (.loade q e half db)) (v : State)
    (cl iid idx : Nat) :
    let x := (v.landAt (spanOf cl) q (readFrame v.tik.phaseNo) e).picked half
    ∃ h, workSq v cl iid f idx =
      (if x.1 then v else v.xqFault 0x1003 (spanOf cl) (v.agentOf cl 3) q e h 1 (v.tik.phaseNo - 2)).updClu cl
        (fun k => { k with fs := setFlagBit k.fs db (x.1 && !x.2) }) := by
  rw [workSq, hins]
  dsimp only [LandEntry.picked]
  generalize v.landAt (spanOf cl) q (readFrame v.tik.phaseNo) e = x
  cases half with
  | first =>
    refine ⟨0, ?_⟩
    cases hw : x.w0 <;> simp [pickHalf]
  | second =>
    refine ⟨1, ?_⟩
    cases hw : x.w1 <;> simp [pickHalf]
  | both =>
    refine ⟨x.badHalf, ?_⟩
    cases hw : x.w0 && x.w1 <;> simp [pickHalf]

theorem flt_cycleEnd (v : State) (span m : Nat) : (v.cycleEnd span m).flt = v.flt := by rw [cycleEnd_frame]

/-- A cycle whose work raises a crossing fault and sets FS. -/
theorem cycleEnd_xqFault {s v : State} {cl : Nat} {k : Cluster} {later : List Op} (h : cycleLeaves s v cl k later) (code : BitVec 16)
    (span agent q entry half kind ph : Nat) (F : BitVec 8 → BitVec 8) (sp m : Nat) :
    let t := ((v.xqFault code span agent q entry half kind ph).updClu cl (fun k => { k with fs := F k.fs })).cycleEnd sp m
    (t.clu cl).fs = F k.fs ∧ (t.clu cl).p = k.p ∧ raisedOne s t code span := by
  obtain ⟨hframe, hcl, -⟩ := h
  obtain ⟨hfault, hraised, -⟩ := xqFault_spec v code span agent q entry half kind ph
  have hclu : (v.xqFault code span agent q entry half kind ph).clu cl = v.clu cl := by
    rw [hfault]
    rfl
  have hflt : v.flt = s.flt := by rw [hframe]
  generalize v.xqFault code span agent q entry half kind ph = w at hraised hclu ⊢
  obtain ⟨r, hr, hcode⟩ := hraised
  refine ⟨?_, ?_, r, ?_, hcode⟩
  · rw [clu_cycleEnd, State.clu_updClu, hclu, hcl]
  · rw [clu_cycleEnd, State.clu_updClu, hclu, hcl]
  · rw [flt_cycleEnd, State.updClu_flt, hr, hflt]

section
variable {s : State} {cl iid : Nat} {later : List Op} {f : Fly} (hfly : s.flyOf cl iid = some f)
include hfly

/-- A refilled line of instruction memory (R205, R206). -/
theorem runCycle_refills {idx c q e wl sln nn : Nat} {w : Wd} (h : s.loneOp cl .mv iid (.work idx) later)
    (hins : f.ins = .mvRecv c w q e (.imem wl sln) nn) :
    cycleLeaves s (runCycle s (spanOf cl)) cl (if f.on = true ∧ Tbl.get (false, false) f.marks idx = (true, false)
      then { s.clu cl with imem := Tbl.set (s.clu cl).imem (wl + idx) ⟨Tbl.get (zeros 128) f.lines idx, (sln + idx) % 65536⟩ } else s.clu cl)
      later := by
  have hwork := (workOp_mv (s.spn (spanOf cl)).cycle (flyOf_start hfly) idx).trans (workMv_imem hins cl idx)
  split
  case isTrue hon => exact runCycle_work h (hwork.trans (if_pos hon)) fun _ => rfl
  case isFalse hoff => exact runCycle_idle h ((acted_work _ _ _ _ _ _).trans (hwork.trans (if_neg hoff)))

theorem runCycle_vuOff {idx : Nat} (h : s.loneOp cl .vu iid (.work idx) later) (hoff : f.on = false) :
    cycleLeaves s (runCycle s (spanOf cl)) cl (s.clu cl) later :=
  runCycle_idle h ((acted_work _ _ _ _ _ _).trans ((workOp_vu _ (flyOf_start hfly) idx).trans (workVu_off hoff _ _ _ _)))

/-- A register filled from store lines (R227). -/
theorem runCycle_loads {c vd ln nl : Nat} {w : Wd} {tag : Option (BitVec 6)} (h : s.loneOp cl .vu iid (.work 0) later)
    (hins : f.ins = .vuLd c w vd (.store ln) nl tag) (hon : f.on = true) (hnl : nl ≤ 4)
    (hline : ∀ j, (Tbl.get (zeros 128) f.lines j).length = 128) :
    ∃ r, cycleLeaves s (runCycle s (spanOf cl)) cl { s.clu cl with vregs := Tbl.set (s.clu cl).vregs vd r } later ∧ r.tag = tag ∧
      ∀ i, i < 128 → (r.lane i).toNat = if i < 32 * nl then leAt (Tbl.get (zeros 128) f.lines (i / 32)) (4 * (i % 32)) 4 else 0 :=
  ⟨⟨_, tag⟩, runCycle_work h ((workOp_vu _ (flyOf_start hfly) 0).trans (workVu_store hins hon _ _ _ _)) fun _ => rfl, rfl,
    fun _ hi => nth_lanesOf_lines hline hnl hi⟩

/-- A register filled line by line from landing entries (R227). -/
theorem runCycle_loadsLanding {c vd q e nl idx : Nat} {w : Wd} {tag : Option (BitVec 6)} (h : s.loneOp cl .vu iid (.work idx) later)
    (hins : f.ins = .vuLd c w vd (.landing q e) nl tag) (hon : f.on = true) (hnl : nl ≤ 4) (hidx : idx < nl)
    (hline : (Tbl.get (zeros 128) f.lines idx).length = 128) :
    ∃ r, cycleLeaves s (runCycle s (spanOf cl)) cl { s.clu cl with vregs := Tbl.set (s.clu cl).vregs vd r } later ∧
      r.tag = (if idx + 1 = nl then tag else if idx = 0 then none else ((s.clu cl).vreg vd).tag) ∧
      ∀ i, i < 128 → (r.lane i).toNat = if i / 32 = idx then leAt (Tbl.get (zeros 128) f.lines idx) (4 * (i % 32)) 4
        else if idx = 0 ∧ 32 * nl ≤ i then 0 else (((s.clu cl).vreg vd).lane i).toNat := by
  refine ⟨((s.clu cl).vreg vd).withLine nl idx (Tbl.get (zeros 128) f.lines idx) tag,
    runCycle_work h ((workOp_vu _ (flyOf_start hfly) idx).trans (workVu_landing hins hon _ _ _ _)) fun _ => rfl, rfl, fun i hi => ?_⟩
  exact lane_withLine _ nl hline (by omega) tag hi

/-- A line folded into the digest (R213). -/
theorem runCycle_digests {c dl ln nn idx : Nat} (h : s.loneOp cl .sq iid (.work idx) later) (hins : f.ins = .sqDigest c dl ln nn) :
    cycleLeaves { s with digs := Tbl.set s.digs cl (crc64 (s.dig cl) (Tbl.get (zeros 128) f.lines idx)) } (runCycle s (spanOf cl)) cl (s.clu cl)
      later := by
  refine cycleLeaves_runCycle h ?_
  rw [acted_work, workOp_sq _ (flyOf_start hfly), workSq_digest hins]
  exact cycleLeaves_digs (cycleLeaves_start h) _

/-- LOADE takes a bit of an entry into FS, or raises the fault of one not written (R211). -/
theorem runCycle_loade {c dl q e db : Nat} {half : HalfSel} (h : s.loneOp cl .sq iid (.work 0) later)
    (hins : f.ins = .sqFlag c dl (.loade q e half db)) :
    let t := runCycle s (spanOf cl)
    let x := (s.landAt (spanOf cl) q (readFrame s.tik.phaseNo) e).picked half
    (t.clu cl).fs = setFlagBit (s.clu cl).fs db (x.1 && !x.2) ∧ (t.clu cl).p = (s.clu cl).p ∧
      (x.1 = true → cycleLeaves s t cl { s.clu cl with fs := (t.clu cl).fs } later) ∧ (x.1 = false → raisedOne s t 0x1003 (spanOf cl)) := by
  have hstart := cycleLeaves_start h
  obtain ⟨n, hwork⟩ := workSq_loade hins (s.cycleStart (spanOf cl)) cl iid 0
  rw [landAt_of_leaves hstart] at hwork
  have hop := (workOp_sq (s.spn (spanOf cl)).cycle (flyOf_start hfly) 0).trans hwork
  dsimp only
  generalize (s.landAt (spanOf cl) q (readFrame s.tik.phaseNo) e).picked half = x at hop ⊢
  obtain ⟨written, mark⟩ := x
  cases written with
  | true =>
    have hleaves := runCycle_work h hop (k' := { s.clu cl with fs := setFlagBit (s.clu cl).fs db (true && !mark) }) fun _ => rfl
    have hcl := hleaves.2.1
    have hfs : ((runCycle s (spanOf cl)).clu cl).fs = setFlagBit (s.clu cl).fs db (true && !mark) := by rw [hcl]
    have hp : ((runCycle s (spanOf cl)).clu cl).p = (s.clu cl).p := by rw [hcl]
    refine ⟨hfs, hp, fun _ => ?_, fun hno => absurd hno.symm Bool.false_ne_true⟩
    rw [hfs]
    exact hleaves
  | false =>
    rw [runCycle_of_lone h, ← State.acted, acted_work, hop]
    obtain ⟨hfs, hp, hraised⟩ := cycleEnd_xqFault hstart 0x1003 (spanOf cl) ((s.cycleStart (spanOf cl)).agentOf cl 3) q e n 1
      ((s.cycleStart (spanOf cl)).tik.phaseNo - 2) (fun fs => setFlagBit fs db (false && !mark)) (spanOf cl) (s.spn (spanOf cl)).cycle
    exact ⟨hfs, hp, fun hno => absurd hno Bool.false_ne_true, fun _ => hraised⟩

end

/-! #### Lines that are written or sent -/

theorem vuSt_line {d : List Byte} (hd : d.length = 128) {src : List Lane} {idx : Nat}
    (h : ∀ i, i < 32 → leAt d (4 * i) 4 = (nth 0 src (32 * idx + i)).toNat) :
    (List.range 32).flatMap (fun i => leBytes (nth 0 src (32 * idx + i)).toNat 4) = d := by
  rw [flatMap_leBytes (f := fun i => (nth 0 src (32 * idx + i)).toNat) (by omega) h, List.take_of_length_le (by omega)]

theorem mvFill_line {d : List Byte} (hd : d.length = 128) {pat : BitVec 16} (h : ∀ i, i < 64 → leAt d (2 * i) 2 = pat.toNat) :
    (List.replicate 64 (leBytes pat.toNat 2)).flatten = d := by
  have hline := flatMap_leBytes (f := fun _ => pat.toNat) (n := 64) (by omega) h
  rw [List.take_of_length_le (by omega)] at hline
  rw [← hline, List.flatMap_def, List.map_const', List.length_range]

theorem padTo_padTo (l : List Byte) (n : Nat) : padTo (padTo l n) n = padTo l n := padTo_of_length (length_padTo l n)

theorem put_padTo (v : State) (span q entry : Nat) (half0 half1 : Bool) (data : List Byte) (empty : Bool) (tag : Option (BitVec 12))
    (desc : Option Nat) (P : Nat) : v.put span q entry half0 half1 (padTo data 128) empty tag desc P =
      v.put span q entry half0 half1 data empty tag desc P := by
  rw [State.put, padTo_padTo, State.put]

theorem cross_off (v : State) (f : Fly) (idx span q entry : Nat) (tag : Option (BitVec 12)) (desc : Option Nat) :
    v.cross span q entry true true (Tbl.get (zeros 128) f.lines idx) (!f.on) tag desc f.phase =
      v.put span q entry true true (if f.on then Tbl.get (zeros 128) f.lines idx else zeros 128) (!f.on) tag desc f.phase := by
  rw [State.cross]
  cases f.on <;> rfl

section
variable {v : State} {cl iid : Nat} {f : Fly} (hfly : v.flyOf cl iid = some f) (m idx : Nat) (u : Unit4)
include hfly

theorem spokeOutOp_mvSend {c sl sp q e nn : Nat} {w : Wd} (hins : f.ins = .mvSend c w sl sp q e nn) :
    spokeOutOp v cl ⟨m, u, iid, .spokeOut idx⟩ idx = v.put (v.destSpan sp) q (e + idx) true true
      (if f.on then Tbl.get (zeros 128) f.lines idx else zeros 128) (!f.on) none none f.phase := by
  rw [spokeOutOp, hfly]
  dsimp only
  rw [hins]
  exact cross_off v f idx _ _ _ _ _

theorem spokeOutOp_mvHbm {c sl st q e nn tagb : Nat} {w : Wd} (hins : f.ins = .mvHbm c w sl st q e nn tagb) :
    spokeOutOp v cl ⟨m, u, iid, .spokeOut idx⟩ idx = v.put (100 + st) q (e + idx) true true
      (if f.on then Tbl.get (zeros 128) f.lines idx else zeros 128) (!f.on) (some (BitVec.ofNat 12 (tagb + idx))) none f.phase := by
  rw [spokeOutOp, hfly]
  dsimp only
  rw [hins]
  exact cross_off v f idx _ _ _ _ _

theorem spokeOutOp_mvStage {c sl q e nn desc : Nat} {w : Wd} (hins : f.ins = .mvStage c w sl q e nn desc) :
    spokeOutOp v cl ⟨m, u, iid, .spokeOut idx⟩ idx = v.put 110 q (e + idx) true true
      (if f.on then Tbl.get (zeros 128) f.lines idx else zeros 128) (!f.on) none (some desc) f.phase := by
  rw [spokeOutOp, hfly]
  dsimp only
  rw [hins]
  exact cross_off v f idx _ _ _ _ _

theorem spokeOutOp_sqAgree {c dl p q e bp : Nat} {vs : Bool} {val : BitVec 2} {p1 p0 : Nat} (hins : f.ins = .sqAgree c dl p q e bp vs val p1 p0) :
    spokeOutOp v cl ⟨m, u, iid, .spokeOut idx⟩ idx = v.put (v.destSpan (104 + p)) q e true true
      ([BitVec.ofNat 8 (nth 0 f.src 0).toNat, BitVec.ofNat 8 bp] ++ leBytes (v.step % 2 ^ 32) 4) false none none f.phase := by
  rw [spokeOutOp, hfly]
  dsimp only
  rw [hins]
  exact put_padTo _ _ _ _ _ _ _ _ _ _ _

theorem spokeOutOp_mvCopy {c sl dl dpos nn : Nat} {w : Wd} (hins : f.ins = .mvCopy c w sl dl dpos nn) :
    spokeOutOp v cl ⟨m, u, iid, .spokeOut idx⟩ idx = v.addOp (cluAt (spanOf cl) dpos)
      ⟨m + 4, .mv, iid, .arrive idx (posOf cl) (dl + idx) (Tbl.get (zeros 128) f.lines idx) f.on⟩ := by
  rw [spokeOutOp, hfly]
  dsimp only
  rw [hins]

end

/-- Settles O15: each access as it is served alone in its cycle. -/
theorem accessesTakeEffectInTheirCycles : Obligations.AccessesTakeEffectInTheirCycles := by
  unfold Obligations.AccessesTakeEffectInTheirCycles
  intro s cl iid later hups k t m wrote
  refine ⟨?arrive, ?kept, ?dropped, fun f hfly => ?_⟩
  case arrive => exact fun u idx src ln d keep h _ => runCycle_arrive h
  case kept => exact fun u ln d h hln hd => runCycle_writes h hups hd (acted_arrWr_kept _ _ _ _ _ hln d)
  case dropped => exact fun u ln d h => runCycle_idle h (acted_arrWr_dropped _ _ _ _ _ ln d)
  intro line sends out
  have hstart := flyOf_start hfly
  refine ⟨?rd, ?land, ?wr, ?spokeOut, ?refills, ?vuOff, ?loads, ?loadsLanding, ?digests, ?loade⟩
  case rd => exact fun u idx ln h hln hwaits => runCycle_rd hfly h hups hln hwaits
  case land => exact fun u idx q e h hwaits h0 h1 => runCycle_land hfly h hups hwaits h0 h1
  case wr =>
    intro u idx ln h hln
    refine ⟨fun hoff => runCycle_idle h (acted_wr_off _ _ hstart hoff idx ln), fun d hon hd => ?_⟩
    refine ⟨fun c w va l0 nl hins hwords => ?_, fun c w dl nn pat hins hwords => ?_, fun c w sl dl dpos nn hins hline => ?_,
      fun c w q e dst nn hins hline => ?_⟩
    all_goals refine runCycle_writes h hups hd (acted_wr _ _ hstart hon hln ?_)
    all_goals rw [Fly.lineOut, hins]
    · exact congrArg some (vuSt_line hd hwords)
    · exact congrArg some (mvFill_line hd hwords)
    · exact congrArg some hline.symm
    · exact congrArg some hline.symm
  case spokeOut =>
    intro u idx h
    have hdest := destSpan_of_leaves (cycleLeaves_start h)
    have hstep := step_of_leaves (cycleLeaves_start h)
    refine ⟨fun c w sl sp q e nn hins => ?_, fun c w sl st q e nn tagb hins => ?_, fun c w sl q e nn desc hins => ?_,
      fun c dl p q e bp vs val p1 p0 hins => ?_, fun c w sl dl dpos nn hins _ hne => ?_⟩
    · exact runCycle_sends h (hdest sp ▸ spokeOutOp_mvSend hstart m idx u hins)
    · exact runCycle_sends h (spokeOutOp_mvHbm hstart m idx u hins)
    · exact runCycle_sends h (spokeOutOp_mvStage hstart m idx u hins)
    · exact runCycle_sends h (hdest (104 + p) ▸ hstep ▸ spokeOutOp_sqAgree hstart m idx u hins)
    · exact runCycle_copies h hne (spokeOutOp_mvCopy hstart m idx u hins)
  case refills => exact fun idx c w q e wl sln nn h hins => runCycle_refills hfly h hins
  case vuOff => exact fun c w vd src nl tag idx h _ hoff => runCycle_vuOff hfly h hoff
  case loads => exact fun c w vd ln nl tag h hins hon hnl hline => runCycle_loads hfly h hins hon hnl hline
  case loadsLanding => exact fun c w vd q e nl tag idx h hins hon hnl hidx hline => runCycle_loadsLanding hfly h hins hon hnl hidx hline
  case digests => exact fun c dl ln nn idx h hins => runCycle_digests hfly h hins
  case loade =>
    intro c dl q e half db h hins hdb x half_
    obtain ⟨hfs, hp, hwritten, hnot⟩ := runCycle_loade hfly h hins
    exact ⟨fun i hi => (congrArg (fun b : BitVec 8 => b.getLsbD i) hfs).trans (getLsbD_setFlagBit _ hdb hi _), hp, hwritten, hnot⟩

end Sys2Proof.Machine

/-! ### Words issued in an idle span, and what they take with them -/

namespace Sys2Proof.Machine

/-- The state in which a unit's next word, of cycle `c`, enters it: the span's cycles up to `c` are over and the stream has moved on (R161). -/
def State.atIssueCycle (s : State) (cl : Nat) (u : Unit4) (c : Nat) : State :=
  (s.updSpn (spanOf cl) (fun x => { x with cycle := max x.cycle c })).setClu cl
    ((s.clu cl).setStream u (((s.clu cl).stream u).issued 1 c))

theorem issueWord_of_issues {i : Instr} {s : State} {cl : Nat} {u : Unit4} {w : Wd} (hwf : i.wf = true) (hunit : unitOf i = some (cl, u, w))
    (hissues : s.issues cl u = true) :
    let c := ((s.clu cl).stream u).issue w.delta
    issueWord i s = .next ((s.atIssueCycle cl u c).launch cl u w i c) := by
  intro c
  simp only [State.issues, Bool.and_eq_true] at hissues
  obtain ⟨⟨⟨-, hmay⟩, hidle⟩, hfresh⟩ := hissues
  have hstale : (s.clu cl).staleIn ((s.clu cl).stream u) 1 = none := by
    have hnone := Option.isNone_iff_eq_none.mp hfresh
    simpa [Cluster.staleIn, Stream.ahead, List.range_succ] using hnone
  have hclu : (advanceSpan s (spanOf cl) c).clu cl = s.clu cl := by rw [advanceSpan_of_idle hidle, State.clu_updSpn]
  have hword : wordOk i = true := hwf
  rw [issueWord, issueWith, hword, hunit]
  simp only [Bool.not_true, Bool.false_eq_true, if_false, issueAt, hmay]
  rw [show ((s.clu cl).stream u).issue w.delta = c from rfl, hclu, hstale, advanceSpan_of_idle hidle]
  rfl

/-- A word with work to do, which names no missing line and raises nothing at its issue, is in flight with what it took (R167, R190, R220). -/
theorem flyOf_launch {v : State} {cl : Nat} {u : Unit4} {w : Wd} {i : Instr} {c : Nat} (hhole : holeAddr cl i = none)
    (hops : opsOf i u c (posOf cl) ≠ []) (hcodes : (atIssue (v.clu cl) i).2.2 = []) :
    (v.launch cl u w i c).flyOf cl (v.clu cl).nextIid = some
      { ins := i, on := (v.clu cl).enabled w, phase := v.tik.phaseNo, src := (atIssue (v.clu cl) i).1, res := (atIssue (v.clu cl) i).2.1,
        win := (v.clu cl).me.issueWin i } := by
  simp only [State.launch, hhole, hcodes, List.foldl_nil, ite_self, List.isEmpty_iff, List.map_eq_nil_iff, hops, if_false]
  rw [State.flyOf, State.clu_setClu, Tbl.map_some_set, Tbl.get_set]

/-- A vector word that issues writes the registers that it computes at its issue (R220). -/
theorem vuWrites_of_atIssue {i : Instr} {s : State} {cl vd : Nat} {w : Wd} {v : Vreg} {r : Vreg → Prop} (hexec : exec i s = issueWord i s)
    (hwf : i.wf = true) (hunit : unitOf i = some (cl, .vu, w)) (hissues : s.issues cl .vu = true) (hhole : holeAddr cl i = none)
    (hops : ∀ c, opsOf i .vu c (posOf cl) ≠ []) (hres : ∀ st, atIssue ((s.clu cl).setStream .vu st) i = ([], [(vd, v)], [])) (htag : v.tag = none)
    (hr : r v) : vuWrites i s cl vd r := by
  have hclu : ∀ c, (s.atIssueCycle cl .vu c).clu cl = (s.clu cl).setStream .vu (((s.clu cl).stream .vu).issued 1 c) := fun c =>
    State.clu_setClu _ _ _
  have hnext : ∀ c, ((s.atIssueCycle cl .vu c).clu cl).nextIid = (s.clu cl).nextIid := fun c => by rw [hclu]; rfl
  refine ⟨_, _, v, hexec.trans (issueWord_of_issues hwf hunit hissues),
    hnext _ ▸ flyOf_launch hhole (hops _) (by rw [hclu, hres]), rfl, ?_, htag, hr⟩
  dsimp only
  rw [hclu, hres]

/-! #### Lanes and halves of a register (R218, R219) -/

theorem lane_vregOf (l : List Nat) (i : Nat) : (vregOf l).lane i = BitVec.ofNat 32 (nth 0 l i) :=
  List.getD_map ..

theorem length_nats (v : Vreg) : v.nats.length = 128 := by rw [Vreg.nats, List.length_map, List.length_range]

theorem length_halves (v : Vreg) : v.halves.length = 256 := by
  rw [Vreg.halves, List.length_flatMap]
  change (v.nats.map fun _ => 2).sum = 256
  rw [List.map_const', List.sum_replicate, length_nats]
  rfl

theorem nth_map_of_lt {α β : Type} {d : α} {e : β} (f : α → β) {l : List α} {i : Nat} (hi : i < l.length) : nth e (l.map f) i = f (nth d l i) := by
  simp [nth, List.getD_eq_getElem?_getD, hi]

theorem nth_nats (v : Vreg) {i : Nat} (hi : i < 128) : nth 0 v.nats i = (v.lane i).toNat := nth_map_range _ hi

theorem nth_halves (v : Vreg) {i : Nat} (hi : i < 256) : nth 0 v.halves i = v.half i := by
  have hlane := (v.lane (i / 2)).isLt
  rw [Vreg.halves, Vreg.nats, List.flatMap_map, nth_flatMap (c := 2) (fun _ => rfl) (by omega), Vreg.half]
  rcases Nat.mod_two_eq_zero_or_one i with h | h <;> rw [h]
  · rw [Nat.mul_zero, Nat.pow_zero, Nat.div_one]
    rfl
  · exact (Nat.mod_eq_of_lt (show (v.lane (i / 2)).toNat / 2 ^ (16 * 1) < 2 ^ 16 by omega)).symm

theorem half_vregOfHalves (l : List Nat) {i : Nat} (hi : i < 256) : (vregOfHalves l).half i = nth 0 l i % 2 ^ 16 := by
  rw [Vreg.half, vregOfHalves, lane_vregOf, nth_map_range _ (by omega), BitVec.toNat_ofNat]
  rcases Nat.mod_two_eq_zero_or_one i with h | h <;> rw [h]
  · rw [show 2 * (i / 2) = i by omega]
    omega
  · rw [show 2 * (i / 2) + 1 = i by omega]
    omega

end Sys2Proof.Machine

/-! ### Special functions (O12) -/

namespace Sys2Proof.Machine

/-! #### The words (R238) -/

/-- The word of a special function. -/
def Special.word (cl : Nat) (w : Wd) (ty : FTy) (vd va : Nat) : Special → Instr
  | .exp2 => .vuExp2 cl w ty vd va
  | .log2 => .vuLog2 cl w ty vd va
  | .rcp => .vuRcp cl w ty vd va
  | .rsq => .vuRsq cl w ty vd va
  | .tanh => .vuTanh cl w ty vd va
  | .sin => .vuSin cl w ty vd va
  | .cos => .vuCos cl w ty vd va

/-- A special function's word writes the function of its source register (R238). -/
theorem vuWrites_special {s : State} {cl vd va : Nat} {w : Wd} {ty : FTy} {r : Vreg → Prop} (g : Special) (hissues : s.issues cl .vu = true)
    (hwf : (Instr.vuExp2 cl w .fp32 vd va).wf = true) (hr : r (specialV ty g ((s.clu cl).vreg va))) :
    vuWrites (g.word cl w ty vd va) s cl vd r := by
  have htag : (specialV ty g ((s.clu cl).vreg va)).tag = none := by cases ty <;> rfl
  cases g <;> exact vuWrites_of_atIssue rfl hwf rfl hissues rfl (fun _ => List.cons_ne_nil _ _) (fun _ => rfl) htag hr

theorem lane_specialV (g : Special) (a : Vreg) {i : Nat} (hi : i < 128) :
    ((specialV .fp32 g a).lane i).toNat = special32 g (a.lane i).toNat % 2 ^ 32 := by
  rw [specialV, lane_vregOf, BitVec.toNat_ofNat, nth_map_of_lt _ (hi.trans_eq (length_nats a).symm), nth_nats a hi]

theorem half_specialV (g : Special) (a : Vreg) {i : Nat} (hi : i < 256) : (specialV .bf16 g a).half i = special16 g (a.half i) % 2 ^ 16 := by
  rw [specialV, half_vregOfHalves _ hi, nth_map_of_lt _ (hi.trans_eq (length_halves a).symm), nth_halves a hi]

/-! #### The special inputs (R147) -/

theorem special32_of_nan (g : Special) {x : Nat} (h : (FF.fp32.decode x).kind = .nan) : special32 g x = fpNan := by
  simp only [special32, h]

/-- Above the infinity of its sign a code is a NaN (R124). -/
theorem decode_fp32_nan {x : Nat} (h : 0x7F800000 < x % 2 ^ 31) : (FF.fp32.decode x).kind = .nan := by
  have hexp : x / 2 ^ FF.fp32.mb % 2 ^ FF.fp32.eb = 2 ^ FF.fp32.eb - 1 := by
    simp only [FF.fp32]
    omega
  have hman : x % 2 ^ FF.fp32.mb ≠ 0 := by
    simp only [FF.fp32]
    omega
  simp only [FF.decode, hexp, hman, if_true, if_false]
  rfl

/-- Between −0 and −Infinity lie the negative finite values (R125). -/
theorem decode_fp32_negative {x : Nat} (hlo : 0x80000000 < x) (hhi : x < 0xFF800000) :
    (FF.fp32.decode x).kind = .fin ∧ (FF.fp32.decode x).s = true ∧ (FF.fp32.decode x).m ≠ 0 := by
  have hexp : x / 2 ^ FF.fp32.mb % 2 ^ FF.fp32.eb ≠ 2 ^ FF.fp32.eb - 1 := by
    simp only [FF.fp32]
    omega
  have hsign : FF.fp32.sign x = true := decide_eq_true (show x / 2 ^ (8 + 23) % 2 = 1 by omega)
  have htop : FF.fp32.top = .ieee := rfl
  simp only [FF.decode, htop, hexp, if_false, hsign]
  split
  case isTrue hzero =>
    refine ⟨rfl, rfl, ?_⟩
    simp only [FF.fp32] at hzero ⊢
    omega
  case isFalse => exact ⟨rfl, rfl, by positivity⟩

/-- A value below zero has no logarithm and no square root (R147). -/
theorem special32_of_negative {x : Nat} (hlo : 0x80000000 < x) (hhi : x < 0xFF800000) :
    special32 .log2 x = fpNan ∧ special32 .rsq x = fpNan := by
  obtain ⟨hkind, hsign, hman⟩ := decode_fp32_negative hlo hhi
  simp only [special32, hkind, hsign, hman, if_true, if_false, and_self]

/-- Settles O12: the words by what each takes at its issue, the special inputs by the table of R147. -/
theorem specialFunctionResults : Obligations.SpecialFunctionResults := by
  unfold Obligations.SpecialFunctionResults
  refine ⟨fun s cl w vd va hissues hwf g i hg => ?words, fun g x _ hx => special32_of_nan g (decode_fp32_nan hx), by decide, by decide, by decide,
    by decide, fun x hlo hhi => special32_of_negative hlo hhi⟩
  have hi : ∀ ty, i ty = g.word cl w ty vd va := by
    simp only [List.mem_cons, Prod.mk.injEq, List.not_mem_nil, or_false] at hg
    rcases hg with ⟨rfl, rfl⟩ | ⟨rfl, rfl⟩ | ⟨rfl, rfl⟩ | ⟨rfl, rfl⟩ | ⟨rfl, rfl⟩ | ⟨rfl, rfl⟩ | ⟨rfl, rfl⟩ <;> exact fun _ => rfl
  rw [hi, hi]
  exact ⟨vuWrites_special g hissues hwf fun x hx => lane_specialV g _ hx, vuWrites_special g hissues hwf fun x hx => half_specialV g _ hx⟩

end Sys2Proof.Machine

/-! ### Matrix work (O16): ME.MACV on a format that is not its own -/

namespace Sys2Proof.Machine

/-- A line of FP32 values of which element 8 is 1 and the others are 0. -/
def lineOfOne : List Byte := zeros 32 ++ leBytes fpOne 4 ++ zeros 92

/-- ME.MACV with FP32 in flight, one fetch into row 0 of B0 at W = 0: its activations, and the first line of its weights, are `lineOfOne`. -/
def macvFp32 : Fly :=
  { ins := .meMacv 0 ⟨1, false, 0⟩ false .fp32 0 0 1 1 0, on := true, phase := 0, lines := [(0, lineOfOne), (10000, lineOfOne)], win := (35, 0, 0) }

/-- Cluster 0 with the work of that fetch due in its span's next cycle. -/
def fetchFp32 : State := { State.reset with clusters := [(0, { ops := [⟨0, .me, 0, .work 1⟩], fly := [(0, macvFp32)] })] }

theorem loneOp_fetchFp32 : fetchFp32.loneOp 0 .me 0 (.work 1) [] := by
  unfold State.loneOp
  decide

/-- The engine takes 32 bytes of the fetch for each weight row (R195), so that row 0 ends before element 8 and adds nothing. -/
theorem entry_fetchFp32 : ((runCycle fetchFp32 0).clu 0).me.entry false 0 0 = 0 := by decide +kernel

/-- Refutes O16 at ME.MACV: the statement does not ask that its word passes the word checks, as it does of ME.ROUND. For FP32, which R187 gives
to ME.ROUND alone, the statement takes weight rows of 128 bytes where R195 gives 32, and wants the product of the two elements 8 added into
entry (0, 0). -/
theorem not_matrixWorkAccumulates : ¬ Obligations.MatrixWorkAccumulates := by
  unfold Obligations.MatrixWorkAccumulates
  rintro ⟨-, h⟩
  obtain ⟨-, -, -, -, hmacv, -⟩ := h fetchFp32 0 0 macvFp32 [] rfl rfl
  obtain ⟨-, hfetch⟩ := hmacv 0 ⟨1, false, 0⟩ false .fp32 0 0 1 1 0 rfl
  obtain ⟨hentries, -⟩ := hfetch 0 loneOp_fetchFp32 ⟨rfl, rfl, rfl, by decide⟩ (by decide)
  exact absurd (entry_fetchFp32.symm.trans (hentries 0 (by decide))) (by decide +kernel)

end Sys2Proof.Machine

/-! ### Every command completes (O6) -/

namespace Sys2Proof.Machine

/-! #### Answers that are a next state -/

/-- The answer is a next state. -/
def answers (o : Host.Outcome State Fault Refusal) : Bool :=
  match o with
  | .next _ => true
  | _ => false

@[simp] theorem answers_next (t : State) : answers (.next t) = true := rfl

@[simp] theorem answers_ite (p : Prop) [Decidable p] (a b : Host.Outcome State Fault Refusal) :
    answers (if p then a else b) = if p then answers a else answers b := apply_ite answers p a b

theorem answers_iff {o : Host.Outcome State Fault Refusal} : answers o = true ↔ ∃ t, o = .next t := by
  cases o <;> simp [answers]

/-! The forms that many rows share. -/

@[simp] theorem answers_portRow (p : Nat) (s : State) (f : State → State) : answers (portRow p s f) = true := by simp [portRow]

@[simp] theorem answers_hostWrite (s : State) (f : State → State) : answers (hostWrite s f) = true := by simp [hostWrite]

@[simp] theorem answers_droopChange (span cyc : Nat) (s : State) (g : Spn → Spn) : answers (droopChange span cyc s g) = true := by simp [droopChange]

@[simp] theorem answers_asCandidate (s : State) (f : State → State) : answers (asCandidate s f) = true := by simp [asCandidate]

@[simp] theorem answers_regRow (s : State) (r : Nat) (w : State → RegAns × State) (v : Reg) : answers (regRow s r w v) = true := by simp [regRow]

@[simp] theorem answers_unitRow (s : State) (u n r : Nat) (w : State → RegAns × State) (v : Reg) : answers (unitRow s u n r w v) = true := by
  simp [unitRow]

/-! Rows with several matches, one within another. -/

@[simp] theorem answers_execKeystoneTick (s : State) : answers (execKeystoneTick s) = true := by
  unfold execKeystoneTick
  dsimp only
  split
  case isTrue => split <;> simp
  case isFalse => simp

@[simp] theorem answers_execHostDmaComplete (ref : DmaRef) (res : HostRes) (s : State) : answers (execHostDmaComplete ref res s) = true := by
  unfold execHostDmaComplete
  split
  case h_1 =>
    split
    case h_1 => rfl
    case h_2 => cases res <;> simp
  case h_2 =>
    split
    case h_1 => rfl
    case h_2 => cases res <;> simp

@[simp] theorem answers_execCellReceive (p slot : Nat) (bytes : List Byte) (fec : FecObs) (s : State) :
    answers (execCellReceive p slot bytes fec s) = true := by
  simp only [execCellReceive, answers_ite, answers_next]
  cases cellOf bytes <;> simp

@[simp] theorem answers_execStepDonePost (s : State) : answers (execStepDonePost s) = true := by
  unfold execStepDonePost
  extract_lets n
  split
  case h_1 => rfl
  case h_2 => split <;> rfl

@[simp] theorem answers_execReadyReceive (p count : Nat) (s : State) : answers (execReadyReceive p count s) = true := by
  simp only [execReadyReceive, answers_ite, answers_next]
  cases s.plc.proposal <;> simp

@[simp] theorem answers_execCancelReceive (digest8 : List Byte) (epoch : Nat) (s : State) : answers (execCancelReceive digest8 epoch s) = true := by
  unfold execCancelReceive
  split
  case isTrue =>
    dsimp only
    split <;> simp
  case isFalse => rfl

@[simp] theorem answers_execStepdigReceive (p step : Nat) (digest : BitVec 64) (s : State) : answers (execStepdigReceive p step digest s) = true := by
  unfold execStepdigReceive
  split
  case isTrue => rfl
  case isFalse =>
    split
    case isTrue => rfl
    case isFalse =>
      split
      case isTrue =>
        dsimp only
        split <;> simp
      case isFalse => simp

@[simp] theorem answers_execStagingDeadline (desc : Nat) (s : State) : answers (execStagingDeadline desc s) = true := by
  unfold execStagingDeadline
  split
  case h_1 => rfl
  case h_2 =>
    dsimp only
    split <;> simp

@[simp] theorem answers_execStagingDelivery (desc : Nat) (s : State) : answers (execStagingDelivery desc s) = true := by
  unfold execStagingDelivery
  split
  case h_1 => rfl
  case h_2 =>
    dsimp only
    split <;> simp

@[simp] theorem answers_execStagingExternalWrite (desc step : Nat) (s : State) : answers (execStagingExternalWrite desc step s) = true := by
  unfold execStagingExternalWrite
  split
  case h_1 => rfl
  case h_2 => split <;> simp

@[simp] theorem answers_execCxlAccessError (desc step line : Nat) (kind : CxlErr) (s : State) :
    answers (execCxlAccessError desc step line kind s) = true := by
  unfold execCxlAccessError
  split
  case h_1 => rfl
  case h_2 => split <;> simp

@[simp] theorem answers_execPhaseEdge (upsets : List Upset) (s : State) : answers (execPhaseEdge upsets s) = true := by
  unfold execPhaseEdge
  extract_lets
  simp

/-! #### Words (R179, R183) -/

/-- What O6 says of one command. -/
def completes (i : Instr) (s : State) : Prop :=
  (i.wf = true → ∃ t, exec i s = .next t) ∧ (i.wf = false → exec i s = .refused .wordRefused)

/-- A command that is no word completes where it answers a next state. -/
theorem completes_of_answers {i : Instr} {s : State} (hwf : i.wf = true) (hexec : answers (exec i s) = true) : completes i s :=
  ⟨fun _ => answers_iff.mp hexec, fun h => absurd (hwf.symm.trans h) (by decide)⟩

/-- A word completes where its meaning begins with the word checks and answers a next state after them. -/
theorem completes_of_check {i : Instr} {s : State} {o : Host.Outcome State Fault Refusal}
    (hexec : exec i s = if !wordOk i then .refused .wordRefused else o) (ho : answers o = true) : completes i s := by
  refine ⟨fun hwf => ?_, fun hwf => ?_⟩ <;> rw [hexec, show wordOk i = _ from hwf]
  · exact answers_iff.mp ho
  · rfl

/-- The meaning of a word whose work is all in the pipeline is its issue. -/
theorem exec_of_pipelined {i : Instr} (hpipe : pipelined i = true) (s : State) : exec i s = issueWord i s := by
  cases i
  case meWin | meClear | meLoadw | meMac | meMacs | meMacv | meAddx | meRound | meDrain | mvCopy | mvSend | mvRecv | mvHbm | mvStage | mvFill |
    sqFlag | sqAgree | sqDigest | vuLd | vuSt | vuAdd | vuSub | vuMul | vuFma | vuMin | vuMax | vuCmp | vuSel | vuIadd | vuAnd | vuOr | vuXor |
    vuShl | vuShr | vuCvt | vuQmx | vuExp2 | vuLog2 | vuRcp | vuRsq | vuTanh | vuSin | vuCos | vuXsum | vuTopk | vuRng | vuPerm => rfl
  all_goals cases hpipe

theorem completes_of_issueWith {i : Instr} {x : Nat × Unit4 × Wd} {s : State} {n : Nat} {go : Nat → Unit4 → Wd → State → Nat → State}
    (hunit : unitOf i = some x) (hexec : exec i s = issueWith i s n go) : completes i s := by
  refine completes_of_check (hexec.trans ?_) (answers_next (issueAt s x.1 x.2.1 x.2.2.delta n (go x.1 x.2.1 x.2.2)))
  rw [issueWith, hunit]

theorem completes_unitWord {i : Instr} {x : Nat × Unit4 × Wd} (hunit : unitOf i = some x) (s : State) : completes i s := by
  cases hpipe : pipelined i
  case true => exact completes_of_issueWith hunit (exec_of_pipelined hpipe s)
  case false =>
    cases i <;> cases hpipe <;> cases hunit
    case sqWait | sqBr | sqEnd => exact completes_of_issueWith rfl (by rw [exec]; exact rfl)

theorem completes_memWord {i : Instr} {st delta pclo pcn bank row : Nat} {c : MemCmd} {all : Bool} {go : State → Nat → List Nat → State} {s : State}
    (hexec : exec i s = memIssue i st delta c pclo pcn bank row all go s) : completes i s := by
  refine completes_of_check (hexec.trans (by rw [memIssue])) ?_
  extract_lets m
  split
  case isTrue => rfl
  case isFalse => split <;> rfl

theorem completes_phaseMark (st : StreamId) (advance bp : Nat) (s : State) : completes (.phaseMark st advance bp) s :=
  completes_of_check rfl (by simp)

theorem completes_idleWord (st : StreamId) (delta : Nat) (s : State) : completes (.idleWord st delta) s := by
  refine completes_of_check rfl ?_
  cases st <;> simp

/-! #### Commands of no cluster unit -/

/-- Words of ports and of memory sequencers, phase marks and idle words begin with the word checks; a register row, a host command or an event
has none, and its meaning answers a next state on each of its branches. -/
theorem completes_of_noUnit {i : Instr} (hunit : unitOf i = none) (s : State) : completes i s := by
  cases i <;> cases hunit
  case ptPage | ptPad => exact completes_of_check rfl rfl
  case phaseMark => exact completes_phaseMark ..
  case idleWord => exact completes_idleWord ..
  case act | pre | rd | wr | refa | refb => exact completes_memWord (by rw [exec]; exact rfl)
  case beaconSend | timeWindowEnd | ppsOutEdge | ethFrameTransmit | mgmtLaneTrain | identify | bufReg | bufFree | load | unload | place |
    switchGet | switchDone | arm | start | stop | abort | release | dma | regRead | regWrite | dump | reset | attest | fwUpdate | completionWrite
    | pcieReset | serviceRequestSend | spanPoll | ucieTrainFail | overvoltage | resetNAssert | resetNRelease | pwrEnNAssert | pwrEnNRelease |
    flashOwnRise | flashOwnFall | i3cStatus | i3cSensors | i3cIdent | i3cReset | ucieModuleDown | ucieModuleReturn | feedLoss | feedReturn |
    cxlLinkDown =>
    exact completes_of_answers rfl rfl
  case crossingWriteLand | ethFrameReceive | shadowWrite | controlRequestTimeout | interruptCoalesceEnd | serviceRequestTimeout | faultRecord |
    stepAbort | abortStop | stepDigestHandover | readyDeadline | goDeadline | pairTimeout | stagingIssue | stagingLineArrive | stagingCapture |
    stagingWriteAck | tollhousePollTimeout | stopCheck | ucieDownTimeout | autoResetTimer | controlAcknowledgement =>
    refine completes_of_answers rfl ?_
    simp only [exec, execCrossingWriteLand, execEthFrameReceive, execShadowWrite, execControlRequestTimeout, execInterruptCoalesceEnd,
      execServiceRequestTimeout, execFaultRecord, execStepAbort, execAbortStop, execStepDigestHandover, execReadyDeadline, execGoDeadline,
      execPairTimeout, execStagingIssue, execStagingLineArrive, execStagingCapture, execStagingWriteAck, execTollhousePollTimeout, execStopCheck,
      execUcieDownTimeout, execAutoResetTimer, execControlAcknowledgement]
    split <;> simp
  all_goals
    refine completes_of_answers rfl ?_
    simp [exec, execPlanEndReached, execDroopTrip, execDroopClear, execStretchHoldEnd, execBeaconReceive, execAnnounceIncrement, execRootLoss,
      execParentLoss, execHoldoverExpiry, execFollowerSteer, execPpsInEdge, execPpsInTimeout, execTimStep, execTimCtlWrite, execTimEthLatWrite,
      execTimClear, execTikKeyArm, execTikKeyDisarm, execTikStepSetWrite, execTikClear, execSpnClear, execCluClear, execMsqClear, execMsqScrub,
      execMsqScrubDone, execCxlClear, execOlfRetrainCmd, execOlfDownCmd, execOlfCtlWrite, execOlfClear, execCwyClear, execSvcCtlWrite,
      execSvcClear, execPlcClear, execHstCtlWrite, execHstClear, execFltClear, execCfgPersist, execCfgForget, execCfgCompact, execCfgClear,
      execCfgGrpRefWrite, execCfgAszTRefWrite, execPwrClear, execSecDbgChallenge, execSecDbgUnlock, execSecClear, execRegisterWrite,
      execDiagWindowAccess, execTransferAreaAccess, execCommandRingDoorbell, execCompletionDoorbell, execEventDoorbell, execEventsLost,
      execMailboxDoorbell, execFrameSend, execLinkWordReceive, execRouterSlot, execDetectRetest, execEqualiseDone, execAlignDone,
      execIdentReceive, execMeasureDone, execTrainingTimeout, execAuditSend, execAuditReceive, execRunchkSend, execRunchkReceive,
      execRunchkMissing, execLockLoss, execLockLossTimeout, execLockRegain, execLaneLockLoss, execRetrainReceive, execWidthReceive,
      execDownHoldExpiry, execServiceRequestReceive, execServiceResponseReceive, execServiceCellForward, execServiceMessageReceive,
      execFoldMillisecondEnd, execAbortCellReceive, execJobStop, execStopRequestReceive, execStopStepReceive, execClaimSend, execClaimReceive,
      execElectionClose, execHealthReceive, execMapCompute, execSwitchRegather, execMapReceive, execReleaseReceive, execExcludeReceive,
      execProposeReceive, execRefuseReceive, execGoReceive, execConfirmReceive, execPlaceTimeout, execCxlLinkTrain, execCxlHotAdd,
      execRefreshDebtIncrease, execForcedRefresh, execMsqAutoRefresh, execMsqRecoveryPrecharge, execHbmTempRead, execStoreScrubPass,
      execAssizePass, execJournalAppend, execCompactionComplete, execOldBankErased, execTollhousePoll, execWatchdogFeed, execWatchdogExpiry,
      execDrainEnd, execResetHoldExpiry, execResetBegin, execSelfRefreshTimeout, execTollhouseRelease, execFirmwareStart, execComputeDieRelease,
      execSelfTestDone, execInputGood, execRailGood, execRailStartTimeout, execUndervoltage, execPowerDown, execOvervoltageClear, execOvercurrent,
      execRailWindowFault, execFeedReversed, execRailSettled, execPowerPolicyEval, execThermalTrip, execCoolantFault, execI3cAddressAssign,
      execDebugPortAccess, execDroopLevel2Clear, execCoresHeldInReset]

/-- Settles O6: the words of cluster units by their issue, every other command by its own meaning. -/
theorem everyCommandCompletes : Obligations.EveryCommandCompletes := by
  unfold Obligations.EveryCommandCompletes
  intro i s
  change completes i s
  cases hunit : unitOf i
  case none => exact completes_of_noUnit hunit s
  case some => exact completes_unitWord hunit s

end Sys2Proof.Machine

/-! ### Pipelined words issue (O7) -/

namespace Sys2Proof.Machine

/-! #### A stream replaced -/

@[simp] theorem Cluster.stream_setStream (k : Cluster) (u : Unit4) (r : Stream) : (k.setStream u r).stream u = r := by cases u <;> rfl
@[simp] theorem Cluster.setStream_ops (k : Cluster) (u : Unit4) (r : Stream) : (k.setStream u r).ops = k.ops := by cases u <;> rfl
@[simp] theorem Cluster.setStream_fly (k : Cluster) (u : Unit4) (r : Stream) : (k.setStream u r).fly = k.fly := by cases u <;> rfl
@[simp] theorem Cluster.setStream_nextIid (k : Cluster) (u : Unit4) (r : Stream) : (k.setStream u r).nextIid = k.nextIid := by cases u <;> rfl
@[simp] theorem Cluster.setStream_me (k : Cluster) (u : Unit4) (r : Stream) : (k.setStream u r).me = k.me := by cases u <;> rfl
@[simp] theorem Cluster.setStream_p (k : Cluster) (u : Unit4) (r : Stream) : (k.setStream u r).p = k.p := by cases u <;> rfl
@[simp] theorem Cluster.setStream_fs (k : Cluster) (u : Unit4) (r : Stream) : (k.setStream u r).fs = k.fs := by cases u <;> rfl
@[simp] theorem Cluster.setStream_vregs (k : Cluster) (u : Unit4) (r : Stream) : (k.setStream u r).vregs = k.vregs := by cases u <;> rfl

@[simp] theorem atIssue_setStream (k : Cluster) (u : Unit4) (r : Stream) (i : Instr) : atIssue (k.setStream u r) i = atIssue k i := by
  cases u <;> rfl

/-! #### Codes raised at an issue (R515) -/

/-- Instruction `iid` of cluster `cl` has raised codes between two states: the fault log and its own record say so, and nothing else. -/
def onlyRaised (s t : State) (cl iid : Nat) : Prop :=
  t = { s with clusters := t.clusters, flt := t.flt } ∧ (∀ x, x ≠ cl → t.clu x = s.clu x) ∧ t.clu cl = { s.clu cl with fly := (t.clu cl).fly } ∧
    ∀ f, s.flyOf cl iid = some f → ∃ codes, t.flyOf cl iid = some { f with raised := codes }

theorem onlyRaised_refl (s : State) (cl iid : Nat) : onlyRaised s s cl iid :=
  ⟨rfl, fun _ _ => rfl, rfl, fun f hf => ⟨f.raised, hf⟩⟩

theorem onlyRaised.trans {s t v : State} {cl iid : Nat} (hst : onlyRaised s t cl iid) (htv : onlyRaised t v cl iid) : onlyRaised s v cl iid := by
  obtain ⟨hframe, hother, hown, hfly⟩ := hst
  obtain ⟨hframe', hother', hown', hfly'⟩ := htv
  refine ⟨hframe'.trans (by rw [hframe]), fun x hx => (hother' x hx).trans (hother x hx), hown'.trans (by rw [hown]), fun f hf => ?_⟩
  obtain ⟨codes, hcodes⟩ := hfly f hf
  exact (hfly' _ hcodes).imp fun _ h => h

theorem flyOf_setFly (s : State) (cl iid : Nat) (f : Fly) :
    (s.updClu cl fun k => { k with fly := Tbl.set k.fly iid f }).flyOf cl iid = some f := by
  rw [State.flyOf, State.clu_updClu, Tbl.map_some_set, Tbl.get_set]

theorem onlyRaised_raise (s : State) (cl iid : Nat) (code : BitVec 16) (src agent : Nat) (detail : Reg) :
    onlyRaised s (s.raise code src agent detail) cl iid :=
  ⟨rfl, fun _ _ => rfl, rfl, fun f hf => ⟨f.raised, hf⟩⟩

theorem onlyRaised_setFly {s : State} {cl iid : Nat} {f : Fly} (hf : s.flyOf cl iid = some f) (codes : List (BitVec 16)) :
    onlyRaised s (s.updClu cl fun k => { k with fly := Tbl.set k.fly iid { f with raised := codes } }) cl iid := by
  refine ⟨rfl, fun x hx => State.clu_updClu_ne s cl x _ hx, ?_, fun g hg => ⟨codes, ?_⟩⟩
  · rw [State.clu_updClu]
  · obtain rfl : f = g := Option.some_inj.mp (hf.symm.trans hg)
    exact flyOf_setFly s cl iid _

theorem onlyRaised_unitRaise (s : State) (cl iid part : Nat) (code : BitVec 16) : onlyRaised s (s.unitRaise cl iid part code) cl iid := by
  unfold State.unitRaise
  split
  case h_2 => exact onlyRaised_refl s cl iid
  case h_1 f hf =>
    split
    case isTrue => exact onlyRaised_refl s cl iid
    case isFalse =>
      simp only [State.updFly, hf]
      exact (onlyRaised_setFly hf _).trans (onlyRaised_raise ..)

theorem onlyRaised_unitRaises (cl iid part : Nat) (codes : List (BitVec 16)) (s : State) :
    onlyRaised s (codes.foldl (fun s code => s.unitRaise cl iid part code) s) cl iid := by
  induction codes generalizing s with
  | nil => exact onlyRaised_refl s cl iid
  | cons code rest ih => exact (onlyRaised_unitRaise s cl iid part code).trans (ih _)

/-! #### The work of a word (R184, R189, R226) -/

theorem flatMap_range_ne_nil {α : Type} {n : Nat} (hn : 1 ≤ n) {g : Nat → List α} (hg : g 0 ≠ []) : (List.range n).flatMap g ≠ [] :=
  fun h => hg (List.flatMap_eq_nil_iff.mp h 0 (List.mem_range.mpr hn))

theorem map_range_ne_nil {α : Type} {n : Nat} (hn : 1 ≤ n) (g : Nat → α) : (List.range n).map g ≠ [] := by
  simpa using (show n ≠ 0 by omega)

theorem one_le_roundLines {f : Fmt} {r : Nat} (hr : 1 ≤ r) : 1 ≤ roundLines f r := by
  have hbytes : 32 ≤ roundBytes f := by cases f <;> decide
  have := Nat.mul_le_mul hr hbytes
  unfold roundLines
  omega

theorem formOk_of_wf {i : Instr} (hwf : i.wf = true) : formOk i = true := by
  rw [Instr.wf, wordOk, Bool.and_eq_true, Bool.and_eq_true] at hwf
  exact hwf.1.2

/-- A pipelined word has work to do: what it repeats it does at least once (R184, R189, R226). -/
theorem opsOf_ne_nil {i : Instr} {cl : Nat} {u : Unit4} {w : Wd} (hpipe : pipelined i = true) (hform : formOk i = true)
    (hunit : unitOf i = some (cl, u, w)) (c pos : Nat) : opsOf i u c pos ≠ [] := by
  cases i <;> cases hunit <;> simp only [formOk, entriesOk, Bool.and_eq_true, decide_eq_true_eq] at hform
  case meMac | meAddx | mvCopy | mvSend | mvHbm | mvStage | sqDigest => exact flatMap_range_ne_nil (by omega) (by simp)
  case meMacs => exact List.append_ne_nil_of_right_ne_nil _ (flatMap_range_ne_nil (by omega) (by simp))
  case meRound => exact map_range_ne_nil (one_le_roundLines (by omega)) _
  case meDrain | mvFill | vuSt => exact map_range_ne_nil (by omega) _
  case mvRecv dst n => cases dst <;> simp only [Bool.and_eq_true, decide_eq_true_eq] at hform <;> exact flatMap_range_ne_nil (by omega) (by simp)
  case vuLd src nl tag =>
    cases src
    case store => exact List.append_ne_nil_of_right_ne_nil _ (List.cons_ne_nil _ _)
    case landing =>
      simp only [Bool.and_eq_true, decide_eq_true_eq] at hform
      exact flatMap_range_ne_nil (by omega) (List.cons_ne_nil _ _)
  case meLoadw => exact List.append_ne_nil_of_right_ne_nil _ (List.cons_ne_nil _ _)
  case meMacv => exact List.append_ne_nil_of_left_ne_nil (List.append_ne_nil_of_right_ne_nil _ (List.cons_ne_nil _ _)) _
  case sqFlag act => cases act <;> exact List.cons_ne_nil _ _
  case sqWait | sqBr | sqEnd => cases hpipe
  all_goals exact List.cons_ne_nil _ _

/-! #### A word enters its unit -/

/-- The record of a word that cluster `k` issues in phase `P`, with what it takes (R167, R190, R220). -/
def Cluster.flyFor (k : Cluster) (w : Wd) (i : Instr) (P : Nat) : Fly :=
  { ins := i, on := k.enabled w, phase := P, src := (atIssue k i).1, res := (atIssue k i).2.1, win := k.me.issueWin i }

@[simp] theorem flyFor_setStream (k : Cluster) (u : Unit4) (r : Stream) (w : Wd) (i : Instr) (P : Nat) :
    (k.setStream u r).flyFor w i P = k.flyFor w i P := by
  simp only [Cluster.flyFor, Cluster.enabled, Cluster.setStream_p, Cluster.setStream_me, atIssue_setStream]

/-- The operations of a word issued in cycle `c` (R184, R189, R226). A sequencer's SQ.AGREE sends through the data mover. -/
def Cluster.opsFor (k : Cluster) (u : Unit4) (i : Instr) (c pos : Nat) : List Op :=
  (opsOf i u c pos).map fun o => ⟨o.1, match i with | .sqAgree .. => .mv | _ => u, k.nextIid, o.2⟩

theorem opsFor_work (k : Cluster) (u : Unit4) (i : Instr) (c pos : Nat) : (k.opsFor u i c pos).map (fun o => (o.cyc, o.act)) = opsOf i u c pos :=
  (List.map_map ..).trans (List.map_id _)

theorem iid_of_mem_opsFor {k : Cluster} {u : Unit4} {i : Instr} {c pos : Nat} {o : Op} (ho : o ∈ k.opsFor u i c pos) : o.iid = k.nextIid := by
  obtain ⟨_, -, rfl⟩ := List.mem_map.mp ho
  rfl

/-- The cluster once the word waits in its unit. -/
def Cluster.entered (k : Cluster) (u : Unit4) (w : Wd) (i : Instr) (c pos P : Nat) : Cluster :=
  { k with
    nextIid := k.nextIid + 1
    me := if k.enabled w then k.me.noteIssue i else k.me
    fly := Tbl.set k.fly k.nextIid (k.flyFor w i P)
    ops := k.ops ++ k.opsFor u i c pos }

/-- The streams of a cluster are as they were, whatever becomes of its records. -/
theorem stream_entered (k : Cluster) (u : Unit4) (w : Wd) (i : Instr) (c pos P : Nat) (fly : Tbl Fly) (v : Unit4) :
    { k.entered u w i c pos P with fly }.stream v = k.stream v := by cases v <;> rfl

/-- A line of the unpopulated part of a window that the word names is noted (R23, R180). -/
def State.noteHole (s : State) (cl : Nat) (u : Unit4) (i : Instr) : State :=
  match holeAddr cl i with
  | some a => s.raise 0x100E (spanOf cl) (s.agentOf cl (unitPart u)) 0 (some a)
  | none => s

/-- The word in its unit: what it names noted, its cluster changed. -/
def State.entered (s : State) (cl : Nat) (u : Unit4) (w : Wd) (i : Instr) (c : Nat) : State :=
  (s.noteHole cl u i).setClu cl ((s.clu cl).entered u w i c (posOf cl) s.tik.phaseNo)

theorem noteHole_frame (s : State) (cl : Nat) (u : Unit4) (i : Instr) : s.noteHole cl u i = { s with flt := (s.noteHole cl u i).flt } := by
  unfold State.noteHole
  split <;> rfl

@[simp] theorem clu_noteHole (s : State) (cl : Nat) (u : Unit4) (i : Instr) (x : Nat) : (s.noteHole cl u i).clu x = s.clu x :=
  (congrArg (fun t : State => t.clu x) (noteHole_frame s cl u i)).trans rfl

theorem flyOf_entered (s : State) (cl : Nat) (u : Unit4) (w : Wd) (i : Instr) (c : Nat) :
    (s.entered cl u w i c).flyOf cl (s.clu cl).nextIid = some ((s.clu cl).flyFor w i s.tik.phaseNo) := by
  rw [State.flyOf, State.entered, State.clu_setClu, Cluster.entered, Tbl.map_some_set, Tbl.get_set]

theorem clu_entered_ne (s : State) {cl : Nat} (u : Unit4) (w : Wd) (i : Instr) (c : Nat) {x : Nat} (hx : x ≠ cl) :
    (s.entered cl u w i c).clu x = s.clu x := by
  rw [State.entered, State.clu_setClu_ne _ _ _ _ hx, clu_noteHole]

theorem entered_frame (s : State) (cl : Nat) (u : Unit4) (w : Wd) (i : Instr) (c : Nat) :
    s.entered cl u w i c = { s with clusters := (s.entered cl u w i c).clusters, flt := (s.entered cl u w i c).flt } := by
  rw [State.entered, noteHole_frame]
  rfl

/-- A word with work to do waits in its unit, and raises the codes that it finds at its issue where its predicate holds. -/
theorem launch_of_work {i : Instr} {u : Unit4} {c cl : Nat} (hops : opsOf i u c (posOf cl) ≠ []) (s : State) (w : Wd) :
    s.launch cl u w i c =
      if (s.clu cl).enabled w then
        (atIssue (s.clu cl) i).2.2.foldl (fun t code => t.unitRaise cl (s.clu cl).nextIid (unitPart u) code) (s.entered cl u w i c)
      else s.entered cl u w i c := by
  have hwork : (opsOf i u c (posOf cl)).isEmpty = false := List.isEmpty_eq_false_iff.mpr hops
  cases hhole : holeAddr cl i <;>
    simp only [State.launch, State.entered, State.noteHole, hhole, List.isEmpty_map, hwork, Bool.false_eq_true, if_false] <;> rfl

theorem onlyRaised_launch {i : Instr} {u : Unit4} {c cl : Nat} (hops : opsOf i u c (posOf cl) ≠ []) (s : State) (w : Wd) :
    onlyRaised (s.entered cl u w i c) (s.launch cl u w i c) cl (s.clu cl).nextIid := by
  rw [launch_of_work hops]
  split
  case isTrue => exact onlyRaised_unitRaises ..
  case isFalse => exact onlyRaised_refl ..

/-! #### The statement -/

theorem ops_of_issues {s : State} {cl : Nat} {u : Unit4} (hissues : s.issues cl u = true) : (s.clu cl).ops = [] := by
  simp only [State.issues, Bool.and_eq_true] at hissues
  obtain ⟨⟨-, hidle⟩, -⟩ := hissues
  exact List.isEmpty_iff.mp (List.all_eq_true.mp hidle cl (mem_clustersOf cl))

@[simp] theorem noteIssue_acc (m : Me) (i : Instr) : (m.noteIssue i).acc = m.acc := by
  unfold Me.noteIssue Me.setBuf
  split
  case h_1 => split <;> rfl
  case h_2 => rfl

theorem clu_atIssueCycle (s : State) (cl : Nat) (u : Unit4) (c : Nat) :
    (s.atIssueCycle cl u c).clu cl = (s.clu cl).setStream u (((s.clu cl).stream u).issued 1 c) := State.clu_setClu ..

theorem clu_atIssueCycle_ne (s : State) (cl : Nat) (u : Unit4) (c : Nat) {x : Nat} (hx : x ≠ cl) : (s.atIssueCycle cl u c).clu x = s.clu x := by
  rw [State.atIssueCycle, State.clu_setClu_ne _ _ _ _ hx]
  rfl

/-- Settles O7: the word is launched once its stream has moved on, and the codes that it raises leave the rest. -/
theorem pipelinedWordsIssue : Obligations.PipelinedWordsIssue := by
  unfold Obligations.PipelinedWordsIssue
  intro i s cl u w hpipe hwf hunit hissues k c
  have hops := opsOf_ne_nil hpipe (formOk_of_wf hwf) hunit c (posOf cl)
  have hidle := ops_of_issues hissues
  obtain ⟨hframe, hother, hown, hfly⟩ := onlyRaised_launch hops (s.atIssueCycle cl u c) w
  obtain ⟨codes, hcodes⟩ := hfly _ (flyOf_entered ..)
  rw [State.entered, State.clu_setClu, clu_atIssueCycle] at hown
  rw [clu_atIssueCycle, flyFor_setStream, Cluster.setStream_nextIid] at hcodes
  refine ⟨_, _, (exec_of_pipelined hpipe s).trans (issueWord_of_issues hwf hunit hissues), ?stream, ?ops, ?iids, hcodes, rfl, rfl, rfl, rfl, rfl,
    rfl, ?vregs, ?p, ?fs, ?acc, fun x hx => ?others, ?frame⟩
  case stream =>
    rw [hown]
    exact (stream_entered ..).trans (Cluster.stream_setStream ..)
  case ops =>
    rw [hown, Cluster.entered, Cluster.setStream_ops, hidle, List.nil_append]
    exact opsFor_work ..
  case iids =>
    intro o ho
    rw [hown, Cluster.entered, Cluster.setStream_ops, hidle, List.nil_append] at ho
    exact (iid_of_mem_opsFor ho).trans (Cluster.setStream_nextIid ..)
  case vregs => rw [hown]; exact Cluster.setStream_vregs ..
  case p => rw [hown]; exact Cluster.setStream_p ..
  case fs => rw [hown]; exact Cluster.setStream_fs ..
  case acc =>
    rw [hown, Cluster.entered, Cluster.setStream_me]
    dsimp only
    split
    case isTrue => exact noteIssue_acc ..
    case isFalse => rfl
  case others => rw [hother x hx, clu_entered_ne _ _ _ _ _ hx, clu_atIssueCycle_ne _ _ _ _ hx]
  case frame => rw [hframe, entered_frame]; rfl

end Sys2Proof.Machine

/-! ### Phase marks and idle words (O9) -/

namespace Sys2Proof.Machine

/-! #### Streams by name -/

theorem Cluster.stream_setStream_ne (k : Cluster) {u v : Unit4} (r : Stream) (h : v ≠ u) : (k.setStream u r).stream v = k.stream v := by
  cases u <;> cases v <;> trivial

@[simp] theorem State.stream_setStream (s : State) (st : StreamId) (r : Stream) : (s.setStream st r).stream st = r := by
  cases st <;> simp [State.setStream, State.stream]

theorem State.stream_setStream_ne (s : State) {st x : StreamId} (r : Stream) (h : x ≠ st) : (s.setStream st r).stream x = s.stream x := by
  cases st with
  | unit c u =>
    cases x with
    | unit d v =>
      by_cases hd : d = c
      · subst hd
        simp only [State.setStream, State.stream, State.clu_updClu]
        exact Cluster.stream_setStream_ne _ r fun hv => h (by rw [hv])
      · simp only [State.setStream, State.stream, State.clu_updClu_ne _ _ _ _ hd]
    | port q => rfl
    | mem m => rfl
  | port p =>
    cases x with
    | unit d v => rfl
    | port q => exact State.pt_setPt_ne s p q r fun hq => h (by rw [hq])
    | mem m => rfl
  | mem n =>
    cases x with
    | unit d v => rfl
    | port q => rfl
    | mem m => exact congrArg Msq.str (State.ms_updMs_ne s n m _ fun hm => h (by rw [hm]))

theorem State.setStream_frame (s : State) (st : StreamId) (r : Stream) :
    s.setStream st r =
      { s with clusters := (s.setStream st r).clusters, pts := (s.setStream st r).pts, msq := (s.setStream st r).msq } := by
  cases st <;> rfl

/-! #### The arms of fixed-length branches (R171, R210) -/

/-- Only the branches whose arms begin in phase `P` matter. -/
theorem armsAt_filter (br : List Branch) (u : Unit4) (P pos : Nat) (hop : List (Nat × Nat)) :
    armsAt br u P pos hop = armsAt (br.filter fun b => b.2.2.2.1 == P) u P pos hop := by
  rw [armsAt, armsAt, List.foldl_filter]
  congr 1
  funext x b
  by_cases hb : b.2.2.2.1 = P <;> simp [hb]

theorem armsAt_of_none {br : List Branch} {P : Nat} (hbr : ∀ b ∈ br, b.2.2.2.1 ≠ P) (u : Unit4) (pos : Nat) (hop : List (Nat × Nat)) :
    armsAt br u P pos hop = (hopOver hop pos, hop) := by
  have hnone : br.filter (fun b => b.2.2.2.1 == P) = [] := List.filter_eq_nil_iff.mpr fun b hb => by simpa using hbr b hb
  rw [armsAt_filter, hnone]
  rfl

theorem armsAt_of_one {x y : List Branch} {P : Nat} (hxy : ∀ b ∈ x ++ y, b.2.2.2.1 ≠ P) (l0 l1 : ArmLens) (taken : Bool) (Q : Nat) (u : Unit4)
    (pos : Nat) (hop : List (Nat × Nat)) :
    armsAt (x ++ [(l0, l1, taken, P, Q)] ++ y) u P pos hop = armsAt [(l0, l1, taken, P, Q)] u P pos hop := by
  have hnone : ∀ l : List Branch, (∀ b ∈ l, b ∈ x ++ y) → l.filter (fun b => b.2.2.2.1 == P) = [] := fun l hl =>
    List.filter_eq_nil_iff.mpr fun b hb => by simpa using hxy b (hl b hb)
  rw [armsAt_filter, List.filter_append, List.filter_append, hnone x fun b => List.mem_append_left y, hnone y fun b => List.mem_append_right x]
  simp

theorem armsAt_second (l0 l1 : ArmLens) (P Q : Nat) (u : Unit4) (pos : Nat) :
    armsAt [(l0, l1, false, P, Q)] u P pos [] = (pos + ArmLens.of l0 u, []) := by
  simp [armsAt]

/-- A first arm with words begins at the word after the mark, and the second is passed over behind it. -/
theorem armsAt_first (l0 l1 : ArmLens) (P Q : Nat) {u : Unit4} (pos : Nat) (hlen : ArmLens.of l0 u ≠ 0) :
    armsAt [(l0, l1, true, P, Q)] u P pos [] = (pos, [(pos + ArmLens.of l0 u, pos + ArmLens.of l0 u + ArmLens.of l1 u)]) := by
  simp [armsAt, hopOver, hlen]

theorem armsAt_firstEmpty (l0 l1 : ArmLens) (P Q : Nat) {u : Unit4} (pos : Nat) (hlen : ArmLens.of l0 u = 0) :
    (armsAt [(l0, l1, true, P, Q)] u P pos []).1 = pos + ArmLens.of l1 u := by
  simp [armsAt, hopOver, hlen]

/-! #### The word after a mark (R162, R171, R176) -/

/-- The first entry of a key, in a table of values that some keys have. -/
theorem get_map_some (l : List (Nat × Nat)) (k : Nat) :
    Tbl.get none (l.map fun e => (e.1, some e.2)) k = (l.find? fun e => e.1 == k).map (·.2) := by
  induction l with
  | nil => rfl
  | cons e l ih =>
    rw [List.map_cons, Tbl.get, List.find?_cons, ih]
    by_cases he : e.1 = k
    · simp [he]
    · simp [beq_false_of_ne he, Ne.symm he]

/-- The value that a branch point has in this step: as taken at its tick, or as agreed since (R175, R176). -/
def State.valueOf (s : State) (bp : Nat) : Option Nat :=
  ((s.job.taken.find? fun e => e.1 == bp).map (·.2)).or ((s.tik.agree.find? fun e => e.1 == bp).map (·.2.toNat))

section
variable {s : State} {st : StreamId} {pos P bp : Nat} {hop : List (Nat × Nat)}

theorem valueOf_eq (s : State) (bp : Nat) :
    Tbl.get none ((s.job.taken ++ s.tik.agree.map (fun e => (e.1, e.2.toNat))).map (fun e => (e.1, some e.2))) bp = s.valueOf bp := by
  rw [get_map_some, List.find?_append, Option.map_or, List.find?_map, Option.map_map]
  rfl

theorem nextPos_of_step (hticks : 0 < s.stepTicks) (hstart : P % (8 * s.stepTicks) = 0) : s.nextPos st pos P bp hop = (0, []) := by
  have hcond : (decide (8 * s.stepTicks ≠ 0) && P % (8 * s.stepTicks) == 0) = true := by
    rw [hstart, decide_eq_true (by omega)]
    rfl
  simp only [State.nextPos, hcond, if_true]

theorem not_step (hin : s.stepTicks = 0 ∨ P % (8 * s.stepTicks) ≠ 0) : (decide (8 * s.stepTicks ≠ 0) && P % (8 * s.stepTicks) == 0) = false := by
  rcases hin with h | h <;> simp [h]

variable (hin : s.stepTicks = 0 ∨ P % (8 * s.stepTicks) ≠ 0)
include hin

theorem nextPos_of_value {v : Nat} (hbp : bp ≠ 0) (hv : s.valueOf bp = some v) :
    s.nextPos st pos P bp hop = (Config.armOffset s.job.img s.chipOr0 (streamCode st) bp v, []) := by
  simp only [State.nextPos, not_step hin, Bool.false_eq_true, if_false, if_pos hbp, valueOf_eq, hv]

theorem nextPos_of_noValue (hbp : bp ≠ 0) (hv : s.valueOf bp = none) : s.nextPos st pos P bp hop = (pos, hop) := by
  simp only [State.nextPos, not_step hin, Bool.false_eq_true, if_false, if_pos hbp, valueOf_eq, hv]

theorem nextPos_of_unit {c : Nat} {u : Unit4} : s.nextPos (.unit c u) pos P 0 hop = armsAt (s.clu c).br u P pos hop := by
  simp only [State.nextPos, not_step hin, Bool.false_eq_true, if_false, ne_eq, not_true_eq_false]

/-- Where no arm begins, the stream goes on at the word after the mark, or after the second arm that ends there. -/
theorem nextPos_of_noArm (harm : ∀ c u, st = .unit c u → ∀ b ∈ (s.clu c).br, b.2.2.2.1 ≠ P) :
    s.nextPos st pos P 0 hop = (hopOver hop pos, hop) := by
  cases st with
  | unit c u => rw [nextPos_of_unit hin, armsAt_of_none (harm c u rfl)]
  | port p => simp only [State.nextPos, not_step hin, Bool.false_eq_true, if_false, ne_eq, not_true_eq_false]
  | mem m => simp only [State.nextPos, not_step hin, Bool.false_eq_true, if_false, ne_eq, not_true_eq_false]

end

/-! #### The rows -/

theorem execPhaseMark_of_runs {s : State} {st : StreamId} {advance bp : Nat} (hwf : (Instr.phaseMark st advance bp).wf = true)
    (hruns : s.streamRuns st = true) :
    let r := s.stream st
    let x := s.nextPos st (r.pos + 1) (r.base + advance) bp r.hop
    exec (.phaseMark st advance bp) s = .next (s.setStream st { r with base := r.base + advance, first := true, pos := x.1, hop := x.2 }) := by
  have hword : wordOk (.phaseMark st advance bp) = true := hwf
  simp only [exec, execPhaseMark, hword, hruns, Bool.not_true, Bool.false_eq_true, if_false]

theorem execIdleWord_of_runs {s : State} {st : StreamId} {delta : Nat} (hwf : (Instr.idleWord st delta).wf = true)
    (hruns : s.streamRuns st = true) (hunit : ∀ c u, st ≠ .unit c u) :
    exec (.idleWord st delta) s = .next (s.setStream st ((s.stream st).issued 1 ((s.stream st).issue delta))) := by
  have hword : wordOk (.idleWord st delta) = true := hwf
  cases st with
  | unit c u => exact absurd rfl (hunit c u)
  | port p => simp only [exec, execIdleWord, hword, hruns, Bool.not_true, Bool.false_eq_true, if_false]
  | mem m => simp only [exec, execIdleWord, hword, hruns, Bool.not_true, Bool.false_eq_true, if_false]

/-- Settles O9: the time base moves in the row itself, and the next word is `nextPos`, case by case. -/
theorem phaseMarksMoveTheTimeBase : Obligations.PhaseMarksMoveTheTimeBase := by
  unfold Obligations.PhaseMarksMoveTheTimeBase
  intro s st _ hruns
  refine ⟨fun advance bp hwf => ?mark, fun delta hwf hunit => ?idle⟩
  case idle =>
    refine ⟨_, execIdleWord_of_runs hwf hruns hunit, State.stream_setStream .., fun x hx => State.stream_setStream_ne s _ hx, ?_⟩
    cases st with
    | unit c u => exact absurd rfl (hunit c u)
    | port p => rfl
    | mem m => rfl
  case mark =>
    intro r P inStep
    refine ⟨_, execPhaseMark_of_runs hwf hruns, ?_⟩
    rw [State.stream_setStream]
    refine ⟨rfl, rfl, rfl, ?start, ?taken, ?agreed, ?noValue, ?noArm, ?arm, fun x hx => State.stream_setStream_ne s _ hx, State.setStream_frame ..⟩
    case start => exact fun hticks hstart => Prod.ext_iff.mp (nextPos_of_step hticks hstart)
    case taken =>
      intro v hin hbp htaken
      have hv : s.valueOf bp = some v := by simp [State.valueOf, htaken]
      exact Prod.ext_iff.mp (nextPos_of_value hin hbp hv)
    case agreed =>
      intro v hin hbp htaken hagree
      have hv : s.valueOf bp = some v.toNat := by simp [State.valueOf, htaken, hagree]
      exact Prod.ext_iff.mp (nextPos_of_value hin hbp hv)
    case noValue =>
      intro hin hbp htaken hagree
      have hv : s.valueOf bp = none := by simp [State.valueOf, htaken, hagree]
      exact Prod.ext_iff.mp (nextPos_of_noValue hin hbp hv)
    case noArm =>
      intro hin hbp harm
      subst hbp
      exact Prod.ext_iff.mp (nextPos_of_noArm hin harm)
    case arm =>
      intro c u l0 l1 taken Q x y hin hbp hst hbr hxy hhop
      subst hst hbp
      have hnext : s.nextPos (.unit c u) (r.pos + 1) P 0 r.hop = armsAt [(l0, l1, taken, P, Q)] u P (r.pos + 1) [] := by
        rw [nextPos_of_unit hin, hbr, hhop, armsAt_of_one hxy]
      refine ⟨fun htaken => ?_, fun htaken hlen => ?_, fun htaken hlen => ?_⟩ <;> rw [htaken] at hnext
      · exact Prod.ext_iff.mp (hnext.trans (armsAt_second ..))
      · exact Prod.ext_iff.mp (hnext.trans (armsAt_first l0 l1 P Q _ hlen))
      · exact (congrArg Prod.fst hnext).trans (armsAt_firstEmpty l0 l1 P Q _ hlen)

end Sys2Proof.Machine

/-! ### Job commands (O39) -/

namespace Sys2Proof.Machine

/-! #### A command consumed (R393, R397, R411) -/

theorem taken_run (s : State) (i : Instr) (h : Hdr) : ∃ idx, (s.taken i h).2 = ⟨i, idx⟩ := by
  unfold State.taken
  split <;> exact ⟨_, rfl⟩

/-- The module with another host interface. -/
def State.withHst (s : State) (x : Hst) : State := { s with hst := x }

theorem taken_frame (s : State) (i : Instr) (h : Hdr) : (s.taken i h).1 = s.withHst (s.taken i h).1.hst := by
  unfold State.taken
  split <;> rfl

@[simp] theorem taken_st (s : State) (i : Instr) (h : Hdr) : (s.taken i h).1.hst.st = s.hst.st := by
  unfold State.taken
  split <;> rfl

@[simp] theorem taken_bufs (s : State) (i : Instr) (h : Hdr) : (s.taken i h).1.hst.bufs = s.hst.bufs := by
  unfold State.taken
  split <;> rfl

@[simp] theorem taken_waiting (s : State) (i : Instr) (h : Hdr) : (s.taken i h).1.hst.waiting = s.hst.waiting := by
  unfold State.taken
  split <;> rfl

theorem pumpN_nil (n : Nat) {s : State} (hw : s.hst.waiting = []) : s.pumpN n = s := by
  cases n <;> simp [State.pumpN, hw]

/-- The one command that waits, and that may start, starts. -/
theorem pump_one {s : State} {r : RunCmd} (hhalt : s.sec.halted = false) (hw : s.hst.waiting = [r])
    (hmay : (s.mayStart r && (!s.compFull || r.via = some .mbox)) = true)
    (hdone : ((s.updHst fun x => { x with waiting := [] }).startCmd r).hst.waiting = []) :
    s.pump = (s.updHst fun x => { x with waiting := [] }).startCmd r := by
  have hfind : s.hst.waiting.find? (fun r => s.mayStart r && (!s.compFull || r.via = some .mbox)) = some r := by
    rw [hw, List.find?_cons, hmay]
  have herase : (s.updHst fun x => { x with waiting := x.waiting.erase r }) = s.updHst fun x => { x with waiting := [] } := by
    simp [State.updHst, hw]
  rw [State.pump, hhalt, State.pumpN, hfind]
  simp only [Bool.false_eq_true, if_false, herase]
  exact pumpN_nil _ hdone

theorem compFull_of_ringReady {s : State} {ring1 : Bool} (h : s.ringReady ring1 = true) : s.compFull = false := by
  simp only [State.ringReady, Bool.and_eq_true, Bool.not_eq_true'] at h
  obtain ⟨⟨⟨⟨-, -⟩, hroom⟩, -⟩, -⟩ := h
  exact hroom

/-- The command that a path hands over waits alone, and may start. -/
theorem pump_taken {s : State} {i : Instr} {h : Hdr} {x : Hst} {idx : Nat} (hhalt : s.sec.halted = false) (hmay : s.mayStart ⟨i, 0⟩ = true)
    (hw : x.waiting = [⟨i, idx⟩]) (hx : (s.taken i h).1 = s.withHst { x with waiting := [] }) (hr : (s.taken i h).2 = ⟨i, idx⟩)
    (hrun : x.running = s.hst.running) (hfull : (s.withHst x).compFull = false ∨ (⟨i, idx⟩ : RunCmd).via = some .mbox)
    (hdone : ((s.taken i h).1.startCmd (s.taken i h).2).hst.waiting = []) :
    (s.withHst x).pump = (s.taken i h).1.startCmd (s.taken i h).2 := by
  have hmay' : (s.withHst x).mayStart ⟨i, idx⟩ = true := by
    rw [← hmay]
    simp only [State.mayStart, State.withHst, hrun]
    rfl
  rw [hx, hr] at hdone ⊢
  refine pump_one hhalt hw ?_ hdone
  rw [hmay', Bool.true_and]
  rcases hfull with hfull | hvia
  · simp [hfull]
  · simp [hvia]

/-- A command that the module takes starts at once, on the state in which it has been consumed. -/
theorem command_of_takes {s : State} {i : Instr} {h : Hdr} (htakes : s.takes i h = true)
    (hdone : ((s.taken i h).1.startCmd (s.taken i h).2).hst.waiting = []) :
    s.command i h = (s.taken i h).1.startCmd (s.taken i h).2 := by
  simp only [State.takes, Bool.and_eq_true, Bool.not_eq_true', beq_iff_eq, List.isEmpty_iff] at htakes
  obtain ⟨⟨⟨⟨⟨hhalt, hhdr⟩, hwait⟩, hmay⟩, -⟩, hpath⟩ := htakes
  have hnone : { s.hst with waiting := [] } = s.hst := by rw [← hwait]
  cases hvia : h.via with
  | mbox =>
    simp only [hvia, Bool.and_eq_true, decide_eq_true_eq, Bool.not_eq_true'] at hpath
    obtain ⟨hst, hbusy⟩ := hpath
    simp only [State.command, hvia, hst, hbusy, if_false, Bool.false_eq_true]
    refine pump_taken hhalt hmay (congrArg _ hwait) ?_ ?_ rfl (.inr ?_) hdone
    · simp only [State.taken, hvia, State.withHst]
      rw [← hwait]
    · simp only [State.taken, hvia]
    · simp only [RunCmd.via, hhdr, hvia, Option.map_some]
  | ring1 =>
    simp only [hvia] at hpath
    have hroom : s.compFull = false := compFull_of_ringReady hpath
    simp only [State.command, hvia, hpath, if_true]
    refine pump_taken hhalt hmay (congrArg (· ++ _) hwait) ?_ ?_ rfl (.inl hroom) hdone
    · simp only [State.taken, hvia, State.withHst]
      rw [← hwait]
    · simp only [State.taken, hvia]
  | ring0 =>
    simp only [hvia] at hpath
    have hroom : s.compFull = false := by
      obtain ⟨hready, -⟩ := (Bool.and_eq_true ..).mp hpath
      exact compFull_of_ringReady hready
    simp only [State.command, hvia, hpath, if_true]
    refine pump_taken hhalt hmay (congrArg (· ++ _) hwait) ?_ ?_ rfl (.inl hroom) hdone
    · simp only [State.taken, hvia, State.withHst]
      rw [← hwait]
    · simp only [State.taken, hvia]

/-! #### A command accepted (R397, R398, R411, R426) -/

/-- Nothing refuses the start of a command that is accepted. -/
theorem starts_of_accepts {s : State} {i : Instr} {h : Hdr} (hacc : s.accepts i h = true) :
    opcodeBad i = false ∧ ((s.taken i h).1.unusable && !wedgedTakes i) = false ∧ acceptedIn i s.hst.st = true := by
  simp only [State.accepts, State.takes, pathTakes, Bool.and_eq_true, beq_iff_eq, Option.isNone_iff_eq_none] at hacc
  obtain ⟨⟨⟨⟨⟨⟨⟨⟨-, hhdr⟩, -⟩, -⟩, -⟩, -⟩, hraw, hpath⟩, hst⟩, hwedge⟩ := hacc
  refine ⟨?_, ?_, hst⟩
  · rw [opcodeBad, hhdr]
    cases hvia : h.via <;> simp_all
  · have hsame : (s.taken i h).1.unusable = s.unusable := by rw [taken_frame]; rfl
    rw [hsame]
    cases hunusable : s.unusable <;> simp_all

theorem waiting_of_accepts {s : State} {i : Instr} {h : Hdr} (hacc : s.accepts i h = true) : (s.taken i h).1.hst.waiting = [] := by
  simp only [State.accepts, State.takes, Bool.and_eq_true, List.isEmpty_iff] at hacc
  obtain ⟨⟨⟨⟨⟨⟨⟨-, hwait⟩, -⟩, -⟩, -⟩, -⟩, -⟩, -⟩ := hacc
  exact (taken_waiting s i h).trans hwait

/-- An accepted command answers the state that it makes of the one in which it has been consumed: `f`, what it does where nothing refuses it. -/
theorem exec_of_accepts {s : State} {i : Instr} {h : Hdr} (f : State → RunCmd → State) (hacc : s.accepts i h = true)
    (hexec : exec i s = .next (s.command i h))
    (hdo : ∀ (x : State) (idx : Nat), x.startCmd ⟨i, idx⟩ =
      if opcodeBad i then x.reject ⟨i, idx⟩ sBadOpcode 0x8001 0
      else if x.unusable && !wedgedTakes i then x.wrongState ⟨i, idx⟩
      else if !acceptedIn i x.hst.st then x.wrongState ⟨i, idx⟩ else f x ⟨i, idx⟩)
    (hdone : (f (s.taken i h).1 (s.taken i h).2).hst.waiting = []) : exec i s = .next (f (s.taken i h).1 (s.taken i h).2) := by
  obtain ⟨hop, hwedge, hst⟩ := starts_of_accepts hacc
  have hstart : (s.taken i h).1.startCmd (s.taken i h).2 = f (s.taken i h).1 (s.taken i h).2 := by
    obtain ⟨idx, hidx⟩ := taken_run s i h
    rw [hidx, hdo, hop, hwedge, taken_st, hst]
    rfl
  simp only [State.accepts, Bool.and_eq_true] at hacc
  obtain ⟨⟨⟨htakes, -⟩, -⟩, -⟩ := hacc
  rw [hexec, command_of_takes htakes (hstart.symm ▸ hdone), hstart]

/-- The same, where the state is known that the command makes. -/
theorem exec_of_accepts_eq {s y : State} {i : Instr} {h : Hdr} (f : State → RunCmd → State) (hacc : s.accepts i h = true)
    (hexec : exec i s = .next (s.command i h))
    (hdo : ∀ (x : State) (idx : Nat), x.startCmd ⟨i, idx⟩ =
      if opcodeBad i then x.reject ⟨i, idx⟩ sBadOpcode 0x8001 0
      else if x.unusable && !wedgedTakes i then x.wrongState ⟨i, idx⟩
      else if !acceptedIn i x.hst.st then x.wrongState ⟨i, idx⟩ else f x ⟨i, idx⟩)
    (hy : f (s.taken i h).1 (s.taken i h).2 = y) (hdone : y.hst.waiting = (s.taken i h).1.hst.waiting) : exec i s = .next y := by
  subst hy
  exact exec_of_accepts f hacc hexec hdo (hdone.trans (waiting_of_accepts hacc))

/-! #### What commands leave waiting -/

@[simp] theorem finish_waiting (s : State) (r : RunCmd) (status : Nat) (fault : BitVec 16) (detail : Nat) (result : List Byte) :
    (s.finish r status fault detail result).hst.waiting = s.hst.waiting := by
  unfold State.finish
  split
  case h_1 => rfl
  case h_2 =>
    dsimp only
    split
    case isTrue => rfl
    case isFalse =>
      split
      case isTrue => rfl
      case isFalse => rfl

theorem setSt_waiting (s : State) (st : Nat) : (s.setSt st).hst.waiting = s.hst.waiting := rfl

/-! #### LOAD (R179, R400) -/

@[simp] theorem badRange_taken (s : State) (i : Instr) (h : Hdr) (hbuf ofs len : Nat) (rd : Bool) (al dirAt oo lo : Nat) :
    (s.taken i h).1.badRange hbuf ofs len rd al dirAt oo lo = s.badRange hbuf ofs len rd al dirAt oo lo := by
  simp only [State.badRange, State.buf, taken_bufs]

/-- The image that a LOAD reads. -/
def State.imageFrom (s : State) (b ofs len : Nat) (data : List Byte) : List Byte := if b = xferBuf then memRead s.xfer ofs len else padTo data len

@[simp] theorem imageFrom_taken (s : State) (i : Instr) (h : Hdr) (b ofs len : Nat) (data : List Byte) :
    (s.taken i h).1.imageFrom b ofs len data = s.imageFrom b ofs len data := by rw [taken_frame]; rfl

@[simp] theorem taken_cxl (s : State) (i : Instr) (h : Hdr) : (s.taken i h).1.cxl = s.cxl := by rw [taken_frame]; rfl

section
variable {x : State} {r : RunCmd} {b ofs len : Nat} {data : List Byte} (hrange : x.badRange b ofs len true 128 8 16 24 = none)
include hrange

theorem doLoad_of_good (hgood : loadBad x.cxl.hdm (x.imageFrom b ofs len data) len = none) :
    x.doLoad r b ofs len (.ok data) =
      ({ x with job := { img := x.imageFrom b ofs len data, loaded := true } }.setSt stLoaded).finish r sOk 0 0
        (slice (x.imageFrom b ofs len data) 32 32) := by
  rw [State.imageFrom] at hgood ⊢
  simp only [State.doLoad, hrange, hgood]

theorem doLoad_of_bad {n o : Nat} (hbad : loadBad x.cxl.hdm (x.imageFrom b ofs len data) len = some (n, o)) :
    x.doLoad r b ofs len (.ok data) =
      State.finish (if armsUnequal x.cxl.hdm (x.imageFrom b ofs len data) len then x.raise 0x100F srcToll 0 0 none 9 else x) r sImageRefused 0 n
        (leBytes o 8) := by
  rw [State.imageFrom] at hbad ⊢
  simp only [State.doLoad, hrange, hbad]

theorem doLoad_waiting : (x.doLoad r b ofs len (.ok data)).hst.waiting = x.hst.waiting := by
  cases hbad : loadBad x.cxl.hdm (x.imageFrom b ofs len data) len with
  | none =>
    rw [doLoad_of_good hrange hbad, finish_waiting]
    rfl
  | some e =>
    rw [doLoad_of_bad hrange hbad, finish_waiting]
    split <;> rfl

end

theorem exec_load {s : State} {h : Hdr} {b ofs len : Nat} {data : List Byte} (hacc : s.accepts (.load h b ofs len (.ok data)) h = true)
    (hrange : s.badRange b ofs len true 128 8 16 24 = none) :
    let x := s.taken (.load h b ofs len (.ok data)) h
    exec (.load h b ofs len (.ok data)) s = .next (x.1.doLoad x.2 b ofs len (.ok data)) :=
  exec_of_accepts (fun x r => x.doLoad r b ofs len (.ok data)) hacc rfl (fun _ _ => rfl)
    ((doLoad_waiting (by rwa [badRange_taken])).trans (waiting_of_accepts hacc))

/-! #### PLACE (R365, R366, R401) -/

/-- The module with nothing known of a duplicate of its hall number (R364). -/
def State.freshHall (s : State) : State := { s with plc := { s.plc with duplicate := false } }

@[simp] theorem admitRow_taken (s : State) (i : Instr) (h : Hdr) : (s.taken i h).1.freshHall.admitRow false = s.freshHall.admitRow false := by
  rw [taken_frame]; rfl

@[simp] theorem imgAt_taken (s : State) (i : Instr) (h : Hdr) (ofs n : Nat) : (s.taken i h).1.imgAt ofs n = s.imgAt ofs n := by
  rw [taken_frame]; rfl

section
variable {x : State} {r : RunCmd} (hparam : ¬ (x.imgAt 11 1 % 2 = 1 ∧ 32 < x.imgAt 12 1))
include hparam

theorem doPlace_of_admitted (hrow : x.freshHall.admitRow false = 0) :
    x.doPlace r = (((x.updPlc fun p => { p with duplicate := false, rounds := 0, switch := none, given := none, placeAt := x.tim.now.toNat,
                                                proposal := none }).setSt stPlacing).runs r).startElection := by
  have hcond : (x.imgAt 11 1 % 2 = 1 && decide (32 < x.imgAt 12 1)) = false := by simpa using hparam
  have hrow' : (x.updPlc fun p => { p with duplicate := false }).admitRow false = 0 := hrow
  rw [State.doPlace, hcond]
  simp only [Bool.false_eq_true, if_false, hrow', ne_eq, not_true_eq_false]
  rfl

theorem doPlace_of_refused (hrow : x.freshHall.admitRow false ≠ 0) :
    x.doPlace r = x.freshHall.finish r sNotAdmissible (x.freshHall.rowFault (x.freshHall.admitRow false)) (x.freshHall.admitRow false) [] := by
  have hcond : (x.imgAt 11 1 % 2 = 1 && decide (32 < x.imgAt 12 1)) = false := by simpa using hparam
  have hrow' : (x.updPlc fun p => { p with duplicate := false }).admitRow false ≠ 0 := hrow
  rw [State.doPlace, hcond]
  simp only [Bool.false_eq_true, if_false, hrow', ne_eq, not_false_eq_true, if_true]
  rfl

theorem doPlace_waiting : (x.doPlace r).hst.waiting = x.hst.waiting := by
  by_cases hrow : x.freshHall.admitRow false = 0
  · rw [doPlace_of_admitted hparam hrow]
    rfl
  · rw [doPlace_of_refused hparam hrow, finish_waiting]
    rfl

end

theorem exec_place {s : State} {h : Hdr} (hacc : s.accepts (.place h) h = true) (hparam : ¬ (s.imgAt 11 1 % 2 = 1 ∧ 32 < s.imgAt 12 1)) :
    let x := s.taken (.place h) h
    exec (.place h) s = .next (x.1.doPlace x.2) :=
  exec_of_accepts (fun x r => x.doPlace r) hacc rfl (fun _ _ => rfl)
    ((doPlace_waiting (by rwa [imgAt_taken, imgAt_taken])).trans (waiting_of_accepts hacc))

/-! #### ARM (R402) leaves the host interface to the command -/

theorem foldl_frame {α β : Type} (g : State → α) (f : State → β → State) (hf : ∀ s b, g (f s b) = g s) (l : List β) (s : State) :
    g (l.foldl f s) = g s := by
  induction l generalizing s with
  | nil => rfl
  | cons b l ih => exact (ih _).trans (hf s b)

@[simp] theorem hst_digestsAgree (s : State) : s.digestsAgree.hst = s.hst := by
  refine forEach_frame State.hst _ (fun _ _ => ?_) _ s
  rfl

@[simp] theorem hst_loadContents (s : State) (ty base : Nat) : (s.loadContents ty base).hst = s.hst := by
  refine (foldl_frame State.hst _ (fun _ _ => ?_) _ _).trans (foldl_frame State.hst _ (fun _ _ => ?_) _ s) <;> rfl

@[simp] theorem hst_armCluster (s : State) (c : Nat) : (s.armCluster c).hst = s.hst := by
  simp only [State.armCluster]
  split <;> rfl

@[simp] theorem hst_armPort (s : State) (lp : Nat) : (s.armPort lp).hst = s.hst := by
  simp only [State.armPort]
  split <;> rfl

@[simp] theorem hst_armPreset (s : State) (st : Nat) : (s.armPreset st).hst = s.hst := by
  simp only [State.armPreset]
  split
  case h_1 => rfl
  case h_2 =>
    refine foldl_frame State.hst _ (fun t e => ?_) _ s
    split <;> rfl

theorem hst_writeShadow (s : State) (g i : Nat) (v : Reg) : (s.writeShadow g i v).hst = s.hst := rfl

theorem hst_writeGrpRef (s : State) (g : Nat) (v : Reg) : (s.writeGrpRef g v).hst = s.hst := rfl

theorem hst_armUnits (s : State) : s.armUnits.hst = s.hst := by
  have hclusters : ∀ t : State, (forEach t (List.range 800) State.armCluster).hst = t.hst := forEach_frame State.hst _ hst_armCluster _
  have hports : ∀ t : State, (forEach t (List.range 6) State.armPort).hst = t.hst := forEach_frame State.hst _ hst_armPort _
  have hstreams : ∀ (t : State) (f : State → Nat → Msq → Msq), (forEach t (List.range 4) fun s st => s.updMs st (f s st)).hst = t.hst :=
    fun t f => forEach_frame State.hst (fun s st => s.updMs st (f s st)) (fun _ _ => rfl) _ t
  have hpresets : ∀ t : State, (forEach t (List.range 4) State.armPreset).hst = t.hst := forEach_frame State.hst _ hst_armPreset _
  have hspans : ∀ t : State, (forEach t (List.range 114) fun s p => s.updSpn p s.clockOn).hst = t.hst :=
    forEach_frame State.hst (fun s p => s.updSpn p s.clockOn) (fun _ _ => rfl) _
  rw [State.armUnits, State.updCfg_hst, State.updCfg_hst, State.updJob_hst, hspans, hst_writeGrpRef, hst_writeShadow, hpresets,
    hstreams, hports, hclusters, hst_loadContents, hst_loadContents]

/-! #### ARM (R402) -/

@[simp] theorem buffersOk_taken (s : State) (i : Instr) (h : Hdr) : (s.taken i h).1.buffersOk = s.buffersOk := by
  have hdescs : (s.taken i h).1.descs = s.descs := by rw [taken_frame]; rfl
  simp only [State.buffersOk, hdescs, taken_bufs]

theorem doArm_waiting (x : State) (r : RunCmd) : (x.doArm r).hst.waiting = x.hst.waiting := by
  rw [State.doArm]
  split
  case isTrue => exact finish_waiting ..
  case isFalse =>
    rw [finish_waiting]
    rw [setSt_waiting, hst_digestsAgree, hst_armUnits]

theorem exec_arm {s : State} {h : Hdr} (hacc : s.accepts (.arm h) h = true) :
    let x := s.taken (.arm h) h
    exec (.arm h) s = .next (x.1.doArm x.2) :=
  exec_of_accepts (fun x r => x.doArm r) hacc rfl (fun _ _ => rfl) ((doArm_waiting ..).trans (waiting_of_accepts hacc))

/-! #### START (R403) -/

@[simp] theorem isJobLeader_taken (s : State) (i : Instr) (h : Hdr) : (s.taken i h).1.isJobLeader = s.isJobLeader := by
  rw [taken_frame]; rfl

/-- The module once START is accepted. -/
def State.started (x : State) (r : RunCmd) (first : Reg) : State :=
  (((x.updJob fun j => { j with accepted := true, firstStep := first.toNat, stepNo := 0, withdrawn := 0, aborts := [], abortSent := [],
                                digests := [], ends := [], qualified := 0, posted := 0 }).updHst
      fun h => { h with aborted := false, doneStep := 0 }).setSt stStarting).runs r

theorem started_eq (x : State) (r : RunCmd) (first : Reg) :
    x.started r first = { x with
      hst := { x.hst with running := x.hst.running ++ [r], aborted := false, doneStep := 0, st := stStarting }
      job := { x.job with accepted := true, firstStep := first.toNat, stepNo := 0, withdrawn := 0, aborts := [], abortSent := [],
                          digests := [], ends := [], qualified := 0, posted := 0 } } := rfl

theorem doStart_of_follower {x : State} {r : RunCmd} {first : Reg} (hlead : x.isJobLeader = false) (hprop : x.plc.proposal = none) :
    x.doStart r first = x.started r first := by
  have hlead' : (x.started r first).isJobLeader = false := hlead
  have hprop' : (x.started r first).plc.proposal = none := hprop
  have hready : (x.started r first).tryReady = x.started r first := by rw [State.tryReady, hprop']
  change (if (x.started r first).isJobLeader && (x.started r first).plc.proposal.isNone then (x.started r first).propose
    else (x.started r first).tryReady) = _
  rw [hlead', hready]
  rfl

/-! #### STOP (R404, R408) -/

/-- S, once step `step` is known too: the earlier of the two. -/
def State.soonest (s : State) (step : Nat) : Nat :=
  match s.job.stopAfter with
  | some m => min m step
  | none => step

theorem soonest_le {s : State} {m : Nat} (step : Nat) (h : s.job.stopAfter = some m) : s.soonest step ≤ m := by
  rw [State.soonest, h]
  exact Nat.min_le_left ..

theorem soonest_of_none {s : State} (step : Nat) (h : s.job.stopAfter = none) : s.soonest step = step := by
  rw [State.soonest, h]

/-- S is known: the job stops after it, and only the ports that pass it down change with it. -/
theorem stopAt_spec (s : State) (step : Nat) :
    s.stopAt step = { s with job := { s.job with stopAfter := some (s.soonest step) }, olf := (s.stopAt step).olf } := by
  have hsent : ∀ (u : State) (f : State → Nat → Cell) (l : List Nat),
      forEach u l (fun t p => t.queueCell p (f t p)) = { u with olf := (forEach u l fun t p => t.queueCell p (f t p)).olf } := by
    refine fun u f l => forEach_keeps (fun t => t = { u with olf := t.olf }) _ (fun t p ht => ?_) l u rfl
    obtain ⟨hcell, -⟩ := queueCell_frame t p (f t p)
    rw [hcell, ht]
  unfold State.stopAt
  extract_lets n x
  have hx : x = { s with job := { s.job with stopAfter := some (s.soonest step) } } := rfl
  split
  · rw [hx]
  · rw [hsent, hx]

/-- The job leader holds a stop request more, and knows S. -/
theorem takeStop_spec (s : State) (last cause : Nat) :
    ∃ low, (s.job.requests = [] → low = last) ∧
      s.takeStop last cause = { s with
        job := { s.job with
          requests := s.job.requests ++ [(last, cause, s.nowNs)]
          stopCause := if s.job.requests.isEmpty then cause else s.job.stopCause
          stopAfter := some (s.soonest (max low s.earliestStop)) }
        olf := (s.takeStop last cause).olf } := by
  refine ⟨(s.job.requests ++ [(last, cause, s.nowNs)]).foldl (fun m r => min m r.1) last, ?_, ?_⟩
  · intro h
    simp [h]
  · unfold State.takeStop
    extract_lets x low
    rw [stopAt_spec x]
    rfl

theorem requestStop_of_leader {x : State} {last : Nat} (cause : Nat) (hlead : x.isJobLeader = true) (hlast : last < 2 ^ 64 - 1) :
    x.requestStop last cause = (x.updJob fun j => { j with stopAsked := true }).takeStop last cause := by
  have hne : last ≠ 2 ^ 64 - 1 := Nat.ne_of_lt hlast
  have hlead' : (x.updJob fun j => { j with stopAsked := true }).isJobLeader = true := hlead
  unfold State.requestStop
  extract_lets n y
  have hn : n = last := if_neg hne
  rw [hlead', hn]
  rfl

theorem requestStop_frame {x : State} {last : Nat} (cause : Nat) (hlead : x.isJobLeader = true) (hlast : last < 2 ^ 64 - 1) :
    x.requestStop last cause = { x with job := (x.requestStop last cause).job, olf := (x.requestStop last cause).olf } := by
  obtain ⟨low, -, hstop⟩ := takeStop_spec (x.updJob fun j => { j with stopAsked := true }) last cause
  rw [requestStop_of_leader cause hlead hlast, hstop]
  rfl

theorem doStop_of_starting {x : State} (r : RunCmd) (last : Reg) (hst : x.hst.st = stStarting) : x.doStop r last = x.runs r := by
  have hne : (x.runs r).hst.st ≠ stRunning := by
    have hsame : (x.runs r).hst.st = x.hst.st := rfl
    rw [hsame, hst]
    decide
  rw [State.doStop, if_neg hne]

theorem doStop_of_running {x : State} (r : RunCmd) (last : Reg) (hst : x.hst.st = stRunning) :
    x.doStop r last = (x.runs r).requestStop last.toNat 0 := by
  have heq : (x.runs r).hst.st = stRunning := hst
  rw [State.doStop, if_pos heq]

/-! #### ABORT (R405, R419, R420) -/

/-- A flood changes the ports of the job, and the count of the cells. -/
theorem flood_frame (s : State) (c : Cell) (except : Nat) : ∃ svc, s.flood c except = { s with olf := (s.flood c except).olf, svc := svc } := by
  refine forEach_keeps (fun t => ∃ svc, t = { s with olf := t.olf, svc := svc }) _ (fun t p ht => ?_) _ s ⟨_, rfl⟩
  obtain ⟨svc, ht⟩ := ht
  split
  case isTrue => exact ⟨_, by rw [ht]; rfl⟩
  case isFalse => exact ⟨svc, ht⟩

/-- One port's part of a flood. -/
def State.floodPort (s : State) (c : Cell) (except p : Nat) : State :=
  if p ≠ except && s.sharesJob p then
    (s.updPort p (fun o => { o with qAbort := o.qAbort ++ [c] })).updSvc (fun v => { v with cnt2 := satInc v.cnt2 32 16 1 })
  else s

theorem flood_eq (s : State) (c : Cell) (except : Nat) : s.flood c except = forEach s (List.range 6) fun t p => t.floodPort c except p := rfl

/-- What a flood looks at and changes at a port: the port itself, and the job that its peer must share. -/
def portAndJob (p : Nat) (s : State) : Olf × List Byte := (s.port p, s.plc.jobDigest)

theorem floodPort_other {p x : Nat} (c : Cell) (except : Nat) (u : State) (h : x ≠ p) :
    portAndJob p (u.floodPort c except x) = portAndJob p u := by
  rw [State.floodPort]
  split
  case isTrue =>
    have hport : (u.updPort x fun o => { o with qAbort := o.qAbort ++ [c] }).port p = u.port p := State.port_updPort_ne _ _ _ _ h.symm
    exact congrArg (·, u.plc.jobDigest) hport
  case isFalse => rfl

theorem floodPort_self {p : Nat} (c : Cell) (except : Nat) (u : State) :
    portAndJob p (u.floodPort c except p) =
      ((if p ≠ except && ((u.port p).st == linkUp && (u.port p).peerDig == u.plc.jobDigest) then
          { u.port p with qAbort := (u.port p).qAbort ++ [c] } else u.port p), u.plc.jobDigest) := by
  rw [State.floodPort, State.sharesJob]
  split
  case isTrue =>
    have hport : (u.updPort p fun o => { o with qAbort := o.qAbort ++ [c] }).port p = { u.port p with qAbort := (u.port p).qAbort ++ [c] } :=
      State.port_updPort u p _
    exact congrArg (·, u.plc.jobDigest) hport
  case isFalse => rfl

/-- An abort cell is queued on each port whose peer shares the job (R357). -/
theorem flood_queues {s : State} {p : Nat} (c : Cell) (except : Nat) (hp : p < 6) (hne : p ≠ except) (hjob : s.sharesJob p = true) :
    ((s.flood c except).port p).qAbort = (s.port p).qAbort ++ [c] := by
  have hpass : portAndJob p (s.flood c except) = portAndJob p (s.floodPort c except p) := by
    rw [flood_eq]
    refine forEach_passes (fun u x hx => floodPort_other c except u hx) (fun u v huv => ?_) _ s List.nodup_range (List.mem_range.mpr hp)
    obtain ⟨hport, hdigest⟩ := Prod.mk.inj huv
    rw [floodPort_self, floodPort_self, hport, hdigest]
  have hcond : (p ≠ except && ((s.port p).st == linkUp && (s.port p).peerDig == s.plc.jobDigest)) = true := by
    have hne' : decide (p ≠ except) = true := decide_eq_true hne
    rw [hne', Bool.true_and]
    exact hjob
  rw [floodPort_self, if_pos hcond] at hpass
  obtain ⟨hport, -⟩ := Prod.mk.inj hpass
  exact congrArg Olf.qAbort hport

/-- The record of a command's abort changes the fault log's state only, and no fabric generation. -/
theorem abortFault_frame (s : State) (step : Nat) (detail : Reg) :
    ∃ flt, s.abortFault step 0x9002 detail = { s with flt := flt } ∧ flt.gen = s.flt.gen := by
  have hne : (0x9002 : BitVec 16) ≠ 0x9001 := by decide
  rw [State.abortFault, if_pos rfl, raiseFull_eq _ _ hne]
  exact ⟨_, rfl, rfl⟩

theorem abortCell_flt (s : State) (flt : Flt) (hgen : flt.gen = s.flt.gen) (step : Nat) (code : BitVec 16) (origin : Nat) :
    State.abortCell { s with flt := flt } step code origin = s.abortCell step code origin := by
  simp only [State.abortCell, hgen]
  rfl

theorem issueAbort_of_new {s : State} {step : Nat} (origin : Nat) (detail : Reg) {flt : Flt}
    (hfault : s.abortFault step 0x9002 detail = { s with flt := flt }) (hgen : flt.gen = s.flt.gen)
    (hsent : s.job.abortSent.contains step = false) :
    s.issueAbort step 0x9002 origin detail =
      (((State.flood { s with flt := flt } (s.abortCell step 0x9002 origin) 6).noteAbort step 0x9002 origin).updJob
        fun j => { j with abortSent := j.abortSent ++ [step] }).updFlt fun f => { f with cnt2 := satInc f.cnt2 0 16 1 } := by
  rw [State.issueAbort, hfault, abortCell_flt s flt hgen, hsent]
  rfl

/-- A command's abort of a step that has none yet (R357, R419, R420). -/
theorem issueAbort_spec {s : State} {step : Nat} (origin : Nat) (detail : Reg) (hsent : s.job.abortSent.contains step = false) :
    ∃ svc flt olf, s.issueAbort step 0x9002 origin detail = { s with
        job := { s.job with aborts := s.job.aborts ++ [(step, 0x9002, origin)], abortSent := s.job.abortSent ++ [step] }
        cxl := { s.cxl with aborted := true }, svc := svc, flt := flt, olf := olf } ∧
      svc.abortSeen = true ∧
      ∀ p, p < 6 → s.sharesJob p = true → (Tbl.get {} olf p).qAbort = (s.port p).qAbort ++ [s.abortCell step 0x9002 origin] := by
  obtain ⟨flt, hfault, hgen⟩ := abortFault_frame s step detail
  obtain ⟨svc, hflood⟩ := flood_frame { s with flt := flt } (s.abortCell step 0x9002 origin) 6
  have hqueues := fun p (hp : p < 6) (hjob : s.sharesJob p = true) =>
    flood_queues (s := { s with flt := flt }) (s.abortCell step 0x9002 origin) 6 hp (Nat.ne_of_lt hp) hjob
  rw [issueAbort_of_new origin detail hfault hgen hsent]
  generalize State.flood { s with flt := flt } (s.abortCell step 0x9002 origin) 6 = y at hflood hqueues ⊢
  rw [hflood]
  exact ⟨_, _, y.olf, rfl, rfl, hqueues⟩

theorem doAbort_of_running {x : State} (r : RunCmd) (hst : x.hst.st = stRunning) :
    x.doAbort r = (x.issueAbort x.step 0x9002 x.selfOrigin).finish r sOk 0 0 (leBytes x.step 8) := by
  rw [State.doAbort, if_pos hst]

theorem doAbort_waiting {x : State} (r : RunCmd) (hst : x.hst.st = stRunning) (hsent : x.job.abortSent.contains x.step = false) :
    (x.doAbort r).hst.waiting = x.hst.waiting := by
  obtain ⟨svc, flt, olf, hissue, -⟩ := issueAbort_spec x.selfOrigin 0 hsent
  rw [doAbort_of_running r hst, finish_waiting, hissue]

/-! #### START, STOP and ABORT accepted -/

section
variable {s : State} {h : Hdr}

theorem exec_start {first : Reg} (hacc : s.accepts (.start h first) h = true) (hlead : s.isJobLeader = false)
    (hprop : s.plc.proposal = none) :
    let x := s.taken (.start h first) h
    exec (.start h first) s = .next (x.1.started x.2 first) := by
  intro x
  have hlead' : x.1.isJobLeader = false := (isJobLeader_taken ..).trans hlead
  have hprop' : x.1.plc.proposal = none := by
    rw [show x.1 = _ from taken_frame ..]
    exact hprop
  exact exec_of_accepts_eq (fun x r => x.doStart r first) hacc rfl (fun _ _ => rfl) (doStart_of_follower hlead' hprop') rfl

theorem exec_stop_of_starting {last : Reg} (hacc : s.accepts (.stop h last) h = true) (hst : s.hst.st = stStarting) :
    exec (.stop h last) s = .next (s.begun (.stop h last) h) := by
  have hst' : (s.taken (.stop h last) h).1.hst.st = stStarting := (taken_st ..).trans hst
  exact exec_of_accepts_eq (fun x r => x.doStop r last) hacc rfl (fun _ _ => rfl) (doStop_of_starting _ last hst') rfl

theorem exec_stop_of_running {last : Reg} (hacc : s.accepts (.stop h last) h = true) (hst : s.hst.st = stRunning)
    (hlead : s.isJobLeader = true) (hlast : last.toNat < 2 ^ 64 - 1) :
    exec (.stop h last) s = .next ((s.begun (.stop h last) h).requestStop last.toNat 0) := by
  have hst' : (s.taken (.stop h last) h).1.hst.st = stRunning := (taken_st ..).trans hst
  have hlead' : (s.begun (.stop h last) h).isJobLeader = true := (isJobLeader_taken s (.stop h last) h).trans hlead
  have hhst : ((s.begun (.stop h last) h).requestStop last.toNat 0).hst = (s.begun (.stop h last) h).hst := by
    rw [requestStop_frame 0 hlead' hlast]
  exact exec_of_accepts_eq (fun x r => x.doStop r last) hacc rfl (fun _ _ => rfl) (doStop_of_running _ last hst')
    ((congrArg Hst.waiting hhst).trans rfl)

theorem exec_abort_of_running (hacc : s.accepts (.abort h) h = true) (hst : s.hst.st = stRunning)
    (hsent : s.job.abortSent.contains s.step = false) :
    let x := s.taken (.abort h) h
    exec (.abort h) s = .next ((x.1.issueAbort s.step 0x9002 s.selfOrigin).finish x.2 sOk 0 0 (leBytes s.step 8)) := by
  intro x
  have hx : x.1 = s.withHst x.1.hst := taken_frame ..
  have hstep : x.1.step = s.step := by rw [hx]; rfl
  have horigin : x.1.selfOrigin = s.selfOrigin := by rw [hx]; rfl
  have hst' : x.1.hst.st = stRunning := (taken_st ..).trans hst
  have hsent' : x.1.job.abortSent.contains x.1.step = false := by rw [hstep, hx]; exact hsent
  have habort := doAbort_of_running x.2 hst'
  have hwaiting := doAbort_waiting x.2 hst' hsent'
  rw [habort] at hwaiting
  rw [hstep, horigin] at habort hwaiting
  exact exec_of_accepts_eq (fun x r => x.doAbort r) hacc rfl (fun _ _ => rfl) habort hwaiting

end

/-! #### The statement -/

section
variable {s : State} {h : Hdr}

theorem load_good {b ofs len : Nat} {data : List Byte} (hacc : s.accepts (.load h b ofs len (.ok data)) h = true)
    (hrange : s.badRange b ofs len true 128 8 16 24 = none) (hgood : loadBad s.cxl.hdm (s.imageFrom b ofs len data) len = none) :
    exec (.load h b ofs len (.ok data)) s = .next (s.ended (.load h b ofs len (.ok data)) h
      (fun x => { x with job := { img := s.imageFrom b ofs len data, loaded := true }, hst := { x.hst with st := stLoaded } }) sOk 0 0
      (slice (s.imageFrom b ofs len data) 32 32)) := by
  have hrange' := (badRange_taken s (.load h b ofs len (.ok data)) h b ofs len true 128 8 16 24).trans hrange
  have hgood' : loadBad (s.taken (.load h b ofs len (.ok data)) h).1.cxl.hdm
      ((s.taken (.load h b ofs len (.ok data)) h).1.imageFrom b ofs len data) len = none := by
    rw [taken_cxl, imageFrom_taken, hgood]
  rw [exec_load hacc hrange, doLoad_of_good hrange' hgood', imageFrom_taken]
  rfl

theorem load_bad {b ofs len : Nat} {data : List Byte} (hacc : s.accepts (.load h b ofs len (.ok data)) h = true)
    (hrange : s.badRange b ofs len true 128 8 16 24 = none) {n o : Nat}
    (hbad : loadBad s.cxl.hdm (s.imageFrom b ofs len data) len = some (n, o)) {f : State → State}
    (hf : ∀ x : State, (if armsUnequal s.cxl.hdm (s.imageFrom b ofs len data) len then x.raise 0x100F srcToll 0 0 none 9 else x) = f x) :
    exec (.load h b ofs len (.ok data)) s =
      .next (s.ended (.load h b ofs len (.ok data)) h f sImageRefused 0 n (leBytes o 8)) := by
  have hrange' := (badRange_taken s (.load h b ofs len (.ok data)) h b ofs len true 128 8 16 24).trans hrange
  have hbad' : loadBad (s.taken (.load h b ofs len (.ok data)) h).1.cxl.hdm
      ((s.taken (.load h b ofs len (.ok data)) h).1.imageFrom b ofs len data) len = some (n, o) := by
    rw [taken_cxl, imageFrom_taken, hbad]
  rw [exec_load hacc hrange, doLoad_of_bad hrange' hbad', imageFrom_taken, taken_cxl, hf]
  rfl

/-- A module that becomes a candidate changes its placement and its host interface only. -/
theorem candidate_frame (x : State) (f : Plc → Plc) (n : Nat) (r : RunCmd) :
    let t := (((x.updPlc f).setSt n).runs r).startElection
    t = { x with hst := t.hst, plc := t.plc } := by
  have helection : ∀ u : State, u.startElection = { u with plc := u.startElection.plc } := fun _ => rfl
  have hplacing : ((x.updPlc f).setSt n).runs r =
    { x with plc := f x.plc, hst := { x.hst with st := n, running := x.hst.running ++ [r] } } := rfl
  dsimp only
  rw [helection, hplacing]

/-- PLACE admitted: the candidate's claim is its own (R366, R401). -/
theorem place_admitted (hacc : s.accepts (.place h) h = true) (hrow : s.freshHall.admitRow false = 0)
    (hparam : ¬ (s.imgAt 11 1 % 2 = 1 ∧ 32 < s.imgAt 12 1)) :
    exec (.place h) s = .next ((((s.taken (.place h) h).1.updPlc fun p => { p with
      duplicate := false, rounds := 0, switch := none, given := none, placeAt := s.tim.now.toNat, proposal := none }).setSt stPlacing).runs
        (s.taken (.place h) h).2).startElection := by
  have hparam' : ¬ ((s.taken (.place h) h).1.imgAt 11 1 % 2 = 1 ∧ 32 < (s.taken (.place h) h).1.imgAt 12 1) := by
    rwa [imgAt_taken, imgAt_taken]
  have htim : (s.taken (.place h) h).1.tim = s.tim := by rw [taken_frame]; rfl
  rw [exec_place hacc hparam, doPlace_of_admitted hparam' ((admitRow_taken ..).trans hrow), htim]

/-- PLACE not admissible (R365, R401). -/
theorem place_refused (hacc : s.accepts (.place h) h = true) (hrow : s.freshHall.admitRow false ≠ 0)
    (hparam : ¬ (s.imgAt 11 1 % 2 = 1 ∧ 32 < s.imgAt 12 1)) :
    exec (.place h) s = .next (s.ended (.place h) h State.freshHall sNotAdmissible (s.rowFault (s.freshHall.admitRow false))
      (s.freshHall.admitRow false) []) := by
  have hparam' : ¬ ((s.taken (.place h) h).1.imgAt 11 1 % 2 = 1 ∧ 32 < (s.taken (.place h) h).1.imgAt 12 1) := by
    rwa [imgAt_taken, imgAt_taken]
  have htaken := admitRow_taken s (.place h) h
  have hfault : (s.taken (.place h) h).1.freshHall.rowFault (s.freshHall.admitRow false) = s.rowFault (s.freshHall.admitRow false) := by
    rw [taken_frame]; rfl
  rw [exec_place hacc hparam, doPlace_of_refused hparam' (htaken ▸ hrow), htaken, hfault]
  rfl

theorem exec_arm_of_buffersOk (hacc : s.accepts (.arm h) h = true) (hbufs : s.buffersOk = true) :
    exec (.arm h) s = .next (s.ended (.arm h) h (fun x => x.armUnits.digestsAgree.setSt stArmed) sOk 0 0 []) := by
  have hbufs' : (s.taken (.arm h) h).1.buffersOk = true := (buffersOk_taken ..).trans hbufs
  rw [exec_arm hacc, State.doArm, hbufs']
  rfl

theorem exec_arm_of_buffersBad (hacc : s.accepts (.arm h) h = true) (hbufs : s.buffersOk = false) :
    exec (.arm h) s = .next (s.ended (.arm h) h (fun x => x.raise 0x8002 srcToll 0) sBadParam 0x8002 0 []) := by
  have hbufs' : (s.taken (.arm h) h).1.buffersOk = false := (buffersOk_taken ..).trans hbufs
  rw [exec_arm hacc, State.doArm, hbufs']
  rfl

end

/-- Settles O39: an accepted command answers what it makes of the state in which it has been consumed, which is the module but for its host
interface. -/
theorem jobCommandsTakeEffect : Obligations.JobCommandsTakeEffect := by
  unfold Obligations.JobCommandsTakeEffect
  intro s h
  refine ⟨fun b ofs len data hacc hrange _ => ?load, fun hacc hrow hparam => ?placed, fun hacc hparam => ?refused, fun hacc hbufs => ?armed,
    fun hacc hbufs => ?unarmed, fun first hacc hlead hprop => ?start, fun last hacc hst => ?stopEarly,
    fun last hacc hst hlead hlast => ?stop, fun hacc hst hsent => ?abort⟩
  case load =>
    exact ⟨fun hgood => load_good hacc hrange hgood,
      fun n o hbad harms => load_bad hacc hrange hbad fun x => if_neg (Bool.eq_false_iff.mp harms),
      fun n o hbad harms => load_bad hacc hrange hbad fun x => if_pos harms⟩
  case placed =>
    refine ⟨_, place_admitted hacc hrow hparam, ?_⟩
    have hbegun : (s.begun (.place h) h).hst = ((s.taken (.place h) h).1.runs (s.taken (.place h) h).2).hst := rfl
    rw [hbegun, taken_frame]
    generalize (s.taken (.place h) h).1.hst = x
    generalize (s.taken (.place h) h).2 = r
    refine ⟨rfl, rfl, rfl, rfl, rfl, rfl, rfl, rfl, rfl, rfl, rfl, rfl, ?_⟩
    exact candidate_frame (s.withHst x) _ stPlacing r
  case refused => exact fun hrow => place_refused hacc hrow hparam
  case armed => exact exec_arm_of_buffersOk hacc hbufs
  case unarmed => exact exec_arm_of_buffersBad hacc hbufs
  case start =>
    rw [exec_start hacc hlead hprop, started_eq, State.begun, taken_frame]
    generalize (s.taken (.start h first) h).1.hst = x
    rfl
  case stopEarly => exact exec_stop_of_starting hacc hst
  case stop =>
    have hbegun : s.begun (.stop h last) h = s.withHst (s.begun (.stop h last) h).hst := by
      rw [State.begun, taken_frame]
      rfl
    have hlead' : (s.begun (.stop h last) h).isJobLeader = true := (isJobLeader_taken s (.stop h last) h).trans hlead
    refine ⟨_, exec_stop_of_running hacc hst hlead hlast, ?_⟩
    rw [requestStop_of_leader 0 hlead' hlast]
    generalize (s.begun (.stop h last) h).hst = x at hbegun
    rw [hbegun]
    obtain ⟨low, hlow, hstop⟩ := takeStop_spec ((s.withHst x).updJob fun j => { j with stopAsked := true }) last.toNat 0
    generalize State.takeStop _ last.toNat 0 = t at hstop ⊢
    rw [hstop]
    refine ⟨rfl, rfl, ⟨_, rfl, fun m hm => soonest_le _ hm, fun hnone hreq => ?_⟩, rfl⟩
    have hearliest : max low s.earliestStop = max last.toNat s.earliestStop := by rw [hlow hreq]
    exact (soonest_of_none _ hnone).trans hearliest
  case abort =>
    intro w
    have hsent' : w.1.job.abortSent.contains s.step = false := by
      rw [show w.1 = _ from taken_frame ..]
      exact hsent
    obtain ⟨svc, flt, olf, hissue, hseen, hqueues⟩ := issueAbort_spec s.selfOrigin 0 hsent'
    refine ⟨w.1.issueAbort s.step 0x9002 s.selfOrigin, exec_abort_of_running hacc hst hsent, ?_⟩
    have hw : w.1 = s.withHst w.1.hst := taken_frame ..
    generalize w.1.hst = x at hw
    rw [hissue]
    rw [hw] at hqueues ⊢
    exact ⟨rfl, rfl, rfl, hseen, hqueues, rfl⟩

end Sys2Proof.Machine

/-! ### The end of a job (O50) -/

namespace Sys2Proof.Machine

/-! #### Rails, steps and units leave the host interface as it is -/

@[simp] theorem hst_ibi (s : State) : s.ibi.hst = s.hst := by rw [ibi_frame]

@[simp] theorem hst_setRail (s : State) (i : Nat) : (s.setRail i).hst = s.hst := by
  unfold State.setRail
  extract_lets old
  split
  case isTrue => rfl
  case isFalse => exact hst_ibi _

@[simp] theorem hst_applyStep (s : State) (i : Nat) : (s.applyStep i).hst = s.hst := by
  unfold State.applyStep
  extract_lets u
  have hu : u.hst = s.hst := rfl
  split
  case isTrue => rfl
  case isFalse =>
    rw [hst_ibi]
    split
    case isTrue => rw [hst_setRail, hu]
    case isFalse => exact hu

@[simp] theorem hst_wantStep (s : State) (i : Nat) : (s.wantStep i).hst = s.hst := by
  unfold State.wantStep
  extract_lets held u v
  have hu : u.hst = s.hst := rfl
  have hv : v.hst = s.hst := hst_setRail ..
  split
  case isTrue => exact hu
  case isFalse =>
    split
    case isTrue => rw [hst_ibi, hst_setRail, hu]
    case isFalse =>
      split
      case isTrue => rw [hst_ibi, hst_setRail, hst_applyStep, hu]
      case isFalse =>
        rw [hst_ibi]
        split
        case isTrue => rw [hst_applyStep, hv]
        case isFalse => exact hv

@[simp] theorem hst_settleStep (s : State) : s.settleStep.hst = s.hst := hst_wantStep ..

/-- A loop that changes some spans leaves the host interface as it is. -/
theorem hst_forSpans (l : List Nat) (f : State → Nat → Spn → Spn) (s : State) :
    (forEach s l fun t p => if (t.spn p).silent then t else t.updSpn p (f t p)).hst = s.hst := by
  refine forEach_frame State.hst _ (fun t p => ?_) l s
  split <;> rfl

@[simp] theorem hst_stopClocks (s : State) : s.stopClocks.hst = s.hst := hst_forSpans _ (fun t _ => t.clockOff) s

/-- A loop that changes some memory sequencers leaves the host interface as it is. -/
theorem hst_forStacks (l : List Nat) (f : State → Nat → Msq → Msq) (s : State) :
    (forEach s l fun t st => if (t.ms st).running then t.updMs st (f t st) else t).hst = s.hst := by
  refine forEach_frame State.hst _ (fun t st => ?_) l s
  split <;> rfl

theorem hst_forRouters (l : List Nat) (f : Cwy → Cwy) (s : State) : (forEach s l fun t p => t.updRtr p f).hst = s.hst :=
  forEach_frame State.hst (fun t p => t.updRtr p f) (fun _ _ => rfl) l s

@[simp] theorem hst_stopUnits (s : State) : s.stopUnits.hst = s.hst := by
  unfold State.stopUnits
  extract_lets a b c d
  have hb : b.hst = a.hst := hst_forSpans _ (fun _ _ k => { k with running := false }) a
  have hc : c.hst = b.hst := hst_forStacks _ (fun t _ m => m.handBack (t.memNow + 1) t.tim.now.toNat) b
  have hd : d.hst = c.hst := hst_forRouters _ _ c
  have ha : a.hst = s.hst := hst_stopClocks s
  clear_value a b c d
  rw [hst_ibi, hst_digestsAgree]
  exact ((hd.trans hc).trans hb).trans ha

/-! #### The commands of the host as an event leaves them, and as a completion does -/

/-- The commands that wait and that run, those whose completion nobody wants, and the completions formed. -/
def Hst.commands (x : Hst) : List RunCmd × List RunCmd × List RunCmd × List Cpl := (x.waiting, x.running, x.orphans, x.done)

theorem commands_signal (s : State) (v : Nat) : (s.signal v).hst.commands = s.hst.commands := by
  unfold State.signal
  extract_lets x coal t
  dsimp only
  split
  case isTrue => split <;> rfl
  case isFalse =>
    split
    case isTrue => split <;> rfl
    case isFalse => rfl

theorem commands_event (s : State) (ty : Nat) (body : List Byte) : (s.event ty body).hst.commands = s.hst.commands := by
  unfold State.event
  extract_lets x seq e t
  split
  case isTrue => rfl
  case isFalse =>
    split
    case isTrue => rfl
    case isFalse => exact commands_signal ..

theorem commands_setSt (s : State) (st : Nat) : (s.setSt st).hst.commands = s.hst.commands := rfl

/-- A ring command that finishes leaves one completion, with the OPCODE of its descriptor. -/
theorem done_finish {s : State} {r : RunCmd} {h : Hdr} (hhdr : hdrOf r.cmd = some h) (hvia : h.via ≠ .mbox) (horphan : s.hst.orphans = [])
    (status : Nat) (fault : BitVec 16) (detail : Nat) (result : List Byte) :
    (s.finish r status fault detail result).hst.done = s.hst.done ++
      [⟨h.via, h.tag, h.irq, (rawOpcode h).getD (opcodeOf r.cmd), status, fault, r.idx, detail, result⟩] := by
  rw [State.finish, hhdr]
  simp only [horphan, List.contains_nil, Bool.false_eq_true, if_false, hvia]
  rfl

/-! #### JOB_STOP (R178, R404) -/

theorem exec_jobStop {s : State} {b : Nat} (hb : s.job.boundary = some b) (habort : s.lowAbort = none) (hruns : s.cxl.runs = []) :
    exec .jobStop s = .next (s.updCxl fun x => { x with runs := [], stgCnt := satInc x.stgCnt 0 24 0 }).orderlyStop.pump := by
  have hexec : exec .jobStop s = execJobStop s := rfl
  rw [hexec, execJobStop, hb, habort, hruns]
  rfl

/-- The one command that runs, a STOP from a ring, completes with the OPCODE of its descriptor. -/
theorem done_orderlyStop {s : State} {r : RunCmd} {h : Hdr} (hrun : s.hst.running = [r]) (hstop : isStop r.cmd = true)
    (hhdr : hdrOf r.cmd = some h) (hvia : h.via ≠ .mbox) (horphan : s.hst.orphans = []) :
    s.orderlyStop.hst.waiting = s.hst.waiting ∧ ∃ detail result, s.orderlyStop.hst.done = s.hst.done ++
      [⟨h.via, h.tag, h.irq, (rawOpcode h).getD (opcodeOf r.cmd), sOk, 0, r.idx, detail, result⟩] := by
  unfold State.orderlyStop
  extract_lets cause u v
  have hu : u.hst = s.hst := hst_stopUnits s
  have hv : v.hst.commands = s.hst.commands :=
    (commands_event ..).trans ((commands_setSt u stStopped).trans (congrArg Hst.commands hu))
  obtain ⟨hwait, hrunning, horphans, hdone⟩ : v.hst.waiting = s.hst.waiting ∧ v.hst.running = s.hst.running ∧
      v.hst.orphans = s.hst.orphans ∧ v.hst.done = s.hst.done := by
    simpa only [Hst.commands, Prod.mk.injEq] using hv
  have hall : v.finishAll isStop sOk 0 0 (leBytes v.lastDone 8) = v.finish r sOk 0 0 (leBytes v.lastDone 8) := by
    rw [State.finishAll, hrunning, hrun, List.filter_cons, hstop]
    rfl
  rw [hst_settleStep, hall]
  refine ⟨(finish_waiting ..).trans hwait, 0, leBytes v.lastDone 8, ?_⟩
  rw [done_finish hhdr hvia (horphans.trans horphan), hdone]

/-! #### A STOP whose descriptor gives an OPCODE that R398 does not list -/

/-- The header of a ring descriptor with OPCODE 0xFFFF, which R398 does not list. -/
def oddHdr : Hdr := { via := .ring0, tag := 0, irq := false, order := false, raw := some 0xFFFF }

/-- A module at the boundary of its last step, step 0, with a STOP that runs. -/
def oddStop : State := { job := { boundary := some 0, lastStep := some 0 }, hst := { running := [⟨.stop oddHdr 0, 0⟩] } }

theorem done_oddStop : ∃ t detail result, exec .jobStop oddStop = .next t ∧
    t.hst.done = [⟨.ring0, 0, false, 0xFFFF, sOk, 0, 0, detail, result⟩] := by
  have hraw : (rawOpcode oddHdr).getD (opcodeOf (.stop oddHdr 0)) = 0xFFFF := by decide
  have hvia : oddHdr.via ≠ .mbox := by decide
  obtain ⟨hwait, detail, result, hdone⟩ := done_orderlyStop (s := oddStop.updCxl fun x => { x with runs := [], stgCnt := satInc x.stgCnt 0 24 0 })
    (r := ⟨.stop oddHdr 0, 0⟩) rfl rfl rfl hvia rfl
  refine ⟨_, detail, result, (exec_jobStop rfl rfl rfl).trans (congrArg _ (pump_nil _ hwait)), ?_⟩
  rw [hdone, hraw]
  rfl

/-- Refutes O50: a completion carries the OPCODE of its descriptor where R398 does not list it, and so not 0x0032, in the state `oddStop`.
The clause on the waiting STOP lacks the hypothesis that `rawOpcode h` is none, which holds of every STOP that a module accepts. -/
theorem not_jobsStopAndStepsQualify : ¬ Obligations.JobsStopAndStepsQualify := by
  unfold Obligations.JobsStopAndStepsQualify
  intro hall
  obtain ⟨-, hjobStop, -⟩ := hall oddStop
  obtain ⟨t, hexec, -, -, -, -, -, -, -, -, -, hstops⟩ := hjobStop 0 rfl rfl rfl rfl
  obtain ⟨-, hdone⟩ := hstops oddHdr 0 0 0 rfl (by decide) rfl rfl
  obtain ⟨t', detail, result, hexec', hdone'⟩ := done_oddStop
  obtain rfl : t = t' := Host.Outcome.next.inj (hexec.symm.trans hexec')
  have hcpl := List.singleton_injective (hdone.symm.trans hdone')
  have hopcode : (0x0032 : BitVec 16) = 0xFFFF := congrArg Cpl.opcode hcpl
  exact absurd hopcode (by decide)

end Sys2Proof.Machine

/-! ### Steering and port words issue (O8) -/

namespace Sys2Proof.Machine

/-! #### Words without work (R160, R209, R210, R214) -/

/-- The state once the next `n` words of a unit have issued from cycle `c` on: the span's cycles up to `c` are over and the stream has moved
on (R161). -/
def State.afterWords (s : State) (cl : Nat) (u : Unit4) (n c : Nat) : State :=
  (s.updSpn (spanOf cl) (fun x => { x with cycle := max x.cycle c })).setClu cl
    ((s.clu cl).setStream u (((s.clu cl).stream u).issued n (c + n - 1)))

theorem clu_afterWords (s : State) (cl : Nat) (u : Unit4) (n c : Nat) :
    (s.afterWords cl u n c).clu cl = (s.clu cl).setStream u (((s.clu cl).stream u).issued n (c + n - 1)) := State.clu_setClu ..

theorem clu_afterWords_ne (s : State) {cl : Nat} (u : Unit4) (n c : Nat) {x : Nat} (hx : x ≠ cl) : (s.afterWords cl u n c).clu x = s.clu x :=
  (State.clu_setClu_ne _ _ _ _ hx).trans rfl

theorem staleIn_one_of_issues {s : State} {cl : Nat} {u : Unit4} (hissues : s.issues cl u = true) :
    (s.clu cl).staleIn ((s.clu cl).stream u) 1 = none := by
  simp only [State.issues, Bool.and_eq_true] at hissues
  obtain ⟨-, hfresh⟩ := hissues
  have hnone := Option.isNone_iff_eq_none.mp hfresh
  simpa [Cluster.staleIn, Stream.ahead, List.range_succ] using hnone

/-- Where nothing holds a unit back, its words issue (R89, R161, R166). -/
theorem issueAt_of_issues {s : State} {cl : Nat} {u : Unit4} (hissues : s.issues cl u = true) {n : Nat}
    (hfresh : (s.clu cl).staleIn ((s.clu cl).stream u) n = none) (delta : Nat) (go : State → Nat → State) :
    let c := ((s.clu cl).stream u).issue delta
    issueAt s cl u delta n go = go (s.afterWords cl u n c) c := by
  intro c
  simp only [State.issues, Bool.and_eq_true] at hissues
  obtain ⟨⟨⟨-, hmay⟩, hidle⟩, -⟩ := hissues
  have hclu : (advanceSpan s (spanOf cl) c).clu cl = s.clu cl := by rw [advanceSpan_of_idle hidle, State.clu_updSpn]
  simp only [issueAt, hmay, Bool.not_true, Bool.false_eq_true, if_false]
  rw [show ((s.clu cl).stream u).issue delta = c from rfl, hclu, hfresh, advanceSpan_of_idle hidle]
  rfl

theorem issueWith_of_issues {i : Instr} {s : State} {cl : Nat} {u : Unit4} {w : Wd} (hwf : i.wf = true) (hunit : unitOf i = some (cl, u, w))
    (hissues : s.issues cl u = true) {n : Nat} (hfresh : (s.clu cl).staleIn ((s.clu cl).stream u) n = none)
    (go : Nat → Unit4 → Wd → State → Nat → State) :
    let c := ((s.clu cl).stream u).issue w.delta
    issueWith i s n go = .next (go cl u w (s.afterWords cl u n c) c) := by
  intro c
  have hword : wordOk i = true := hwf
  rw [issueWith, hword, hunit]
  exact congrArg Host.Outcome.next (issueAt_of_issues hissues hfresh w.delta (go cl u w))

/-- A branch of `n` phases put into force in phase `P`, and those that are over left out (R171, R210). -/
def Cluster.branch (sel n : Nat) (l0 l1 : ArmLens) (P : Nat) (k : Cluster) : Cluster :=
  { k with br := k.br.filter (fun b => P < b.2.2.2.2) ++ [(l0, l1, k.p.getLsbD sel, P + 1, P + n + 1)] }

section
variable {s : State} {cl : Nat} (hissues : s.issues cl .sq = true)
include hissues

theorem exec_sqWait {delta q : Nat} (hwf : (Instr.sqWait cl delta q).wf = true) :
    exec (.sqWait cl delta q) s = .next (s.afterWords cl .sq 1 ((s.clu cl).sSq.issue delta)) :=
  issueWith_of_issues hwf rfl hissues (staleIn_one_of_issues hissues) fun _ _ _ s _ => s

theorem exec_sqBr {delta sel n : Nat} {l0 l1 : ArmLens} (hwf : (Instr.sqBr cl delta sel n l0 l1).wf = true)
    (hfresh : (s.clu cl).staleIn (s.clu cl).sSq 3 = none) :
    exec (.sqBr cl delta sel n l0 l1) s = .next ((s.afterWords cl .sq 3 ((s.clu cl).sSq.issue delta)).updClu cl
      (Cluster.branch sel n l0 l1 s.tik.phaseNo)) :=
  issueWith_of_issues hwf rfl hissues hfresh fun cl _ _ s _ => s.updClu cl (Cluster.branch sel n l0 l1 s.tik.phaseNo)

theorem exec_sqEnd {delta : Nat} (hwf : (Instr.sqEnd cl delta).wf = true) :
    exec (.sqEnd cl delta) s = .next ((s.afterWords cl .sq 1 ((s.clu cl).sSq.issue delta)).updJob fun j => { j with ended := true }) :=
  issueWith_of_issues hwf rfl hissues (staleIn_one_of_issues hissues) fun _ _ _ s _ => s.updJob fun j => { j with ended := true }

end

theorem exec_idleWord_unit {s : State} {cl delta : Nat} {u : Unit4} (hissues : s.issues cl u = true)
    (hwf : (Instr.idleWord (.unit cl u) delta).wf = true) :
    exec (.idleWord (.unit cl u) delta) s = .next (s.afterWords cl u 1 (((s.clu cl).stream u).issue delta)) := by
  have hword : wordOk (.idleWord (.unit cl u) delta) = true := hwf
  have hruns : s.streamRuns (.unit cl u) = true := by
    simp only [State.issues, Bool.and_eq_true] at hissues
    obtain ⟨⟨⟨-, hmay⟩, -⟩, -⟩ := hissues
    exact hmay
  simp only [exec, execIdleWord, hword, hruns, Bool.not_true, Bool.false_eq_true, if_false]
  exact congrArg Host.Outcome.next (issueAt_of_issues hissues (staleIn_one_of_issues hissues) delta _)

/-! #### Words of ports (R216, R217) -/

theorem exec_ptPage {p delta page : Nat} (hwf : (Instr.ptPage p delta page).wf = true) (s : State) :
    exec (.ptPage p delta page) s = .next ((s.setPt p ((s.pt p).issued 1 ((s.pt p).issue delta))).updRtr (s.physPort p)
      fun r => { r with next := some page }) := by
  have hword : wordOk (.ptPage p delta page) = true := hwf
  simp only [exec, execPtPage, hword, Bool.not_true, Bool.false_eq_true, if_false]

theorem exec_ptPad {p pad : Nat} (hwf : (Instr.ptPad p pad).wf = true) (s : State) :
    exec (.ptPad p pad) s = .next (s.updRtr (s.physPort p) fun r => { r with padNew := pad }) := by
  have hword : wordOk (.ptPad p pad) = true := hwf
  simp only [exec, execPtPad, hword, Bool.not_true, Bool.false_eq_true, if_false]

/-- Settles O8: each word by its row, on the state that the words of its stream leave. -/
theorem steeringAndPortWordsIssue : Obligations.SteeringAndPortWordsIssue := by
  unfold Obligations.SteeringAndPortWordsIssue
  refine ⟨fun s cl delta => ?units, fun s p _ => ?ports⟩
  case units =>
    intro k c P
    refine ⟨fun q hwf hissues => ?wait, fun sel n l0 l1 hwf hissues hfresh => ?br, fun hwf hissues => ?end_, fun u hwf hissues => ?idle⟩
    case wait => exact ⟨_, exec_sqWait hissues hwf, clu_afterWords .., fun x hx => clu_afterWords_ne s _ _ _ hx, rfl⟩
    case br =>
      refine ⟨_, exec_sqBr hissues hwf hfresh, ?_, fun x hx => ?_, rfl⟩
      · rw [State.clu_updClu, clu_afterWords]
        rfl
      · rw [State.clu_updClu_ne _ _ _ _ hx, clu_afterWords_ne s _ _ _ hx]
    case end_ => exact ⟨_, exec_sqEnd hissues hwf, rfl, clu_afterWords s cl .sq 1 c, rfl⟩
    case idle => exact ⟨_, exec_idleWord_unit hissues hwf, clu_afterWords .., fun x hx => clu_afterWords_ne s _ _ _ hx, rfl⟩
  case ports =>
    intro q r
    refine ⟨fun delta page hwf => ?page, fun pad hwf => ?pad⟩
    case page =>
      refine ⟨_, exec_ptPage hwf s, State.rtr_updRtr .., fun x hx => State.rtr_updRtr_ne _ _ _ _ hx, ?_, fun x hx => ?_, rfl⟩
      · exact State.pt_setPt s p _
      · exact State.pt_setPt_ne s p x _ hx
    case pad => exact ⟨_, exec_ptPad hwf s, State.rtr_updRtr .., rfl, fun x hx => State.rtr_updRtr_ne _ _ _ _ hx⟩

end Sys2Proof.Machine

/-! ### Work takes effect in its cycle (O14) -/

namespace Sys2Proof.Machine

/-! #### Work alone in its span -/

theorem loneOp_of_soleWork {s : State} {cl iid : Nat} {u : Unit4} (h : s.soleWork cl u iid) : s.loneOp cl u iid (.work 0) [] := by
  obtain ⟨hcl, hops, hothers⟩ := h
  exact ⟨hcl, hops, fun _ ho => absurd ho List.not_mem_nil, fun c hc hne o ho => absurd (hothers c hc hne ▸ ho) List.not_mem_nil⟩

theorem retireFly_keeps_nil {v : State} {c : Nat} (x : Nat) (hfly : (v.clu c).fly = []) : ((v.retireFly x).clu c).fly = [] := by
  unfold State.retireFly
  split
  case isTrue => exact hfly
  case isFalse =>
    by_cases hx : c = x
    · rw [← hx, State.clu_updClu, Cluster.retire, hfly]
      rfl
    · rw [State.clu_updClu_ne _ _ _ _ hx, hfly]

theorem fly_retireFly {v : State} {c : Nat} (hops : (v.clu c).ops = []) : ((v.retireFly c).clu c).fly = [] := by
  unfold State.retireFly
  split
  case isTrue h => exact List.isEmpty_iff.mp h
  case isFalse =>
    rw [State.clu_updClu, Cluster.retire, hops]
    exact List.filter_eq_nil_iff.mpr fun _ _ => Bool.false_ne_true

theorem fly_forEach_retireFly {c : Nat} {l : List Nat} (hc : c ∈ l) {v : State} (hops : (v.clu c).ops = []) :
    ((forEach v l State.retireFly).clu c).fly = [] := by
  induction l generalizing v with
  | nil => exact absurd hc List.not_mem_nil
  | cons x r ih =>
    rw [forEach, List.foldl_cons, ← forEach]
    rcases List.mem_cons.mp hc with rfl | hr
    · exact forEach_keeps (fun w => (w.clu c).fly = []) _ (fun _ y hw => retireFly_keeps_nil y hw) r _ (fly_retireFly hops)
    · exact ih hr (by rw [(retires_retireFly v x).clu c, hops])

theorem ops_cycleEnd (v : State) (span m c : Nat) : ((v.cycleEnd span m).clu c).ops = (v.clu c).ops := by rw [clu_cycleEnd]

/-- Once no operation of a cluster waits, none of its instructions is in flight (R184). -/
theorem fly_cycleEnd {v : State} {cl : Nat} (hops : (v.clu cl).ops = []) (m : Nat) : ((v.cycleEnd (spanOf cl) m).clu cl).fly = [] := by
  rw [State.cycleEnd, State.clu_updSpn]
  exact fly_forEach_retireFly (mem_clustersOf cl) hops

section
variable {u v : State} {cl : Nat} {k : Cluster} {later : List Op} (h : cycleLeaves u v cl k later)
include h

theorem flt_of_leaves : v.flt = u.flt := by rw [h.1]
theorem ops_of_leaves : (v.clu cl).ops = later := by rw [h.2.1]
theorem me_of_leaves : (v.clu cl).me = k.me := by rw [h.2.1]
theorem vreg_of_leaves (x : Nat) : (v.clu cl).vreg x = k.vreg x := by rw [h.2.1]; rfl
theorem p_of_leaves : (v.clu cl).p = k.p := by rw [h.2.1]
theorem fs_of_leaves : (v.clu cl).fs = k.fs := by rw [h.2.1]

end

theorem fly_runCycle {s : State} {cl iid : Nat} {u : Unit4} {act : Micro} {k : Cluster} (h : s.loneOp cl u iid act [])
    (hleaves : cycleLeaves s (runCycle s (spanOf cl)) cl k []) : ((runCycle s (spanOf cl)).clu cl).fly = [] := by
  have hops : ((runCycle s (spanOf cl)).clu cl).ops = [] := ops_of_leaves hleaves
  rw [runCycle_of_lone h, ops_cycleEnd] at hops
  rw [runCycle_of_lone h]
  exact fly_cycleEnd hops _

/-! #### Rows and buffers of the matrix engine (R188) -/

@[simp] theorem Me.buf_setBuf (m : Me) (b : Bool) (x : MeBuf) : (m.setBuf b x).buf b = x := by cases b <;> rfl
@[simp] theorem Me.acc_setBuf (m : Me) (b : Bool) (x : MeBuf) : (m.setBuf b x).acc = m.acc := by cases b <;> rfl
@[simp] theorem Me.entry_setBuf (m : Me) (b c : Bool) (x : MeBuf) (r j : Nat) : (m.setBuf b x).entry c r j = m.entry c r j := by cases b <;> rfl

/-- The window of a buffer set: its code and its two exponents (R196). -/
def Me.setWin (m : Me) (b : Bool) (wc : BitVec 6) (ta tw : Int) : Me := m.setBuf b { m.buf b with wcode := wc, ta := ta, tw := tw }

theorem Me.buf_setWin (m : Me) (b : Bool) (wc : BitVec 6) (ta tw : Int) :
    (m.setWin b wc ta tw).buf b = { m.buf b with wcode := wc, ta := ta, tw := tw } := Me.buf_setBuf ..

theorem Tbl.get_filter_in {α : Type} {d : α} {p : Nat × α → Bool} {k : Nat} (h : ∀ v, p (k, v) = true) (t : Tbl α) :
    Tbl.get d (t.filter p) k = Tbl.get d t k := by
  induction t with
  | nil => rfl
  | cons e r ih =>
    by_cases hk : k = e.1
    case pos => rw [List.filter_cons_of_pos (by rw [← h e.2, hk]), Tbl.get, Tbl.get, if_pos hk, if_pos hk]
    case neg =>
      rw [List.filter_cons]
      split
      · rw [Tbl.get, Tbl.get, if_neg hk, if_neg hk, ih]
      · rw [Tbl.get, if_neg hk, ih]

theorem nth_replicate {α : Type} (d : α) (n i : Nat) : nth d (List.replicate n d) i = d := by
  rw [nth, List.getD_eq_getElem?_getD, List.getElem?_replicate]
  split <;> rfl

/-- Every entry of a buffer set to zero. -/
theorem entry_zeroBuf (m : Me) (b : Bool) {r : Nat} (hr : r < 64) (j : Nat) : (m.zeroBuf b).entry b r j = 0 := by
  have hrow : (m.zeroBuf b).row b r = accZero := Tbl.get_filter_out (fun _ => by cases b <;> simp [accKey, hr]) m.acc
  rw [Me.entry, hrow, accZero, nth_replicate]

theorem entry_zeroBuf_other (m : Me) (b : Bool) {r : Nat} (hr : r < 64) (j : Nat) : (m.zeroBuf b).entry (!b) r j = m.entry (!b) r j := by
  have hrow : (m.zeroBuf b).row (!b) r = m.row (!b) r := Tbl.get_filter_in (fun _ => by cases b <;> simp [accKey, hr]) m.acc
  rw [Me.entry, hrow, Me.entry]

theorem row_setRow (m : Me) (b : Bool) (r x : Nat) (l : List Fw) : (m.setRow b r l).row b x = if x = r then l else m.row b x := by
  split
  case isTrue h => rw [h, Me.row, Me.setRow, Tbl.get_set]
  case isFalse h => exact Tbl.get_set_ne _ _ _ _ _ fun hkey => h (Nat.add_left_cancel hkey)

theorem row_setRows (b : Bool) (l : List Fw) (rows : List Nat) (m : Me) (x : Nat) :
    (rows.foldl (fun m r => m.setRow b r l) m).row b x = if x ∈ rows then l else m.row b x := by
  induction rows generalizing m with
  | nil => rfl
  | cons r rows ih =>
    rw [List.foldl_cons, ih, row_setRow]
    by_cases hrows : x ∈ rows <;> by_cases hr : x = r <;> simp [hrows, hr]

/-- Every entry of a buffer set to FW_NAN (R196). -/
theorem entry_nanBuf (m : Me) (b : Bool) {r j : Nat} (hr : r < 64) (hj : j < 64) : (m.nanBuf b).entry b r j = fwNan := by
  rw [Me.entry, Me.nanBuf, row_setRows, if_pos (List.mem_range.mpr hr), nth, List.getD_replicate _ hj]

/-! #### Registers, and bits of P (R211, R218) -/

theorem vreg_setVreg (k : Cluster) (d x : Nat) (v : Vreg) : (k.setVreg d v).vreg x = if x == d then v else k.vreg x := by
  by_cases hx : x = d
  · rw [hx, if_pos (beq_self_eq_true d), Cluster.vreg, Cluster.setVreg, Tbl.get_set]
  · rw [if_neg (by simp [hx]), Cluster.vreg, Cluster.setVreg, Tbl.get_set_ne _ _ _ _ _ hx, ← Cluster.vreg]

theorem getLsbD_flagImm (p mask value : BitVec 8) {i : Nat} (hi : i < 8) :
    (flagImm p mask value).getLsbD i = if mask.getLsbD i then value.getLsbD i else p.getLsbD i := by
  rw [flagImm, BitVec.getLsbD_or, BitVec.getLsbD_and, BitVec.getLsbD_and, BitVec.getLsbD_not, decide_eq_true hi]
  cases mask.getLsbD i <;> simp

/-- SET is IMM with the flags for its value, or their inverse. -/
theorem getLsbD_flagSet (p fs mask : BitVec 8) (inv : Bool) {i : Nat} (hi : i < 8) :
    (flagSet p fs mask inv).getLsbD i = if mask.getLsbD i then (fs.getLsbD i != inv) else p.getLsbD i := by
  have hfs : (fs ^^^ (if inv then 0xFF else 0)).getLsbD i = (fs.getLsbD i != inv) := by
    rw [BitVec.getLsbD_xor]
    cases inv with
    | false => simp
    | true =>
      rw [if_pos rfl, show (0xFF : BitVec 8) = BitVec.allOnes 8 from rfl, BitVec.getLsbD_allOnes, decide_eq_true hi, Bool.xor_true, Bool.bne_true]
  rw [← hfs]
  exact getLsbD_flagImm p mask _ hi

/-! #### The work of each unit -/

theorem workVu_writes {f : Fly} {vd : Nat} {x : Vreg} (hon : f.on = true) (hins : ∀ a b c e g h, f.ins ≠ .vuLd a b c e g h)
    (hres : f.res = [(vd, x)]) (v : State) (cl iid idx : Nat) : workVu v cl iid f idx = v.updClu cl (fun k => k.setVreg vd x) := by
  rw [workVu, hon, hres]
  simp only [Bool.not_true, Bool.false_eq_true, if_false]
  split
  case h_1 h => exact absurd h (hins _ _ _ _ _ _)
  case h_2 h => exact absurd h (hins _ _ _ _ _ _)
  case h_3 => rfl

section
variable {f : Fly} (v : State) (cl iid idx : Nat)

theorem workSq_set {c dl : Nat} {mask : BitVec 8} {inv : Bool} (hins : f.ins = .sqFlag c dl (.set mask inv)) :
    workSq v cl iid f idx = v.updClu cl (fun k => { k with p := flagSet k.p k.fs mask inv }) := by
  rw [workSq, hins]

theorem workSq_imm {c dl : Nat} {mask value : BitVec 8} (hins : f.ins = .sqFlag c dl (.imm mask value)) :
    workSq v cl iid f idx = v.updClu cl (fun k => { k with p := flagImm k.p mask value }) := by
  rw [workSq, hins]

theorem workSq_loads {c dl line byte : Nat} (hins : f.ins = .sqFlag c dl (.loads line byte)) :
    workSq v cl iid f idx = v.updClu cl (fun k => { k with fs := nth 0 (Tbl.get (zeros 128) f.lines 0) byte }) := by
  rw [workSq, hins]

theorem workMe_clear {c : Nat} {w : Wd} {b : Bool} (hins : f.ins = .meClear c w b) (hon : f.on = true) :
    workMe v cl iid f idx = v.updMe cl (fun m => (m.zeroBuf b).setBuf b { m.buf b with dirty := false }) := by
  rw [workMe, hins]
  exact if_pos hon

theorem workMe_win {c : Nat} {w : Wd} {b : Bool} {wc : BitVec 6} {ta tw : Int} (hins : f.ins = .meWin c w b wc ta tw) (hon : f.on = true) :
    workMe v cl iid f idx =
      (if ((v.clu cl).me.buf b).dirty then (v.updMe cl (fun m => m.nanBuf b)).unitRaise cl iid 0 0x100D else v).updMe cl
        (fun m => m.setWin b wc ta tw) := by
  rw [workMe, hins]
  exact if_pos hon

theorem workOp_me {v cl iid} (hfly : v.flyOf cl iid = some f) (m idx : Nat) :
    workOp v cl ⟨m, .me, iid, .work idx⟩ = workMe v cl iid f idx := by rw [workOp, hfly]

end

/-! #### Codes raised by work (R515) -/

theorem flt_updFly (v : State) (cl iid : Nat) (g : Fly → Fly) : (v.updFly cl iid g).flt = v.flt := by
  unfold State.updFly
  split <;> rfl

theorem raisedOne_unitRaise {v : State} {cl iid : Nat} {f : Fly} (hfly : v.flyOf cl iid = some f) (hraised : f.raised = []) (part : Nat)
    (code : BitVec 16) : raisedOne v (v.unitRaise cl iid part code) code (spanOf cl) := by
  simp only [State.unitRaise, hfly, hraised, List.contains_nil, Bool.false_eq_true, if_false]
  exact raisedOne_raise_detail (flt_updFly ..) ..

theorem me_unitRaise (v : State) (cl iid part : Nat) (code : BitVec 16) : ((v.unitRaise cl iid part code).clu cl).me = (v.clu cl).me := by
  obtain ⟨-, -, hcl, -⟩ := onlyRaised_unitRaise v cl iid part code
  rw [hcl]

/-! #### A cycle with one piece of work -/

section
variable {s : State} {cl iid idx : Nat} {later : List Op} {f : Fly} (hfly : s.flyOf cl iid = some f)
include hfly

theorem runCycle_vuWrites {vd : Nat} {x : Vreg} (h : s.loneOp cl .vu iid (.work idx) later)
    (hins : ∀ a b c e g h, f.ins ≠ .vuLd a b c e g h) (hres : f.res = [(vd, x)]) :
    cycleLeaves s (runCycle s (spanOf cl)) cl (if f.on then (s.clu cl).setVreg vd x else s.clu cl) later := by
  cases hon : f.on with
  | false => exact runCycle_vuOff hfly h hon
  | true =>
    exact runCycle_work h ((workOp_vu _ (flyOf_start hfly) idx).trans (workVu_writes hon hins hres _ _ _ _)) fun _ => rfl

theorem runCycle_set {c dl : Nat} {mask : BitVec 8} {inv : Bool} (h : s.loneOp cl .sq iid (.work idx) later)
    (hins : f.ins = .sqFlag c dl (.set mask inv)) : cycleLeaves s (runCycle s (spanOf cl)) cl
      { s.clu cl with p := flagSet (s.clu cl).p (s.clu cl).fs mask inv } later :=
  runCycle_work h ((workOp_sq _ (flyOf_start hfly) idx).trans (workSq_set _ _ _ _ hins)) fun _ => rfl

theorem runCycle_imm {c dl : Nat} {mask value : BitVec 8} (h : s.loneOp cl .sq iid (.work idx) later)
    (hins : f.ins = .sqFlag c dl (.imm mask value)) : cycleLeaves s (runCycle s (spanOf cl)) cl
      { s.clu cl with p := flagImm (s.clu cl).p mask value } later :=
  runCycle_work h ((workOp_sq _ (flyOf_start hfly) idx).trans (workSq_imm _ _ _ _ hins)) fun _ => rfl

theorem runCycle_flagLoads {c dl line byte : Nat} (h : s.loneOp cl .sq iid (.work idx) later)
    (hins : f.ins = .sqFlag c dl (.loads line byte)) : cycleLeaves s (runCycle s (spanOf cl)) cl
      { s.clu cl with fs := nth 0 (Tbl.get (zeros 128) f.lines 0) byte } later :=
  runCycle_work h ((workOp_sq _ (flyOf_start hfly) idx).trans (workSq_loads _ _ _ _ hins)) fun _ => rfl

theorem runCycle_clear {c : Nat} {w : Wd} {b : Bool} (h : s.loneOp cl .me iid (.work idx) later) (hins : f.ins = .meClear c w b)
    (hon : f.on = true) : cycleLeaves s (runCycle s (spanOf cl)) cl
      { s.clu cl with me := ((s.clu cl).me.zeroBuf b).setBuf b { (s.clu cl).me.buf b with dirty := false } } later :=
  runCycle_work h ((workOp_me (flyOf_start hfly) _ idx).trans (workMe_clear _ _ _ _ hins hon)) fun _ => rfl

section
variable {c : Nat} {w : Wd} {b : Bool} {wc : BitVec 6} {ta tw : Int} (h : s.loneOp cl .me iid (.work idx) later)
  (hins : f.ins = .meWin c w b wc ta tw) (hon : f.on = true)
include h hins hon

theorem runCycle_win (hclean : ((s.clu cl).me.buf b).dirty = false) :
    cycleLeaves s (runCycle s (spanOf cl)) cl { s.clu cl with me := (s.clu cl).me.setWin b wc ta tw } later := by
  have hstart : (((s.cycleStart (spanOf cl)).clu cl).me.buf b).dirty = false := by rw [(cycleLeaves_start h).2.1, hclean]
  have hwork := (workOp_me (flyOf_start hfly) (s.spn (spanOf cl)).cycle idx).trans (workMe_win _ _ _ _ hins hon)
  rw [hstart, if_neg Bool.false_ne_true] at hwork
  exact runCycle_work h hwork fun _ => rfl

/-- A window set on a dirty buffer spoils its entries, and raises 0x100D (R196). -/
theorem runCycle_win_dirty (hraised : f.raised = []) (hdirty : ((s.clu cl).me.buf b).dirty = true) :
    ((runCycle s (spanOf cl)).clu cl).me = ((s.clu cl).me.nanBuf b).setWin b wc ta tw ∧
      raisedOne s (runCycle s (spanOf cl)) 0x100D (spanOf cl) := by
  obtain ⟨hframe, hcl, -⟩ := cycleLeaves_start h
  have hme : ((s.cycleStart (spanOf cl)).clu cl).me = (s.clu cl).me := by rw [hcl]
  have hflt : (s.cycleStart (spanOf cl)).flt = s.flt := by rw [hframe]
  have hwork := (workOp_me (flyOf_start hfly) (s.spn (spanOf cl)).cycle idx).trans (workMe_win _ _ _ _ hins hon)
  rw [hme, if_pos hdirty] at hwork
  have hspoilt : ((s.cycleStart (spanOf cl)).updMe cl fun m => m.nanBuf b).flyOf cl iid = some f := by
    rw [← flyOf_start hfly, State.flyOf, State.updMe, State.clu_updClu, State.flyOf]
  obtain ⟨r, hr, hcode⟩ := raisedOne_unitRaise hspoilt hraised 0 0x100D
  rw [runCycle_of_lone h, ← State.acted, acted_work, hwork]
  refine ⟨?_, r, ?_, hcode⟩
  · rw [clu_cycleEnd, State.updMe, State.clu_updClu, me_unitRaise, State.updMe, State.clu_updClu, hme]
  · rw [flt_cycleEnd, State.updMe, State.updClu_flt, hr, State.updMe, State.updClu_flt, hflt]

end

end

/-- Settles O14: each piece of work as it is done alone in its cycle. -/
theorem workTakesEffectInItsCycle : Obligations.WorkTakesEffectInItsCycle := by
  unfold Obligations.WorkTakesEffectInItsCycle
  intro s cl iid f hfly k t k'
  refine ⟨?vu, ?set, ?imm, ?loads, ?clear, ?win⟩
  case vu =>
    intro i w d v hsole hins _ hnot hres
    subst hins
    have hlone := loneOp_of_soleWork hsole
    have hleaves := runCycle_vuWrites hfly hlone hnot hres
    refine ⟨fun x => (vreg_of_leaves hleaves x).trans ?_, ops_of_leaves hleaves, fly_runCycle hlone hleaves, mem_of_leaves hleaves⟩
    cases f.on with
    | false => rfl
    | true => exact vreg_setVreg k d x v
  case set =>
    intro a b mask inv hsole hins
    have hleaves := runCycle_set hfly (loneOp_of_soleWork hsole) hins
    refine ⟨fun i hi => ?_, (fs_of_leaves hleaves).trans rfl⟩
    rw [show k'.p = _ from p_of_leaves hleaves]
    exact getLsbD_flagSet _ _ _ _ hi
  case imm =>
    intro a b mask val hsole hins
    have hleaves := runCycle_imm hfly (loneOp_of_soleWork hsole) hins
    refine ⟨fun i hi => ?_, (fs_of_leaves hleaves).trans rfl⟩
    rw [show k'.p = _ from p_of_leaves hleaves]
    exact getLsbD_flagImm _ _ _ hi
  case loads =>
    intro a b line byte hsole hins
    have hleaves := runCycle_flagLoads hfly (loneOp_of_soleWork hsole) hins
    exact ⟨fs_of_leaves hleaves, (p_of_leaves hleaves).trans rfl⟩
  case clear =>
    intro a w b hsole hins hon
    rw [show k'.me = _ from me_of_leaves (runCycle_clear hfly (loneOp_of_soleWork hsole) hins hon)]
    refine ⟨fun r j hr => ?_, fun r j hr => ?_, Me.buf_setBuf ..⟩
    · exact (Me.entry_setBuf ..).trans (entry_zeroBuf _ b hr j)
    · exact (Me.entry_setBuf ..).trans (entry_zeroBuf_other _ b hr j)
  case win =>
    intro a w b wc ta tw hsole hins hon hraised
    have hlone := loneOp_of_soleWork hsole
    cases hdirty : (k.me.buf b).dirty with
    | false =>
      have hleaves := runCycle_win hfly hlone hins hon hdirty
      rw [show k'.me = _ from me_of_leaves hleaves, if_neg Bool.false_ne_true, Me.buf_setWin]
      exact ⟨rfl, rfl, rfl, Me.acc_setBuf .., flt_of_leaves hleaves⟩
    | true =>
      obtain ⟨hme, hfault⟩ := runCycle_win_dirty hfly hlone hins hon hraised hdirty
      rw [show k'.me = _ from hme, if_pos rfl, Me.buf_setWin]
      exact ⟨rfl, rfl, rfl, fun r j hr hj => (Me.entry_setBuf ..).trans (entry_nanBuf _ b hr hj), hfault⟩

end Sys2Proof.Machine

/-! ### Vector words: what they write and raise at their issue (R220) -/

namespace Sys2Proof.Machine

section
variable {i : Instr} {s : State} {cl : Nat} {w : Wd} (hpipe : pipelined i = true) (hwf : i.wf = true) (hunit : unitOf i = some (cl, .vu, w))
  (hissues : s.issues cl .vu = true)
include hpipe hwf hunit hissues

/-- A vector word that issues is in flight with the registers that it computes at its issue. -/
theorem vuMakes_of_issues {p : List (Nat × Vreg) → Prop} (hp : p (atIssue (s.clu cl) i).2.1) : vuMakes i s cl p := by
  obtain ⟨t, f, hexec, -, -, -, hfly, hins, -, -, -, hres, -⟩ := pipelinedWordsIssue i s cl .vu w hpipe hwf hunit hissues
  exact ⟨t, f, hexec, hfly, hins, hres ▸ hp⟩

theorem vuWrites_of_issues {vd : Nat} {v : Vreg} {r : Vreg → Prop} (hres : (atIssue (s.clu cl) i).2.1 = [(vd, v)]) (htag : v.tag = none)
    (hr : r v) : vuWrites i s cl vd r := by
  obtain ⟨t, f, hexec, hfly, hins, hmade⟩ := vuMakes_of_issues (p := (· = [(vd, v)])) hpipe hwf hunit hissues hres
  exact ⟨t, f, v, hexec, hfly, hins, hmade, htag, hr⟩

/-- The one code that a word finds at its issue is raised where its predicate holds (R168, R237, R240). -/
theorem raisedOne_of_issues {code : BitVec 16} (hhole : holeAddr cl i = none) (hcodes : (atIssue (s.clu cl) i).2.2 = [code])
    (hon : (s.clu cl).enabled w = true) : ∃ t, exec i s = .next t ∧ raisedOne s t code (spanOf cl) := by
  refine ⟨_, (exec_of_pipelined hpipe s).trans (issueWord_of_issues hwf hunit hissues), ?_⟩
  have hops := opsOf_ne_nil hpipe (formOk_of_wf hwf) hunit (((s.clu cl).stream .vu).issue w.delta) (posOf cl)
  have hon' : ((s.clu cl).setStream .vu (((s.clu cl).stream .vu).issued 1 (((s.clu cl).stream .vu).issue w.delta))).enabled w = true := hon
  rw [launch_of_work hops, clu_atIssueCycle, atIssue_setStream, hcodes, if_pos hon', List.foldl_cons, List.foldl_nil, ← clu_atIssueCycle]
  refine raisedOne_of_flt_eq ?_ (raisedOne_unitRaise (flyOf_entered ..) rfl _ _)
  rw [State.entered, State.noteHole, hhole]
  rfl

end

/-! ### Integer vector words (O10) -/

theorem lane_mapLanes (g : Nat → Lane → Lane → Lane → Lane) (a b c : Vreg) {i : Nat} (hi : i < 128) :
    (mapLanes g a b c).lane i = g i (a.lane i) (b.lane i) (c.lane i) := nth_map_range _ hi

/-- A bit of a selection of bits (R233). -/
theorem getLsbD_select (x y z : Lane) {j : Nat} (hj : j < 32) :
    ((x &&& z) ||| (y &&& ~~~z)).getLsbD j = if z.getLsbD j then x.getLsbD j else y.getLsbD j := by
  simp only [BitVec.getLsbD_or, BitVec.getLsbD_and, BitVec.getLsbD_not, hj, decide_true, Bool.true_and]
  cases z.getLsbD j <;> simp

/-- The lane that an index of VU.PERM takes: none for a negative one, else by bit 7 of the one register or the other (R235). -/
theorem lane_permV (a b c : Vreg) {i : Nat} (hi : i < 128) :
    (permV a b c).lane i = if 2 ^ 31 ≤ (b.lane i).toNat then 0
      else if (b.lane i).toNat / 128 % 2 = 1 then c.lane ((b.lane i).toNat % 128) else a.lane ((b.lane i).toNat % 128) := by
  have hlt := (b.lane i).isLt
  have hsign : (b.lane i).getLsbD 31 = decide (2 ^ 31 ≤ (b.lane i).toNat) := by
    rw [BitVec.getLsbD, Nat.testBit_eq_decide_div_mod_eq]
    exact decide_eq_decide.mpr (by omega)
  have hpick : (b.lane i).getLsbD 7 = decide ((b.lane i).toNat / 128 % 2 = 1) := Nat.testBit_eq_decide_div_mod_eq
  have hlane : (permV a b c).lane i =
      if (b.lane i).getLsbD 31 then 0 else (if (b.lane i).getLsbD 7 then c else a).lane ((b.lane i).toNat % 128) := nth_map_range _ hi
  rw [hlane, hsign, hpick]
  simp only [decide_eq_true_eq]
  split_ifs <;> rfl

/-- Settles O10: each word computes lane by lane from the registers at its issue. -/
theorem integerVectorResults : Obligations.IntegerVectorResults := by
  unfold Obligations.IntegerVectorResults
  intro s cl w vd va hissues k x b n
  refine ⟨fun o hwf => ?and, fun o hwf => ?or, fun o hwf => ?xor, fun o li neg hwf => ?iadd, fun o hwf => ?shl, fun o hwf => ?shr,
    fun o hwf => ?sar, fun vb vc hwf => ?sel, fun vb vc hwf => ?perm⟩
  case and | or | xor | iadd => exact vuWrites_of_issues rfl hwf rfl hissues rfl rfl fun i hi => lane_mapLanes _ _ _ _ hi
  case shl =>
    refine vuWrites_of_issues rfl hwf rfl hissues rfl rfl fun i hi => ?_
    rw [lane_mapLanes _ _ _ _ hi, BitVec.toNat_shiftLeft, Nat.shiftLeft_eq]
    rfl
  case shr =>
    refine vuWrites_of_issues rfl hwf rfl hissues rfl rfl fun i hi => ?_
    rw [lane_mapLanes _ _ _ _ hi, if_neg Bool.false_ne_true, BitVec.toNat_ushiftRight, Nat.shiftRight_eq_div_pow]
    rfl
  case sar =>
    refine vuWrites_of_issues rfl hwf rfl hissues rfl rfl fun i hi => ?_
    rw [lane_mapLanes _ _ _ _ hi, if_pos rfl, BitVec.toInt_sshiftRight, Int.shiftRight_eq_div_pow]
    rfl
  case sel =>
    refine vuWrites_of_issues rfl hwf rfl hissues rfl rfl fun i hi j hj => ?_
    rw [lane_mapLanes _ _ _ _ hi, getLsbD_select _ _ _ hj]
  case perm => exact vuWrites_of_issues rfl hwf rfl hissues rfl rfl fun i hi => lane_permV _ _ _ hi

end Sys2Proof.Machine

/-! ### Float vector words (O11) -/

namespace Sys2Proof.Machine

/-! #### Operations on lanes and halves (R231) -/

theorem nth_zipWith {α β : Type} {da : α} {db : β} (f : α → β → Nat) {l : List α} {m : List β} {i : Nat} (hl : i < l.length)
    (hm : i < m.length) :
    nth 0 (List.zipWith f l m) i = f (nth da l i) (nth db m i) := by
  simp [nth, List.getD_eq_getElem?_getD, hl, hm]

theorem nth_zipWith_zip (g : Nat → Nat → Nat → Nat) {a b c : List Nat} {i : Nat} (ha : i < a.length) (hb : i < b.length) (hc : i < c.length) :
    nth 0 (List.zipWith (fun x yz => g x yz.1 yz.2) a (List.zip b c)) i = g (nth 0 a i) (nth 0 b i) (nth 0 c i) := by
  have hzip : nth (0, 0) (List.zip b c) i = (nth 0 b i, nth 0 c i) := by simp [nth, List.getD_eq_getElem?_getD, List.zip, hb, hc]
  rw [nth_zipWith (da := 0) (db := (0, 0)) _ ha (by rw [List.length_zip]; omega), hzip]

theorem lane_mapFp (g : Nat → Nat → Nat → Nat) (a b c : Vreg) {i : Nat} (hi : i < 128) :
    ((mapFp .fp32 g a b c).lane i).toNat = g (a.lane i).toNat (b.lane i).toNat (c.lane i).toNat % 2 ^ 32 := by
  have hlt (v : Vreg) : i < v.nats.length := hi.trans_eq (length_nats v).symm
  rw [mapFp, lane_vregOf, BitVec.toNat_ofNat, nth_zipWith_zip g (hlt a) (hlt b) (hlt c), nth_nats a hi, nth_nats b hi, nth_nats c hi]

theorem half_mapFp (g : Nat → Nat → Nat → Nat) (a b c : Vreg) {i : Nat} (hi : i < 256) :
    (mapFp .bf16 g a b c).half i = g (a.half i) (b.half i) (c.half i) % 2 ^ 16 := by
  have hlt (v : Vreg) : i < v.halves.length := hi.trans_eq (length_halves v).symm
  rw [mapFp, half_vregOfHalves _ hi, nth_zipWith_zip g (hlt a) (hlt b) (hlt c), nth_halves a hi, nth_halves b hi, nth_halves c hi]

theorem half_lt (v : Vreg) (i : Nat) : v.half i < 2 ^ 16 := Nat.mod_lt _ (by decide)

/-! #### The order of decoded values (R141, R232) -/

/-- Where a decoded value stands among the extended rationals; both zeros stand at 0. -/
def Dec.ext (d : Dec) : WithBot (WithTop ℚ) :=
  match d.kind with
  | .inf => if d.s then ⊥ else ⊤
  | _ => ((d.val : WithTop ℚ) : WithBot (WithTop ℚ))

theorem Dec.sig_eq_val_mul (d : Dec) {e : Int} (h : e ≤ d.e) : (d.sig e : ℚ) = d.val * 2 ^ (-e) := by
  have hpow : (2 : ℚ) ^ d.e * 2 ^ (-e) = 2 ^ (d.e - e).toNat := by
    rw [← zpow_add₀ two_ne_zero, ← zpow_natCast, Int.toNat_of_nonneg (by omega), sub_eq_add_neg]
  rw [Dec.val, mul_assoc, hpow, Dec.sig]
  cases d.s <;> simp

theorem Dec.sig_lt_iff (a b : Dec) : a.sig (min a.e b.e) < b.sig (min a.e b.e) ↔ a.val < b.val := by
  rw [← Int.cast_lt (R := ℚ), a.sig_eq_val_mul (min_le_left ..), b.sig_eq_val_mul (min_le_right ..)]
  exact mul_lt_mul_iff_left₀ (by positivity)

theorem Dec.ext_of_inf {d : Dec} (h : d.kind = .inf) : d.ext = if d.s then ⊥ else ⊤ := by rw [Dec.ext, h]

theorem Dec.ext_of_not_inf {d : Dec} (h : d.kind = .inf → False) : d.ext = ((d.val : WithTop ℚ) : WithBot (WithTop ℚ)) := by
  unfold Dec.ext
  split
  case h_1 hinf => exact (h hinf).elim
  case h_2 => rfl

/-- The order of decoded values is that of where they stand. -/
theorem Dec.lt_iff (a b : Dec) : a.lt b = true ↔ a.ext < b.ext := by
  have hbelow (q : ℚ) : ((q : WithTop ℚ) : WithBot (WithTop ℚ)) < ⊤ := WithBot.coe_lt_coe.mpr (WithTop.coe_lt_top q)
  unfold Dec.lt
  split
  case h_1 ha hb =>
    rw [Dec.ext_of_inf ha, Dec.ext_of_inf hb]
    cases a.s <;> cases b.s <;> simp
  case h_2 ha hb =>
    rw [Dec.ext_of_inf ha, Dec.ext_of_not_inf hb]
    cases a.s <;> simp
  case h_3 hb ha =>
    rw [Dec.ext_of_not_inf ha, Dec.ext_of_inf hb]
    cases b.s <;> simp [hbelow]
  case h_4 ha hb _ =>
    rw [Dec.ext_of_not_inf ha, Dec.ext_of_not_inf hb, WithBot.coe_lt_coe, WithTop.coe_lt_coe, ← Dec.sig_lt_iff]
    exact decide_eq_true_iff

theorem Dec.lt_eq_false_iff (a b : Dec) : a.lt b = false ↔ b.ext ≤ a.ext := by
  rw [← not_lt, ← Dec.lt_iff, Bool.not_eq_true]

/-! #### Minimum and maximum (R141) -/

/-- What VU.MIN and VU.MAX pick of two operands that are no NaN, and where the picked one stands. -/
theorem minmax_pick {f : FF} {isMax : Bool} {a b : Nat} (hnan : ((f.decode a).isNan || (f.decode b).isNan) = false) :
    let x := f.decode a
    let y := f.decode b
    (x.ext < y.ext → f.minmax isMax a b = if isMax then b else a) ∧ (y.ext < x.ext → f.minmax isMax a b = if isMax then a else b) ∧
      (x.ext = y.ext → f.minmax isMax a b = if x.s != isMax then a else b) := by
  intro x y
  simp only [FF.minmax, hnan, Bool.false_eq_true, if_false, Dec.lt_iff]
  refine ⟨fun hlt => ?_, fun hgt => ?_, fun heq => ?_⟩
  · rw [if_pos hlt]
    cases isMax <;> rfl
  · rw [if_neg hgt.not_gt, if_pos hgt]
    cases isMax <;> rfl
  · rw [if_neg heq.not_lt, if_neg heq.not_gt]

theorem minmaxOk_minmax (f : FF) (isMax : Bool) (a b : Nat) : minmaxOk f isMax a b (f.minmax isMax a b) := by
  unfold minmaxOk
  cases hnan : (f.decode a).isNan || (f.decode b).isNan with
  | true =>
    rw [FF.minmax]
    simp only [hnan, if_true]
  | false =>
    simp only [Bool.false_eq_true, if_false, List.forall_mem_cons, List.not_mem_nil, IsEmpty.forall_iff, implies_true, and_true, hnan]
    obtain ⟨hlt, hgt, heq⟩ := minmax_pick (isMax := isMax) hnan
    rcases lt_trichotomy (f.decode a).ext (f.decode b).ext with h | h | h
    · rw [hlt h]
      cases isMax <;> simp [Dec.lt_eq_false_iff, h.le, h.not_ge]
    · rw [heq h]
      cases isMax <;> cases hs : (f.decode a).s <;> simp [Dec.lt_eq_false_iff, h, hs]
    · rw [hgt h]
      cases isMax <;> simp [Dec.lt_eq_false_iff, h.le, h.not_ge]

theorem minmax_lt {f : FF} {n : Nat} (hnan : f.nan < n) (isMax : Bool) {a b : Nat} (ha : a < n) (hb : b < n) : f.minmax isMax a b < n := by
  unfold FF.minmax
  dsimp only
  split_ifs <;> assumption

/-- VU.MIN or VU.MAX on every element of a register (R141). -/
theorem minmaxOk_lane (isMax : Bool) (a b : Vreg) {i : Nat} (hi : i < 128) :
    minmaxOk .fp32 isMax (a.lane i).toNat (b.lane i).toNat ((minmaxV .fp32 isMax a b).lane i).toNat := by
  rw [minmaxV, lane_mapFp _ _ _ _ hi, Nat.mod_eq_of_lt (minmax_lt (by decide) _ (a.lane i).isLt (b.lane i).isLt)]
  exact minmaxOk_minmax ..

theorem minmaxOk_half (isMax : Bool) (a b : Vreg) {i : Nat} (hi : i < 256) :
    minmaxOk .bf16 isMax (a.half i) (b.half i) ((minmaxV .bf16 isMax a b).half i) := by
  rw [minmaxV, half_mapFp _ _ _ _ hi, Nat.mod_eq_of_lt (minmax_lt (by decide) _ (half_lt ..) (half_lt ..))]
  exact minmaxOk_minmax ..

theorem toInt_lane_min (a b : Vreg) {i : Nat} (hi : i < 128) : ((minmaxV .s32 false a b).lane i).toInt = min (a.lane i).toInt (b.lane i).toInt := by
  rw [minmaxV, lane_mapLanes _ _ _ _ hi]
  simp only [Bool.bne_false, BitVec.slt_iff_toInt_lt]
  split_ifs <;> omega

theorem toInt_lane_max (a b : Vreg) {i : Nat} (hi : i < 128) : ((minmaxV .s32 true a b).lane i).toInt = max (a.lane i).toInt (b.lane i).toInt := by
  rw [minmaxV, lane_mapLanes _ _ _ _ hi]
  simp only [Bool.bne_true, Bool.not_eq_true', ← Bool.not_eq_true, BitVec.slt_iff_toInt_lt]
  split_ifs <;> omega

/-! #### Comparison (R232) -/

theorem lane_cmpV_fp32 (c : Cond) (a b : Vreg) {i : Nat} (hi : i < 128) :
    (cmpV .fp32 c a b).lane i = if FF.fp32.cmp c (a.lane i).toNat (b.lane i).toNat then BitVec.allOnes 32 else 0 := by
  apply BitVec.eq_of_toNat_eq
  rw [cmpV, lane_mapFp _ _ _ _ hi]
  split_ifs <;> rfl

theorem half_cmpV_bf16 (c : Cond) (a b : Vreg) {i : Nat} (hi : i < 256) :
    (cmpV .bf16 c a b).half i = if FF.bf16.cmp c (a.half i) (b.half i) then 0xFFFF else 0 := by
  rw [cmpV, half_mapFp _ _ _ _ hi]
  split_ifs <;> rfl

/-- Settles O11: each word works on its elements one by one, with the operation of R140, R141 or R232. The word checks ask the same of every
word of two operands, so that of VU.ADD serves them all. -/
theorem floatVectorResults : Obligations.FloatVectorResults := by
  unfold Obligations.FloatVectorResults
  intro s cl w vd va vb vc hissues k n z d h f32 b16
  refine ⟨fun hwf => ⟨?add32, ?add16, ?sub32, ?sub16, ?mul32, ?mul16, ?minmax32, ?minmax16, ?minS, ?maxS, fun c => ?cmpS, fun c => ?cmp32,
    fun c => ?cmp16⟩, fun hwf => ⟨?fma32, ?fma16⟩⟩
  case add32 | sub32 | mul32 | fma32 => exact vuWrites_of_issues rfl (by exact hwf) rfl hissues rfl rfl fun i hi => lane_mapFp _ _ _ _ hi
  case add16 | sub16 | mul16 | fma16 => exact vuWrites_of_issues rfl (by exact hwf) rfl hissues rfl rfl fun i hi => half_mapFp _ _ _ _ hi
  case minmax32 =>
    simp only [List.mem_cons, Prod.mk.injEq, List.not_mem_nil, or_false]
    rintro g i (⟨rfl, rfl⟩ | ⟨rfl, rfl⟩)
    all_goals exact vuWrites_of_issues rfl (by exact hwf) rfl hissues rfl rfl fun x hx => minmaxOk_lane _ _ _ hx
  case minmax16 =>
    simp only [List.mem_cons, Prod.mk.injEq, List.not_mem_nil, or_false]
    rintro g i (⟨rfl, rfl⟩ | ⟨rfl, rfl⟩)
    all_goals exact vuWrites_of_issues rfl (by exact hwf) rfl hissues rfl rfl fun x hx => minmaxOk_half _ _ _ hx
  case minS => exact vuWrites_of_issues rfl (by exact hwf) rfl hissues rfl rfl fun x hx => toInt_lane_min _ _ hx
  case maxS => exact vuWrites_of_issues rfl (by exact hwf) rfl hissues rfl rfl fun x hx => toInt_lane_max _ _ hx
  case cmpS => exact vuWrites_of_issues rfl (by exact hwf) rfl hissues rfl rfl fun x hx => lane_mapLanes _ _ _ _ hx
  case cmp32 => exact vuWrites_of_issues rfl (by exact hwf) rfl hissues rfl rfl fun x hx => lane_cmpV_fp32 _ _ _ hx
  case cmp16 => exact vuWrites_of_issues rfl (by exact hwf) rfl hissues rfl rfl fun x hx => half_cmpV_bf16 _ _ _ hx

end Sys2Proof.Machine

/-! ### Packed elements (R129, R218, R219) -/

namespace Sys2Proof.Machine

/-! #### Elements of a number -/

/-- Element `i` of a number that packs elements of `b` bits, the lowest first. -/
def elemAt (b n i : Nat) : Nat := n / 2 ^ (b * i) % 2 ^ b

theorem elemAt_lt (b n i : Nat) : elemAt b n i < 2 ^ b := Nat.mod_lt _ (Nat.two_pow_pos b)

@[simp] theorem elemAt_zero_num (b i : Nat) : elemAt b 0 i = 0 := by rw [elemAt, Nat.zero_div, Nat.zero_mod]

theorem elemAt_zero_index (b n : Nat) : elemAt b n 0 = n % 2 ^ b := by rw [elemAt, Nat.mul_zero, Nat.pow_zero, Nat.div_one]

/-- Bits `q` to `q + b − 1` of a number are those of its low part that holds them. -/
theorem mod_div_mod_two_pow {q b m : Nat} (h : q + b ≤ m) (n : Nat) : n % 2 ^ m / 2 ^ q % 2 ^ b = n / 2 ^ q % 2 ^ b := by
  rw [show m = q + (m - q) by omega, Nat.pow_add, Nat.mod_mul_right_div_self, Nat.mod_mod_of_dvd _ (Nat.pow_dvd_pow 2 (by omega))]

theorem elemAt_mod {b n i m : Nat} (hi : i < m) : elemAt b (n % 2 ^ (b * m)) i = elemAt b n i :=
  mod_div_mod_two_pow (by have := Nat.mul_le_mul_left b hi; rwa [Nat.mul_succ] at this) n

/-- Elements of elements. -/
theorem elemAt_elemAt {b c n j k : Nat} (hk : k < c) : elemAt b (elemAt (b * c) n j) k = elemAt b n (c * j + k) := by
  rw [elemAt, elemAt, mod_div_mod_two_pow (by have := Nat.mul_le_mul_left b hk; rwa [Nat.mul_succ] at this), Nat.div_div_eq_div_mul,
    ← Nat.pow_add, Nat.mul_assoc, ← Nat.mul_add, elemAt]

/-- Elements of a number put above another of `p` elements. -/
theorem elemAt_add {b p x : Nat} (hx : x < 2 ^ (b * p)) (y i : Nat) :
    elemAt b (x + 2 ^ (b * p) * y) i = if i < p then elemAt b x i else elemAt b y (i - p) := by
  split
  case isTrue h =>
    rw [← elemAt_mod h, Nat.add_mul_mod_self_left, Nat.mod_eq_of_lt hx]
  case isFalse h =>
    rw [elemAt, show b * i = b * p + b * (i - p) by rw [← Nat.mul_add, Nat.add_sub_cancel' (by omega)], Nat.pow_add, ← Nat.div_div_eq_div_mul,
      Nat.add_mul_div_left _ _ (Nat.two_pow_pos _), Nat.div_eq_of_lt hx, Nat.zero_add, elemAt]

theorem elemAt_div (b n p i : Nat) : elemAt b (n / 2 ^ (b * p)) i = elemAt b n (p + i) := by
  rw [elemAt, Nat.div_div_eq_div_mul, ← Nat.pow_add, ← Nat.mul_add, elemAt]

/-- Numbers of the same `n` elements agree in their low `n` elements. -/
theorem mod_eq_of_elemAt_eq {b n x y : Nat} (h : ∀ i, i < n → elemAt b x i = elemAt b y i) : x % 2 ^ (b * n) = y % 2 ^ (b * n) := by
  induction n with
  | zero => simp only [Nat.mul_zero, Nat.pow_zero, Nat.mod_one]
  | succ n ih =>
    have hlast : x / 2 ^ (b * n) % 2 ^ b = y / 2 ^ (b * n) % 2 ^ b := h n (Nat.lt_succ_self n)
    rw [Nat.mul_succ, Nat.pow_add, Nat.mod_mul, Nat.mod_mul, ih fun i hi => h i (by omega), hlast]

/-! #### Byte strings as numbers -/

theorem pow_256 (k : Nat) : 256 ^ k = 2 ^ (8 * k) := (Nat.pow_mul 2 8 k).symm

theorem leNat_lt_two_pow (l : List Byte) : leNat l < 2 ^ (8 * l.length) := pow_256 l.length ▸ leNat_lt l

theorem leNat_append (a b : List Byte) : leNat (a ++ b) = leNat a + 2 ^ (8 * a.length) * leNat b := by
  rw [← pow_256]
  induction a with
  | nil => simp [leNat]
  | cons x r ih => rw [List.cons_append, leNat, ih, leNat, List.length_cons, Nat.pow_succ]; ring

theorem leNat_drop (l : List Byte) (o : Nat) : leNat (l.drop o) = leNat l / 2 ^ (8 * o) := by
  rw [← pow_256]
  induction o generalizing l with
  | zero => rw [List.drop_zero, Nat.pow_zero, Nat.div_one]
  | succ o ih =>
    cases l with
    | nil => rw [List.drop_nil, leNat, Nat.zero_div]
    | cons x r =>
      have hx := x.isLt
      rw [List.drop_succ_cons, ih, leNat, Nat.pow_succ', ← Nat.div_div_eq_div_mul, show (x.toNat + 256 * leNat r) / 256 = leNat r by omega]

theorem leNat_take (l : List Byte) (n : Nat) : leNat (l.take n) = leNat l % 2 ^ (8 * n) := by
  rw [← pow_256]
  induction n generalizing l with
  | zero => rw [List.take_zero, Nat.pow_zero, Nat.mod_one, leNat]
  | succ n ih =>
    cases l with
    | nil => rw [List.take_nil, leNat, Nat.zero_mod]
    | cons x r =>
      have hx := x.isLt
      rw [List.take_succ_cons, leNat, ih, leNat, Nat.pow_succ', Nat.mod_mul, show (x.toNat + 256 * leNat r) % 256 = x.toNat by omega,
        show (x.toNat + 256 * leNat r) / 256 = leNat r by omega]

theorem leAt_eq (l : List Byte) (o n : Nat) : leAt l o n = leNat l / 2 ^ (8 * o) % 2 ^ (8 * n) := by
  rw [leAt, slice, leNat_take, leNat_drop]

/-- Field `i` of `k` bytes each. -/
theorem leAt_mul (l : List Byte) (k i : Nat) : leAt l (k * i) k = elemAt (8 * k) (leNat l) i := by
  rw [leAt_eq, ← Nat.mul_assoc, elemAt]

theorem toNat_nth (l : List Byte) (i : Nat) : (nth 0 l i).toNat = elemAt 8 (leNat l) i := by
  induction l generalizing i with
  | nil => rw [leNat, elemAt_zero_num]; rfl
  | cons x r ih =>
    rw [leNat, show 256 = 2 ^ (8 * 1) from rfl, elemAt_add x.isLt]
    cases i with
    | zero => rw [if_pos Nat.one_pos, elemAt_zero_index]; exact (Nat.mod_eq_of_lt x.isLt).symm
    | succ i => exact ih i

/-- A packed element as the stream of its bytes gives it (R129). -/
theorem elemCode_eq {b : Nat} (hb : b ≤ 25) (l : List Byte) (i : Nat) : elemCode b l i = elemAt b (leNat l) i := by
  rw [elemCode, leAt_eq, mod_div_mod_two_pow (by omega), Nat.div_div_eq_div_mul, ← Nat.pow_add, Nat.div_add_mod, Nat.mul_comm, elemAt]

/-- The elements of pieces of equal length, one after another. -/
theorem elemAt_flatMap {α : Type} {f : α → List Byte} {b c k : Nat} (hk : 8 * k = b * c) {l : List α}
    (hf : ∀ x ∈ l, (f x).length = k) (d : α) {i : Nat} (hi : i < c * l.length) :
    elemAt b (leNat (l.flatMap f)) i = elemAt b (leNat (f (nth d l (i / c)))) (i % c) := by
  induction l generalizing i with
  | nil => exact absurd hi (by simp)
  | cons x r ih =>
    have hlen := hf x List.mem_cons_self
    have hx : leNat (f x) < 2 ^ (b * c) := by rw [← hk, ← hlen]; exact leNat_lt_two_pow _
    rw [List.flatMap_cons, leNat_append, hlen, hk, elemAt_add hx]
    split
    case isTrue h => rw [Nat.div_eq_of_lt h, Nat.mod_eq_of_lt h]; rfl
    case isFalse h =>
      rw [List.length_cons, Nat.mul_succ] at hi
      have hsub : i = (i - c) + c := by omega
      have hc : 0 < c := by
        rcases Nat.eq_zero_or_pos c with rfl | hc
        · omega
        · exact hc
      rw [ih (fun y hy => hf y (List.mem_cons_of_mem x hy)) (by omega)]
      conv_rhs => rw [hsub, Nat.add_div_right _ hc, Nat.add_mod_right]
      rfl

theorem elemAt_flatMap_leBytes (g : Nat → Nat) (k : Nat) {n i : Nat} (hi : i < n) :
    elemAt (8 * k) (leNat ((List.range n).flatMap fun j => leBytes (g j) k)) i = g i % 2 ^ (8 * k) := by
  rw [elemAt_flatMap (c := 1) (k := k) (by omega) (fun x _ => leBytes_length _ _) 0 (by rw [List.length_range]; omega), Nat.div_one, Nat.mod_one,
    elemAt_zero_index, leNat_leBytes, pow_256, Nat.mod_mod]
  congr 2
  simp [nth, List.getD_eq_getElem?_getD, hi]

/-- The number whose elements are the codes of a list, lowest first. -/
theorem elemAt_foldr (b : Nat) (cs : List Nat) (i : Nat) :
    elemAt b (cs.foldr (fun c acc => c % 2 ^ b + 2 ^ b * acc) 0) i = nth 0 cs i % 2 ^ b := by
  induction cs generalizing i with
  | nil => exact elemAt_zero_num b i
  | cons c r ih =>
    have hadd := elemAt_add (b := b) (p := 1) (x := c % 2 ^ b) (by rw [Nat.mul_one]; exact Nat.mod_lt _ (Nat.two_pow_pos b))
    rw [Nat.mul_one] at hadd
    rw [List.foldr_cons, hadd]
    cases i with
    | zero => rw [if_pos Nat.one_pos, elemAt_zero_index, Nat.mod_mod]; rfl
    | succ i => exact ih i

theorem length_packCodes (b : Nat) (cs : List Nat) : (packCodes b cs).length = cs.length * b / 8 := leBytes_length ..

theorem elemAt_packCodes {b k : Nat} {cs : List Nat} (hk : 8 * k = b * cs.length) {i : Nat} (hi : i < cs.length) :
    elemAt b (leNat (packCodes b cs)) i = nth 0 cs i % 2 ^ b := by
  rw [packCodes, leNat_leBytes, pow_256, show 8 * (cs.length * b / 8) = b * cs.length by rw [Nat.mul_comm cs.length]; omega, elemAt_mod hi,
    elemAt_foldr]

/-- The elements of a byte string in which some bytes are replaced, at an element's boundary (R236, R239). -/
theorem elemAt_mergeBytes {b p c o : Nat} {old new : List Byte} (ho : 8 * o = b * p) (hn : 8 * new.length = b * c)
    (hfit : o + new.length ≤ old.length) (i : Nat) :
    elemAt b (leNat (mergeBytes old new o)) i = if p ≤ i ∧ i < p + c then elemAt b (leNat new) (i - p) else elemAt b (leNat old) i := by
  have hlow : leNat (old.take o) < 2 ^ (b * p) := by rw [leNat_take, ho]; exact Nat.mod_lt _ (Nat.two_pow_pos _)
  have hnew : leNat new < 2 ^ (b * c) := hn ▸ leNat_lt_two_pow new
  have hend : 8 * (o + new.length) = b * (p + c) := by rw [Nat.mul_add, ho, hn, Nat.mul_add]
  rw [mergeBytes, List.append_assoc, leNat_append, leNat_append, List.length_take_of_le (by omega), leNat_drop, ho, hn, hend, elemAt_add hlow,
    elemAt_add hnew, elemAt_div, leNat_take, ho]
  rcases Nat.lt_or_ge i p with h | h
  · rw [if_pos h, if_neg (by omega), elemAt_mod h]
  · rw [if_neg (by omega)]
    rcases Nat.lt_or_ge i (p + c) with h' | h'
    · rw [if_pos (by omega), if_pos ⟨h, h'⟩]
    · rw [if_neg (by omega), if_neg (by omega), show p + c + (i - p - c) = i by omega]

theorem length_mergeBytes {o : Nat} {old new : List Byte} (hfit : o + new.length ≤ old.length) :
    (mergeBytes old new o).length = old.length := by
  rw [mergeBytes, List.length_append, List.length_append, List.length_take, List.length_drop]
  omega

/-! #### Registers as numbers -/

/-- A register as one number, byte 0 the least significant. -/
def Vreg.num (v : Vreg) : Nat := leNat v.bytes

theorem bytes_eq_flatMap (v : Vreg) : v.bytes = (List.range 128).flatMap fun i => leBytes (v.lane i).toNat 4 := List.flatMap_map ..

theorem length_bytes (v : Vreg) : v.bytes.length = 512 := by
  rw [bytes_eq_flatMap, List.length_flatMap]
  simp only [leBytes_length, List.map_const', List.sum_replicate, List.length_range]
  rfl

theorem num_lt (v : Vreg) : v.num < 2 ^ (32 * 128) := by
  rw [show 32 * 128 = 8 * 512 from rfl, ← length_bytes v]
  exact leNat_lt_two_pow v.bytes

theorem toNat_lane (v : Vreg) {i : Nat} (hi : i < 128) : (v.lane i).toNat = elemAt 32 v.num i := by
  rw [Vreg.num, bytes_eq_flatMap]
  exact ((elemAt_flatMap_leBytes (fun j => (v.lane j).toNat) 4 hi).trans (Nat.mod_eq_of_lt (v.lane i).isLt)).symm

theorem half_eq (v : Vreg) {i : Nat} (hi : i < 256) : v.half i = elemAt 16 v.num i := by
  rw [Vreg.half, toNat_lane v (by omega)]
  exact (elemAt_elemAt (b := 16) (c := 2) (Nat.mod_lt i two_pos)).trans (by rw [Nat.div_add_mod])

theorem byte_eq (v : Vreg) {i : Nat} (hi : i < 512) : v.byte i = elemAt 8 v.num i := by
  rw [Vreg.byte, toNat_lane v (by omega)]
  exact (elemAt_elemAt (b := 8) (c := 4) (Nat.mod_lt i four_pos)).trans (by rw [Nat.div_add_mod])

/-- Half a byte of a register. -/
theorem nibble_eq (v : Vreg) {i : Nat} (hi : i < 1024) : v.byte (i / 2) / 16 ^ (i % 2) % 16 = elemAt 4 v.num i := by
  rw [byte_eq v (by omega), show 16 = 2 ^ 4 from rfl, ← Nat.pow_mul]
  exact (elemAt_elemAt (b := 4) (c := 2) (Nat.mod_lt i two_pos)).trans (by rw [Nat.div_add_mod])

theorem toNat_fw (v : Vreg) (q : Nat) : (v.fw q).toNat = elemAt 128 v.num q := by
  rw [Vreg.fw, BitVec.toNat_ofNat, leAt_mul]
  exact Nat.mod_eq_of_lt (elemAt_lt ..)

theorem num_vregOfBytes {l : List Byte} (hl : l.length ≤ 512) : (vregOfBytes l).num = leNat l := by
  have hlane : ∀ i, i < 128 → elemAt 32 (vregOfBytes l).num i = elemAt 32 (leNat l) i := fun i hi => by
    rw [← toNat_lane _ hi, vregOfBytes, lane_vregOf, nth_map_range _ hi, leAt_mul, BitVec.toNat_ofNat]
    exact Nat.mod_eq_of_lt (elemAt_lt ..)
  have hbits : 8 * l.length ≤ 32 * 128 := by omega
  have hlt : leNat l < 2 ^ (32 * 128) := by
    refine (leNat_lt_two_pow l).trans_le ?_
    gcongr
    exact one_le_two
  rw [← Nat.mod_eq_of_lt (num_lt (vregOfBytes l)), mod_eq_of_elemAt_eq hlane, Nat.mod_eq_of_lt hlt]

/-- The elements of a register in which some bytes are replaced (R236, R239). -/
theorem elemAt_num_merge {b p c o : Nat} {new : List Byte} (d : Vreg) (ho : 8 * o = b * p) (hn : 8 * new.length = b * c)
    (hfit : o + new.length ≤ 512) (i : Nat) :
    elemAt b (vregOfBytes (mergeBytes d.bytes new o)).num i = if p ≤ i ∧ i < p + c then elemAt b (leNat new) (i - p) else elemAt b d.num i := by
  have hfit' := hfit.trans_eq (length_bytes d).symm
  rw [num_vregOfBytes (by rw [length_mergeBytes hfit', length_bytes]), elemAt_mergeBytes ho hn hfit', Vreg.num]

end Sys2Proof.Machine

/-! ### Conversions (O13: R236, R237) -/

namespace Sys2Proof.Machine

/-! #### Lists over a range -/

theorem slice_map_range {α : Type} (f : Nat → α) {n k m : Nat} (h : k + m ≤ n) :
    (((List.range n).map f).drop k).take m = (List.range m).map fun j => f (k + j) := by
  apply List.ext_getElem
  · rw [List.length_take, List.length_drop, List.length_map, List.length_map, List.length_range, List.length_range]
    omega
  · intro i hi hi'
    simp

theorem halves_eq_map (v : Vreg) : v.halves = (List.range 256).map v.half := by
  apply List.ext_getElem
  · rw [length_halves, List.length_map, List.length_range]
  · intro i hi hi'
    have hget := nth_halves v (hi.trans_eq (length_halves v))
    rw [nth, List.getD_eq_getElem _ _ hi] at hget
    rw [hget, List.getElem_map, List.getElem_range]

/-! #### Integers in words (R126, R139) -/

theorem toNat_lane_vregOf (l : List Nat) (i : Nat) : ((vregOf l).lane i).toNat = nth 0 l i % 2 ^ 32 := by
  rw [lane_vregOf, BitVec.toNat_ofNat]

theorem lane_vregOf_nats (g : Nat → Nat) (a : Vreg) {i : Nat} (hi : i < 128) :
    (vregOf (a.nats.map g)).lane i = BitVec.ofNat 32 (g (a.lane i).toNat) := by
  rw [lane_vregOf, nth_map_of_lt _ (hi.trans_eq (length_nats a).symm), nth_nats a hi]

theorem toNat_lane_vregOf_range (g : Nat → Nat) {i : Nat} (hi : i < 128) :
    ((vregOf ((List.range 128).map g)).lane i).toNat = g i % 2 ^ 32 := by
  rw [toNat_lane_vregOf, nth_map_range _ hi]

theorem signed_toNat (x : Lane) : signed x.toNat 32 = x.toInt := by
  rw [signed, BitVec.toInt_eq_toNat_cond]
  split_ifs <;> omega

theorem intOfDec_bounds {len : Nat} (d : Dec) : -(2 ^ (len - 1)) ≤ intOfDec len d ∧ intOfDec len d ≤ 2 ^ (len - 1) - 1 := by
  have hpos : (0 : Int) < 2 ^ (len - 1) := by positivity
  unfold intOfDec satInt
  split
  case h_1 => omega
  case h_2 => split <;> omega
  case h_3 => exact ⟨le_max_left .., max_le (by omega) (min_le_right ..)⟩

theorem ofNat_emod (v : Int) : BitVec.ofNat 32 (v % 2 ^ 32).toNat = BitVec.ofInt 32 v := by
  apply BitVec.eq_of_toNat_eq
  rw [BitVec.toNat_ofNat, BitVec.toNat_ofInt]
  omega

/-! #### Bytes of a register -/

theorem leAt_byte (v : Vreg) {x : Nat} (hx : x < 512) : leAt v.bytes x 1 = v.byte x := by
  have h := leAt_mul v.bytes 1 x
  rw [Nat.one_mul] at h
  rw [h, byte_eq v hx, Vreg.num]

theorem elemCode_nibble (v : Vreg) {pos i : Nat} (hpos : pos ≤ 7) (hi : i < 128) :
    elemCode 4 (slice v.bytes (64 * pos) 64) i = v.byte ((128 * pos + i) / 2) / 16 ^ ((128 * pos + i) % 2) % 16 := by
  rw [elemCode_eq (by omega), slice, leNat_take, leNat_drop, show 8 * 64 = 4 * 128 from rfl, elemAt_mod hi,
    show 8 * (64 * pos) = 4 * (128 * pos) by omega, elemAt_div, nibble_eq v (by omega), Vreg.num]

section
variable (a d : Vreg) {pos : Nat}

/-- A quarter of a register's bytes replaced by a byte from each lane (R236). -/
theorem byte_narrow (g : Nat → Byte) (hpos : pos ≤ 3) {i : Nat} (hi : i < 512) :
    (vregOfBytes (mergeBytes d.bytes (a.nats.map g) (128 * pos))).byte i =
      if 128 * pos ≤ i ∧ i < 128 * pos + 128 then (g (a.lane (i - 128 * pos)).toNat).toNat else d.byte i := by
  have hlen : (a.nats.map g).length = 128 := by rw [List.length_map, length_nats]
  rw [byte_eq _ hi, elemAt_num_merge (p := 128 * pos) (c := 128) d rfl (by rw [hlen]) (by rw [hlen]; omega), ← toNat_nth, byte_eq d hi]
  split
  case isTrue h => rw [nth_map_of_lt (d := 0) _ (by rw [length_nats]; omega), nth_nats a (by omega)]
  case isFalse => rfl

/-- An eighth of a register replaced by half a byte from each lane (R236). -/
theorem nibble_narrow (g : Nat → Nat) (hpos : pos ≤ 7) {i : Nat} (hi : i < 1024) :
    (vregOfBytes (mergeBytes d.bytes (packCodes 4 (a.nats.map g)) (64 * pos))).byte (i / 2) / 16 ^ (i % 2) % 16 =
      if 128 * pos ≤ i ∧ i < 128 * pos + 128 then g (a.lane (i - 128 * pos)).toNat % 16 else d.byte (i / 2) / 16 ^ (i % 2) % 16 := by
  have hlen : (a.nats.map g).length = 128 := by rw [List.length_map, length_nats]
  have hbytes : (packCodes 4 (a.nats.map g)).length = 64 := by rw [length_packCodes, hlen]
  rw [nibble_eq _ hi, elemAt_num_merge (p := 128 * pos) (c := 128) d (by omega) (by rw [hbytes]) (by rw [hbytes]; omega), nibble_eq d hi]
  split
  case isTrue h =>
    rw [elemAt_packCodes (k := 64) (by rw [hlen]) (by rw [hlen]; omega), nth_map_of_lt (d := 0) _ (by rw [length_nats]; omega),
      nth_nats a (by omega)]
    rfl
  case isFalse => rfl

/-- Elements of `k` bytes, 32 of them, put into a register (R237). -/
theorem elemAt_spread (g : Nat → Nat) {k : Nat} (hfit : 32 * k * pos + 32 * k ≤ 512) (i : Nat) :
    elemAt (8 * k) (vregOfBytes (mergeBytes d.bytes ((List.range 32).flatMap fun r => leBytes (g r) k) (32 * k * pos))).num i =
      if 32 * pos ≤ i ∧ i < 32 * pos + 32 then g (i - 32 * pos) % 2 ^ (8 * k) else elemAt (8 * k) d.num i := by
  have hlen : ((List.range 32).flatMap fun r => leBytes (g r) k).length = 32 * k := by
    rw [List.length_flatMap]
    simp only [leBytes_length, List.map_const', List.sum_replicate, List.length_range, smul_eq_mul]
  rw [elemAt_num_merge (p := 32 * pos) (c := 32) d (by ring) (by rw [hlen]; ring) (by rw [hlen]; exact hfit)]
  split
  case isTrue h => rw [elemAt_flatMap_leBytes g k (by omega)]
  case isFalse => rfl

end

/-! #### The modes -/

section
variable (h : Bool) (t : Int) {pos : Nat} (a b d : Vreg)

theorem tag_cvtV (mode pos : Nat) : (cvtV mode h t pos a b d).1.tag = none := by
  unfold cvtV
  split
  case h_13 => dsimp only; split <;> rfl
  all_goals rfl

/-- Conversions of FW128 values raise 0x100D where there is no window (R237). -/
theorem snd_cvtV_fw {mode : Nat} (hmode : mode = 12 ∨ mode = 13) (pos : Nat) : (cvtV mode h t pos a b d).2 = a.tag.isNone := by
  rcases hmode with rfl | rfl <;> rfl

theorem half_cvtV_0 {i : Nat} (hi : i < 256) : (cvtV 0 h t pos a b d).1.half i =
    FF.bf16.ofDec (FF.fp32.decode (if i < 128 then (a.lane i).toNat else (b.lane (i - 128)).toNat)) % 2 ^ 16 := by
  have hsrc : nth 0 (a.nats ++ b.nats) i = if i < 128 then (a.lane i).toNat else (b.lane (i - 128)).toNat := by
    split
    case isTrue h => rw [nth_append_left (by rw [length_nats]; exact h), nth_nats a h]
    case isFalse h => rw [nth_append_right (by rw [length_nats]; omega), length_nats, nth_nats b (by omega)]
  rw [cvtV, half_vregOfHalves _ hi, nth_map_of_lt (d := 0) _ (by rw [List.length_append, length_nats, length_nats]; exact hi), hsrc]

theorem lane_cvtV_1 {i : Nat} (hi : i < 128) : ((cvtV 1 h t pos a b d).1.lane i).toNat =
    FF.fp32.ofDec (FF.bf16.decode (a.half ((if h then 128 else 0) + i))) % 2 ^ 32 := by
  rw [cvtV, toNat_lane_vregOf_range _ hi, nth_halves a (by split <;> omega)]

theorem byte_cvtV_2 (hpos : pos ≤ 3) {i : Nat} (hi : i < 512) : (cvtV 2 h t pos a b d).1.byte i =
    if 128 * pos ≤ i ∧ i < 128 * pos + 128 then FF.e4m3.ofDec ((FF.fp32.decode (a.lane (i - 128 * pos)).toNat).scale (-t)) % 256
    else d.byte i := byte_narrow a d _ hpos hi

theorem byte_cvtV_3 (hpos : pos ≤ 3) {i : Nat} (hi : i < 512) : (cvtV 3 h t pos a b d).1.byte i =
    if 128 * pos ≤ i ∧ i < 128 * pos + 128 then FF.e5m2.ofDec ((FF.fp32.decode (a.lane (i - 128 * pos)).toNat).scale (-t)) % 256
    else d.byte i := byte_narrow a d _ hpos hi

theorem byte_cvtV_4 (hpos : pos ≤ 3) {i : Nat} (hi : i < 512) : (cvtV 4 h t pos a b d).1.byte i =
    if 128 * pos ≤ i ∧ i < 128 * pos + 128 then (intOfDec 8 ((FF.fp32.decode (a.lane (i - 128 * pos)).toNat).scale (-t)) % 256).toNat % 256
    else d.byte i := by
  have hbyte (v : Int) : (BitVec.ofInt 8 v).toNat = (v % 256).toNat % 256 := by
    rw [BitVec.toNat_ofInt]
    omega
  rw [cvtV, byte_narrow a d _ hpos hi, hbyte]

theorem nibble_cvtV_5 (hpos : pos ≤ 7) {i : Nat} (hi : i < 1024) : (cvtV 5 h t pos a b d).1.byte (i / 2) / 16 ^ (i % 2) % 16 =
    if 128 * pos ≤ i ∧ i < 128 * pos + 128 then (intOfDec 4 ((FF.fp32.decode (a.lane (i - 128 * pos)).toNat).scale (-t)) % 16).toNat
    else d.byte (i / 2) / 16 ^ (i % 2) % 16 := by
  have hnibble (v : Int) : (v % 16).toNat % 16 = (v % 16).toNat := by omega
  rw [cvtV, nibble_narrow a d _ hpos hi, hnibble]

theorem lane_cvtV_6 (hpos : pos ≤ 3) {i : Nat} (hi : i < 128) : ((cvtV 6 h t pos a b d).1.lane i).toNat =
    FF.fp32.ofDec ((FF.e4m3.decode (a.byte (128 * pos + i))).scale t) % 2 ^ 32 := by
  rw [cvtV, toNat_lane_vregOf_range _ hi, leAt_byte a (by omega)]

theorem lane_cvtV_7 (hpos : pos ≤ 3) {i : Nat} (hi : i < 128) : ((cvtV 7 h t pos a b d).1.lane i).toNat =
    FF.fp32.ofDec ((FF.e5m2.decode (a.byte (128 * pos + i))).scale t) % 2 ^ 32 := by
  rw [cvtV, toNat_lane_vregOf_range _ hi, leAt_byte a (by omega)]

theorem lane_cvtV_8 (hpos : pos ≤ 3) {i : Nat} (hi : i < 128) : ((cvtV 8 h t pos a b d).1.lane i).toNat =
    FF.fp32.ofDec ((decInt (signed (a.byte (128 * pos + i)) 8)).scale t) % 2 ^ 32 := by
  rw [cvtV, toNat_lane_vregOf_range _ hi, leAt_byte a (by omega)]

theorem lane_cvtV_9 (hpos : pos ≤ 7) {i : Nat} (hi : i < 128) : ((cvtV 9 h t pos a b d).1.lane i).toNat =
    FF.fp32.ofDec ((decInt (signed (a.byte ((128 * pos + i) / 2) / 16 ^ ((128 * pos + i) % 2) % 16) 4)).scale t) % 2 ^ 32 := by
  rw [cvtV, toNat_lane_vregOf_range _ hi, elemCode_nibble a hpos hi]

theorem lane_cvtV_10 {i : Nat} (hi : i < 128) : ((cvtV 10 h t pos a b d).1.lane i).toInt = intOfDec 32 (FF.fp32.decode (a.lane i).toNat) := by
  obtain ⟨hlo, hhi⟩ := intOfDec_bounds (len := 32) (FF.fp32.decode (a.lane i).toNat)
  rw [cvtV, lane_vregOf_nats _ a hi, ofNat_emod, BitVec.toInt_ofInt_eq_self (by decide) hlo (by omega)]

theorem lane_cvtV_11 {i : Nat} (hi : i < 128) : ((cvtV 11 h t pos a b d).1.lane i).toNat = FF.fp32.ofDec (decInt (a.lane i).toInt) % 2 ^ 32 := by
  rw [cvtV, lane_vregOf_nats _ a hi, BitVec.toNat_ofNat, signed_toNat]

/-- An entry of modes 12 and 13: the value converted at its window, or NaN without one (R137). -/
def fwEntry (f : FF) (t : Int) (a : Vreg) (r : Nat) : Nat :=
  match a.tag with
  | none => f.nan
  | some w => fwToFF f (a.fw r) (winBase w) t

theorem lane_cvtV_12 (hpos : pos ≤ 3) {i : Nat} (hi : i < 128) : ((cvtV 12 h t pos a b d).1.lane i).toNat =
    if 32 * pos ≤ i ∧ i < 32 * pos + 32 then fwEntry FF.fp32 t a (i - 32 * pos) % 2 ^ 32 else (d.lane i).toNat := by
  rw [toNat_lane _ hi, toNat_lane d hi]
  exact elemAt_spread d (fwEntry FF.fp32 t a) (k := 4) (by omega) i

theorem half_cvtV_13 (hpos : pos ≤ 7) {i : Nat} (hi : i < 256) : (cvtV 13 h t pos a b d).1.half i =
    if 32 * pos ≤ i ∧ i < 32 * pos + 32 then fwEntry FF.bf16 t a (i - 32 * pos) % 2 ^ 16 else d.half i := by
  rw [half_eq _ hi, half_eq d hi]
  exact elemAt_spread d (fwEntry FF.bf16 t a) (k := 2) (by omega) i

theorem fwEntry_of_tag {wc : BitVec 6} (htag : a.tag = some wc) (f : FF) (r : Nat) : fwEntry f t a r = fwToFF f (a.fw r) (winBase wc) t := by
  rw [fwEntry, htag]

theorem fwEntry_of_untagged (htag : a.tag = none) (f : FF) (r : Nat) : fwEntry f t a r = f.nan := by rw [fwEntry, htag]

end

/-! #### The word (R236, R237) -/

/-- POS of a well-formed VU.CVT (R236). -/
theorem pos_le_of_wf {cl vd va vb mode pos : Nat} {w : Wd} {h : Bool} {t : Int} (hwf : (Instr.vuCvt cl w vd va vb mode h t pos).wf = true) :
    mode ≤ 13 ∧ pos ≤ if mode ∈ [2, 3, 4, 6, 7, 8, 12] then 3 else if mode ∈ [5, 9, 13] then 7 else 15 := by
  have hform := formOk_of_wf hwf
  simp only [formOk, Bool.and_eq_true, cvtOk, decide_eq_true_eq] at hform
  exact hform.1.2

theorem vuCvt_raises {s : State} {cl vd va vb mode pos : Nat} {w : Wd} {h : Bool} {t : Int} (hissues : s.issues cl .vu = true)
    (hwf : (Instr.vuCvt cl w vd va vb mode h t pos).wf = true) (htag : ((s.clu cl).vreg va).tag = none) (hmode : 12 ≤ mode)
    (hon : (s.clu cl).enabled w = true) : ∃ u, exec (.vuCvt cl w vd va vb mode h t pos) s = .next u ∧ raisedOne s u 0x100D (spanOf cl) := by
  obtain ⟨hlast, -⟩ := pos_le_of_wf hwf
  have hcode : (cvtV mode h t pos ((s.clu cl).vreg va) ((s.clu cl).vreg vb) ((s.clu cl).vreg vd)).2 = true := by
    rw [snd_cvtV_fw _ _ _ _ _ (by omega), htag]
    rfl
  exact raisedOne_of_issues rfl hwf rfl hissues rfl (if_pos hcode) hon

end Sys2Proof.Machine

/-! ### Quantisation (O13: R143, R239) -/

namespace Sys2Proof.Machine

/-! #### The scale of a block (R143) -/

theorem abs_val (d : Dec) : |d.val| = d.m * (2 : ℚ) ^ d.e := by
  rw [Dec.val, abs_mul, abs_mul, abs_of_pos (zpow_pos (two_pos : (0 : ℚ) < 2) d.e), Nat.abs_cast]
  cases d.s <;> simp

/-- The binary magnitude of a value that is not zero. -/
theorem two_pow_log2Dec {d : Dec} (hm : d.m ≠ 0) : (2 : ℚ) ^ log2Dec d ≤ |d.val| ∧ |d.val| < (2 : ℚ) ^ (log2Dec d + 1) := by
  have hlog : log2Dec d = (Nat.log2 d.m : ℤ) + d.e := by
    rw [log2Dec, bitlen, if_neg hm]
    push_cast
    ring
  have hlow : ((2 ^ Nat.log2 d.m : ℕ) : ℚ) ≤ d.m := by exact_mod_cast Nat.log2_self_le hm
  have hhigh : (d.m : ℚ) < ((2 ^ (Nat.log2 d.m + 1) : ℕ) : ℚ) := by exact_mod_cast Nat.lt_log2_self
  have hpos : (0 : ℚ) < 2 ^ d.e := zpow_pos two_pos d.e
  push_cast at hlow hhigh
  rw [hlog, abs_val, show (Nat.log2 d.m : ℤ) + d.e + 1 = ((Nat.log2 d.m + 1 : ℕ) : ℤ) + d.e by push_cast; ring, zpow_add₀ two_ne_zero,
    zpow_add₀ two_ne_zero, zpow_natCast, zpow_natCast]
  exact ⟨mul_le_mul_of_nonneg_right hlow hpos.le, mul_lt_mul_of_pos_right hhigh hpos⟩

/-- The greatest magnitude of a list is one of its magnitudes and none is beyond it. -/
theorem foldl_max_log2Dec (l : List Dec) (d : Dec) :
    (∃ x ∈ d :: l, l.foldl (fun a y => max a (log2Dec y)) (log2Dec d) = log2Dec x) ∧
      ∀ x ∈ d :: l, log2Dec x ≤ l.foldl (fun a y => max a (log2Dec y)) (log2Dec d) := by
  induction l generalizing d with
  | nil => simp
  | cons y r ih =>
    rw [List.foldl_cons]
    rcases le_total (log2Dec d) (log2Dec y) with h | h
    · rw [max_eq_right h]
      obtain ⟨⟨x, hx, heq⟩, hall⟩ := ih y
      exact ⟨⟨x, List.mem_cons_of_mem d hx, heq⟩, List.forall_mem_cons.mpr ⟨h.trans (hall y List.mem_cons_self), hall⟩⟩
    · rw [max_eq_left h]
      obtain ⟨⟨x, hx, heq⟩, hall⟩ := ih d
      obtain ⟨hd, hr⟩ := List.forall_mem_cons.mp hall
      refine ⟨⟨x, ?_, heq⟩, List.forall_mem_cons.mpr ⟨hd, List.forall_mem_cons.mpr ⟨h.trans hd, hr⟩⟩⟩
      rcases List.mem_cons.mp hx with rfl | hx
      · exact List.mem_cons_self
      · exact List.mem_cons_of_mem d (List.mem_cons_of_mem y hx)

/-- The scale code follows the greatest magnitude of the block. -/
theorem qmxBlock_scale {f : Fmt} {vs : List Nat} (hfin : ∀ v ∈ vs, (FF.fp32.decode v).kind = .fin)
    (hnz : ∃ v ∈ vs, (FF.fp32.decode v).m ≠ 0) :
    ∃ lg : Int, (∃ v ∈ vs, (2 : ℚ) ^ lg ≤ |(FF.fp32.decode v).val|) ∧ (∀ v ∈ vs, |(FF.fp32.decode v).val| < (2 : ℚ) ^ (lg + 1)) ∧
      (qmxBlock f vs).1 = (max (-127) (min (lg - mxEmax f) 127) + 127).toNat := by
  have hmem : ∀ x, x ∈ (vs.map FF.fp32.decode).filter (fun d => d.m ≠ 0) ↔ (∃ v ∈ vs, FF.fp32.decode v = x) ∧ x.m ≠ 0 := by simp
  have hall : (vs.map FF.fp32.decode).any (fun d => d.kind ≠ .fin) = false := by
    rw [List.any_eq_false]
    rintro x hx
    obtain ⟨v, hv, rfl⟩ := List.mem_map.mp hx
    simp [hfin v hv]
  unfold qmxBlock
  simp only [hall, Bool.false_eq_true, if_false]
  cases hlist : (vs.map FF.fp32.decode).filter (fun d => d.m ≠ 0) with
  | nil =>
    obtain ⟨v, hv, hm⟩ := hnz
    exact absurd ((hmem _).mpr ⟨⟨v, hv, rfl⟩, hm⟩) (by rw [hlist]; exact List.not_mem_nil)
  | cons d r =>
    obtain ⟨⟨x, hx, heq⟩, hmax⟩ := foldl_max_log2Dec r d
    rw [← hlist] at hx hmax
    obtain ⟨⟨v, hv, rfl⟩, hm⟩ := (hmem x).mp hx
    refine ⟨_, ⟨v, hv, heq ▸ (two_pow_log2Dec hm).1⟩, fun u hu => ?_, rfl⟩
    by_cases hzero : (FF.fp32.decode u).m = 0
    · rw [abs_val, hzero, Nat.cast_zero, zero_mul]
      exact zpow_pos two_pos _
    · refine (two_pow_log2Dec hzero).2.trans_le (zpow_le_zpow_right₀ one_le_two (add_le_add_left ?_ 1))
      exact hmax _ ((hmem _).mpr ⟨⟨u, hu, rfl⟩, hzero⟩)

/-! #### The registers (R239) -/

theorem length_qmxBlock (f : Fmt) (vs : List Nat) : (qmxBlock f vs).2.length = vs.length := by
  unfold qmxBlock
  dsimp only
  split
  case isTrue => exact List.length_map ..
  case isFalse =>
    split
    case h_1 => exact List.length_map ..
    case h_2 => rw [List.length_map, List.length_map]

/-- The values of block `b` of four registers. -/
def blockOf (v : Nat → Vreg) (b : Nat) : List Nat := (List.range 32).map fun i => ((v (b / 4)).lane (32 * (b % 4) + i)).toNat

theorem length_blockOf (v : Nat → Vreg) (b : Nat) : (blockOf v b).length = 32 := by rw [blockOf, List.length_map, List.length_range]

theorem slice_sources (v : Nat → Vreg) {b : Nat} (hb : b < 16) :
    ((([v 0, v 1, v 2, v 3].flatMap Vreg.nats).drop (32 * b)).take 32) = blockOf v b := by
  have hvals : [v 0, v 1, v 2, v 3].flatMap Vreg.nats = (List.range 512).map fun i => ((v (i / 128)).lane (i % 128)).toNat := by
    have hlen : ((List.range 4).flatMap fun j => (v j).nats).length = 512 := by simp [List.length_flatMap, length_nats]
    change (List.range 4).flatMap (fun j => (v j).nats) = _
    apply List.ext_getElem
    · rw [hlen, List.length_map, List.length_range]
    · intro i hi hi'
      have hget : nth 0 ((List.range 4).flatMap fun j => (v j).nats) i = nth 0 (v (i / 128)).nats (i % 128) :=
        nth_flatMap (fun j => length_nats (v j)) (hi.trans_eq hlen)
      rw [nth_nats _ (by omega), nth, List.getD_eq_getElem _ _ hi] at hget
      rw [hget, List.getElem_map, List.getElem_range]
  rw [hvals, slice_map_range _ (by omega), blockOf]
  refine List.map_congr_left fun i hi => ?_
  have hi := List.mem_range.mp hi
  rw [show (32 * b + i) / 128 = b / 4 by omega, show (32 * b + i) % 128 = 32 * (b % 4) + i by omega]

/-- The bytes of a block's elements of an MX format. -/
theorem bits_of_isMx {f : Fmt} (hf : f.isMx = true) : f.bits = 4 ∨ f.bits = 6 ∨ f.bits = 8 := by
  cases f <;> simp [Fmt.isMx, Fmt.bits] at hf ⊢

variable {f : Fmt} {sb : Nat} (v : Nat → Vreg) (e : Vreg)

theorem qmxV_eq : qmxV f sb [v 0, v 1, v 2, v 3] e =
    (vregOfBytes ((List.range 16).flatMap fun b => packCodes f.bits (qmxBlock f (blockOf v b)).2),
      vregOfBytes (mergeBytes e.bytes ((List.range 16).map fun b => BitVec.ofNat 8 (qmxBlock f (blockOf v b)).1) (16 * sb))) := by
  have hblocks : (List.range 16).map (fun b => qmxBlock f ((([v 0, v 1, v 2, v 3].flatMap Vreg.nats).drop (32 * b)).take 32)) =
      (List.range 16).map fun b => qmxBlock f (blockOf v b) :=
    List.map_congr_left fun b hb => by rw [slice_sources v (List.mem_range.mp hb)]
  rw [qmxV, hblocks, List.flatMap_map, List.map_map]
  rfl

theorem elemCode_qmxV (hf : f.isMx = true) {b i : Nat} (hb : b < 16) (hi : i < 32) :
    elemCode f.bits (qmxV f sb [v 0, v 1, v 2, v 3] e).1.bytes (32 * b + i) = nth 0 (qmxBlock f (blockOf v b)).2 i % 2 ^ f.bits := by
  have hbits := bits_of_isMx hf
  have hcodes : ∀ b, (qmxBlock f (blockOf v b)).2.length = 32 := fun b => (length_qmxBlock ..).trans (length_blockOf ..)
  have hlen : ∀ b, (packCodes f.bits (qmxBlock f (blockOf v b)).2).length = 4 * f.bits := fun b => by rw [length_packCodes, hcodes]; omega
  have hall : ((List.range 16).flatMap fun b => packCodes f.bits (qmxBlock f (blockOf v b)).2).length = 16 * (4 * f.bits) := by
    rw [List.length_flatMap]
    simp only [hlen, List.map_const', List.sum_replicate, List.length_range, smul_eq_mul]
  rw [qmxV_eq, elemCode_eq (by omega), ← Vreg.num, num_vregOfBytes (by rw [hall]; omega),
    elemAt_flatMap (k := 4 * f.bits) (c := 32) (by omega) (fun b _ => hlen b) 0 (by rw [List.length_range]; omega),
    show (32 * b + i) / 32 = b by omega, show (32 * b + i) % 32 = i by omega, nth, List.getD_eq_getElem _ _ (by rw [List.length_range]; exact hb),
    List.getElem_range, elemAt_packCodes (k := 4 * f.bits) (by rw [hcodes]; omega) (by rw [hcodes]; exact hi)]

theorem byte_qmxV (hsb : sb < 32) {x : Nat} (hx : x < 512) : (qmxV f sb [v 0, v 1, v 2, v 3] e).2.byte x =
    if 16 * sb ≤ x ∧ x < 16 * sb + 16 then (qmxBlock f (blockOf v (x - 16 * sb))).1 % 256 else e.byte x := by
  rw [qmxV_eq, byte_eq _ hx, byte_eq e hx, elemAt_num_merge (p := 16 * sb) (c := 16) e rfl (by rw [List.length_map, List.length_range])
    (by rw [List.length_map, List.length_range]; omega)]
  split
  case isTrue h =>
    rw [← toNat_nth, nth_map_range _ (by omega), BitVec.toNat_ofNat]
  case isFalse => rfl

/-- VU.QMX writes the elements of its 16 blocks and, in one slot of its scale register, their scales. -/
theorem vuQmx_makes {s : State} {cl vd va ve : Nat} {w : Wd} (hissues : s.issues cl .vu = true) (hwf : (Instr.vuQmx cl w vd va ve f sb).wf = true) :
    vuMakes (.vuQmx cl w vd va ve f sb) s cl (fun l => ∃ r e, l = [(vd, r), (ve, e)] ∧ r.tag = none ∧ e.tag = none ∧
      (∀ b, b < 16 →
        let q := qmxBlock f (blockOf (fun j => (s.clu cl).vreg (va + j)) b)
        e.byte (16 * sb + b) = q.1 % 256 ∧ ∀ i, i < 32 → elemCode f.bits r.bytes (32 * b + i) = nth 0 q.2 i % 2 ^ f.bits) ∧
      (∀ x, x < 512 → ¬ (16 * sb ≤ x ∧ x < 16 * sb + 16) → e.byte x = ((s.clu cl).vreg ve).byte x)) := by
  have hform := formOk_of_wf hwf
  simp only [formOk, Bool.and_eq_true, decide_eq_true_eq] at hform
  obtain ⟨⟨-, hmx⟩, hsb⟩ := hform
  have hbyte {x : Nat} := byte_qmxV (f := f) (fun j => (s.clu cl).vreg (va + j)) ((s.clu cl).vreg ve) hsb (x := x)
  refine vuMakes_of_issues rfl hwf rfl hissues ⟨_, _, rfl, rfl, rfl, fun b hb => ⟨?_, fun i hi => ?_⟩, fun x hx hout => ?_⟩
  · refine (hbyte (by omega)).trans ((if_pos (by omega)).trans ?_)
    rw [Nat.add_sub_cancel_left]
  · exact elemCode_qmxV (fun j => (s.clu cl).vreg (va + j)) ((s.clu cl).vreg ve) hmx hb hi
  · exact (hbyte hx).trans (if_neg hout)

end Sys2Proof.Machine

/-! ### Sums of segments (O13: R240) -/

namespace Sys2Proof.Machine

theorem length_fwLanes (x : Fw) : (fwLanes x).length = 4 := rfl

theorem nth_fwLanes (x : Fw) {k : Nat} (hk : k < 4) : nth 0 (fwLanes x) k = elemAt 32 x.toNat k := nth_map_range _ hk

/-- A register whose lanes are those of FW128 values (R219). -/
def fwVreg (x : Nat → Fw) (n : Nat) (tag : Option (BitVec 6)) : Vreg :=
  ⟨((List.range n).flatMap fun r => fwLanes (x r)).map (BitVec.ofNat 32), tag⟩

section
variable (x : Nat → Fw) (n : Nat) (tag : Option (BitVec 6))

theorem lane_fwVreg (i : Nat) : (fwVreg x n tag).lane i = BitVec.ofNat 32 (nth 0 ((List.range n).flatMap fun r => fwLanes (x r)) i) :=
  List.getD_map ..

theorem lane_fwVreg_beyond {i : Nat} (hi : 4 * n ≤ i) : (fwVreg x n tag).lane i = 0 := by
  rw [lane_fwVreg, nth, List.getD_eq_default]
  · rfl
  · simpa [List.length_flatMap, length_fwLanes, Nat.mul_comm] using hi

theorem fw_fwVreg {q : Nat} (hn : n ≤ 32) (hq : q < n) : (fwVreg x n tag).fw q = x q := by
  have hlanes : ∀ k, k < 4 → elemAt 32 (elemAt (32 * 4) (fwVreg x n tag).num q) k = elemAt 32 (x q).toNat k := fun k hk => by
    rw [elemAt_elemAt hk, ← toNat_lane _ (by omega), lane_fwVreg, nth_flatMap (c := 4) (fun r => length_fwLanes (x r)) (by omega),
      show (4 * q + k) / 4 = q by omega, show (4 * q + k) % 4 = k by omega, nth_fwLanes _ hk, BitVec.toNat_ofNat]
    exact Nat.mod_eq_of_lt (elemAt_lt ..)
  have hmod := mod_eq_of_elemAt_eq hlanes
  rw [Nat.mod_eq_of_lt (elemAt_lt ..), Nat.mod_eq_of_lt (x q).isLt] at hmod
  exact BitVec.eq_of_toNat_eq ((toNat_fw ..).trans hmod)

end

/-- A sum that starts from FW_NAN stays there and raises nothing (R133). -/
theorem fwSum_fwNan (ts : List (Option Int)) : fwSum fwNan ts = (fwNan, false) := by
  have hadd : ∀ t, fwAdd fwNan t = (fwNan, false) := fun t => by
    cases t with
    | none => rfl
    | some t => rw [fwAdd, if_pos (Or.inl rfl)]
  unfold fwSum
  induction ts with
  | nil => rfl
  | cons t r ih =>
    rw [List.foldl_cons]
    simp only [hadd]
    exact ih

/-- The number of elements that VU.XSUM sums over (R219, R240). -/
def xsumLen (ty : VTy) : Nat := if ty = .bf16 then 256 else 128

/-- Element `i` of a source of VU.XSUM. -/
def xsumElem (ty : VTy) (a : Vreg) (i : Nat) : Dec :=
  match ty with
  | .fp32 => FF.fp32.decode (a.lane i).toNat
  | .bf16 => FF.bf16.decode (a.half i)
  | .s32 => decInt (a.lane i).toInt

/-- What VU.XSUM starts a segment's sum from. -/
def xsumStart (wc : BitVec 6) (acc : Bool) (d : Vreg) (q : Nat) : Fw := if acc then (if d.tag = some wc then d.fw q else fwNan) else 0

/-- Segment `q`'s sum, and whether an addition left the window. -/
def xsumSeg (ty : VTy) (seg : Nat) (wc : BitVec 6) (acc : Bool) (a d : Vreg) (q : Nat) : Fw × Bool :=
  fwSum (xsumStart wc acc d q)
    ((List.range (2 ^ (seg + 4))).map fun j => productFloor (xsumElem ty a (q * 2 ^ (seg + 4) + j)) Dec.one (winBase wc))

section
variable {ty : VTy} {seg : Nat} (wc : BitVec 6) (acc : Bool) (a d : Vreg)

theorem xsumV_eq : xsumV ty seg wc acc a d =
    (fwVreg (fun q => (xsumSeg ty seg wc acc a d q).1) (xsumLen ty / 2 ^ (seg + 4)) (some wc), acc && decide (d.tag ≠ some wc),
      (List.range (xsumLen ty / 2 ^ (seg + 4))).any fun q => (xsumSeg ty seg wc acc a d q).2) := by
  have hstart : ∀ q, (if (acc && decide (d.tag ≠ some wc)) = true then fwNan else if acc = true then d.fw q else 0) = xsumStart wc acc d q := by
    intro q
    unfold xsumStart
    cases acc <;> by_cases h : d.tag = some wc <;> simp [h]
  have hsegs : ∀ q ∈ List.range (xsumLen ty / 2 ^ (seg + 4)),
      fwSum (xsumStart wc acc d q) (((((List.range (xsumLen ty)).map (xsumElem ty a)).drop (q * 2 ^ (seg + 4))).take (2 ^ (seg + 4))).map
        fun e => productFloor e Dec.one (winBase wc)) = xsumSeg ty seg wc acc a d q := by
    intro q hq
    have hfit : q * 2 ^ (seg + 4) + 2 ^ (seg + 4) ≤ xsumLen ty := by
      rw [← Nat.succ_mul]
      exact (Nat.mul_le_mul_right _ (List.mem_range.mp hq)).trans (Nat.div_mul_le_self ..)
    rw [slice_map_range _ hfit, List.map_map]
    rfl
  have hfp32 : a.nats.map FF.fp32.decode = (List.range (xsumLen .fp32)).map (xsumElem .fp32 a) := List.map_map ..
  have hbf16 : a.halves.map FF.bf16.decode = (List.range (xsumLen .bf16)).map (xsumElem .bf16 a) :=
    (congrArg (List.map FF.bf16.decode) (halves_eq_map a)).trans (List.map_map ..)
  have hs32 : a.nats.map (fun x => decInt (signed x 32)) = (List.range (xsumLen .s32)).map (xsumElem .s32 a) :=
    (List.map_map ..).trans (List.map_congr_left fun i _ => congrArg decInt (signed_toNat _))
  cases ty
  all_goals
    simp only [xsumV, hfp32, hbf16, hs32, List.length_map, List.length_range, hstart]
    rw [List.map_congr_left hsegs, List.flatMap_map, List.any_map]
    rfl

/-- Where the tag is another, every segment's sum is FW_NAN, and no other code is raised (R240). -/
theorem xsumSeg_mismatch (hacc : acc = true) (htag : d.tag ≠ some wc) (q : Nat) : xsumSeg ty seg wc acc a d q = (fwNan, false) := by
  rw [xsumSeg, xsumStart, if_pos hacc, if_neg htag, fwSum_fwNan]

variable {wc acc} {s : State} {cl vd va : Nat} {w : Wd} (hissues : s.issues cl .vu = true) (hwf : (Instr.vuXsum cl w ty vd va seg wc acc).wf = true)
include hissues hwf

/-- VU.XSUM writes its segments' sums, tagged with its window, and zeros beyond. -/
theorem vuXsum_makes : vuMakes (.vuXsum cl w ty vd va seg wc acc) s cl (fun l => ∃ r, l = [(vd, r)] ∧ r.tag = some wc ∧
    (∀ q, q < xsumLen ty / 2 ^ (seg + 4) → r.fw q = (xsumSeg ty seg wc acc ((s.clu cl).vreg va) ((s.clu cl).vreg vd) q).1) ∧
    ∀ i, 4 * (xsumLen ty / 2 ^ (seg + 4)) ≤ i → i < 128 → r.lane i = 0) := by
  have hfit : xsumLen ty / 2 ^ (seg + 4) ≤ 32 := by
    have hlen : xsumLen ty ≤ 256 := by unfold xsumLen; split <;> omega
    have hseg : 2 ^ 4 ≤ 2 ^ (seg + 4) := Nat.pow_le_pow_right two_pos (by omega)
    exact (Nat.div_le_div hlen hseg (by decide)).trans (by decide)
  refine vuMakes_of_issues rfl hwf rfl hissues ⟨_, rfl, rfl, fun q hq => ?_, fun i hi _ => ?_⟩
  · rw [xsumV_eq]
    exact fw_fwVreg _ _ _ hfit hq
  · rw [xsumV_eq]
    exact lane_fwVreg_beyond _ _ _ hi

theorem vuXsum_raises (hacc : acc = true) (htag : ((s.clu cl).vreg vd).tag ≠ some wc) (hon : (s.clu cl).enabled w = true) :
    ∃ t, exec (.vuXsum cl w ty vd va seg wc acc) s = .next t ∧ raisedOne s t 0x100D (spanOf cl) := by
  have hcodes : (xsumV ty seg wc acc ((s.clu cl).vreg va) ((s.clu cl).vreg vd)).2 = (true, false) := by
    simp [xsumV_eq, xsumSeg_mismatch, hacc, htag]
  refine raisedOne_of_issues rfl hwf rfl hissues rfl ?_ hon
  simp only [atIssue, vuRes, hcodes, if_true, Bool.false_eq_true, if_false, List.append_nil]

end

end Sys2Proof.Machine

/-! ### The best candidates (O13: R242) -/

namespace Sys2Proof.Machine

/-! #### The order of candidates -/

/-- A candidate's value in the order of VU.TOPK, a NaN below every other. -/
def keyOf (s32 : Bool) (v : Nat) : WithBot (WithBot (WithTop ℚ)) := (topKey s32 v).elim ⊥ fun d => (d.ext : WithBot (WithBot (WithTop ℚ)))

/-- Where a candidate stands: a greater value first, then a lesser index, then a lesser position. -/
def standing (s32 : Bool) (c : Nat × Nat × Nat) : (WithBot (WithBot (WithTop ℚ)))ᵒᵈ ×ₗ ℕ ×ₗ ℕ :=
  toLex (OrderDual.toDual (keyOf s32 c.1), toLex (c.2.1, c.2.2))

theorem standing_lt_iff (s32 : Bool) (a b : Nat × Nat × Nat) : standing s32 a < standing s32 b ↔
    keyOf s32 b.1 < keyOf s32 a.1 ∨ keyOf s32 a.1 = keyOf s32 b.1 ∧ (a.2.1 < b.2.1 ∨ a.2.1 = b.2.1 ∧ a.2.2 < b.2.2) := by
  simp only [standing, Prod.Lex.toLex_lt_toLex, OrderDual.toDual_lt_toDual, EmbeddingLike.apply_eq_iff_eq]

/-- The ranking by keys alone. -/
theorem ranksBefore_eq (s32 : Bool) (a b : Nat × Nat × Nat) : ranksBefore s32 a b =
    if keyOf s32 b.1 < keyOf s32 a.1 then true else if keyOf s32 a.1 < keyOf s32 b.1 then false
    else if a.2.1 ≠ b.2.1 then decide (a.2.1 < b.2.1) else decide (a.2.2 < b.2.2) := by
  unfold ranksBefore keyOf
  cases topKey s32 a.1 with
  | none => cases topKey s32 b.1 <;> simp
  | some x => cases topKey s32 b.1 <;> simp [Dec.lt_iff]

theorem ranksBefore_iff (s32 : Bool) (a b : Nat × Nat × Nat) : ranksBefore s32 a b = true ↔ standing s32 a < standing s32 b := by
  rw [ranksBefore_eq, standing_lt_iff]
  rcases lt_trichotomy (keyOf s32 a.1) (keyOf s32 b.1) with h | h | h
  · simp [h, h.not_gt, h.ne]
  · rw [if_neg h.not_gt, if_neg h.not_lt]
    split <;> simp only [decide_eq_true_eq, h, true_and, lt_self_iff_false, false_or] <;> omega
  · simp [h]

theorem standing_injOn_position {s32 : Bool} {a b : Nat × Nat × Nat} (h : standing s32 a = standing s32 b) : a.2.2 = b.2.2 := by
  simp only [standing, EmbeddingLike.apply_eq_iff_eq, Prod.mk.injEq] at h
  exact h.2.2

/-! #### Ranked lists -/

/-- A list of candidates in their order. -/
def Ranked (s32 : Bool) (l : List (Nat × Nat × Nat)) : Prop := l.Pairwise fun a b => standing s32 a ≤ standing s32 b

theorem rankInsert_perm (s32 : Bool) (c : Nat × Nat × Nat) (l : List (Nat × Nat × Nat)) : (rankInsert s32 c l).Perm (c :: l) := by
  induction l with
  | nil => exact List.Perm.refl _
  | cons d r ih =>
    rw [rankInsert]
    split
    case isTrue => exact List.Perm.refl _
    case isFalse => exact (ih.cons d).trans (List.Perm.swap c d r)

theorem ranked_rankInsert {s32 : Bool} (c : Nat × Nat × Nat) {l : List (Nat × Nat × Nat)}
    (hl : Ranked s32 l) : Ranked s32 (rankInsert s32 c l) := by
  induction l with
  | nil => exact List.pairwise_singleton ..
  | cons d r ih =>
    obtain ⟨hd, hr⟩ := List.pairwise_cons.mp hl
    rw [rankInsert]
    split
    case isTrue h =>
      have hcd := ((ranksBefore_iff ..).mp h).le
      exact List.pairwise_cons.mpr ⟨List.forall_mem_cons.mpr ⟨hcd, fun x hx => hcd.trans (hd x hx)⟩, hl⟩
    case isFalse h =>
      rw [ranksBefore_iff, not_lt] at h
      refine List.pairwise_cons.mpr ⟨fun x hx => ?_, ih hr⟩
      rcases List.mem_cons.mp ((rankInsert_perm s32 c r).mem_iff.mp hx) with rfl | hx
      · exact h
      · exact hd x hx

/-- All candidates, in their order. -/
def rankAll (s32 : Bool) (cs : List (Nat × Nat × Nat)) : List (Nat × Nat × Nat) := cs.foldl (fun l c => rankInsert s32 c l) []

theorem foldl_rankInsert (s32 : Bool) (cs l : List (Nat × Nat × Nat)) (hl : Ranked s32 l) :
    Ranked s32 (cs.foldl (fun l c => rankInsert s32 c l) l) ∧ (cs.foldl (fun l c => rankInsert s32 c l) l).Perm (cs ++ l) := by
  induction cs generalizing l with
  | nil => exact ⟨hl, List.Perm.refl _⟩
  | cons c r ih =>
    obtain ⟨hranked, hperm⟩ := ih _ (ranked_rankInsert c hl)
    exact ⟨hranked, hperm.trans (((rankInsert_perm s32 c l).append_left r).trans List.perm_middle)⟩

theorem rankAll_perm (s32 : Bool) (cs : List (Nat × Nat × Nat)) : (rankAll s32 cs).Perm cs := by
  simpa only [rankAll, List.append_nil] using (foldl_rankInsert s32 cs [] List.Pairwise.nil).2

/-- Candidates of different positions stand strictly one after another. -/
theorem rankAll_strict (s32 : Bool) {cs : List (Nat × Nat × Nat)} (hpos : (cs.map (·.2.2)).Nodup) :
    (rankAll s32 cs).Pairwise fun a b => standing s32 a < standing s32 b := by
  have hnodup : (rankAll s32 cs).Pairwise fun a b => a.2.2 ≠ b.2.2 := List.pairwise_map.mp (((rankAll_perm s32 cs).map _).nodup_iff.mpr hpos)
  exact (foldl_rankInsert s32 cs [] List.Pairwise.nil).1.imp₂ (fun a b hle hne => lt_of_le_of_ne hle fun heq => hne (standing_injOn_position heq))
    hnodup

/-- Before candidate `j` of the order exactly `j` others rank. -/
theorem length_filter_ranksBefore (s32 : Bool) {cs : List (Nat × Nat × Nat)} (hpos : (cs.map (·.2.2)).Nodup) {j : Nat}
    (hj : j < (rankAll s32 cs).length) : (cs.filter fun b => ranksBefore s32 b (rankAll s32 cs)[j]).length = j := by
  have hstrict := List.pairwise_iff_getElem.mp (rankAll_strict s32 hpos)
  have hbefore : ∀ b ∈ (rankAll s32 cs).take j, ranksBefore s32 b (rankAll s32 cs)[j] = true := fun b hb => by
    obtain ⟨i, hi, rfl⟩ := List.mem_take_iff_getElem.mp hb
    exact (ranksBefore_iff ..).mpr (hstrict i j _ hj (by omega))
  have hafter : ∀ b ∈ (rankAll s32 cs).drop j, ¬ ranksBefore s32 b (rankAll s32 cs)[j] = true := fun b hb => by
    obtain ⟨i, hi, rfl⟩ := List.mem_drop_iff_getElem.mp hb
    rw [ranksBefore_iff, not_lt]
    rcases Nat.eq_zero_or_pos i with rfl | hpos
    · exact le_rfl
    · exact (hstrict j (j + i) hj _ (by omega)).le
  calc (cs.filter _).length
      _ = ((rankAll s32 cs).filter fun b => ranksBefore s32 b (rankAll s32 cs)[j]).length := ((rankAll_perm s32 cs).filter _).length_eq.symm
      _ = (((rankAll s32 cs).take j ++ (rankAll s32 cs).drop j).filter fun b => ranksBefore s32 b (rankAll s32 cs)[j]).length := by
        rw [List.take_append_drop]
      _ = j := by
        rw [List.filter_append, List.filter_eq_self.mpr hbefore, List.filter_eq_nil_iff.mpr hafter, List.append_nil, List.length_take_of_le hj.le]

end Sys2Proof.Machine

namespace Sys2Proof.Machine

/-! #### The registers (R242) -/

/-- The candidates of VU.TOPK in the order of their positions. -/
def topkCands (v : Nat → Vreg) (va vb : Nat) (two : Bool) : List (Nat × Nat × Nat) :=
  (List.range (if two then 256 else 128)).map fun p =>
    let r := if p < 128 then va else vb
    (((v r).lane (p % 128)).toNat, ((v (r + 1)).lane (p % 128)).toNat, p)

theorem cands_eq_topkCands (v : Nat → Vreg) (va vb : Nat) (two : Bool) :
    (cands (v va) (v (va + 1)) 0 ++ if two then cands (v vb) (v (vb + 1)) 128 else []) = topkCands v va vb two := by
  have hfirst : cands (v va) (v (va + 1)) 0 = topkCands v va vb false := by
    refine List.map_congr_left fun j hj => ?_
    have hj := List.mem_range.mp hj
    simp only [if_pos hj, Nat.mod_eq_of_lt hj, Nat.zero_add]
  cases two with
  | false => rw [hfirst]; exact List.append_nil _
  | true =>
    rw [hfirst, topkCands, topkCands, if_neg Bool.false_ne_true, if_pos rfl, if_pos rfl, show 256 = 128 + 128 from rfl, List.range_add,
      List.map_append, List.map_map]
    refine congrArg _ (List.map_congr_left fun j hj => ?_)
    have hj := List.mem_range.mp hj
    simp only [Function.comp_apply, if_neg (show ¬ 128 + j < 128 by omega), show (128 + j) % 128 = j by omega]

theorem positions_topkCands (v : Nat → Vreg) (va vb : Nat) (two : Bool) : ((topkCands v va vb two).map (·.2.2)).Nodup := by
  rw [topkCands, List.map_map]
  exact (List.map_id _).symm ▸ List.nodup_range

theorem length_topkCands (v : Nat → Vreg) (va vb : Nat) (two : Bool) : 128 ≤ (topkCands v va vb two).length := by
  rw [topkCands, List.length_map, List.length_range]
  split <;> omega

theorem lt_of_mem_topkCands {v : Nat → Vreg} {va vb : Nat} {two : Bool} {c : Nat × Nat × Nat} (hc : c ∈ topkCands v va vb two) :
    c.1 < 2 ^ 32 ∧ c.2.1 < 2 ^ 32 := by
  obtain ⟨p, -, rfl⟩ := List.mem_map.mp hc
  exact ⟨BitVec.isLt _, BitVec.isLt _⟩

/-- The value that VU.TOPK writes for a candidate's: a NaN is canonical (R242). -/
def topkVal (s32 : Bool) (n : Nat) : Nat := if !s32 && (FF.fp32.decode n).isNan then 0x7FC00000 else n

theorem topkVal_lt (s32 : Bool) {n : Nat} (h : n < 2 ^ 32) : topkVal s32 n < 2 ^ 32 := by
  unfold topkVal
  split
  case isTrue => decide
  case isFalse => exact h

section
variable (s32 : Bool) {k : Nat} {cs : List (Nat × Nat × Nat)} {j : Nat}

theorem topkV_eq : topkV s32 k cs =
    (vregOf (((rankAll s32 cs).take k).map (fun c => topkVal s32 c.1) ++ List.replicate (128 - k) (if s32 then 0x80000000 else 0x7FC00000)),
      vregOf (((rankAll s32 cs).take k).map (·.2.1) ++ List.replicate (128 - k) 0xFFFFFFFF)) := rfl

theorem nth_ranked {f : Nat × Nat × Nat → Nat} {z : Nat} (hj : j < k) (hlen : j < (rankAll s32 cs).length) :
    nth 0 (((rankAll s32 cs).take k).map f ++ List.replicate (128 - k) z) j = f (rankAll s32 cs)[j] := by
  have htake : j < ((rankAll s32 cs).take k).length := by
    rw [List.length_take]
    omega
  rw [nth_append_left (by rwa [List.length_map]), nth_map_of_lt (d := (0, 0, 0)) _ htake, nth, List.getD_eq_getElem _ _ htake, List.getElem_take]

theorem nth_unranked {f : Nat × Nat × Nat → Nat} {z : Nat} (hk : k ≤ cs.length) (hkj : k ≤ j) (hj : j < 128) :
    nth 0 (((rankAll s32 cs).take k).map f ++ List.replicate (128 - k) z) j = z := by
  have htake : (((rankAll s32 cs).take k).map f).length = k := by
    rw [List.length_map, List.length_take_of_le (by rwa [(rankAll_perm s32 cs).length_eq])]
  rw [nth_append_right (by rwa [htake]), htake, nth, List.getD_replicate _ (by omega)]

end

/-- Lane `j` of VU.TOPK's registers holds the candidate before which exactly `j` others rank. -/
theorem lanes_topkV (s32 : Bool) {v : Nat → Vreg} {va vb : Nat} {two : Bool} {k : Nat} (hk : k ≤ 128) {j : Nat} (hj : j < k) :
    let cs := topkCands v va vb two
    ∃ c ∈ cs, (cs.filter fun b => ranksBefore s32 b c).length = j ∧ ((topkV s32 k cs).1.lane j).toNat = topkVal s32 c.1 ∧
      ((topkV s32 k cs).2.lane j).toNat = c.2.1 := by
  intro cs
  have hperm := rankAll_perm s32 cs
  have hlen : j < (rankAll s32 cs).length := by
    rw [hperm.length_eq]
    exact hj.trans_le (hk.trans (length_topkCands ..))
  have hmem : (rankAll s32 cs)[j] ∈ cs := hperm.mem_iff.mp (List.getElem_mem hlen)
  obtain ⟨hval, hidx⟩ := lt_of_mem_topkCands hmem
  refine ⟨_, hmem, length_filter_ranksBefore s32 (positions_topkCands ..) hlen, ?_, ?_⟩
  · rw [topkV_eq, toNat_lane_vregOf, nth_ranked s32 hj hlen, Nat.mod_eq_of_lt (topkVal_lt s32 hval)]
  · rw [topkV_eq, toNat_lane_vregOf, nth_ranked s32 hj hlen, Nat.mod_eq_of_lt hidx]

/-- The lanes beyond the K best. -/
theorem lanes_topkV_beyond (s32 : Bool) {k : Nat} {cs : List (Nat × Nat × Nat)} (hk : k ≤ cs.length) {j : Nat} (hkj : k ≤ j) (hj : j < 128) :
    (topkV s32 k cs).1.lane j = (if s32 then 0x80000000 else 0x7FC00000) ∧ (topkV s32 k cs).2.lane j = 0xFFFFFFFF := by
  rw [topkV_eq, lane_vregOf, lane_vregOf, nth_unranked s32 hk hkj hj, nth_unranked s32 hk hkj hj]
  exact ⟨by split <;> rfl, rfl⟩

theorem le_128_of_wf {cl vd va vb kk : Nat} {w : Wd} {s32 two : Bool} (hwf : (Instr.vuTopk cl w s32 vd va vb two kk).wf = true) : kk ≤ 128 := by
  have hform := formOk_of_wf hwf
  simp only [formOk, topkOk, Bool.and_eq_true, decide_eq_true_eq] at hform
  exact hform.2.2

/-- VU.TOPK writes the values and the indices of the K best candidates in their order. -/
theorem vuTopk_makes {s : State} {cl vd va vb kk : Nat} {w : Wd} {s32 two : Bool} (hissues : s.issues cl .vu = true)
    (hwf : (Instr.vuTopk cl w s32 vd va vb two kk).wf = true) :
    vuMakes (.vuTopk cl w s32 vd va vb two kk) s cl (fun l => ∃ r x, l = [(vd, r), (vd + 1, x)] ∧ r.tag = none ∧ x.tag = none ∧
      (∀ j, j < kk → ∃ c ∈ topkCands (s.clu cl).vreg va vb two,
        ((topkCands (s.clu cl).vreg va vb two).filter (fun b => ranksBefore s32 b c)).length = j ∧
        (r.lane j).toNat = topkVal s32 c.1 ∧ (x.lane j).toNat = c.2.1) ∧
      ∀ j, kk ≤ j → j < 128 → r.lane j = (if s32 then 0x80000000 else 0x7FC00000) ∧ x.lane j = 0xFFFFFFFF) := by
  have hk := le_128_of_wf hwf
  have hcands := cands_eq_topkCands (s.clu cl).vreg va vb two
  refine vuMakes_of_issues rfl hwf rfl hissues ⟨_, _, rfl, rfl, rfl, fun j hj => ?_, fun j hkj hj => ?_⟩
  · rw [hcands]
    exact lanes_topkV s32 hk hj
  · rw [hcands]
    exact lanes_topkV_beyond s32 (hk.trans (length_topkCands ..)) hkj hj

end Sys2Proof.Machine

/-! ### The counter generator (O13: R144, R145, R243) -/

namespace Sys2Proof.Machine

/-- The code of a normal FP32 value, by its fields (R124). -/
theorem decode_fp32_normal {E M : Nat} (hE : 0 < E) (hE' : E < 255) (hM : M < 2 ^ 23) :
    FF.fp32.decode (E * 2 ^ 23 + M) = ⟨.fin, false, M + 2 ^ 23, (E : Int) - 127 - 23⟩ := by
  have hexp : (E * 2 ^ 23 + M) / 2 ^ FF.fp32.mb % 2 ^ FF.fp32.eb = E := by
    simp only [FF.fp32]
    omega
  have hman : (E * 2 ^ 23 + M) % 2 ^ FF.fp32.mb = M := by
    simp only [FF.fp32]
    omega
  have hsign : FF.fp32.sign (E * 2 ^ 23 + M) = false := decide_eq_false (show ¬ (E * 2 ^ 23 + M) / 2 ^ (8 + 23) % 2 = 1 by omega)
  have htop : FF.fp32.top = .ieee := rfl
  simp only [FF.decode, hexp, hman, hsign, htop]
  rw [if_neg (by simp only [FF.fp32]; omega), if_neg (by omega)]
  rfl

/-- A number of `L` bits moved up to 24 bits. -/
theorem normalised_bounds {N L : Nat} (hpos : 1 ≤ L) (hle : L ≤ 24) (hlow : 2 ^ (L - 1) ≤ N) (hhigh : N < 2 ^ L) :
    2 ^ 23 ≤ N * 2 ^ (24 - L) ∧ N * 2 ^ (24 - L) < 2 ^ 24 := by
  constructor
  · calc 2 ^ 23
        _ = 2 ^ (L - 1) * 2 ^ (24 - L) := by rw [← Nat.pow_add]; congr 1; omega
        _ ≤ N * 2 ^ (24 - L) := Nat.mul_le_mul_right _ hlow
  · calc N * 2 ^ (24 - L)
        _ < 2 ^ L * 2 ^ (24 - L) := Nat.mul_lt_mul_of_pos_right hhigh (Nat.two_pow_pos _)
        _ = 2 ^ 24 := by rw [← Nat.pow_add]; congr 1; omega

/-- A number of `L` bits, at most 24, times 2^−24 is a normal FP32 value, and its rounding is exact (R136). -/
theorem fmtRound_fp32_exact {N L : Nat} (hL : bitlen N = L) (hpos : 1 ≤ L) (hle : L ≤ 24) (hlow : 2 ^ (L - 1) ≤ N) (hhigh : N < 2 ^ L) :
    fmtRound FF.fp32 false N (-24) false = (L + 102) * 2 ^ 23 + (N * 2 ^ (24 - L) - 2 ^ 23) := by
  obtain ⟨hK, hK'⟩ := normalised_bounds hpos hle hlow hhigh
  have hN : N ≠ 0 := by
    rintro rfl
    exact absurd hK (by rw [Nat.zero_mul]; decide)
  have hq : max ((L : Int) - 1 + -24) FF.fp32.emin - FF.fp32.mb = (L : Int) - 48 := by
    simp only [FF.fp32]
    omega
  have hover : gtScaled (N * 2 ^ (24 - L)) ((L : Int) - 48) FF.fp32.maxM FF.fp32.maxE = false := by
    have hmax : 2 ^ 24 - 1 ≤ (2 ^ 24 - 1) * 2 ^ ((104 : Int) - (L - 48)).toNat := Nat.le_mul_of_pos_right _ (Nat.two_pow_pos _)
    rw [gtScaled, if_neg (by simp only [FF.fp32]; omega)]
    exact decide_eq_false (show ¬ N * 2 ^ (24 - L) > (2 ^ 24 - 1) * 2 ^ ((104 : Int) - (L - 48)).toNat by omega)
  have hcode : FF.fp32.encode false (N * 2 ^ (24 - L)) ((L : Int) - 48) = (L + 102) * 2 ^ 23 + (N * 2 ^ (24 - L) - 2 ^ 23) := by
    rw [FF.encode]
    simp only [FF.fp32, ge_iff_le, Nat.not_le.mpr hK', Nat.not_lt.mpr hK, if_false, FF.zero, Bool.false_eq_true]
    rw [show ((L : Int) - 48 + (23 : Nat) + 127).toNat = L + 102 by omega]
    omega
  have hk : (L : Int) - 48 - -24 ≤ 0 := by omega
  rw [fmtRound, if_neg hN]
  simp only [hL, hq, hk, if_true]
  rw [show (-((L : Int) - 48 - -24)).toNat = 24 - L by omega, hover, if_neg Bool.false_ne_true, hcode]

/-- The uniform value of a word is exact (R145). -/
theorem decode_uniform (w : BitVec 32) : uniform w < 2 ^ 32 ∧ (FF.fp32.decode (uniform w)).kind = .fin ∧
    (FF.fp32.decode (uniform w)).val = ((w.toNat / 256 : Nat) : ℚ) / 2 ^ 24 := by
  have hlt := w.isLt
  unfold uniform
  generalize hN : w.toNat / 256 = N
  have hN' : N < 2 ^ 24 := by omega
  rcases Nat.eq_zero_or_pos N with rfl | hpos
  · exact ⟨by decide, by decide, by simp [fmtRound, FF.zero, Dec.val, FF.decode, FF.fp32]⟩
  · have hbits : bitlen N = Nat.log2 N + 1 := if_neg hpos.ne'
    have hle : Nat.log2 N + 1 ≤ 24 := (Nat.log2_lt hpos.ne').mpr hN'
    have hlow : 2 ^ (Nat.log2 N + 1 - 1) ≤ N := Nat.log2_self_le hpos.ne'
    obtain ⟨hK, hK'⟩ := normalised_bounds (Nat.le_add_left ..) hle hlow Nat.lt_log2_self
    rw [fmtRound_fp32_exact hbits (Nat.le_add_left ..) hle hlow Nat.lt_log2_self, decode_fp32_normal (by omega) (by omega) (by omega)]
    refine ⟨by omega, rfl, ?_⟩
    generalize Nat.log2 N + 1 = L at *
    have hscale : (2 : ℚ) ^ (24 - L) * 2 ^ (((L + 102 : Nat) : Int) - 127 - 23) = 1 / 2 ^ 24 := by
      rw [← zpow_natCast, ← zpow_add₀ two_ne_zero, one_div, ← zpow_natCast, ← zpow_neg]
      congr 1
      omega
    rw [Dec.val, if_neg Bool.false_ne_true, one_mul]
    dsimp only
    rw [Nat.sub_add_cancel hK, Nat.cast_mul, Nat.cast_pow, Nat.cast_ofNat, mul_assoc, hscale, mul_one_div]

/-- The word of lane `i` of VU.RNG (R243). -/
def rngWord (key : Vreg) (ofs i : Nat) : BitVec 32 :=
  nth 0 (rngBlock [key.lane 0, key.lane 1, key.lane 2, key.lane 3] (key.lane 6)
    (BitVec.ofNat 64 ((key.lane 4).toNat + 2 ^ 32 * (key.lane 5).toNat + 32 * ofs + i / 4))) (i % 4)

theorem length_rngBlock (seed : List (BitVec 32)) (stream : BitVec 32) (ctr : BitVec 64) : (rngBlock seed stream ctr).length = 4 := rfl

theorem lane_rngV (key : Vreg) (uni : Bool) (ofs : Nat) {i : Nat} (hi : i < 128) : (rngV key uni ofs).lane i =
    BitVec.ofNat 32 (if uni then uniform (rngWord key ofs i) else (rngWord key ofs i).toNat) := by
  rw [rngV, lane_vregOf, nth_map_of_lt (d := 0) _ (by simpa [List.length_flatMap, length_rngBlock] using hi),
    nth_flatMap (fun _ => length_rngBlock ..) hi, ← BitVec.ofNat_add, ← Nat.add_assoc]
  rfl

/-- VU.RNG writes the generator's words, or their uniform values. -/
theorem vuRng_writes {s : State} {cl vd va ofs : Nat} {w : Wd} {uni : Bool} (hissues : s.issues cl .vu = true)
    (hwf : (Instr.vuRng cl w vd va uni ofs).wf = true) : vuWrites (.vuRng cl w vd va uni ofs) s cl vd (fun r => ∀ i, i < 128 →
      let x := rngWord ((s.clu cl).vreg va) ofs i
      (uni = false → r.lane i = x) ∧
      (uni = true → (FF.fp32.decode (r.lane i).toNat).kind = .fin ∧
        (FF.fp32.decode (r.lane i).toNat).val = ((x.toNat / 256 : Nat) : ℚ) / 2 ^ 24)) := by
  refine vuWrites_of_issues rfl hwf rfl hissues rfl rfl fun i hi => ⟨fun huni => ?_, fun huni => ?_⟩
  · rw [lane_rngV _ _ _ hi, huni, if_neg Bool.false_ne_true, BitVec.ofNat_toNat, BitVec.setWidth_eq]
  · obtain ⟨hlt, hkind, hval⟩ := decode_uniform (rngWord ((s.clu cl).vreg va) ofs i)
    rw [lane_rngV _ _ _ hi, huni, if_pos rfl, BitVec.toNat_ofNat, Nat.mod_eq_of_lt hlt]
    exact ⟨hkind, hval⟩

end Sys2Proof.Machine

/-! ### The statement (O13) -/

namespace Sys2Proof.Machine

theorem imp_of_eq_ite {α : Type} {p : Prop} [Decidable p] {x y z : α} (h : x = if p then y else z) : (p → x = y) ∧ (¬ p → x = z) :=
  ⟨fun hp => h.trans (if_pos hp), fun hp => h.trans (if_neg hp)⟩

/-- Settles O13: each word by the registers that it computes at its issue, element by element. -/
theorem conversionsAndReductions : Obligations.ConversionsAndReductions := by
  unfold Obligations.ConversionsAndReductions
  intro s cl w vd va vb hissues k a o n d nib raises
  refine ⟨fun mode h t pos hwf => ⟨vuWrites_of_issues rfl hwf rfl hissues rfl (tag_cvtV ..)
    ⟨?m0, ?m1, ?bytes, ?nibbles, ?wide, ?m10, ?m11, ?tagged, ?untagged⟩, vuCvt_raises hissues hwf⟩, fun ve f sb hwf => vuQmx_makes hissues hwf,
    fun f vs => qmxBlock_scale, fun ty seg wc acc hwf => ⟨vuXsum_makes hissues hwf, vuXsum_raises hissues hwf⟩,
    fun s32 two kk hwf => vuTopk_makes hissues hwf, fun uni ofs hwf => vuRng_writes hissues hwf⟩
  case m0 =>
    rintro rfl i hi
    exact half_cvtV_0 h t _ _ _ hi
  case m1 =>
    rintro rfl i hi
    exact lane_cvtV_1 h t _ _ _ hi
  case bytes =>
    simp only [List.mem_cons, Prod.mk.injEq, List.not_mem_nil, or_false]
    rintro g (⟨rfl, rfl⟩ | ⟨rfl, rfl⟩ | ⟨rfl, rfl⟩) i hi
    · exact imp_of_eq_ite (byte_cvtV_2 h t a _ o (pos_le_of_wf hwf).2 hi)
    · exact imp_of_eq_ite (byte_cvtV_3 h t a _ o (pos_le_of_wf hwf).2 hi)
    · exact imp_of_eq_ite (byte_cvtV_4 h t a _ o (pos_le_of_wf hwf).2 hi)
  case nibbles =>
    rintro rfl i hi
    exact imp_of_eq_ite (nibble_cvtV_5 h t a _ o (pos_le_of_wf hwf).2 hi)
  case wide =>
    simp only [List.mem_cons, Prod.mk.injEq, List.not_mem_nil, or_false]
    rintro g (⟨rfl, rfl⟩ | ⟨rfl, rfl⟩ | ⟨rfl, rfl⟩ | ⟨rfl, rfl⟩) i hi
    · exact lane_cvtV_6 h t _ _ _ (pos_le_of_wf hwf).2 hi
    · exact lane_cvtV_7 h t _ _ _ (pos_le_of_wf hwf).2 hi
    · exact lane_cvtV_8 h t _ _ _ (pos_le_of_wf hwf).2 hi
    · exact lane_cvtV_9 h t _ _ _ (pos_le_of_wf hwf).2 hi
  case m10 =>
    rintro rfl i hi
    exact lane_cvtV_10 h t _ _ _ hi
  case m11 =>
    rintro rfl i hi
    exact lane_cvtV_11 h t _ _ _ hi
  case tagged =>
    intro wc htag
    refine ⟨?_, ?_⟩
    · rintro rfl i hi
      obtain ⟨hin, hout⟩ := imp_of_eq_ite (lane_cvtV_12 h t a (k.vreg vb) o (pos_le_of_wf hwf).2 hi)
      exact ⟨fun hat => (hin hat).trans (by rw [fwEntry_of_tag _ _ htag]), fun hat => BitVec.eq_of_toNat_eq (hout hat)⟩
    · rintro rfl i hi
      obtain ⟨hin, hout⟩ := imp_of_eq_ite (half_cvtV_13 h t a (k.vreg vb) o (pos_le_of_wf hwf).2 hi)
      exact ⟨fun hat => (hin hat).trans (by rw [fwEntry_of_tag _ _ htag]), hout⟩
  case untagged =>
    intro htag
    refine ⟨?_, ?_⟩
    · rintro rfl i hi hat
      apply BitVec.eq_of_toNat_eq
      rw [lane_cvtV_12 h t a (k.vreg vb) o (pos_le_of_wf hwf).2 hi, if_pos hat, fwEntry_of_untagged _ _ htag]
      rfl
    · rintro rfl i hi hat
      rw [half_cvtV_13 h t a (k.vreg vb) o (pos_le_of_wf hwf).2 hi, if_pos hat, fwEntry_of_untagged _ _ htag]
      rfl

end Sys2Proof.Machine

/-! ### Every step keeps the counts in bounds (O4) -/

namespace Sys2Proof.Machine

/-! #### What the bounds depend on -/

/-- What the bounds of a stack's debts depend on (R260): the increases, each bank's debt and last REFB by key, each pseudo-channel's last REFA. -/
structure Debts where
  incs : Int
  bank : Nat → Int × Option Int
  refa : Nat → Option Int

/-- What the bounds of a port's queues depend on (R306, R310, R316, R346). -/
structure Queues where
  replay   : List TxCell
  txSeq    : Nat
  rxSvc    : List Cell
  rxFoot   : List Cell
  credSvc  : Nat
  credFoot : Nat

/-- What the bounds depend on: the debts by stack, the queues by port, and the slots of the outstanding requests with their tags. -/
structure Counts where
  debts  : Nat → Debts
  queues : Nat → Queues
  tags   : List (Nat × BitVec 16)

/-- The debts of a stack. -/
def Msq.debts (m : Msq) : Debts := ⟨m.incs, fun k => ((Tbl.get {} m.banks k).debt, (Tbl.get {} m.banks k).refb), fun pc => (Tbl.get {} m.pcs pc).refa⟩

/-- The queues of a port. -/
def Olf.queues (o : Olf) : Queues := ⟨o.replay, o.txSeq, o.rxSvc, o.rxFoot, o.credSvc, o.credFoot⟩

/-- The debts of the stacks of a table. -/
def stackDebts (t : Tbl Msq) (st : Nat) : Debts := (Tbl.get {} t st).debts

/-- The queues of the ports of a table. -/
def portQueues (t : Tbl Olf) (p : Nat) : Queues := (Tbl.get {} t p).queues

/-- The slots of the requests of a table, with their tags. -/
def requestTags (t : Tbl SvcOut) : List (Nat × BitVec 16) := t.map (fun x => (x.1, x.2.rtag))

/-- The debts, queues and requests of a state. -/
def State.counts (s : State) : Counts := ⟨stackDebts s.msq, portQueues s.olf, requestTags s.svc.out⟩

/-- A bank's debt is within its bounds (R260), by its debt and last REFB and the last REFA of its pseudo-channel. -/
def bankWf (incs : Int) (refa : Option Int) (x : Int × Option Int) : Prop := x.1 ≤ 0 ∧ -8 ≤ max incs (max (dueBy x.2) (dueBy refa)) + x.1

/-- The debts of a stack are within their bounds. -/
def Debts.wf (d : Debts) : Prop := 0 ≤ d.incs ∧ ∀ pc, pc < 64 → ∀ b, b < 48 → bankWf d.incs (d.refa pc) (d.bank (48 * pc + b))

/-- The cells of a replay buffer stand in the order of R306 and R310. -/
def replayWf (l : List TxCell) (seq : Nat) : Prop :=
  ∃ a b, l = a ++ b ∧
    (∀ i x, a[i]? = some x → x.fresh = false ∧ x.cell.seq = BitVec.ofNat 10 seq - BitVec.ofNat 10 (a.length - i)) ∧
    (∀ x ∈ b, x.fresh = true ∧ x.sent = false ∧ x.cell.cls = 0)

/-- The queues of a port are within their bounds. -/
def Queues.wf (q : Queues) : Prop :=
  replayWf q.replay q.txSeq ∧ q.rxSvc.length ≤ 56 ∧ q.rxFoot.length ≤ 8 ∧ (q.rxFoot.filter (fun c => c.kind != 8)).length ≤ 6 ∧ q.credSvc ≤ 56 ∧
    q.credFoot ≤ 8

/-- Each request stands in a slot of its own, which its tag names (R350). -/
def tagsWf (l : List (Nat × BitVec 16)) : Prop := (l.map (·.1)).Pairwise (· < ·) ∧ ∀ x ∈ l, x.1 < 64 ∧ x.2.toNat % 64 = x.1

/-- All of them are within their bounds. -/
def Counts.wf (c : Counts) : Prop := (∀ st, (c.debts st).wf) ∧ (∀ p, (c.queues p).wf) ∧ tagsWf c.tags

theorem debtsOk_iff_wf (m : Msq) : m.debtsOk ↔ m.debts.wf :=
  and_congr_right fun _ => forall₄_congr fun _ _ _ _ => and_congr_left' (by simp [Msq.debtOf, Msq.debts, Msq.bank])

theorem queuesOk_iff_wf (o : Olf) : o.queuesOk ↔ o.queues.wf := Iff.rfl

theorem slotsOk_iff_wf (v : Svc) : v.slotsOk ↔ tagsWf (requestTags v.out) := by
  rw [Svc.slotsOk, tagsWf, requestTags, List.map_map, List.forall_mem_map]
  rfl

theorem countsOk_iff_wf (s : State) : s.countsOk ↔ s.counts.wf :=
  and_congr (forall_congr' fun _ => debtsOk_iff_wf _) (and_congr (forall_congr' fun _ => queuesOk_iff_wf _) (slotsOk_iff_wf _))

/-! #### The counts of a state through its fields -/

@[simp] theorem stackDebts_msq (s : State) : stackDebts s.msq = s.counts.debts := rfl
@[simp] theorem portQueues_olf (s : State) : portQueues s.olf = s.counts.queues := rfl
@[simp] theorem requestTags_svc (s : State) : requestTags s.svc.out = s.counts.tags := rfl
@[simp] theorem Counts.eta (c : Counts) : (⟨c.debts, c.queues, c.tags⟩ : Counts) = c := rfl

@[simp] theorem counts_mk {pending freeCtr mem xfer upsets landing mesh tim eth tik spans clusters digs rows padsSet msq cxl pts olf cwy svc plc job hst
    ctl flt dmp cfg pwr sec rst pins ucie} :
    (⟨pending, freeCtr, mem, xfer, upsets, landing, mesh, tim, eth, tik, spans, clusters, digs, rows, padsSet, msq, cxl, pts, olf, cwy, svc, plc,
      job, hst, ctl, flt, dmp, cfg, pwr, sec, rst, pins, ucie⟩ : State).counts = ⟨stackDebts msq, portQueues olf, requestTags svc.out⟩ := rfl

@[simp] theorem counts_ite (p : Prop) [Decidable p] (s t : State) : (if p then s else t).counts = if p then s.counts else t.counts :=
  apply_ite State.counts p s t

@[simp] theorem counts_forEach {f : State → Nat → State} (hf : ∀ s x, (f s x).counts = s.counts) (l : List Nat) (s : State) :
    (forEach s l f).counts = s.counts := forEach_frame State.counts f hf l s

@[simp] theorem counts_foldl {α : Type} {f : State → α → State} (hf : ∀ s x, (f s x).counts = s.counts) (l : List α) (s : State) :
    (l.foldl f s).counts = s.counts := by
  induction l generalizing s with
  | nil => rfl
  | cons x r ih => rw [List.foldl_cons, ih, hf]

@[simp] theorem counts_foldl_snd {α β : Type} {f : β × State → α → β × State} (hf : ∀ p x, (f p x).2.counts = p.2.counts) (l : List α) (p : β × State) :
    (l.foldl f p).2.counts = p.2.counts := by
  induction l generalizing p with
  | nil => rfl
  | cons x r ih => rw [List.foldl_cons, ih, hf]

/-! #### Commands of a stack keep its debts (R260) -/

theorem dueBy_nonneg (c : Option Int) : 0 ≤ dueBy c := by
  cases c
  case none => rfl
  case some => exact Int.natCast_nonneg _

/-- The increases counted at a refresh are at most those that the bound counts for it. -/
theorem due_le {m : Msq} (j : Int) : m.due j ≤ max m.incs (dueBy (some j)) := by
  rw [Msq.due]
  split
  case isTrue => exact le_max_of_le_right le_rfl
  case isFalse => exact le_max_left _ _

theorem due_nonneg {m : Msq} (hm : 0 ≤ m.incs) (j : Int) : 0 ≤ m.due j := by
  rw [Msq.due]
  split
  case isTrue => exact Int.natCast_nonneg _
  case isFalse => exact hm

/-- A refreshed bank is within its bounds: its debt falls by one, down to −8 once the increases due by the refresh are counted. -/
theorem debt_refresh {m : Msq} (hm : 0 ≤ m.incs) (j : Int) {x : Bank} (hx : x.debt ≤ 0) :
    (x.refresh (m.due j)).debt ≤ 0 ∧ -8 ≤ max m.incs (dueBy (some j)) + (x.refresh (m.due j)).debt := by
  have hle := due_le (m := m) j
  have hge := due_nonneg hm j
  simp only [Bank.refresh]
  omega

/-- Debts stay within their bounds where the increases do not fall and each bank, with its pseudo-channel's last REFA, stands as before or is
within its bounds anew. -/
theorem debtsWf_of {d e : Debts} (hd : d.wf) (hincs : d.incs ≤ e.incs)
    (hbank : ∀ pc, pc < 64 → ∀ b, b < 48 → d.refa pc = e.refa pc ∧ d.bank (48 * pc + b) = e.bank (48 * pc + b) ∨
      bankWf e.incs (e.refa pc) (e.bank (48 * pc + b))) : e.wf := by
  obtain ⟨h0, hd⟩ := hd
  refine ⟨h0.trans hincs, fun pc hpc b hb => ?_⟩
  rcases hbank pc hpc b hb with ⟨hrefa, hkept⟩ | hnew
  · obtain ⟨hle, hge⟩ := hd pc hpc b hb
    rw [← hrefa, ← hkept]
    exact ⟨hle, by omega⟩
  · exact hnew

theorem debtsWf_of_eq {m n : Msq} (h : n.debts = m.debts) (hm : m.debts.wf) : n.debts.wf := h ▸ hm

theorem get_banks_setBank (m : Msq) (pc b : Nat) (x : Bank) (k : Nat) :
    Tbl.get {} (m.setBank pc b x).banks k = if k = 48 * pc + b then x else Tbl.get {} m.banks k := by
  rw [Msq.setBank]
  split
  case isTrue h => rw [h, Tbl.get_set]
  case isFalse h => rw [Tbl.get_set_ne _ _ _ _ _ h]

theorem get_pcs_setPc (m : Msq) (pc : Nat) (x : Pc) (k : Nat) : Tbl.get {} (m.setPc pc x).pcs k = if k = pc then x else Tbl.get {} m.pcs k := by
  rw [Msq.setPc]
  split
  case isTrue h => rw [h, Tbl.get_set]
  case isFalse h => rw [Tbl.get_set_ne _ _ _ _ _ h]

/-- A pseudo-channel replaced by one with the same last REFA leaves the debts as they are. -/
theorem debts_setPc (m : Msq) (pc : Nat) {x : Pc} (hx : x.refa = (m.pc pc).refa) : (m.setPc pc x).debts = m.debts := by
  have hpcs : (fun k => (Tbl.get {} (m.setPc pc x).pcs k).refa) = fun k => (Tbl.get {} m.pcs k).refa := by
    funext k
    rw [get_pcs_setPc]
    split
    case isTrue h => rw [h, hx]; rfl
    case isFalse => rfl
  rw [Msq.debts, hpcs]
  rfl

/-- A bank replaced by one with the same debt and last REFB leaves the debts as they are. -/
theorem debts_setBank (m : Msq) (pc b : Nat) {x : Bank} (hdebt : x.debt = (m.bank pc b).debt) (hrefb : x.refb = (m.bank pc b).refb) :
    (m.setBank pc b x).debts = m.debts := by
  have hbanks : (fun k => ((Tbl.get {} (m.setBank pc b x).banks k).debt, (Tbl.get {} (m.setBank pc b x).banks k).refb)) =
      fun k => ((Tbl.get {} m.banks k).debt, (Tbl.get {} m.banks k).refb) := by
    funext k
    rw [get_banks_setBank]
    split
    case isTrue h => rw [h, hdebt, hrefb]; rfl
    case isFalse => rfl
  rw [Msq.debts, hbanks]
  rfl

/-- Entries of a table changed over a range. -/
theorem get_updRange {α : Type} (d : α) (f : α → α) (lo n k : Nat) (t : Tbl α) :
    Tbl.get d (Tbl.updRange d t lo n f) k = if lo ≤ k ∧ k < lo + n then f (Tbl.get d t k) else Tbl.get d t k := by
  induction n with
  | zero => rw [if_neg (by omega)]; rfl
  | succ n ih =>
    have hlast : Tbl.updRange d t lo (n + 1) f = Tbl.upd d (Tbl.updRange d t lo n f) (lo + n) f := by
      simp [Tbl.updRange, range', List.range_succ]
    rw [hlast, Tbl.upd]
    by_cases hk : k = lo + n
    · rw [hk, Tbl.get_set, if_pos (by omega), ← hk, ih, if_neg (by omega)]
    · rw [Tbl.get_set_ne _ _ _ _ _ hk, ih]
      exact if_congr (by omega) rfl rfl

theorem close_debt (x : Bank) (j : Int) : (x.close j).debt = x.debt ∧ (x.close j).refb = x.refb := by
  rw [Bank.close]
  split <;> exact ⟨rfl, rfl⟩

theorem incs_apply (m : Msq) (c : MemCmd) (pc b row : Nat) (j : Int) : (m.apply c pc b row j).debts.incs = m.debts.incs := by
  cases c <;> simp only [Msq.debts, Msq.apply, Msq.setPc, Msq.setBank]

theorem bank_apply_refb (m : Msq) (pc b row : Nat) (j : Int) (k : Nat) : (m.apply .refb pc b row j).debts.bank k =
    if k = 48 * pc + b then (((m.bank pc b).refresh (m.due j)).debt, some j) else m.debts.bank k := by
  simp only [Msq.debts, Msq.apply, get_banks_setBank]
  split <;> rfl

theorem bank_apply_refa (m : Msq) (pc b row : Nat) (j : Int) (k : Nat) : (m.apply .refa pc b row j).debts.bank k =
    if 48 * pc ≤ k ∧ k < 48 * pc + 48 then (((Tbl.get {} m.banks k).refresh (m.due j)).debt, (Tbl.get {} m.banks k).refb) else m.debts.bank k := by
  simp only [Msq.debts, Msq.apply, Msq.setPc, get_updRange]
  split <;> rfl

theorem refa_apply_refa (m : Msq) (pc b row : Nat) (j : Int) (p : Nat) :
    (m.apply .refa pc b row j).debts.refa p = if p = pc then some j else m.debts.refa p := by
  simp only [Msq.debts, Msq.apply, get_pcs_setPc]
  split <;> rfl

/-- The debts after a command are within their bounds, whatever its bank and cycle: only a refresh changes them (R259, R260). -/
theorem debtsWf_apply {m : Msq} (hm : m.debts.wf) (c : MemCmd) (pc b row : Nat) (j : Int) : (m.apply c pc b row j).debts.wf := by
  cases c
  case act | rd | wr => exact debtsWf_of_eq ((debts_setPc _ _ (by rfl)).trans (debts_setBank m pc b (by rfl) (by rfl))) hm
  case pre => exact debtsWf_of_eq (debts_setBank m pc b (close_debt _ j).1 (close_debt _ j).2) hm
  case refb =>
    refine debtsWf_of hm (incs_apply ..).ge fun p hp a ha => ?_
    rw [bank_apply_refb, incs_apply]
    by_cases hk : 48 * p + a = 48 * pc + b
    case pos =>
      obtain ⟨hle, hge⟩ := debt_refresh hm.1 j (x := m.bank pc b) (by rw [Msq.bank, ← hk]; exact (hm.2 p hp a ha).1)
      rw [if_pos hk]
      exact .inr ⟨hle, hge.trans (add_le_add_left (max_le_max (le_refl m.incs) (le_max_left _ _)) _)⟩
    case neg =>
      rw [if_neg hk]
      exact .inl ⟨rfl, rfl⟩
  case refa =>
    refine debtsWf_of hm (incs_apply ..).ge fun p hp a ha => ?_
    rw [bank_apply_refa, refa_apply_refa, incs_apply]
    by_cases hk : p = pc
    case pos =>
      obtain ⟨hle, hge⟩ := debt_refresh hm.1 j (x := m.bank p a) (hm.2 p hp a ha).1
      rw [if_pos hk, if_pos (by omega)]
      exact .inr ⟨hle, hge.trans (add_le_add_left (max_le_max (le_refl m.incs) (le_max_right _ _)) _)⟩
    case neg =>
      rw [if_neg hk, if_neg (by omega)]
      exact .inl ⟨rfl, rfl⟩

theorem debtsWf_ite {p : Prop} [Decidable p] {m n : Msq} (hm : m.debts.wf) (hn : n.debts.wf) : (if p then m else n).debts.wf := by
  split
  case isTrue => exact hm
  case isFalse => exact hn

theorem debtsWf_foldl {α : Type} {f : Msq → α → Msq} (hf : ∀ m x, m.debts.wf → (f m x).debts.wf) (l : List α) {m : Msq} (hm : m.debts.wf) :
    (l.foldl f m).debts.wf := by
  induction l generalizing m with
  | nil => exact hm
  | cons x r ih => exact ih (hf m x hm)

theorem debtsWf_payUntil (n : Nat) (j : Int) {m : Msq} (hm : m.debts.wf) : (m.payUntil n j).debts.wf := by
  induction n generalizing m with
  | zero => exact hm
  | succ n ih =>
    rw [Msq.payUntil]
    split
    case h_1 => exact hm
    case h_2 x _ =>
      have happly := debtsWf_apply hm (m.nextForced x).1 (x.1 / 48) (x.1 % 48) 0 (m.nextForced x).2
      exact debtsWf_ite hm (ih (debtsWf_ite happly happly))

theorem debtsWf_paid {m : Msq} (hm : m.debts.wf) (j : Int) : (m.paid j).debts.wf := debtsWf_payUntil _ j hm

theorem debtsWf_payBank {m : Msq} (hm : m.debts.wf) (pc b : Nat) (j : Int) : (m.payBank pc b j).debts.wf :=
  debtsWf_apply (debtsWf_ite (debtsWf_apply hm _ _ _ _ _) hm) _ _ _ _ _

theorem debtsWf_closeAll {m : Msq} (hm : m.debts.wf) (j : Int) : (m.closeAll j).debts.wf :=
  debtsWf_foldl (fun _ _ h => debtsWf_ite (debtsWf_apply h _ _ _ _ _) h) _ hm

theorem debts_noteDebt (m : Msq) : m.noteDebt.debts = m.debts := by
  rw [Msq.noteDebt]
  split <;> rfl

/-- Where every bank's debt is zero and no increase has been counted, the debts are within their bounds. -/
theorem debtsWf_of_zero {m : Msq} (hincs : m.incs = 0) (hbanks : ∀ k, (Tbl.get {} m.banks k).debt = 0) : m.debts.wf := by
  refine ⟨hincs.ge, fun pc _ b _ => ⟨(hbanks _).le, ?_⟩⟩
  change -8 ≤ _ + (Tbl.get {} m.banks (48 * pc + b)).debt
  rw [hbanks, show m.debts.incs = 0 from hincs]
  omega

theorem debtsWf_refreshAll (m : Msq) (j : Int) : (m.refreshAll j).debts.wf :=
  debtsWf_of_zero rfl fun _ => Tbl.get_map_of (f := fun _ (x : Bank) => { x with acts := 0, debt := 0 }) (Q := fun x => x.debt = 0) rfl (fun _ => rfl) _

theorem debtsWf_handBack (m : Msq) (j : Int) (t : Nat) : (m.handBack j t).debts.wf :=
  debtsWf_of_zero rfl fun _ => Tbl.get_map_of (f := fun _ (x : Bank) => { x with debt := 0 }) (Q := fun x => x.debt = 0) rfl (fun _ => rfl) _

theorem debtsWf_startJob {m : Msq} (hm : m.debts.wf) (stream : Bool) : (m.startJob stream).debts.wf := by
  cases stream
  case false => exact hm
  case true => exact debtsWf_of_eq (debts_noteDebt _) (debtsWf_of_zero rfl fun _ => rfl)

theorem debtsWf_selfRefresh {m : Msq} (hm : m.debts.wf) : m.selfRefresh.debts.wf :=
  debtsWf_of hm le_rfl fun _ _ _ _ => .inr ⟨le_rfl, by
    have := hm.1
    change -8 ≤ max m.incs _ + 0
    change 0 ≤ m.incs at this
    omega⟩

/-- A word of a memory stream keeps the debts within their bounds. -/
theorem debtsWf_memWord {m : Msq} (hm : m.debts.wf) (c : MemCmd) (pclo pcn bank row : Nat) (all : Bool) (j : Nat) :
    (memWord m c pclo pcn bank row all j).1.debts.wf := by
  rw [memWord]
  refine List.foldlRecOn (motive := fun (a : Msq × List Nat × Option (Nat × Nat × Nat × Nat) × Bool) => a.1.debts.wf) _ _ hm fun a ha pc _ => ?_
  dsimp only
  split
  case isTrue => exact ha
  case isFalse =>
    split
    case h_1 => exact ha
    case h_2 => exact debtsWf_foldl (fun _ _ h => debtsWf_apply h _ _ _ _ _) _ ha

/-- One increase more: every debt counts it (R260). -/
theorem debtsWf_increase {m : Msq} (hm : m.debts.wf) {i : Int} (hi : m.incs ≤ i) : { m with incs := i }.debts.wf :=
  debtsWf_of hm hi fun _ _ _ _ => .inl ⟨rfl, rfl⟩

/-! #### The replay buffer (R306 to R311) -/

/-- The cells sent carry consecutive numbers up to the last one given. -/
def sentWf (a : List TxCell) (seq : Nat) : Prop :=
  ∀ i x, a[i]? = some x → x.fresh = false ∧ x.cell.seq = BitVec.ofNat 10 seq - BitVec.ofNat 10 (a.length - i)

/-- Cells that wait to be first sent are scheduled ones. -/
def waitWf (b : List TxCell) : Prop := ∀ x ∈ b, x.fresh = true ∧ x.sent = false ∧ x.cell.cls = 0

theorem replayWf_iff {l : List TxCell} {seq : Nat} : replayWf l seq ↔ ∃ a b, l = a ++ b ∧ sentWf a seq ∧ waitWf b := Iff.rfl

theorem replayWf_nil (seq : Nat) : replayWf [] seq := ⟨[], [], rfl, by simp, by simp⟩

theorem sentWf_fresh {a : List TxCell} {seq : Nat} (ha : sentWf a seq) {x : TxCell} (hx : x ∈ a) : x.fresh = false := by
  obtain ⟨i, hi⟩ := List.mem_iff_getElem?.mp hx
  exact (ha i x hi).1

theorem filter_sent {a b : List TxCell} {seq : Nat} (ha : sentWf a seq) (hb : waitWf b) : (a ++ b).filter (fun x => !x.fresh) = a := by
  rw [List.filter_append, List.filter_eq_self.mpr (by simpa using fun x hx => sentWf_fresh ha hx),
    List.filter_eq_nil_iff.mpr (by simpa using fun x hx => (hb x hx).1), List.append_nil]

theorem filter_wait {a b : List TxCell} {seq : Nat} (ha : sentWf a seq) (hb : waitWf b) : (a ++ b).filter (fun x => x.fresh) = b := by
  rw [List.filter_append, List.filter_eq_self.mpr (fun x hx => (hb x hx).1),
    List.filter_eq_nil_iff.mpr (by simpa using fun x hx => sentWf_fresh ha hx), List.nil_append]

/-- A scheduled cell formed waits behind the others. -/
theorem replayWf_form {l : List TxCell} {seq : Nat} (h : replayWf l seq) {x : TxCell} (hfresh : x.fresh = true) (hsent : x.sent = false)
    (hcls : x.cell.cls = 0) : replayWf (l ++ [x]) seq := by
  obtain ⟨a, b, rfl, ha, hb⟩ := h
  refine ⟨a, b ++ [x], List.append_assoc .., ha, fun y hy => ?_⟩
  rcases List.mem_append.mp hy with hy | hy
  · exact hb y hy
  · rw [List.mem_singleton.mp hy]
    exact ⟨hfresh, hsent, hcls⟩

/-- A NAK has the cells sent resent. -/
theorem replayWf_unsent {l : List TxCell} {seq : Nat} (h : replayWf l seq) : replayWf (l.map fun x => { x with sent := false }) seq := by
  obtain ⟨a, b, rfl, ha, hb⟩ := h
  refine ⟨_, _, List.map_append, fun i x hx => ?_, fun x hx => ?_⟩
  · rw [List.getElem?_map, Option.map_eq_some_iff] at hx
    obtain ⟨y, hy, rfl⟩ := hx
    rw [List.length_map]
    exact ha i y hy
  · obtain ⟨y, hy, rfl⟩ := List.mem_map.mp hx
    exact ⟨(hb y hy).1, rfl, (hb y hy).2.2⟩

/-- Cells acknowledged leave the buffer from its front. -/
theorem sentWf_drop {a : List TxCell} {seq : Nat} (ha : sentWf a seq) (n : Nat) : sentWf (a.drop n) seq := by
  intro i x hx
  rw [List.getElem?_drop] at hx
  obtain ⟨hfresh, hseq⟩ := ha (n + i) x hx
  refine ⟨hfresh, ?_⟩
  rw [hseq, List.length_drop, Nat.sub_sub]

theorem replayWf_drop {l : List TxCell} {seq n : Nat} (h : replayWf l seq) (hn : n ≤ (l.filter fun x => !x.fresh).length) :
    replayWf (l.drop n) seq := by
  obtain ⟨a, b, rfl, ha, hb⟩ := h
  rw [filter_sent ha hb] at hn
  exact ⟨a.drop n, b, List.drop_append_of_le_length hn, sentWf_drop ha n, hb⟩

theorem ofNat_succ_mod (seq : Nat) : BitVec.ofNat 10 ((seq + 1) % 1024) = BitVec.ofNat 10 seq + 1 := by
  apply BitVec.eq_of_toNat_eq
  simp

/-- A cell sent with the next number stands behind those sent. -/
theorem sentWf_send {a : List TxCell} {seq : Nat} (ha : sentWf a seq) {x : TxCell} (hfresh : x.fresh = false)
    (hseq : x.cell.seq = BitVec.ofNat 10 seq) : sentWf (a ++ [x]) ((seq + 1) % 1024) := by
  intro i y hy
  rw [ofNat_succ_mod, List.length_append, List.length_singleton]
  rcases Nat.lt_trichotomy i a.length with hi | hi | hi
  · rw [List.getElem?_append_left hi] at hy
    obtain ⟨hold, hnum⟩ := ha i y hy
    refine ⟨hold, hnum.trans ?_⟩
    rw [Nat.sub_add_comm hi.le, BitVec.ofNat_add]
    exact (add_sub_add_right_eq_sub _ _ _).symm
  · rw [hi, List.getElem?_append_right le_rfl, Nat.sub_self] at hy
    cases hy
    refine ⟨hfresh, hseq.trans ?_⟩
    rw [hi, Nat.add_sub_cancel_left]
    exact (add_sub_cancel_right _ _).symm
  · rw [List.getElem?_eq_none (by simp; omega)] at hy
    cases hy

/-- A service or footway cell first sent goes before the cells that wait. -/
theorem replayWf_sendSvc {l : List TxCell} {seq : Nat} (h : replayWf l seq) {x : TxCell} (hfresh : x.fresh = false)
    (hseq : x.cell.seq = BitVec.ofNat 10 seq) :
    replayWf (l.filter (fun x => !x.fresh) ++ [x] ++ l.filter (fun x => x.fresh)) ((seq + 1) % 1024) := by
  obtain ⟨a, b, rfl, ha, hb⟩ := h
  rw [filter_sent ha hb, filter_wait ha hb]
  exact ⟨a ++ [x], b, rfl, sentWf_send ha hfresh hseq, hb⟩

/-- The first of the waiting cells takes the next number. -/
theorem takeUnsent_wait {b : List TxCell} (hb : waitWf b) {seq : Nat} {y : Cell × Bool × List TxCell} (hy : takeUnsent seq b = some y) :
    ∃ x r, y = (x.cell, true, x :: r) ∧ x.fresh = false ∧ x.cell.seq = BitVec.ofNat 10 seq ∧ waitWf r := by
  cases b with
  | nil => cases hy
  | cons x r =>
    obtain ⟨hfresh, hsent, -⟩ := hb x List.mem_cons_self
    rw [takeUnsent, hsent, hfresh] at hy
    cases hy
    exact ⟨{ x with cell := { x.cell with seq := BitVec.ofNat 10 seq }, sent := true, fresh := false }, r, rfl, rfl, rfl, fun z hz => hb z (List.mem_cons_of_mem _ hz)⟩

/-- The first unsent cell is one to be resent, which keeps its number, or the first of those that wait. -/
theorem takeUnsent_append {a b : List TxCell} (ha : ∀ x ∈ a, x.fresh = false) {seq : Nat} {y : Cell × Bool × List TxCell}
    (hy : takeUnsent seq (a ++ b) = some y) :
    (∃ i x, a[i]? = some x ∧ y = (x.cell, false, a.set i { x with sent := true } ++ b)) ∨
      ∃ z, takeUnsent seq b = some z ∧ y = (z.1, z.2.1, a ++ z.2.2) := by
  induction a generalizing y with
  | nil => exact .inr ⟨y, hy, rfl⟩
  | cons x r ih =>
    have hx : x.fresh = false := ha x List.mem_cons_self
    rw [List.cons_append, takeUnsent] at hy
    cases hsent : x.sent
    case false =>
      rw [hsent, hx] at hy
      cases hy
      exact .inl ⟨0, x, rfl, by simp [← hx]⟩
    case true =>
      rw [hsent, if_pos rfl, Option.map_eq_some_iff] at hy
      obtain ⟨w, hw, rfl⟩ := hy
      rcases ih (fun z hz => ha z (List.mem_cons_of_mem _ hz)) hw with ⟨i, z, hz, rfl⟩ | ⟨z, hz, rfl⟩
      · exact .inl ⟨i + 1, z, hz, rfl⟩
      · exact .inr ⟨z, hz, rfl⟩

theorem replayWf_takeUnsent {l : List TxCell} {seq : Nat} (h : replayWf l seq) {y : Cell × Bool × List TxCell} (hy : takeUnsent seq l = some y) :
    replayWf y.2.2 (if y.2.1 then (seq + 1) % 1024 else seq) := by
  obtain ⟨a, b, rfl, ha, hb⟩ := h
  rcases takeUnsent_append (fun x hx => sentWf_fresh ha hx) hy with ⟨i, x, hx, rfl⟩ | ⟨z, hz, rfl⟩
  · refine ⟨_, b, rfl, fun k w hw => ?_, hb⟩
    rw [List.length_set]
    rw [List.getElem?_set] at hw
    split at hw
    case isTrue hk =>
      subst hk
      split at hw <;> cases hw
      exact ha i x hx
    case isFalse => exact ha k w hw
  · obtain ⟨x, r, rfl, hfresh, hseq, hr⟩ := takeUnsent_wait hb hz
    exact ⟨a ++ [x], r, by simp, sentWf_send ha hfresh hseq, hr⟩

/-! #### What a port does with its queues (R307 to R317, R344 to R346) -/

theorem queuesWf_of_eq {o o' : Olf} (h : o'.queues = o.queues) (ho : o.queues.wf) : o'.queues.wf := h ▸ ho

theorem queuesWf_ite {p : Prop} [Decidable p] {o o' : Olf} (ho : o.queues.wf) (ho' : o'.queues.wf) : (if p then o else o').queues.wf := by
  split
  case isTrue => exact ho
  case isFalse => exact ho'

/-- Empty queues are within their bounds, whatever credits they hold within their shares. -/
theorem queuesWf_empty {seq svc foot : Nat} (hsvc : svc ≤ 56) (hfoot : foot ≤ 8) : (⟨[], seq, [], [], svc, foot⟩ : Queues).wf :=
  ⟨replayWf_nil seq, by simp, by simp, by simp, hsvc, hfoot⟩

theorem queuesWf_dropped (o : Olf) : o.dropped_.queues.wf := queuesWf_empty (Nat.zero_le _) (Nat.zero_le _)

theorem queuesWf_down (o : Olf) (t : Nat) : (o.down t).queues.wf := queuesWf_dropped o

theorem queuesWf_release {o : Olf} (ho : o.queues.wf) (ack : Nat) : (o.release ack).queues.wf := by
  obtain ⟨hreplay, hrest⟩ := ho
  rw [Olf.release]
  split
  case h_1 => exact ⟨hreplay, hrest⟩
  case h_2 =>
    dsimp only
    split
    case isTrue => exact ⟨hreplay, hrest⟩
    case isFalse h =>
      simp only [Bool.or_eq_true, decide_eq_true_eq, not_or, Nat.not_lt] at h
      exact ⟨replayWf_drop hreplay h.2, hrest⟩

/-- Credits set within their shares. -/
theorem queuesWf_credits {o : Olf} (ho : o.queues.wf) {svc foot : Nat} (hsvc : svc ≤ 56) (hfoot : foot ≤ 8) :
    ({ o.queues with credSvc := svc, credFoot := foot } : Queues).wf := by
  obtain ⟨hreplay, hrxSvc, hrxFoot, hsix, -⟩ := ho
  exact ⟨hreplay, hrxSvc, hrxFoot, hsix, hsvc, hfoot⟩

theorem queuesWf_credit {o : Olf} (ho : o.queues.wf) (c : BitVec 6) : (o.credit c).queues.wf := by
  obtain ⟨-, -, -, -, hsvc, hfoot⟩ := id ho
  rw [Olf.credit]
  split
  case isTrue => exact queuesWf_credits ho (min_le_left ..) hfoot
  case isFalse => exact queuesWf_credits ho hsvc (min_le_left ..)

theorem queuesWf_recredit {o : Olf} (ho : o.queues.wf) (svc foot : Nat) : (o.recredit svc foot).queues.wf :=
  queuesWf_credits ho (Nat.sub_le ..) (Nat.sub_le ..)

theorem queues_nextFrag (o : Olf) : o.nextFrag.2.queues = o.queues := by
  unfold Olf.nextFrag
  repeat' split
  all_goals rfl

theorem queues_put (o : Olf) (c : Cell) : (o.put c).2.queues = o.queues := by
  simp only [Olf.put, Olf.returns]
  repeat' split
  all_goals rfl

theorem queuesWf_nextSvc {o : Olf} (ho : o.queues.wf) {x : Cell × Olf} (hx : o.nextSvc = some x) : x.2.queues.wf := by
  obtain ⟨-, -, -, -, hsvc, hfoot⟩ := id ho
  unfold Olf.nextSvc at hx
  dsimp only at hx
  split at hx <;> cases hx
  case h_1 => exact queuesWf_credits ho hsvc ((Nat.sub_le ..).trans hfoot)
  case h_2 => exact queuesWf_credits ho hsvc ((Nat.sub_le ..).trans hfoot)
  case h_3 => exact queuesWf_credits ho ((Nat.sub_le ..).trans hsvc) hfoot

theorem queuesWf_sendSvc {o : Olf} (ho : o.queues.wf) (c : Cell) (j : Nat) : (o.sendSvc c j).2.queues.wf := by
  obtain ⟨hreplay, hrest⟩ := ho
  exact queuesWf_of_eq (queues_put ..) ⟨replayWf_sendSvc hreplay (by rfl) (by rfl), hrest⟩

theorem queuesWf_sendNext {o : Olf} (ho : o.queues.wf) {x : List Byte × Olf} (hx : o.sendNext = some x) : x.2.queues.wf := by
  obtain ⟨hreplay, hrest⟩ := ho
  rw [Olf.sendNext, Option.map_eq_some_iff] at hx
  obtain ⟨y, hy, rfl⟩ := hx
  exact queuesWf_of_eq (queues_put ..) ⟨replayWf_takeUnsent hreplay hy, hrest⟩

theorem queuesWf_getD_sendNext {o : Olf} (ho : o.queues.wf) {idle : List Byte × Olf} (hidle : idle.2.queues.wf) : (o.sendNext.getD idle).2.queues.wf := by
  cases hsend : o.sendNext
  case none => exact hidle
  case some x => exact queuesWf_sendNext ho hsend

theorem queuesWf_position (s : State) {o : Olf} (ho : o.queues.wf) (j : Nat) (spare res : Bool) : (s.position o j spare res).2.queues.wf := by
  have hidle : (o.put s.idleCell).2.queues.wf := queuesWf_of_eq (queues_put ..) ho
  have hnext := queuesWf_getD_sendNext ho hidle
  have hsvc : ∀ x, (if spare then none else o.nextSvc) = some x → x.2.queues.wf := fun x hx => by
    cases spare
    case true => cases hx
    case false => exact queuesWf_nextSvc ho hx
  unfold State.position
  dsimp only
  generalize (if spare then none else o.nextSvc) = svc at hsvc
  repeat' split
  any_goals exact hnext
  any_goals exact hidle
  all_goals exact queuesWf_sendSvc (hsvc _ rfl) _ _

theorem queuesWf_foldl_snd {α β : Type} {f : β × Olf → α → β × Olf} (hf : ∀ p x, p.2.queues.wf → (f p x).2.queues.wf) (l : List α) {p : β × Olf}
    (hp : p.2.queues.wf) : (l.foldl f p).2.queues.wf := by
  induction l generalizing p with
  | nil => exact hp
  | cons x r ih => exact ih (hf p x hp)

theorem queuesWf_frameGroup (s : State) (p f g : Nat) {o : Olf} (ho : o.queues.wf) : (s.frameGroup p f g o).2.queues.wf := by
  unfold State.frameGroup
  dsimp only
  refine queuesWf_position s (queuesWf_foldl_snd (fun x i hx => by dsimp only; exact queuesWf_position s hx _ _ _) _ ?_) _ _ _
  exact queuesWf_of_eq (queues_nextFrag o) ho

/-- A cell that has come takes a receive entry while one of its share is free (R316, R346). -/
theorem queuesWf_receive {o : Olf} (ho : o.queues.wf) (c : Cell) :
    (if c.cls = 1 then (if o.rxSvc.length < 56 then { o with rxSvc := o.rxSvc ++ [c] } else o)
      else if o.rxFoot.length < 8 && (c.kind == 8 || decide ((o.rxFoot.filter (fun x => x.kind != 8)).length < 6)) then
        { o with rxFoot := o.rxFoot ++ [c] }
      else o).queues.wf := by
  obtain ⟨hreplay, hsvc, hfoot, hsix, hcred⟩ := id ho
  split
  case isTrue =>
    split
    case isTrue h => exact ⟨hreplay, by simpa [Olf.queues] using h, hfoot, hsix, hcred⟩
    case isFalse => exact ho
  case isFalse =>
    split
    case isTrue h =>
      simp only [Bool.and_eq_true, Bool.or_eq_true, decide_eq_true_eq, beq_iff_eq] at h
      refine ⟨hreplay, hsvc, by simpa [Olf.queues] using h.1, ?_, hcred⟩
      change ((o.rxFoot ++ [c]).filter _).length ≤ 6
      rw [List.filter_append, List.length_append]
      rcases h.2 with hkind | hsix'
      · rw [List.filter_singleton, hkind]
        exact hsix
      · have hone := List.length_filter_le (fun c => c.kind != 8) [c]
        rw [List.length_singleton] at hone
        omega
    case isFalse => exact ho

/-- A cell taken by the router frees its entry (R316). -/
theorem queuesWf_erase {o : Olf} (ho : o.queues.wf) (c : Cell) :
    ({ o.queues with rxSvc := o.rxSvc.erase c } : Queues).wf ∧ ({ o.queues with rxFoot := o.rxFoot.erase c } : Queues).wf := by
  obtain ⟨hreplay, hsvc, hfoot, hsix, hcred⟩ := ho
  have hshare := ((List.erase_sublist (a := c)).filter (fun (x : Cell) => x.kind != 8)).length_le.trans hsix
  exact ⟨⟨hreplay, List.length_erase_le.trans hsvc, hfoot, hsix, hcred⟩, ⟨hreplay, hsvc, List.length_erase_le.trans hfoot, hshare, hcred⟩⟩

/-! #### Requests enter free slots and leave them (R350 to R353) -/

theorem tagsWf_nil : tagsWf [] := ⟨List.Pairwise.nil, by simp⟩

/-- Requests that are answered leave their slots. -/
theorem tagsWf_filter {t : Tbl SvcOut} (ht : tagsWf (requestTags t)) (p : Nat × SvcOut → Bool) : tagsWf (requestTags (t.filter p)) := by
  have hsub : (requestTags (t.filter p)).Sublist (requestTags t) := List.filter_sublist.map _
  exact ⟨ht.1.sublist (hsub.map _), fun x hx => ht.2 x (hsub.mem hx)⟩

theorem mem_of_mem_set {α : Type} {t : Tbl α} {k : Nat} {v : α} {x : Nat × α} (hx : x ∈ Tbl.set t k v) : x = (k, v) ∨ x ∈ t := by
  induction t with
  | nil => exact .inl (List.mem_singleton.mp hx)
  | cons y r ih =>
    simp only [Tbl.set] at hx
    split at hx
    case isTrue => exact List.mem_cons.mp hx
    case isFalse =>
      split at hx
      case isTrue => exact (List.mem_cons.mp hx).imp_right (List.mem_cons_of_mem _)
      case isFalse =>
        rcases List.mem_cons.mp hx with rfl | hx
        · exact .inr List.mem_cons_self
        · exact (ih hx).imp_right (List.mem_cons_of_mem _)

/-- A table in the order of its keys stays so when a value is set. -/
theorem pairwise_set {α : Type} {t : Tbl α} (ht : (t.map (·.1)).Pairwise (· < ·)) (k : Nat) (v : α) :
    ((Tbl.set t k v).map (·.1)).Pairwise (· < ·) := by
  induction t with
  | nil => exact List.pairwise_singleton _ _
  | cons y r ih =>
    obtain ⟨hfirst, hrest⟩ := List.pairwise_cons.mp ht
    rw [Tbl.set]
    split
    case isTrue hlt => exact List.pairwise_cons.mpr ⟨List.forall_mem_cons.mpr ⟨hlt, fun z hz => hlt.trans (hfirst z hz)⟩, ht⟩
    case isFalse hlt =>
      split
      case isTrue heq => exact heq ▸ ht
      case isFalse hne =>
        refine List.pairwise_cons.mpr ⟨fun z hz => ?_, ih hrest⟩
        obtain ⟨x, hx, rfl⟩ := List.mem_map.mp hz
        rcases mem_of_mem_set hx with rfl | hx
        · exact lt_of_le_of_ne (Nat.le_of_not_lt hlt) (Ne.symm hne)
        · exact hfirst _ (List.mem_map_of_mem hx)

/-- A request enters a slot, with a tag that names it. -/
theorem tagsWf_set {t : Tbl SvcOut} (ht : tagsWf (requestTags t)) {slot : Nat} (hslot : slot < 64) {v : SvcOut} (htag : v.rtag.toNat % 64 = slot) :
    tagsWf (requestTags (Tbl.set t slot v)) := by
  obtain ⟨hsorted, hslots⟩ := ht
  rw [requestTags, List.map_map] at hsorted
  refine ⟨by rw [requestTags, List.map_map]; exact pairwise_set hsorted slot v, fun x hx => ?_⟩
  obtain ⟨y, hy, rfl⟩ := List.mem_map.mp hx
  rcases mem_of_mem_set hy with rfl | hy
  · exact ⟨hslot, htag⟩
  · exact hslots _ (List.mem_map_of_mem hy)

theorem freeSlot_lt {s : State} {i : Nat} (h : s.freeSlot = some i) : i < 64 := by
  have hmem := List.mem_of_find?_eq_some h
  exact List.mem_range.mp hmem

/-! #### What leaves the counts as they are

A stack's debts, a port's queues and the requests' slots where a change of the record leaves their fields alone. -/

@[simp] theorem Msq.debts_mk {ttab tact cnt fltLog eccCnt eccLog refMax temp running auto selfRef hot faulted scrubbing kept tactOver str halted
    haltAt autoAt train incs banks pcs owed modeRegs} :
    (⟨ttab, tact, cnt, fltLog, eccCnt, eccLog, refMax, temp, running, auto, selfRef, hot, faulted, scrubbing, kept, tactOver, str, halted,
      haltAt, autoAt, train, incs, banks, pcs, owed, modeRegs⟩ : Msq).debts = ⟨incs, fun k => ((Tbl.get {} banks k).debt, (Tbl.get {} banks
      k).refb), fun pc => (Tbl.get {} pcs pc).refa⟩ := by rfl

@[simp] theorem Msq.debts_eta (m : Msq) :
    (⟨m.incs, fun k => ((Tbl.get {} m.banks k).debt, (Tbl.get {} m.banks k).refb), fun pc => (Tbl.get {} m.pcs pc).refa⟩ : Debts) = m.debts := by rfl

@[simp] theorem Msq.debts_ite (p : Prop) [Decidable p] (m n : Msq) : (if p then m else n).debts = if p then m.debts else n.debts :=
  apply_ite Msq.debts p m n

@[simp] theorem Olf.queues_mk {ctl st stAt sched svcOnly lock miswired revDown tollOver leader epoch width peerId peer lane toll cnt cnt2 log
    peerDig digOnly named windows gotPeer gotGot gotFinal peerEpoch peerWidth retrain propose admitted retrains downAt lossAt keptLane txSeq
    replay nakSeq nakCount nakAt dropped qAbort qFoot qSvc credSvc credFoot sentSvc sentFoot footOut retSvc retFoot cumSvc cumFoot msgs frags
    rxSeq nak hold matched rxSvc rxFoot rxMsg leakSvc leakFoot runTick runMiss frames} :
    (⟨ctl, st, stAt, sched, svcOnly, lock, miswired, revDown, tollOver, leader, epoch, width, peerId, peer, lane, toll, cnt, cnt2, log, peerDig,
      digOnly, named, windows, gotPeer, gotGot, gotFinal, peerEpoch, peerWidth, retrain, propose, admitted, retrains, downAt, lossAt, keptLane,
      txSeq, replay, nakSeq, nakCount, nakAt, dropped, qAbort, qFoot, qSvc, credSvc, credFoot, sentSvc, sentFoot, footOut, retSvc, retFoot,
      cumSvc, cumFoot, msgs, frags, rxSeq, nak, hold, matched, rxSvc, rxFoot, rxMsg, leakSvc, leakFoot, runTick, runMiss, frames⟩ : Olf).queues =
      ⟨replay, txSeq, rxSvc, rxFoot, credSvc, credFoot⟩ := by rfl

@[simp] theorem Olf.queues_eta (o : Olf) : (⟨o.replay, o.txSeq, o.rxSvc, o.rxFoot, o.credSvc, o.credFoot⟩ : Queues) = o.queues := by rfl

@[simp] theorem Olf.queues_ite (p : Prop) [Decidable p] (o o' : Olf) : (if p then o else o').queues = if p then o.queues else o'.queues :=
  apply_ite Olf.queues p o o'

theorem stackDebts_set (t : Tbl Msq) (st : Nat) (m : Msq) (k : Nat) :
    stackDebts (Tbl.set t st m) k = if k = st then m.debts else stackDebts t k := by
  rw [stackDebts]
  split
  case isTrue h => rw [h, Tbl.get_set]
  case isFalse h => rw [Tbl.get_set_ne _ _ _ _ _ h]; rfl

theorem portQueues_set (t : Tbl Olf) (p : Nat) (o : Olf) (k : Nat) :
    portQueues (Tbl.set t p o) k = if k = p then o.queues else portQueues t k := by
  rw [portQueues]
  split
  case isTrue h => rw [h, Tbl.get_set]
  case isFalse h => rw [Tbl.get_set_ne _ _ _ _ _ h]; rfl

theorem counts_setMs_eq (s : State) (st : Nat) (m : Msq) :
    (s.setMs st m).counts = { s.counts with debts := fun k => if k = st then m.debts else s.counts.debts k } :=
  congrArg (fun d => (⟨d, s.counts.queues, s.counts.tags⟩ : Counts)) (funext (stackDebts_set s.msq st m))

theorem counts_setPort_eq (s : State) (p : Nat) (o : Olf) :
    (s.setPort p o).counts = { s.counts with queues := fun k => if k = p then o.queues else s.counts.queues k } :=
  congrArg (fun q => (⟨s.counts.debts, q, s.counts.tags⟩ : Counts)) (funext (portQueues_set s.olf p o))

@[simp] theorem counts_setMs {s : State} {st : Nat} {m : Msq} (hm : m.debts = (s.ms st).debts) : (s.setMs st m).counts = s.counts := by
  have hdebts : (fun k => if k = st then m.debts else s.counts.debts k) = s.counts.debts := by
    funext k
    exact ite_eq_right_iff.mpr fun h => hm.trans (h ▸ rfl)
  rw [counts_setMs_eq, hdebts]

@[simp] theorem counts_setPort {s : State} {p : Nat} {o : Olf} (ho : o.queues = (s.port p).queues) : (s.setPort p o).counts = s.counts := by
  have hqueues : (fun k => if k = p then o.queues else s.counts.queues k) = s.counts.queues := by
    funext k
    exact ite_eq_right_iff.mpr fun h => ho.trans (h ▸ rfl)
  rw [counts_setPort_eq, hqueues]

@[simp] theorem counts_updMs {f : Msq → Msq} (hf : ∀ m, (f m).debts = m.debts) (s : State) (st : Nat) : (s.updMs st f).counts = s.counts :=
  counts_setMs (hf _)

@[simp] theorem counts_updPort {f : Olf → Olf} (hf : ∀ o, (f o).queues = o.queues) (s : State) (p : Nat) : (s.updPort p f).counts = s.counts :=
  counts_setPort (hf _)

@[simp] theorem counts_updSvc {f : Svc → Svc} (hf : ∀ v, requestTags (f v).out = requestTags v.out) (s : State) : (s.updSvc f).counts = s.counts :=
  congrArg (fun t => (⟨s.counts.debts, s.counts.queues, t⟩ : Counts)) (hf s.svc)

/-- A function of a table's values that a change of the values leaves as it is. -/
theorem get_map_congr {α β : Type} {d : α} {g : α → β} {f : Nat × α → Nat × α} (hkey : ∀ x, (f x).1 = x.1) (hval : ∀ x, g (f x).2 = g x.2)
    (t : Tbl α) (k : Nat) : g (Tbl.get d (t.map f) k) = g (Tbl.get d t k) := by
  induction t with
  | nil => rfl
  | cons x r ih =>
    simp only [List.map_cons, Tbl.get, hkey]
    split
    case isTrue => exact hval x
    case isFalse => exact ih

theorem stackDebts_map {f : Nat × Msq → Nat × Msq} (hkey : ∀ x, (f x).1 = x.1) (hdebts : ∀ x, (f x).2.debts = x.2.debts) (t : Tbl Msq) :
    stackDebts (t.map f) = stackDebts t := funext (get_map_congr hkey hdebts t)

theorem portQueues_map {f : Nat × Olf → Nat × Olf} (hkey : ∀ x, (f x).1 = x.1) (hqueues : ∀ x, (f x).2.queues = x.2.queues) (t : Tbl Olf) :
    portQueues (t.map f) = portQueues t := funext (get_map_congr hkey hqueues t)

@[simp] theorem Olf.queues_settleUse (o : Olf) : o.settleUse.queues = o.queues := by rfl
@[simp] theorem Olf.queues_trimFoot (o : Olf) : o.trimFoot.queues = o.queues := by rfl
@[simp] theorem Olf.queues_unmapped (o : Olf) : o.unmapped.queues = o.queues := by rfl
@[simp] theorem Olf.queues_notePeer (o : Olf) (b : List Byte) : (o.notePeer b).queues = o.queues := by rfl
@[simp] theorem Olf.queues_sendWidth (o : Olf) : o.sendWidth.queues = o.queues := by rfl

@[simp] theorem Olf.queues_proposeLost (o : Olf) : o.proposeLost.queues = o.queues := by
  rw [Olf.proposeLost]
  split <;> rfl

/-! #### Functions that leave the counts as they are

One lemma per function of the model, in the model's order; a later lemma uses the earlier ones through `simp`. -/

/-! State operations -/

@[simp] theorem counts_setClu (s : State) (c : Nat) (k : Cluster) : (State.setClu s c k).counts = s.counts := by rfl
@[simp] theorem counts_updClu (s : State) (c : Nat) (f : Cluster → Cluster) : (State.updClu s c f).counts = s.counts := by rfl
@[simp] theorem counts_updSpn (s : State) (p : Nat) (f : Spn → Spn) : (State.updSpn s p f).counts = s.counts := by rfl
@[simp] theorem counts_updRtr (s : State) (p : Nat) (f : Cwy → Cwy) : (State.updRtr s p f).counts = s.counts := by rfl
@[simp] theorem counts_setPt (s : State) (p : Nat) (k : Machine.Stream) : (State.setPt s p k).counts = s.counts := by rfl
@[simp] theorem counts_updTim (s : State) (f : Tim → Tim) : (State.updTim s f).counts = s.counts := by rfl
@[simp] theorem counts_updHst (s : State) (f : Hst → Hst) : (State.updHst s f).counts = s.counts := by rfl
@[simp] theorem counts_updFlt (s : State) (f : Flt → Flt) : (State.updFlt s f).counts = s.counts := by rfl
@[simp] theorem counts_updPlc (s : State) (f : Plc → Plc) : (State.updPlc s f).counts = s.counts := by rfl
@[simp] theorem counts_updCfg (s : State) (f : Cfg → Cfg) : (State.updCfg s f).counts = s.counts := by rfl
@[simp] theorem counts_updPwr (s : State) (f : Pwr → Pwr) : (State.updPwr s f).counts = s.counts := by rfl
@[simp] theorem counts_updJob (s : State) (f : Job → Job) : (State.updJob s f).counts = s.counts := by rfl
@[simp] theorem counts_updTik (s : State) (f : Tik → Tik) : (State.updTik s f).counts = s.counts := by rfl
@[simp] theorem counts_updCxl (s : State) (f : Cxl → Cxl) : (State.updCxl s f).counts = s.counts := by rfl

@[simp] theorem counts_advance (s : State) (t : Nat) : (s.advance t).counts = s.counts := by
  rw [advance_frame]; rfl

@[simp] theorem counts_beat (s : State) (n period : Nat) : (State.beat s n period).counts = s.counts := by
  unfold State.beat
  split <;> simp

@[simp] theorem counts_alignedBeat (s : State) (n period : Nat) : (State.alignedBeat s n period).counts = s.counts := by simp [State.alignedBeat]
@[simp] theorem counts_stopClocks (s : State) : (State.stopClocks s).counts = s.counts := by simp [State.stopClocks]
@[simp] theorem counts_ask (s : State) (q : CtlReq) : (State.ask s q).counts = s.counts := by rfl
@[simp] theorem counts_raiseFull (s : State) (r : Raised) : (State.raiseFull s r).counts = s.counts := by rfl

@[simp] theorem counts_raise (s : State) (code : BitVec 16) (src agent : Nat) (detail : Reg) (addr : Option Nat) (aux : Nat) :
    (State.raise s code src agent detail addr aux).counts = s.counts := by
  rfl

@[simp] theorem counts_raiseEdge (s : State) (code : BitVec 16) (src agent : Nat) (detail : Reg) :
    (State.raiseEdge s code src agent detail).counts = s.counts := by
  rfl

@[simp] theorem counts_signal (s : State) (v : Nat) : (State.signal s v).counts = s.counts := by rfl

@[simp] theorem counts_clamp (w : Wr) (r lsb len lo hi : Nat) (code : Bool) : (w.clamp r lsb len lo hi code).s.counts = w.s.counts := by
  unfold Wr.clamp
  dsimp only
  split
  · rfl
  · split <;> rfl

@[simp] theorem counts_event (s : State) (ty : Nat) (body : List Byte) : (s.event ty body).counts = s.counts := by
  rw [event_frame]; rfl

@[simp] theorem counts_askAbort (s : State) (step : Nat) (code : BitVec 16) : (State.askAbort s step code).counts = s.counts := by rfl
@[simp] theorem counts_freeBytes (s : State) (n : Nat) : (State.freeBytes s n).2.counts = s.counts := by rfl

/-! Flash -/

@[simp] theorem counts_bootAppend (s : State) (r : BootRec) : (State.bootAppend s r).counts = s.counts := by rfl

/-! Journal -/

@[simp] theorem counts_startCompact (s : State) : (State.startCompact s).counts = s.counts := by simp [State.startCompact]

@[simp] theorem counts_journal (s : State) (ty : BitVec 16) (payload : List Byte) : (s.journal ty payload).counts = s.counts := by
  rw [journal_frame]; rfl

@[simp] theorem counts_cutAppend (b s : State) : (b.cutAppend s).counts = b.counts := by
  unfold State.cutAppend
  dsimp only
  split <;> rfl

@[simp] theorem counts_tileFail (s : State) (row col src : Nat) : (State.tileFail s row col src).counts = s.counts := by simp [State.tileFail]
@[simp] theorem counts_ueLine (s : State) (cl line : Nat) : (State.ueLine s cl line).counts = s.counts := by simp [State.ueLine]

/-! Operands -/

@[simp] theorem counts_scrubWords (s : State) (area : Area) (line : Nat) (ws : List Nat) : (State.scrubWords s area line ws).counts = s.counts := by
  rfl

@[simp] theorem counts_reportCorr (s : State) (code : BitVec 16) (area line src agent : Nat) (log : Reg) (addr : Nat) :
    (State.reportCorr s code area line src agent log addr).counts = s.counts := by
  simp [State.reportCorr]

@[simp] theorem counts_readLine (s : State) (cl line : Nat) : (State.readLine s cl line).2.counts = s.counts := by
  simp only [State.readLine]
  repeat' split
  all_goals simp

@[simp] theorem counts_clearFrame (s : State) (P : Nat) : (State.clearFrame s P).counts = s.counts := by rfl

@[simp] theorem counts_xqNote (s : State) (span q entry : Nat) (half kind ph : Nat) :
    (State.xqNote s span q entry half kind ph).counts = s.counts := by
  rfl

@[simp] theorem counts_xqFault (s : State) (code : BitVec 16) (span agent q entry : Nat) (half kind ph : Nat) :
    (State.xqFault s code span agent q entry half kind ph).counts = s.counts := by
  rfl

@[simp] theorem counts_readEntry (s : State) (span agent q entry P : Nat) (quiet : Bool) :
    (State.readEntry s span agent q entry P quiet).2.counts = s.counts := by
  simp only [State.readEntry]
  repeat' split
  all_goals simp

@[simp] theorem counts_landFlaw (s : State) (cl span q entry key : Nat) : (State.landFlaw s cl span q entry key).counts = s.counts := by
  simp [State.landFlaw]

@[simp] theorem counts_readLanding (s : State) (cl agent q entry P : Nat) (quiet : Bool) :
    (State.readLanding s cl agent q entry P quiet).2.2.counts = s.counts := by
  simp [State.readLanding]

@[simp] theorem counts_put (s : State) (span q entry : Nat) (half0 : Bool) (half1 : Bool) (data : List Byte) (empty : Bool)
    (tag : Option (BitVec 12)) (desc : Option Nat) (P : Nat) : (State.put s span q entry half0 half1 data empty tag desc P).counts = s.counts := by
  rfl

@[simp] theorem counts_cross (s : State) (span q entry : Nat) (half0 : Bool) (half1 : Bool) (data : List Byte) (empty : Bool)
    (tag : Option (BitVec 12)) (desc : Option Nat) (P : Nat) : (State.cross s span q entry half0 half1 data empty tag desc P).counts = s.counts := by
  rfl

@[simp] theorem counts_updFly (s : State) (cl iid : Nat) (g : Fly → Fly) : (State.updFly s cl iid g).counts = s.counts := by
  unfold State.updFly
  split <;> simp

@[simp] theorem counts_unitRaise (s : State) (cl iid part : Nat) (code : BitVec 16) (detail : Reg) :
    (State.unitRaise s cl iid part code detail).counts = s.counts := by
  unfold State.unitRaise
  split <;> simp

/-! Matrix engines -/

@[simp] theorem counts_updMe (s : State) (cl : Nat) (g : Me → Me) : (State.updMe s cl g).counts = s.counts := by rfl

@[simp] theorem counts_accAdd (s : State) (cl iid : Nat) (b : Bool) (row : Nat) (t : List Fw) (out : Bool) :
    (State.accAdd s cl iid b row t out).counts = s.counts := by
  simp [State.accAdd]

@[simp] theorem counts_workMac (s : State) (cl iid : Nat) (f : Fly) (b t : Bool) (a w : Fmt) (row : Nat) (scaled : Bool) (m idx : Nat) :
    (workMac s cl iid f b t a w row scaled m idx).counts = s.counts := by
  simp [workMac]

@[simp] theorem counts_workMacv (s : State) (cl iid : Nat) (f : Fly) (b : Bool) (fmt : Fmt) (ic g row idx : Nat) :
    (workMacv s cl iid f b fmt ic g row idx).counts = s.counts := by
  simp [workMacv]

@[simp] theorem counts_workMe (s : State) (cl iid : Nat) (f : Fly) (idx : Nat) : (workMe s cl iid f idx).counts = s.counts := by
  unfold workMe
  split <;> simp

/-! Vector units -/

@[simp] theorem counts_workVu (s : State) (cl _iid : Nat) (f : Fly) (idx : Nat) : (workVu s cl _iid f idx).counts = s.counts := by
  unfold workVu
  split
  · simp
  · split <;> simp

/-! Cluster pipelines -/

@[simp] theorem counts_collide (s : State) (cl cyc : Nat) (sup : List Op) : (State.collide s cl cyc sup).counts = s.counts := by
  unfold State.collide
  split <;> simp

@[simp] theorem counts_onceFor (t s : State) (cl iid : Nat) : (t.onceFor s cl iid).counts = t.counts := by
  unfold State.onceFor
  dsimp only
  split
  · rfl
  · simp

@[simp] theorem counts_gotLine (s : State) (cl iid idx : Nat) (d : List Byte) : (State.gotLine s cl iid idx d).counts = s.counts := by
  simp [State.gotLine]

@[simp] theorem counts_readOp (s : State) (cl : Nat) (o : Op) (ok : Bool) : (readOp s cl o ok).counts = s.counts := by
  unfold readOp
  split <;> simp

@[simp] theorem counts_addOp (s : State) (cl : Nat) (o : Op) : (State.addOp s cl o).counts = s.counts := by rfl

@[simp] theorem counts_spokeOutOp (s : State) (cl : Nat) (o : Op) (idx : Nat) : (spokeOutOp s cl o idx).counts = s.counts := by
  unfold spokeOutOp
  split
  · simp
  · split <;> simp

@[simp] theorem counts_workMv (s : State) (cl : Nat) (f : Fly) (idx : Nat) : (workMv s cl f idx).counts = s.counts := by
  unfold workMv
  split <;> simp

@[simp] theorem counts_workSq (s : State) (cl iid : Nat) (f : Fly) (idx : Nat) : (workSq s cl iid f idx).counts = s.counts := by
  unfold workSq
  split <;> simp

@[simp] theorem counts_workOp (s : State) (cl : Nat) (o : Op) : (workOp s cl o).counts = s.counts := by
  unfold workOp
  repeat' split
  all_goals simp

@[simp] theorem counts_launch (s : State) (cl : Nat) (u : Unit4) (w : Wd) (i : Instr) (c : Nat) : (State.launch s cl u w i c).counts = s.counts := by
  unfold State.launch
  split <;> simp

/-! HBM stacks -/

@[simp] theorem counts_memLog (s : State) (st kind pc bank param j : Nat) : (State.memLog s st kind pc bank param j).counts = s.counts := by
  simp [State.memLog]

@[simp] theorem counts_memFault (s : State) (st : Nat) (code : BitVec 16) : (State.memFault s st code).counts = s.counts := by rfl
@[simp] theorem counts_memCount (s : State) (st lo : Nat) : (State.memCount s st lo).counts = s.counts := by simp [State.memCount]

@[simp] theorem counts_readHbm (s : State) (st ls : Nat) (told : List (BitVec 16)) : (readHbm s st ls told).2.2.counts = s.counts := by
  simp only [readHbm]
  repeat' split
  all_goals simp

@[simp] theorem counts_rdLines (s : State) (st pclo bank col dspan q entry ph j : Nat) (pcs : List Nat) :
    (rdLines s st pclo bank col dspan q entry ph j pcs).counts = s.counts := by
  refine counts_foldl_snd (fun a pc => ?_) pcs ([], s)
  dsimp only
  split
  · simp
  · split <;> simp

/-! Host rings -/

@[simp] theorem counts_violation (s : State) (ofs chip : Nat) : (State.violation s ofs chip).counts = s.counts := by rfl
@[simp] theorem counts_clamped (s : State) (r lsb : Nat) (code : Bool) : (s.clamped r lsb code).counts = s.counts := by rfl
@[simp] theorem counts_rsvdWrite (s : State) : s.rsvdWrite.counts = s.counts := by rfl

@[simp] theorem counts_finish (s : State) (r : RunCmd) (status : Nat) (fault : BitVec 16) (detail : Nat) (result : List Byte) :
    (State.finish s r status fault detail result).counts = s.counts := by
  unfold State.finish
  split <;> simp

@[simp] theorem counts_reject (s : State) (r : RunCmd) (status : Nat) (code : BitVec 16) (detail : Nat) :
    (State.reject s r status code detail).counts = s.counts := by
  simp [State.reject]

@[simp] theorem counts_badParam (s : State) (r : RunCmd) (ofs : Nat) : (State.badParam s r ofs).counts = s.counts := by simp [State.badParam]
@[simp] theorem counts_wrongState (s : State) (r : RunCmd) : (State.wrongState s r).counts = s.counts := by simp [State.wrongState]
@[simp] theorem counts_runs (s : State) (r : RunCmd) : (State.runs s r).counts = s.counts := by rfl

@[simp] theorem counts_finishAll (s : State) (p : Instr → Bool) (status : Nat) (fault : BitVec 16) (detail : Nat) (result : List Byte) :
    (State.finishAll s p status fault detail result).counts = s.counts := by
  simp [State.finishAll]

@[simp] theorem counts_refuseStops (s : State) : (State.refuseStops s).counts = s.counts := by simp [State.refuseStops]
@[simp] theorem counts_setSt (s : State) (st : Nat) : (State.setSt s st).counts = s.counts := by rfl

/-! Commands in progress -/

@[simp] theorem counts_writeShadow (s : State) (g i : Nat) (v : Reg) : (State.writeShadow s g i v).counts = s.counts := by rfl
@[simp] theorem counts_writeGrpRef (s : State) (g : Nat) (v : Reg) : (State.writeGrpRef s g v).counts = s.counts := by rfl
@[simp] theorem counts_capture (s : State) : (State.capture s).counts = s.counts := by rfl

@[simp] theorem counts_uncapture (s : State) (out reason group lsb word : Nat) : (State.uncapture s out reason group lsb word).counts = s.counts := by
  rfl

@[simp] theorem counts_refuseCommit (s : State) (f : CapFail) : (State.refuseCommit s f).counts = s.counts := by rfl
@[simp] theorem counts_setLive (s : State) (g : Nat) (regs : List Reg) : (State.setLive s g regs).counts = s.counts := by simp [State.setLive]
@[simp] theorem counts_commit (s : State) : (State.commit s).counts = s.counts := by simp [State.commit]

/-! Flags -/

@[simp] theorem counts_ibi (s : State) : s.ibi.counts = s.counts := by
  rw [ibi_frame]; rfl

/-! Faults and step aborts -/

@[simp] theorem counts_faultEvent (s : State) (b : List Byte) (upd : Bool) : (State.faultEvent s b upd).counts = s.counts := by simp [State.faultEvent]

@[simp] theorem counts_abortOn (s : State) (r : Raised) (sev : Nat) (sec : Bool) : (State.abortOn s r sev sec).counts = s.counts := by
  simp [State.abortOn]

@[simp] theorem counts_enterRecord (s : State) (r : Raised) (sev : Nat) : (State.enterRecord s r sev).counts = s.counts := by simp [State.enterRecord]
@[simp] theorem counts_formRecord (s : State) (r : Raised) : (State.formRecord s r).counts = s.counts := by simp [State.formRecord]
@[simp] theorem counts_closeFolds (s : State) : (State.closeFolds s).counts = s.counts := by simp [State.closeFolds]
@[simp] theorem counts_foldRecord (s : State) (r : Raised) : (State.foldRecord s r).counts = s.counts := by simp [State.foldRecord]

@[simp] theorem counts_olfFault (s : State) (p : Nat) (code : BitVec 16) (kind seq : Nat) : (State.olfFault s p code kind seq).counts = s.counts := by
  simp [State.olfFault]

@[simp] theorem counts_digestsAgree (s : State) : (State.digestsAgree s).counts = s.counts := by
  refine counts_forEach (fun s p => counts_updPort (fun o => ?_) s p) _ s
  split <;> rfl

@[simp] theorem counts_flood (s : State) (c : Cell) (except : Nat) : (State.flood s c except).counts = s.counts := by simp [State.flood]

@[simp] theorem counts_noteAbort (s : State) (step : Nat) (code : BitVec 16) (origin : Nat) :
    (State.noteAbort s step code origin).counts = s.counts := by
  rfl

@[simp] theorem counts_abortFault (s : State) (step : Nat) (code : BitVec 16) (detail : Reg) :
    (State.abortFault s step code detail).counts = s.counts := by
  simp [State.abortFault]

@[simp] theorem counts_issueAbort (s : State) (step : Nat) (code : BitVec 16) (origin : Nat) (detail : Reg) :
    (State.issueAbort s step code origin detail).counts = s.counts := by
  simp [State.issueAbort]

@[simp] theorem counts_staleGen (s : State) : (State.staleGen s).counts = s.counts := by rfl

/-! Service messages -/

@[simp] theorem counts_queueCell (s : State) (p : Nat) (c : Cell) : (State.queueCell s p c).counts = s.counts := by simp [State.queueCell]
@[simp] theorem counts_sendPlc (s : State) (p ty : Nat) (body : List Byte) : (State.sendPlc s p ty body).counts = s.counts := by simp [State.sendPlc]

@[simp] theorem counts_sendChildren (s : State) (ty : Nat) (body : List Byte) : (State.sendChildren s ty body).counts = s.counts := by
  simp [State.sendChildren]

@[simp] theorem counts_sendParent (s : State) (ty : Nat) (body : List Byte) : (State.sendParent s ty body).counts = s.counts := by
  unfold State.sendParent
  split <;> simp

@[simp] theorem counts_stopAt (s : State) (step : Nat) : (State.stopAt s step).counts = s.counts := by simp [State.stopAt]
@[simp] theorem counts_takeStop (s : State) (last cause : Nat) : (State.takeStop s last cause).counts = s.counts := by simp [State.takeStop]

@[simp] theorem counts_sendStop (s : State) (last cause : Nat) : (State.sendStop s last cause).counts = s.counts := by
  unfold State.sendStop
  split <;> simp

@[simp] theorem counts_requestStop (s : State) (last cause : Nat) : (State.requestStop s last cause).counts = s.counts := by simp [State.requestStop]

/-! Clock rate -/

@[simp] theorem counts_timeEvent (s : State) (old : Tim) : (State.timeEvent s old).counts = s.counts := by simp [State.timeEvent]
@[simp] theorem counts_setRail (s : State) (i : Nat) : (State.setRail s i).counts = s.counts := by simp [State.setRail]
@[simp] theorem counts_applyStep (s : State) (i : Nat) : (State.applyStep s i).counts = s.counts := by simp [State.applyStep]

@[simp] theorem counts_wantStep (s : State) (i : Nat) : (State.wantStep s i).counts = s.counts := by
  simp only [State.wantStep]
  repeat' split
  all_goals simp

@[simp] theorem counts_freeStep (s : State) : (State.freeStep s).counts = s.counts := by simp [State.freeStep]
@[simp] theorem counts_keystoneStep (s : State) : (State.keystoneStep s).counts = s.counts := by simp [State.keystoneStep]
@[simp] theorem counts_writeStepSet (s : State) (v : Reg) : (State.writeStepSet s v).counts = s.counts := by simp [State.writeStepSet]

@[simp] theorem counts_armKeystone (s : State) : (State.armKeystone s).2.counts = s.counts := by
  unfold State.armKeystone
  split <;> simp

@[simp] theorem counts_disarmKeystone (s : State) : (State.disarmKeystone s).counts = s.counts := by rfl

/-! Time -/

@[simp] theorem counts_leaveGood (s : State) (code : Option (BitVec 16)) : (State.leaveGood s code).counts = s.counts := by
  unfold State.leaveGood
  split <;> simp

@[simp] theorem counts_noParent (s : State) : (State.noParent s).counts = s.counts := by simp [State.noParent]

@[simp] theorem counts_electRoot (s : State) : s.electRoot.counts = s.counts := by
  unfold State.electRoot
  split
  · simp
  · dsimp only
    split
    · simp
    · split
      · simp
      · simp

@[simp] theorem counts_judgeOffset (s : State) : (State.judgeOffset s).counts = s.counts := by simp [State.judgeOffset]

theorem counts_ext {s t : State} (hdebts : stackDebts t.msq = stackDebts s.msq) (hqueues : portQueues t.olf = portQueues s.olf)
    (htags : requestTags t.svc.out = requestTags s.svc.out) : t.counts = s.counts := by
  rw [State.counts, hdebts, hqueues, htags]
  rfl

@[simp] theorem counts_rebase (s : State) (d : Int) : (State.rebase s d).counts = s.counts :=
  counts_ext (stackDebts_map (by exact fun _ => rfl) (by exact fun _ => rfl) s.msq) (portQueues_map (by exact fun _ => rfl) (by exact fun _ => rfl) s.olf) List.map_map

@[simp] theorem counts_addIncrement (s : State) (d : Int) : (State.addIncrement s d).counts = s.counts := by simp [State.addIncrement]

@[simp] theorem counts_windowFollow (s : State) (residual phi : Int) : (State.windowFollow s residual phi).counts = s.counts := by
  unfold State.windowFollow
  split <;> simp

@[simp] theorem counts_windowMissed (s : State) : (State.windowMissed s).counts = s.counts := by rfl
@[simp] theorem counts_setManualRate (s : State) (v : Reg) : (State.setManualRate s v).counts = s.counts := by rfl
@[simp] theorem counts_boundaryRate (s : State) : (State.boundaryRate s).counts = s.counts := by simp [State.boundaryRate]

/-! Doorbells -/

@[simp] theorem counts_ringDoorbell (s : State) (ring1 : Bool) (v : Reg) : (State.ringDoorbell s ring1 v).counts = s.counts := by
  simp [State.ringDoorbell]

@[simp] theorem counts_compDoorbell (s : State) (v : Reg) : (State.compDoorbell s v).counts = s.counts := by simp [State.compDoorbell]
@[simp] theorem counts_evtDoorbell (s : State) (v : Reg) : (State.evtDoorbell s v).counts = s.counts := by simp [State.evtDoorbell]
@[simp] theorem counts_mboxComplete (s : State) (bytes : List Byte) : (State.mboxComplete s bytes).counts = s.counts := by rfl

@[simp] theorem counts_mboxDoorbell (s : State) (v : Reg) : (State.mboxDoorbell s v).counts = s.counts := by
  simp only [State.mboxDoorbell]
  repeat' split
  all_goals simp

/-! Registers -/

@[simp] theorem counts_readReg (s : State) (r chip : Nat) : (State.readReg s r chip).2.counts = s.counts := by
  unfold State.readReg
  split <;> simp

@[simp] theorem counts_wrStart (s : State) (v mask : Reg) : (wrStart s v mask).s.counts = s.counts := by simp [wrStart]
@[simp] theorem counts_stale (s : State) : (State.stale s).counts = s.counts := by rfl

@[simp] theorem counts_plainWrite {put : State → Reg → State} (hput : ∀ s v, (put s v).counts = s.counts) (s : State) (v mask : Reg) :
    (plainWrite s v mask put).2.counts = s.counts :=
  (hput _ _).trans (counts_wrStart s v mask)

@[simp] theorem counts_refuseWrite (s : State) (r : Nat) : (refuseWrite s r).2.counts = s.counts := by rfl

@[simp] theorem counts_ignored (s : State) (r : Nat) (v : Reg) : (State.ignored s r v).2.counts = s.counts := by
  unfold State.ignored
  split <;> simp

@[simp] theorem counts_clearCmd {f : State → State} (hf : ∀ s, (f s).counts = s.counts) (s : State) (v : Reg) : (clearCmd s v f).2.counts = s.counts := by
  simp [clearCmd, hf]

@[simp] theorem counts_writeTimStep (s : State) (v : Reg) : (State.writeTimStep s v).2.counts = s.counts := by
  unfold State.writeTimStep
  split <;> simp

@[simp] theorem counts_writeTimCtl (s : State) (v : Reg) : (State.writeTimCtl s v).2.counts = s.counts := by
  simp only [State.writeTimCtl]
  repeat' split
  all_goals simp

@[simp] theorem counts_writeEthLat (s : State) (v : Reg) : (State.writeEthLat s v).2.counts = s.counts := by simp [State.writeEthLat]

@[simp] theorem counts_writeTim (s : State) (r o : Nat) (v : Reg) : (State.writeTim s r o v).2.counts = s.counts := by
  unfold State.writeTim
  repeat' split
  all_goals simp

@[simp] theorem counts_writeKeyArm (s : State) (v : Reg) : (State.writeKeyArm s v).2.counts = s.counts := by
  simp only [State.writeKeyArm]
  repeat' split
  all_goals simp

@[simp] theorem counts_writeTik (s : State) (r o : Nat) (v : Reg) : (State.writeTik s r o v).2.counts = s.counts := by
  unfold State.writeTik
  split <;> simp

@[simp] theorem counts_writeDroopThr (s : State) (p : Nat) (v : Reg) : (State.writeDroopThr s p v).2.counts = s.counts := by simp [State.writeDroopThr]
@[simp] theorem counts_clearSpn (s : State) (p : Nat) : (State.clearSpn s p).counts = s.counts := by rfl

@[simp] theorem counts_writeSpn (s : State) (r p o : Nat) (v : Reg) : (State.writeSpn s r p o v).2.counts = s.counts := by
  unfold State.writeSpn
  repeat' split
  all_goals simp

@[simp] theorem counts_clearClu (s : State) (c : Nat) : (State.clearClu s c).counts = s.counts := by rfl
@[simp] theorem counts_clearMsq (s : State) (st : Nat) : (State.clearMsq s st).counts = s.counts := by simp [State.clearMsq]

@[simp] theorem counts_writeScrub (s : State) (st : Nat) (v : Reg) : (State.writeScrub s st v).2.counts = s.counts := by
  unfold State.writeScrub
  split <;> simp

@[simp] theorem counts_writeSh (s : State) (fw : Bool) (r g i : Nat) (v : Reg) : (State.writeSh s fw r g i v).2.counts = s.counts := by
  unfold State.writeSh
  split <;> simp

@[simp] theorem counts_writeMsq (s : State) (r st o : Nat) (v : Reg) : (State.writeMsq s r st o v).2.counts = s.counts := by
  unfold State.writeMsq
  split
  · simp
  · split <;> simp

@[simp] theorem counts_writeSvcCtl (s : State) (v : Reg) : (State.writeSvcCtl s v).2.counts = s.counts := by simp [State.writeSvcCtl]

@[simp] theorem counts_writeSvc (s : State) (r o : Nat) (v : Reg) : (State.writeSvc s r o v).2.counts = s.counts := by
  unfold State.writeSvc
  split <;> simp

@[simp] theorem counts_clearCxl (s : State) : (State.clearCxl s).counts = s.counts := by rfl
@[simp] theorem counts_clearCwy (s : State) (p : Nat) : (State.clearCwy s p).counts = s.counts := by rfl

@[simp] theorem counts_writeRing (s : State) (r : Nat) (v : Reg) (put : Hst → Reg → Hst) : (State.writeRing s r v put).2.counts = s.counts := by
  unfold State.writeRing
  split <;> simp

@[simp] theorem counts_resetDoneEvent (s : State) : (State.resetDoneEvent s).counts = s.counts := by simp [State.resetDoneEvent]

@[simp] theorem counts_writeHstCtl (s : State) (v : Reg) : (State.writeHstCtl s v).2.counts = s.counts := by
  simp only [State.writeHstCtl]
  repeat' split
  all_goals simp

@[simp] theorem counts_writeHst (s : State) (r o : Nat) (v : Reg) : (State.writeHst s r o v).2.counts = s.counts := by
  unfold State.writeHst
  repeat' split
  all_goals simp

@[simp] theorem counts_writePwr (s : State) (r o : Nat) (v : Reg) : (State.writePwr s r o v).2.counts = s.counts := by
  unfold State.writePwr
  split <;> simp

@[simp] theorem counts_writeFlt (s : State) (r o : Nat) (v : Reg) : (State.writeFlt s r o v).2.counts = s.counts := by
  unfold State.writeFlt
  split <;> simp

@[simp] theorem counts_writeDmp (s : State) (r o : Nat) (v : Reg) : (s.writeDmp r o v).2.counts = s.counts := by
  unfold State.writeDmp
  split
  · split
    · simp
    · rw [counts_plainWrite (fun _ _ => by rfl)]
  · simp

@[simp] theorem counts_writePlc (s : State) (r o : Nat) (v : Reg) : (State.writePlc s r o v).2.counts = s.counts := by
  unfold State.writePlc
  repeat' split
  all_goals simp

@[simp] theorem counts_persist (s : State) : (State.persist s).2.counts = s.counts := by
  simp only [State.persist]
  repeat' split
  all_goals simp

@[simp] theorem counts_forget (s : State) : (State.forget s).2.counts = s.counts := by
  simp only [State.forget]
  repeat' split
  all_goals simp

@[simp] theorem counts_compact (s : State) : (State.compact s).counts = s.counts := by simp [State.compact]
@[simp] theorem counts_clearCfg (s : State) : (State.clearCfg s).counts = s.counts := by rfl

@[simp] theorem counts_writeCfgCmd (s : State) (v : Reg) : (State.writeCfgCmd s v).2.counts = s.counts := by
  unfold State.writeCfgCmd
  split <;> simp

@[simp] theorem counts_writeTRef (s : State) (v : Reg) : (State.writeTRef s v).counts = s.counts := by rfl

@[simp] theorem counts_writeRef (s : State) (fw : Bool) (g : Nat) (v : Reg) : (State.writeRef s fw g v).2.counts = s.counts := by
  unfold State.writeRef
  split <;> simp

@[simp] theorem counts_writeCfg (s : State) (r o : Nat) (v : Reg) : (State.writeCfg s r o v).2.counts = s.counts := by
  unfold State.writeCfg
  repeat' split
  all_goals simp

/-! Placement -/

@[simp] theorem counts_startElection (s : State) : (State.startElection s).counts = s.counts := by rfl
@[simp] theorem counts_dropMap (s : State) : (State.dropMap s).counts = s.counts := by simp [State.dropMap]
@[simp] theorem counts_dropPlace (s : State) : (State.dropPlace s).counts = s.counts := by simp [State.dropPlace]

@[simp] theorem counts_endPlace (s : State) (st status : Nat) (code : BitVec 16) (detail : Nat) :
    (State.endPlace s st status code detail).counts = s.counts := by
  simp [State.endPlace]

@[simp] theorem counts_loseAdmission (s : State) : (State.loseAdmission s).counts = s.counts := by simp [State.loseAdmission]
@[simp] theorem counts_restartElection (s : State) : (State.restartElection s).counts = s.counts := by simp [State.restartElection]

@[simp] theorem counts_passExclude (s : State) (cause : Nat) (hall : Nat) : (State.passExclude s cause hall).counts = s.counts := by
  simp [State.passExclude]

@[simp] theorem counts_dropTwins (s : State) : (State.dropTwins s).counts = s.counts := by simp [State.dropTwins]

@[simp] theorem counts_takeClaim (s : State) (p : Nat) (hall depth : Nat) : (State.takeClaim s p hall depth).counts = s.counts := by
  simp [State.takeClaim]

@[simp] theorem counts_closeElection (s : State) : (State.closeElection s).counts = s.counts := by simp [State.closeElection]

@[simp] theorem counts_mapPort (s : State) (m : List MapEntry) (i p : Nat) : (State.mapPort s m i p).counts = s.counts := by
  unfold State.mapPort
  split
  · simp
  · split <;> simp

@[simp] theorem counts_takeMap (s : State) (m : List MapEntry) (digest : List Byte) : (State.takeMap s m digest).counts = s.counts := by
  unfold State.takeMap
  split <;> simp

@[simp] theorem counts_passMap (s : State) (m : List MapEntry) (d : List Byte) : (State.passMap s m d).counts = s.counts := by simp [State.passMap]
@[simp] theorem counts_distribute (s : State) (seats : List Seat) : (State.distribute s seats).counts = s.counts := by simp [State.distribute]
@[simp] theorem counts_askSwitch (s : State) : (State.askSwitch s).counts = s.counts := by simp [State.askSwitch]

/-! Starts and stops -/

@[simp] theorem counts_refuseUp (s : State) (code : BitVec 16) : (State.refuseUp s code).counts = s.counts := by simp [State.refuseUp]
@[simp] theorem counts_cancelStart (s : State) : (State.cancelStart s).counts = s.counts := by simp [State.cancelStart]
@[simp] theorem counts_abortStart (s : State) (code : BitVec 16) : (State.abortStart s code).counts = s.counts := by simp [State.abortStart]

@[simp] theorem counts_takeGo (s : State) (e : Nat) : (State.takeGo s e).counts = s.counts := by
  unfold State.takeGo
  split <;> simp

@[simp] theorem counts_tryReady (s : State) : (State.tryReady s).counts = s.counts := by
  unfold State.tryReady
  split <;> simp

@[simp] theorem counts_leaderCancel (s : State) : (State.leaderCancel s).counts = s.counts := by
  unfold State.leaderCancel
  split <;> simp

@[simp] theorem counts_selfRefuse (s : State) (code : BitVec 16) : (State.selfRefuse s code).counts = s.counts := by simp [State.selfRefuse]

@[simp] theorem counts_takePropose (s : State) (digest8 : List Byte) (e : Nat) : (State.takePropose s digest8 e).counts = s.counts := by
  simp only [State.takePropose]
  repeat' split
  all_goals simp

@[simp] theorem counts_propose (s : State) : (State.propose s).counts = s.counts := by simp [State.propose]
@[simp] theorem counts_settleStep (s : State) : (State.settleStep s).counts = s.counts := by simp [State.settleStep]
@[simp] theorem counts_jobStopped (s : State) (cause : Nat) : (State.jobStopped s cause).counts = s.counts := by simp [State.jobStopped]
@[simp] theorem counts_stepDoneEvent (s : State) (n : Nat) : (State.stepDoneEvent s n).counts = s.counts := by simp [State.stepDoneEvent]

@[simp] theorem counts_lastStepDone (s : State) : (State.lastStepDone s).counts = s.counts := by
  unfold State.lastStepDone
  split <;> simp

@[simp] theorem counts_pairFail (s : State) (step : Nat) (timeout : Bool) : (State.pairFail s step timeout).counts = s.counts := by rfl
@[simp] theorem counts_confirm (s : State) (step : Nat) (agree : Bool) : (State.confirm s step agree).counts = s.counts := by simp [State.confirm]

@[simp] theorem counts_comparePair (s : State) (step : Nat) (mine : BitVec 64) : (State.comparePair s step mine).counts = s.counts := by
  unfold State.comparePair
  split <;> simp

@[simp] theorem counts_digestTry (s : State) (step : Nat) : (State.digestTry s step).counts = s.counts := by
  unfold State.digestTry
  split
  · simp
  · split <;> simp

/-! Service requests -/

@[simp] theorem counts_noRoute (s : State) : (State.noRoute s).counts = s.counts := by rfl

@[simp] theorem counts_answer (s : State) (rtag : BitVec 16) (status : Nat) (data : List Byte) :
    (State.answer s rtag status data).counts = s.counts := by
  rfl

@[simp] theorem counts_svcDeny (s : State) (c : Cell) (ofs : Nat) : (State.svcDeny s c ofs).2.counts = s.counts := by rfl

@[simp] theorem counts_svcRegs (s : State) (c : Cell) (r n : Nat) : (s.svcRegs c r n).2.counts = s.counts := by
  unfold State.svcRegs
  dsimp only
  split
  · simp
  · split
    · rfl
    · refine counts_foldl_snd (fun x r => ?_) _ ([], s)
      have hread := counts_readReg x.2 r (svcSrc c)
      split <;> simp_all

/-! Links -/

@[simp] theorem counts_clearOlf (s : State) (p : Nat) : (State.clearOlf s p).counts = s.counts := by simp [State.clearOlf]

/-! Register file -/

@[simp] theorem counts_challenge (s : State) : (State.challenge s).counts = s.counts := by rfl
@[simp] theorem counts_refuseUnlock (s : State) (badToken : Bool) : (State.refuseUnlock s badToken).2.counts = s.counts := by rfl

@[simp] theorem counts_unlock (s : State) : (State.unlock s).2.counts = s.counts := by
  simp only [State.unlock]
  repeat' split
  all_goals simp

@[simp] theorem counts_writeSec (s : State) (r o : Nat) (v : Reg) : (s.writeSec r o v).2.counts = s.counts := by
  unfold State.writeSec
  split
  · simp
  · dsimp only
    split <;> simp
  · rw [counts_clearCmd (fun _ => by rfl)]
  · split
    · rfl
    · simp

/-! Images loaded -/

@[simp] theorem counts_armCluster (s : State) (c : Nat) : (State.armCluster s c).counts = s.counts := by simp [State.armCluster]

@[simp] theorem counts_armPort (s : State) (lp : Nat) : (State.armPort s lp).counts = s.counts := by
  simp only [State.armPort]
  repeat' split
  all_goals simp

@[simp] theorem counts_armPreset (s : State) (st : Nat) : (s.armPreset st).counts = s.counts := by
  unfold State.armPreset
  split
  · rfl
  · refine (counts_writeGrpRef _ _ _).trans (counts_foldl (fun s e => ?_) _ s)
    split <;> simp

/-! Streams -/

@[simp] theorem counts_setStream (s : State) (i : StreamId) (t : Machine.Stream) : (State.setStream s i t).counts = s.counts := by
  unfold State.setStream
  split <;> simp

/-! Dumps -/

@[simp] theorem counts_dumpReads (s : State) : (State.dumpReads s).counts = s.counts := by simp [State.dumpReads]
@[simp] theorem counts_issueAk (s : State) : (State.issueAk s).counts = s.counts := by simp [State.issueAk]
@[simp] theorem counts_report (s : State) (nonce : List Byte) : (State.report s nonce).2.counts = s.counts := by rfl

@[simp] theorem counts_halfWritten (s : State) (i : Instr) : (s.halfWritten i).counts = s.counts := by
  unfold State.halfWritten
  split <;> rfl

@[simp] theorem counts_cutUpdates (s : State) : (State.cutUpdates s).counts = s.counts := by simp [State.cutUpdates]
@[simp] theorem counts_badImage (s : State) : (State.badImage s).counts = s.counts := by rfl

/-! Reset requests -/

@[simp] theorem counts_resetAppends (s : State) : (State.resetAppends s).counts = s.counts := by simp [State.resetAppends]
@[simp] theorem counts_endDrain (s : State) : (State.endDrain s).counts = s.counts := by simp [State.endDrain]
@[simp] theorem counts_prepareReset (s : State) : (State.prepareReset s).counts = s.counts := by simp [State.prepareReset]
@[simp] theorem counts_requestReset (s : State) (cause : Nat) : (State.requestReset s cause).counts = s.counts := by simp [State.requestReset]
@[simp] theorem counts_unplannedReset (s : State) (cause : Nat) : (State.unplannedReset s cause).counts = s.counts := by simp [State.unplannedReset]

/-! Host commands -/

@[simp] theorem counts_regReads (s : State) (r : RunCmd) (base n i : Nat) (got : List Reg) : (s.regReads r base n i got).counts = s.counts := by
  induction n generalizing s i got with
  | zero => simp [State.regReads]
  | succ n ih =>
    have hread := counts_readReg s (base + 8 * i) s.chipOr0
    rw [State.regReads]
    split
    · simp
    · split <;> simp_all

@[simp] theorem counts_doLoad (s : State) (r : RunCmd) (hbuf ofs len : Nat) (res : HostRes) :
    (State.doLoad s r hbuf ofs len res).counts = s.counts := by
  simp only [State.doLoad]
  repeat' split
  all_goals simp

@[simp] theorem counts_doUnload (s : State) (r : RunCmd) : (State.doUnload s r).counts = s.counts := by simp [State.doUnload]
@[simp] theorem counts_doPlace (s : State) (r : RunCmd) : (State.doPlace s r).counts = s.counts := by simp [State.doPlace]
@[simp] theorem counts_doStart (s : State) (r : RunCmd) (first : Reg) : (State.doStart s r first).counts = s.counts := by simp [State.doStart]
@[simp] theorem counts_doRelease (s : State) (r : RunCmd) : (State.doRelease s r).counts = s.counts := by simp [State.doRelease]

@[simp] theorem counts_doAbort (s : State) (r : RunCmd) : (State.doAbort s r).counts = s.counts := by
  unfold State.doAbort
  split
  · simp
  · split <;> simp

@[simp] theorem counts_doStop (s : State) (r : RunCmd) (last : Reg) : (State.doStop s r last).counts = s.counts := by simp [State.doStop]
@[simp] theorem counts_doIdentify (s : State) (r : RunCmd) : (State.doIdentify s r).counts = s.counts := by simp [State.doIdentify]

@[simp] theorem counts_doBufReg (s : State) (r : RunCmd) (hbuf : Nat) (mask : BitVec 2) (addr len : Nat) :
    (State.doBufReg s r hbuf mask addr len).counts = s.counts := by
  simp [State.doBufReg]

@[simp] theorem counts_doBufFree (s : State) (r : RunCmd) (hbuf : Nat) : (State.doBufFree s r hbuf).counts = s.counts := by simp [State.doBufFree]

@[simp] theorem counts_doSwitchGet (s : State) (r : RunCmd) (req page : Nat) : (State.doSwitchGet s r req page).counts = s.counts := by
  unfold State.doSwitchGet
  split <;> simp

@[simp] theorem counts_doSwitchDone (s : State) (r : RunCmd) (req : Nat) : (State.doSwitchDone s r req).counts = s.counts := by
  unfold State.doSwitchDone
  split <;> simp

@[simp] theorem counts_doDma (s : State) (r : RunCmd) (hbuf : Nat) (toHost : Bool) (bufOfs loc len : Nat) :
    (State.doDma s r hbuf toHost bufOfs loc len).counts = s.counts := by
  simp only [State.doDma]
  repeat' split
  all_goals simp

@[simp] theorem counts_doRegRead (s : State) (r : RunCmd) (base count : Nat) : (State.doRegRead s r base count).counts = s.counts := by
  simp [State.doRegRead]

@[simp] theorem counts_doDump (s : State) (r : RunCmd) (hbuf : Nat) (force : Bool) (ofs space : Nat) :
    (State.doDump s r hbuf force ofs space).counts = s.counts := by
  unfold State.doDump
  split <;> simp

@[simp] theorem counts_supersedeAll (s : State) : (State.supersedeAll s).counts = s.counts := by simp [State.supersedeAll]
@[simp] theorem counts_doReset (s : State) (r : RunCmd) : (State.doReset s r).counts = s.counts := by simp [State.doReset]
@[simp] theorem counts_attestDenied (s : State) (r : RunCmd) : (State.attestDenied s r).counts = s.counts := by simp [State.attestDenied]

@[simp] theorem counts_doAttest (s : State) (r : RunCmd) (hbuf ofs : Nat) : (State.doAttest s r hbuf ofs).counts = s.counts := by
  unfold State.doAttest
  split
  · simp
  · split <;> simp

@[simp] theorem counts_doFwUpdate (s : State) (r : RunCmd) (hbuf ofs len : Nat) : (State.doFwUpdate s r hbuf ofs len).counts = s.counts := by
  unfold State.doFwUpdate
  split
  · simp
  · split <;> simp

/-! Staging -/

@[simp] theorem counts_updRun (s : State) (d st : Nat) (f : StgRun → StgRun) : (State.updRun s d st f).counts = s.counts := by rfl
@[simp] theorem counts_dropRun (s : State) (d st : Nat) : (State.dropRun s d st).counts = s.counts := by rfl
@[simp] theorem counts_stgFault (s : State) (d kind line st : Nat) : (State.stgFault s d kind line st).counts = s.counts := by rfl
@[simp] theorem counts_extLog (s : State) (addr : Nat) (hbuf : Nat) (host : Bool) : (State.extLog s addr hbuf host).counts = s.counts := by rfl
@[simp] theorem counts_extFault (s : State) (a : Desc) (line : Nat) : (State.extFault s a line).counts = s.counts := by rfl

@[simp] theorem counts_accessFault (s : State) (a : Desc) (d st line : Nat) (kind : CxlErr) :
    (State.accessFault s a d st line kind).counts = s.counts := by
  simp [State.accessFault]

@[simp] theorem counts_hostLineFail (s : State) (a : Desc) (desc step line : Nat) : (State.hostLineFail s a desc step line).counts = s.counts := by
  unfold State.hostLineFail
  split <;> simp

@[simp] theorem counts_beginAccess {go : State → State} (hgo : ∀ s, (go s).counts = s.counts) (s : State) (a : Desc) (desc step : Nat)
    (lines : List Nat) : (s.beginAccess a desc step lines go).counts = s.counts := by
  unfold State.beginAccess
  split
  · simp
  · split <;> simp [hgo]

@[simp] theorem counts_startReads (s : State) : s.startReads.counts = s.counts := by
  unfold State.startReads
  split
  · rfl
  · refine counts_foldl (fun s r => ?_) _ s
    split
    · split <;> simp
    · rfl

@[simp] theorem counts_lineArrive (s : State) (a : Desc) (desc step line : Nat) (data : List Byte) :
    (State.lineArrive s a desc step line data).counts = s.counts := by
  unfold State.lineArrive
  split <;> simp

@[simp] theorem counts_writeAck (s : State) (a : Desc) (desc step line : Nat) : (State.writeAck s a desc step line).counts = s.counts := by
  simp [State.writeAck]

@[simp] theorem counts_localRead (s : State) (a : Nat) : (State.localRead s a).2.counts = s.counts := by
  unfold State.localRead
  repeat' split
  all_goals simp

@[simp] theorem counts_localReads (s : State) (a n : Nat) : (State.localReads s a n).2.counts = s.counts := by simp [State.localReads]

/-! Host transfers and doorbells -/

@[simp] theorem counts_fwDone (s : State) (r : RunCmd) (img : List Byte) : (State.fwDone s r img).counts = s.counts := by simp [State.fwDone]

@[simp] theorem counts_writeCompletion (s : State) : (State.writeCompletion s).counts = s.counts := by
  unfold State.writeCompletion
  split <;> simp

@[simp] theorem counts_writeCompletions (s : State) : (State.writeCompletions s).counts = s.counts := by simp [State.writeCompletions]
@[simp] theorem counts_diagNote (s : State) (r kind : Nat) (write : Bool) : (State.diagNote s r kind write).counts = s.counts := by rfl
@[simp] theorem counts_windowDetail (s : State) : (State.windowDetail s).counts = s.counts := by rfl

/-! Link events -/

@[simp] theorem counts_whenPort {f : State → State} (hf : ∀ s, (f s).counts = s.counts) (s : State) (ok : Bool) : (whenPort s ok f).counts = s.counts := by
  simp [whenPort, hf]

@[simp] theorem counts_sendIdent (s : State) (p : Nat) (b : List Byte) : (State.sendIdent s p b).counts = s.counts := by simp [State.sendIdent]

/-! Service cells -/

@[simp] theorem counts_absorb (s : State) : (State.absorb s).counts = s.counts := by rfl
@[simp] theorem counts_takeAbort (s : State) (p step : Nat) (c : Cell) : (State.takeAbort s p step c).counts = s.counts := by simp [State.takeAbort]

/-! Control paths -/

@[simp] theorem counts_dropCtl (s : State) (i : Nat) : (State.dropCtl s i).counts = s.counts := by rfl
@[simp] theorem counts_svcSettled (s : State) : (State.svcSettled s).counts = s.counts := by rfl
@[simp] theorem counts_setUcie (s : State) (m up : Bool) : (State.setUcie s m up).counts = s.counts := by simp [State.setUcie]

/-! Frames -/

@[simp] theorem counts_holdCell (s : State) (p slot : Nat) (c : Cell) : (State.holdCell s p slot c).counts = s.counts := by simp [State.holdCell]

/-! Phases -/

@[simp] theorem counts_overrunSpan (s : State) (span : Nat) : (State.overrunSpan s span).counts = s.counts := by rfl

@[simp] theorem counts_beginStep (s : State) : (State.beginStep s).counts = s.counts :=
  counts_ext (stackDebts_map (by exact fun _ => rfl) (by exact fun _ => rfl) s.msq) (portQueues_map (by exact fun _ => rfl) (by exact fun _ => rfl) s.olf) rfl

@[simp] theorem counts_takeBranch (s : State) (t : Nat) : (State.takeBranch s t).counts = s.counts := by
  unfold State.takeBranch
  split
  · simp
  · split <;> simp

@[simp] theorem counts_stepBoundary (s : State) : (State.stepBoundary s).counts = s.counts := by
  simp only [State.stepBoundary]
  repeat' split
  all_goals simp

@[simp] theorem counts_land (s : State) (w : MeshWrite) : (State.land s w).counts = s.counts := by
  simp only [State.land]
  repeat' split
  all_goals simp

/-! Keystones -/

@[simp] theorem counts_cancelKeystone (s : State) (commit start step : Bool) : (State.cancelKeystone s commit start step).counts = s.counts := by
  simp [State.cancelKeystone]

@[simp] theorem counts_commitAndStep (s : State) (commit step : Bool) : (State.commitAndStep s commit step).counts = s.counts := by
  simp [State.commitAndStep]

@[simp] theorem counts_dropKeystone (s : State) (commit start step : Bool) : (State.dropKeystone s commit start step).counts = s.counts := by
  simp [State.dropKeystone]

/-! Upkeep -/

@[simp] theorem counts_assizeBad (s : State) (n : Nat) : (State.assizeBad s n).counts = s.counts := by rfl

/-! Reset -/

@[simp] theorem counts_chooseSlot (s : State) : (State.chooseSlot s).2.counts = s.counts := by
  simp only [State.chooseSlot]
  repeat' split
  all_goals simp

@[simp] theorem counts_bootChain (s : State) : (State.bootChain s).counts = s.counts := by simp [State.bootChain]
@[simp] theorem counts_openJournal (s : State) : (State.openJournal s).counts = s.counts := by simp [State.openJournal]

@[simp] theorem counts_restoreFreq (s : State) (recs : List JRec) : (State.restoreFreq s recs).counts = s.counts := by
  unfold State.restoreFreq
  split <;> simp

@[simp] theorem counts_senseStraps (s : State) (straps opens : BitVec 16) : (State.senseStraps s straps opens).counts = s.counts := by
  simp [State.senseStraps]

@[simp] theorem counts_noteUnplanned (s : State) : (State.noteUnplanned s).counts = s.counts := by simp [State.noteUnplanned]

@[simp] theorem counts_repairRow (s : State) (row : Nat) (failed : List (Nat × Nat)) : (State.repairRow s row failed).counts = s.counts := by
  simp [State.repairRow]

@[simp] theorem counts_confirmFirmware (s : State) : (State.confirmFirmware s).counts = s.counts := by simp [State.confirmFirmware]

/-! Power -/

@[simp] theorem counts_pwrFault (s : State) (code : BitVec 16) (src kind rail : Nat) : (State.pwrFault s code src kind rail).counts = s.counts := by
  rfl

@[simp] theorem counts_countFeed (s : State) : (State.countFeed s).counts = s.counts := by rfl
@[simp] theorem counts_feedRecord (s : State) : (State.feedRecord s).counts = s.counts := by rfl
@[simp] theorem counts_feedsAtStart (s : State) : (State.feedsAtStart s).counts = s.counts := by simp [State.feedsAtStart]
@[simp] theorem counts_setFeed (s : State) (f : Feed) (good rev : Bool) : (State.setFeed s f good rev).counts = s.counts := by rfl
@[simp] theorem counts_readSensors (s : State) (x : Sensors) : (State.readSensors s x).counts = s.counts := by rfl

/-! Pins -/

@[simp] theorem counts_flashWritten (s : State) : (State.flashWritten s).counts = s.counts := by rfl
@[simp] theorem counts_i3cRead (s : State) (rom : Bool) (bytes : List Byte) : (State.i3cRead s rom bytes).counts = s.counts := by rfl

/-! Causeways -/

@[simp] theorem counts_cwyFault (s : State) (p : Nat) (code : BitVec 16) (source tag : Nat) :
    (State.cwyFault s p code source tag).counts = s.counts := by
  rfl

@[simp] theorem counts_cwyCount (s : State) (p lo len : Nat) : (State.cwyCount s p lo len).counts = s.counts := by rfl
@[simp] theorem counts_cwyCount2 (s : State) (p lo len : Nat) : (State.cwyCount2 s p lo len).counts = s.counts := by rfl

@[simp] theorem counts_present (s : State) (lp p : Nat) (w0 : Reg) : (State.present s lp p w0).2.counts = s.counts := by
  unfold State.present
  repeat' split
  all_goals simp

@[simp] theorem counts_inject (s : State) (lp p : Nat) (w1 : Reg) : (State.inject s lp p w1).2.counts = s.counts := by
  simp only [State.inject]
  repeat' split
  all_goals simp

@[simp] theorem counts_sources (s : State) (rs : List (Nat × Nat)) (ws : List (Reg × Reg)) : (State.sources s rs ws).2.counts = s.counts := by
  simp [State.sources]

@[simp] theorem counts_combine (s : State) (p : Nat) (x y : SlotSrc) : (State.combine s p x y).2.counts = s.counts := by simp [State.combine]
@[simp] theorem counts_sinkClash (s : State) (p : Nat) (l : List SlotSrc) : (State.sinkClash s p l).counts = s.counts := by rfl

@[simp] theorem counts_deliverCell (s : State) (p : Nat) (c : Cell) (t : Nat × Nat × Nat × Nat) : (State.deliverCell s p c t).counts = s.counts := by
  simp [State.deliverCell]

@[simp] theorem counts_deliver (s : State) (l : List SlotSrc) : (State.deliver s l).counts = s.counts := by
  simp only [State.deliver]
  repeat' split
  all_goals simp

/-! Time messages -/

@[simp] theorem counts_sendBeacon (s : State) (p tx : Nat) : (State.sendBeacon s p tx).counts = s.counts := by simp [State.sendBeacon]
@[simp] theorem counts_windowPort (s : State) (p : Nat) : (State.windowPort s p).counts = s.counts := by simp [State.windowPort]

@[simp] theorem counts_windowSteer (s : State) : (State.windowSteer s).counts = s.counts := by
  unfold State.windowSteer
  repeat' split
  all_goals simp

@[simp] theorem counts_ptpEstimate (s : State) (o : Int) : (State.ptpEstimate s o).counts = s.counts := by simp [State.ptpEstimate]

/-! #### Ways in which the bounds are kept -/

theorem debtsWf_ms {s : State} (hs : s.counts.wf) (st : Nat) : (s.ms st).debts.wf := hs.1 st
theorem queuesWf_port {s : State} (hs : s.counts.wf) (p : Nat) : (s.port p).queues.wf := hs.2.1 p
theorem tagsWf_svc {s : State} (hs : s.counts.wf) : tagsWf (requestTags s.svc.out) := hs.2.2

theorem countsWf_of_eq {s t : State} (h : t.counts = s.counts) (hs : s.counts.wf) : t.counts.wf := h ▸ hs

@[simp] theorem countsWf_ite (p : Prop) [Decidable p] (c d : Counts) : (if p then c else d).wf ↔ if p then c.wf else d.wf := by
  split <;> exact Iff.rfl

theorem countsWf_setMs {s : State} (hs : s.counts.wf) {m : Msq} (hm : m.debts.wf) (st : Nat) : (s.setMs st m).counts.wf := by
  obtain ⟨hdebts, hrest⟩ := hs
  rw [counts_setMs_eq]
  refine ⟨fun k => ?_, hrest⟩
  dsimp only
  split
  case isTrue => exact hm
  case isFalse => exact hdebts k

theorem countsWf_setPort {s : State} (hs : s.counts.wf) {o : Olf} (ho : o.queues.wf) (p : Nat) : (s.setPort p o).counts.wf := by
  obtain ⟨hdebts, hqueues, htags⟩ := hs
  rw [counts_setPort_eq]
  refine ⟨hdebts, fun k => ?_, htags⟩
  dsimp only
  split
  case isTrue => exact ho
  case isFalse => exact hqueues k

theorem countsWf_updMs {f : Msq → Msq} (hf : ∀ m, m.debts.wf → (f m).debts.wf) {s : State} (hs : s.counts.wf) (st : Nat) :
    (s.updMs st f).counts.wf := countsWf_setMs hs (hf _ (debtsWf_ms hs st)) st

theorem countsWf_updPort {f : Olf → Olf} (hf : ∀ o, o.queues.wf → (f o).queues.wf) {s : State} (hs : s.counts.wf) (p : Nat) :
    (s.updPort p f).counts.wf := countsWf_setPort hs (hf _ (queuesWf_port hs p)) p

theorem countsWf_updSvc {f : Svc → Svc} (hf : ∀ v, tagsWf (requestTags v.out) → tagsWf (requestTags (f v).out)) {s : State} (hs : s.counts.wf) :
    (s.updSvc f).counts.wf := ⟨hs.1, hs.2.1, hf _ (tagsWf_svc hs)⟩

/-- Ports given up and no other change. -/
theorem queuesWf_dropped_of {o o' : Olf} (h : o'.queues = o.dropped_.queues) : o'.queues.wf := queuesWf_of_eq h (queuesWf_dropped o)

theorem countsWf_foldl {α : Type} {f : State → α → State} (hf : ∀ s x, s.counts.wf → (f s x).counts.wf) {s : State} (hs : s.counts.wf) (l : List α) :
    (l.foldl f s).counts.wf := by
  induction l generalizing s with
  | nil => exact hs
  | cons x r ih => exact ih (hf s x hs)

theorem countsWf_forEach {f : State → Nat → State} (hf : ∀ s x, s.counts.wf → (f s x).counts.wf) {s : State} (hs : s.counts.wf) (l : List Nat) :
    (forEach s l f).counts.wf := countsWf_foldl hf hs l

theorem countsWf_foldl_snd {α β : Type} {f : β × State → α → β × State} (hf : ∀ p x, p.2.counts.wf → (f p x).2.counts.wf) {p : β × State}
    (hp : p.2.counts.wf) (l : List α) : (l.foldl f p).2.counts.wf := by
  induction l generalizing p with
  | nil => exact hp
  | cons x r ih => exact ih (hf p x hp)

/-! #### Functions that change the counts and keep their bounds

In the model's order; each by what it does to a stack's debts, a port's queues or the requests, and by the functions it calls. -/

theorem countsWf_stopUnits {s : State} (hs : s.counts.wf) : s.stopUnits.counts.wf := by
  simp only [State.stopUnits, counts_ibi, counts_digestsAgree, counts_mk, stackDebts_msq, portQueues_olf, requestTags_svc, Counts.eta]
  rw [counts_forEach (fun _ _ => by simp)]
  refine countsWf_forEach (fun s st h => ?_) (countsWf_of_eq ?_ hs) _
  · split
    case isTrue => exact countsWf_updMs (fun m _ => debtsWf_handBack m _ _) h st
    case isFalse => exact h
  · simp

theorem countsWf_abortStop {s : State} (hs : s.counts.wf) (a : Nat × BitVec 16 × Nat) : (s.abortStop a).counts.wf := by
  simp [State.abortStop, countsWf_stopUnits hs]

theorem countsWf_orderlyStop {s : State} (hs : s.counts.wf) : s.orderlyStop.counts.wf := by
  simp [State.orderlyStop, countsWf_stopUnits hs]

theorem countsWf_takeResponse {s : State} (hs : s.counts.wf) (p : Nat) (c : Cell) : (s.takeResponse p c).counts.wf := by
  have hout := countsWf_updSvc (f := fun v => { v with out := v.out.filter (fun x => x.2.rtag ≠ BitVec.ofNat 16 (svcRtag c)) })
    (fun v h => tagsWf_filter h _) hs
  rw [State.takeResponse]
  split
  case isTrue => rwa [counts_answer]
  case isFalse => simp [hs]

theorem countsWf_respond {s : State} (hs : s.counts.wf) (p : Nat) (c : Cell) (status : Nat) (data : List Byte) :
    (s.respond p c status data).counts.wf := by
  rw [State.respond]
  split
  case isTrue => simp [hs]
  case isFalse =>
    split
    case h_1 => exact countsWf_takeResponse hs _ _
    case h_2 | h_3 => simp [hs]

theorem countsWf_served {s : State} (hs : s.counts.wf) (p : Nat) (c : Cell) (r : Nat × List Byte) : (s.served p c r).counts.wf := by
  rw [State.served]
  exact countsWf_respond (by simp [hs]) ..

theorem countsWf_startJob {s : State} (hs : s.counts.wf) : s.startJob.counts.wf := by
  rw [State.startJob]
  refine countsWf_foldl (fun s r h => ?_) (countsWf_of_eq ((counts_finishAll ..).trans (counts_setSt ..)) ?_) _
  · split
    case h_1 => simp [h]
    case h_2 => exact h
  · simp only [counts_mk, stackDebts_msq, portQueues_olf, requestTags_svc, Counts.eta]
    refine countsWf_forEach (fun s st h => countsWf_updMs (fun m hm => debtsWf_startJob hm _) h st) (countsWf_of_eq ?_ hs) _
    exact counts_ext rfl (portQueues_map (by exact fun _ => rfl) (by exact fun _ => rfl) s.olf) rfl

theorem countsWf_fireKeystone {s : State} (hs : s.counts.wf) (commit start step : Bool) : (s.fireKeystone commit start step).counts.wf := by
  rw [State.fireKeystone]
  split
  case isTrue => exact countsWf_startJob (by simp [hs])
  case isFalse => simp [hs]

theorem countsWf_namedKeystone {s : State} (hs : s.counts.wf) (start : Bool) : (s.namedKeystone start).counts.wf := by
  rw [State.namedKeystone]
  split
  case isTrue => simp [hs]
  case isFalse =>
    dsimp only
    split
    case isTrue => simp [hs]
    case isFalse => exact countsWf_fireKeystone (by simp [hs]) ..

theorem countsWf_selfRefreshAll {s : State} (hs : s.counts.wf) : s.selfRefreshAll.counts.wf := by
  rw [State.selfRefreshAll]
  split
  case isTrue => exact hs
  case isFalse => exact countsWf_forEach (fun _ st h => countsWf_updMs (fun _ hm => debtsWf_selfRefresh hm) h st) hs _

theorem countsWf_formCell {s : State} (hs : s.counts.wf) (p : Nat) (c : Cell) : (s.formCell p c).counts.wf := by
  rw [State.formCell]
  split
  case isTrue => simp [hs]
  case isFalse =>
    split
    case isTrue => simp [hs]
    case isFalse =>
      refine countsWf_updPort (fun o ho => ?_) (by simp [hs]) p
      obtain ⟨hreplay, hrest⟩ := ho
      exact ⟨replayWf_form hreplay rfl rfl rfl, hrest⟩

theorem countsWf_egress {s : State} (hs : s.counts.wf) (l : List SlotSrc) (e : Nat) (w0 : Reg) : (s.egress l e w0).counts.wf := by
  rw [State.egress]
  split
  case h_1 => exact hs
  case h_2 => exact countsWf_formCell hs _ _
  case h_3 => exact countsWf_formCell (by simp [hs]) _ _
  case h_4 => simp [hs]

theorem countsWf_takeCell {s : State} (hs : s.counts.wf) (p : Nat) (c : Cell) : (s.takeCell p c).counts.wf := by
  refine countsWf_updPort (fun o ho => ?_) hs p
  obtain ⟨hsvc, hfoot⟩ := queuesWf_erase ho c
  exact queuesWf_ite hsvc (queuesWf_ite hfoot ho)

/-! Service requests and links -/

@[simp] theorem counts_writeWords (s : State) (cl line : Nat) (data : List Byte) (ws : List Nat) : (s.writeWords cl line data ws).counts = s.counts := by
  simp [State.writeWords]

@[simp] theorem counts_writeLine (s : State) (cl line : Nat) (data : List Byte) : (s.writeLine cl line data).counts = s.counts := by
  simp [State.writeLine]

@[simp] theorem counts_svcMemory (s : State) (c : Cell) (a n : Nat) : (s.svcMemory c a n).2.counts = s.counts := by
  unfold State.svcMemory
  dsimp only
  repeat' split
  all_goals simp

@[simp] theorem counts_svcAccess (s : State) (c : Cell) : (s.svcAccess c).2.counts = s.counts := by
  unfold State.svcAccess
  dsimp only
  repeat' split
  all_goals simp

theorem countsWf_carry {s : State} (hs : s.counts.wf) (p : Nat) (c : Cell) : (s.carry p c).counts.wf := by
  have haccess : (s.svcAccess c).2.counts.wf := by simp [hs]
  rw [State.carry]
  split
  case h_1 h => simpa [h] using haccess
  case h_2 h => exact countsWf_served (by simpa [h] using haccess) ..

theorem countsWf_serve {s : State} (hs : s.counts.wf) (p : Nat) (c : Cell) : (s.serve p c).counts.wf := by
  rw [State.serve]
  split
  case isTrue => exact countsWf_served hs ..
  case isFalse => exact countsWf_carry hs ..

/-- The tag of a request names its slot (R350). -/
theorem rtag_mod (use : Nat) {slot : Nat} (hslot : slot < 64) : (BitVec.ofNat 16 (use * 64 + slot)).toNat % 64 = slot := by
  rw [BitVec.toNat_ofNat]
  omega

theorem countsWf_sendIn {s : State} (hs : s.counts.wf) (r : SvcReq) {slot : Nat} (hslot : slot < 64) : (s.sendIn r slot).counts.wf := by
  have hnote : ∀ {u : State}, u.counts.wf → ∀ use p epoch deadline, (u.updSvc fun v =>
      { v with out := Tbl.set v.out slot ⟨BitVec.ofNat 16 (use * 64 + slot), p, epoch, deadline, r.nbr, r.dest⟩ }).counts.wf :=
    fun hu use p epoch deadline => countsWf_updSvc (fun v h => tagsWf_set h hslot (rtag_mod use hslot)) hu
  rw [State.sendIn]
  dsimp only
  split
  case h_1 => simp [hs]
  case h_2 =>
    rw [counts_queueCell]
    exact hnote (by simp [hs]) ..
  case h_3 => exact countsWf_serve (hnote (by simp [hs]) ..) ..

theorem countsWf_sendRequest {s : State} (hs : s.counts.wf) (r : SvcReq) : (s.sendRequest r).counts.wf := by
  rw [State.sendRequest]
  split
  case h_1 h => exact countsWf_sendIn hs r (freeSlot_lt h)
  case h_2 => simp [hs]

theorem countsWf_sendWaiting {s : State} (hs : s.counts.wf) : s.sendWaiting.counts.wf :=
  countsWf_foldl (fun _ r h => countsWf_sendRequest h r) (by simp [hs]) _

theorem countsWf_linkLost {s : State} (hs : s.counts.wf) (p : Nat) : (s.linkLost p).counts.wf :=
  countsWf_sendWaiting (countsWf_updSvc (fun _ h => tagsWf_filter h _) hs)

theorem countsWf_linkDown {s : State} (hs : s.counts.wf) (p : Nat) (fault : Bool) : (s.linkDown p fault).counts.wf := by
  rw [State.linkDown, counts_restartElection]
  refine countsWf_linkLost ?_ p
  rw [counts_updTim]
  exact countsWf_updPort (fun o _ => queuesWf_down o _) (by split <;> simp [hs]) p

theorem countsWf_beginRetrain {s : State} (hs : s.counts.wf) (p width : Nat) (starts : Bool) : (s.beginRetrain p width starts).counts.wf := by
  rw [State.beginRetrain]
  dsimp only
  split
  case isTrue => exact countsWf_linkDown (by simp [hs]) ..
  case isFalse => exact countsWf_linkLost (countsWf_updPort (fun o _ => queuesWf_of_eq (o := o.dropped_) (by simp) (queuesWf_dropped o)) (by simp [hs]) p) p

theorem countsWf_startRetrain {s : State} (hs : s.counts.wf) (p width seq : Nat) : (s.startRetrain p width seq).counts.wf :=
  countsWf_beginRetrain (by simp [hs]) ..

theorem countsWf_writeOlfCtl {s : State} (hs : s.counts.wf) (p : Nat) (v : Reg) : (s.writeOlfCtl p v).2.counts.wf := by
  rw [State.writeOlfCtl]
  dsimp only
  split
  case isTrue => exact countsWf_linkDown (by simp [hs]) ..
  case isFalse => simp [hs]

theorem countsWf_cmdRetrain {s : State} (hs : s.counts.wf) (p : Nat) : (s.cmdRetrain p).counts.wf := by
  rw [State.cmdRetrain]
  split
  case isTrue => exact countsWf_startRetrain hs ..
  case isFalse => exact hs

theorem countsWf_cmdDown {s : State} (hs : s.counts.wf) (p : Nat) : (s.cmdDown p).counts.wf := by
  rw [State.cmdDown]
  split
  case isTrue => exact hs
  case isFalse => exact countsWf_linkDown hs ..

theorem countsWf_writeOlfCmd {s : State} (hs : s.counts.wf) (p : Nat) (v : Reg) : (s.writeOlfCmd p v).2.counts.wf := by
  rw [State.writeOlfCmd]
  split
  case isTrue => simp [hs]
  case isFalse =>
    have hstart : (wrStart s v 3).s.counts.wf := by simp [hs]
    have hretrain : (if bit (wrStart s v 3).v 0 then (wrStart s v 3).s.cmdRetrain p else (wrStart s v 3).s).counts.wf := by
      split
      case isTrue => exact countsWf_cmdRetrain hstart p
      case isFalse => exact hstart
    dsimp only
    split
    case isTrue => exact countsWf_cmdDown hretrain p
    case isFalse => exact hretrain

theorem countsWf_writeOlf {s : State} (hs : s.counts.wf) (r p o : Nat) (v : Reg) : (s.writeOlf r p o v).2.counts.wf := by
  unfold State.writeOlf
  split
  case h_1 => exact countsWf_writeOlfCtl hs ..
  case h_2 => simp [hs]
  case h_3 => exact countsWf_writeOlfCmd hs ..
  case h_4 => simp [hs]

@[simp] theorem countsWf_writeReg {s : State} (hs : s.counts.wf) (r : Nat) (v : Reg) : (s.writeReg r v).2.counts.wf := by
  unfold State.writeReg
  split
  case h_6 => exact countsWf_writeOlf hs ..
  case h_7 | h_9 | h_16 => split <;> simp [hs]
  all_goals simp [hs]

/-! Cluster pipelines, streams, images and stacks -/

@[simp] theorem counts_writeOp (s : State) (cl : Nat) (o : Op) (ok : Bool) : (writeOp s cl o ok).counts = s.counts := by
  unfold writeOp
  dsimp only
  repeat' split
  all_goals simp

@[simp] theorem counts_runCycle (s : State) (span : Nat) : (runCycle s span).counts = s.counts := by simp [runCycle]

@[simp] theorem counts_runTo (s : State) (span c n : Nat) : (runTo s span c n).counts = s.counts := by
  induction n generalizing s with
  | zero => rfl
  | succ n ih =>
    rw [runTo]
    split
    case isTrue => simp
    case isFalse =>
      split
      case isTrue => rw [ih, counts_runCycle]
      case isFalse => rfl

@[simp] theorem counts_advanceSpan (s : State) (span c : Nat) : (advanceSpan s span c).counts = s.counts := by simp [advanceSpan]
@[simp] theorem counts_drainSpan (s : State) (span : Nat) : (drainSpan s span).counts = s.counts := by simp [drainSpan]
@[simp] theorem counts_spanEdge (s : State) (span : Nat) : (State.spanEdge s span).counts = s.counts := by simp [State.spanEdge]
@[simp] theorem counts_scrubLine (s : State) (cl line : Nat) : (State.scrubLine s cl line).counts = s.counts := by simp [State.scrubLine]

@[simp] theorem counts_loadLines (s : State) (x : Section) (base : Nat) : (s.loadLines x base).counts = s.counts := by simp [State.loadLines]
@[simp] theorem counts_loadContents (s : State) (ty base : Nat) : (s.loadContents ty base).counts = s.counts := by simp [State.loadContents]
@[simp] theorem counts_armUnits (s : State) : (State.armUnits s).counts = s.counts := by simp [State.armUnits]

@[simp] theorem counts_wrLines (s : State) (st pclo bank col q entry j : Nat) (pcs : List Nat) :
    (wrLines s st pclo bank col q entry j pcs).counts = s.counts := by
  refine counts_foldl_snd (fun a pc => ?_) pcs ([], s)
  dsimp only
  repeat' split
  all_goals simp

@[simp] theorem counts_scrubHbm (s : State) (st key : Nat) : (s.scrubHbm st key).counts = s.counts := by
  unfold State.scrubHbm
  dsimp only
  split <;> simp

@[simp] theorem counts_scrubDone (s : State) (st : Nat) : (State.scrubDone s st).counts = s.counts := by
  unfold State.scrubDone
  split <;> simp

/-! Host commands -/

@[simp] theorem counts_toBuf (s : State) (hbuf ofs : Nat) (bytes : List Byte) : (s.toBuf hbuf ofs bytes).counts = s.counts := by simp [State.toBuf]
@[simp] theorem counts_localWrite (s : State) (a : Nat) (data : List Byte) : (s.localWrite a data).counts = s.counts := by simp [State.localWrite]

@[simp] theorem counts_localWrites (s : State) (a : Nat) (data : List Byte) (n : Nat) : (State.localWrites s a data n).counts = s.counts := by
  simp [State.localWrites]

@[simp] theorem counts_dumpItem (s : State) (hbuf ofs : Nat) (deaf : List (Nat × Nat)) : (State.dumpItem s hbuf ofs deaf).counts = s.counts := by
  simp [State.dumpItem]

@[simp] theorem counts_dumpDone (s : State) (r : RunCmd) (hbuf : Nat) (force : Bool) (ofs : Nat) :
    (State.dumpDone s r hbuf force ofs).counts = s.counts := by
  simp [State.dumpDone]

@[simp] theorem counts_dumpStep (s : State) (r : RunCmd) (hbuf : Nat) (force : Bool) (ofs : Nat) (deaf : List (Nat × Nat)) :
    (State.dumpStep s r hbuf force ofs deaf).counts = s.counts := by
  simp [State.dumpStep]

@[simp] theorem counts_transferFail (s : State) (r : RunCmd) : (s.transferFail r).counts = s.counts := by
  unfold State.transferFail
  split <;> (dsimp only; split <;> simp)

@[simp] theorem counts_captureLine (a : Desc) (d : Nat) (x : List (BitVec 16) × List Nat × State) (i : Nat) :
    (State.captureLine a d x i).2.2.counts = x.2.2.counts := by
  unfold State.captureLine
  dsimp only
  split <;> split <;> split <;> simp

@[simp] theorem counts_foldl_captureLine (a : Desc) (d : Nat) (l : List Nat) (x : List (BitVec 16) × List Nat × State) :
    (l.foldl (State.captureLine a d) x).2.2.counts = x.2.2.counts := by
  induction l generalizing x with
  | nil => rfl
  | cons i r ih => rw [List.foldl_cons, ih, counts_captureLine]

@[simp] theorem counts_doArm (s : State) (r : RunCmd) : (State.doArm s r).counts = s.counts := by simp [State.doArm]

@[simp] theorem countsWf_regWrites (s : State) (r : RunCmd) (base : Nat) (vals : List Reg) (i : Nat) (hs : s.counts.wf) :
    (s.regWrites r base vals i).counts.wf := by
  induction vals generalizing s i with
  | nil => simp [State.regWrites, hs]
  | cons v rest ih =>
    have hwrite := countsWf_writeReg hs (base + 8 * i) v
    rw [State.regWrites]
    split
    case cons.isTrue => simp [hs]
    case cons.isFalse => split <;> simp_all

@[simp] theorem countsWf_startCmd (s : State) (r : RunCmd) (hs : s.counts.wf) : (State.startCmd s r).counts.wf := by
  unfold State.startCmd
  repeat' split
  all_goals simp [State.doRegWrite, hs]

@[simp] theorem countsWf_pumpN (s : State) (n : Nat) (hs : s.counts.wf) : (s.pumpN n).counts.wf := by
  induction n generalizing s with
  | zero => exact hs
  | succ n ih =>
    rw [State.pumpN]
    split
    case h_1 => exact hs
    case h_2 => exact ih _ (by simp [hs])

@[simp] theorem countsWf_pump (s : State) (hs : s.counts.wf) : s.pump.counts.wf := by simp [State.pump, hs]

@[simp] theorem countsWf_command (s : State) (i : Instr) (h : Hdr) (hs : s.counts.wf) : (State.command s i h).counts.wf := by
  unfold State.command
  split <;> simp [hs]

@[simp] theorem countsWf_transferDone (s : State) (r : RunCmd) (deaf : List (Nat × Nat)) (data : List Byte) (hs : s.counts.wf) :
    (State.transferDone s r deaf data).counts.wf := by
  unfold State.transferDone
  split <;> simp [hs]

@[simp] theorem countsWf_diagAccess (s : State) (write : Bool) (r : Nat) (v : Reg) (hs : s.counts.wf) : (s.diagAccess write r v).counts.wf := by
  have hwrite := countsWf_writeReg hs r v
  have hread := counts_readReg s r s.chipOr0
  unfold State.diagAccess
  dsimp only
  split
  case isTrue => split <;> simp_all
  case isFalse => split <;> simp_all

/-! Links -/

theorem countsWf_exchangeEnd {s : State} (hs : s.counts.wf) (p : Nat) : (s.exchangeEnd p).counts.wf := by
  unfold State.exchangeEnd
  extract_lets oldWidth chosen o again wiring rev dig wired reved digged narrowed narrow judged locked cleared
  have hchosen : chosen.counts.wf := by simp [chosen, hs]
  split
  case isTrue => exact countsWf_linkDown hchosen ..
  case isFalse =>
    have hwired : wired.counts.wf := by simp [wired, hchosen]
    have hreved : reved.counts.wf := by simp [reved, hwired]
    have hdigged : digged.counts.wf := by simp [digged, hreved]
    have hnarrow : narrow.counts.wf := by simp [narrow, hdigged]
    have hjudged : judged.counts.wf := by simp [judged, hnarrow]
    have hlocked : locked.counts.wf := by simp [locked, hjudged]
    simp [cleared, hlocked]

theorem countsWf_takeNak {s : State} (hs : s.counts.wf) (p ack : Nat) : (State.takeNak s p ack).counts.wf := by
  unfold State.takeNak
  extract_lets o t same n noted
  split
  case isTrue => exact hs
  case isFalse =>
    have hnoted : noted.counts.wf := by simp [noted, hs]
    split
    case isTrue => exact countsWf_startRetrain hnoted ..
    case isFalse =>
      refine countsWf_updPort (fun o ho => ?_) hnoted p
      obtain ⟨hreplay, hrest⟩ := ho
      exact ⟨replayWf_unsent hreplay, hrest⟩

/-! Control paths -/

@[simp] theorem countsWf_noAnswer (s : State) (a : CtlReq) (hs : s.counts.wf) : (State.noAnswer s a).counts.wf := by
  unfold State.noAnswer
  split
  case h_5 => exact countsWf_respond (by simp [hs]) ..
  all_goals simp [hs]

@[simp] theorem countsWf_acknowledged (s : State) (a : CtlReq) (hs : s.counts.wf) : (State.acknowledged s a).counts.wf := by
  unfold State.acknowledged
  split
  case h_1 => exact hs
  case h_2 => simp [hs]
  case h_3 => simp [hs]
  case h_4 =>
    split
    case isTrue => exact hs
    case isFalse => split <;> simp [hs]
  case h_5 => exact countsWf_carry (by simp [hs]) ..

/-! Reset and power -/

theorem counts_lasting (s : State) : s.lasting.counts = State.reset.counts := by rfl

@[simp] theorem countsWf_lasting (s : State) : s.lasting.counts.wf := by
  rw [counts_lasting, ← countsOk_iff_wf]
  exact countsOk_reset

@[simp] theorem counts_joinFlash (s : State) : (State.joinFlash s).counts = s.counts := by simp [State.joinFlash]

/-- A table of stacks that all have the debts of a stack at reset. -/
theorem stackDebts_of_default {t : Tbl Msq} (h : ∀ x ∈ t, x.2.debts = ({} : Msq).debts) (st : Nat) : stackDebts t st = ({} : Msq).debts := by
  induction t with
  | nil => rfl
  | cons x r ih =>
    rw [stackDebts, Tbl.get]
    split
    case isTrue => exact h x List.mem_cons_self
    case isFalse => exact ih fun y hy => h y (List.mem_cons_of_mem _ hy)

theorem debtsWf_default : ({} : Msq).debts.wf := (debtsOk_iff_wf _).mp debtsOk_default

@[simp] theorem countsWf_heldInReset (s : State) : s.heldInReset.counts.wf := by
  rw [State.heldInReset, counts_ibi, counts_joinFlash]
  refine ⟨fun st => ?_, (countsWf_lasting s).2⟩
  have hdebts := stackDebts_of_default (t := (List.range 4).map fun st => (st, ({ selfRef := (s.ms st).selfRef } : Msq))) (by simp) st
  have hwf := debtsWf_default
  rwa [← hdebts] at hwf

@[simp] theorem countsWf_restoreRegs (s : State) (recs : List JRec) (hs : s.counts.wf) : (State.restoreRegs s recs).counts.wf :=
  countsWf_foldl (fun _ _ h => by simp [State.restoreReg, h]) hs _

theorem countsWf_restoreStack {s : State} (hs : s.counts.wf) (st : Nat) (tact : List Reg) : (s.restoreStack st tact).counts.wf := by
  have hrefreshed : ∀ (f : Msq → Msq) (j : Int), (s.updMs st fun m => (f m).refreshAll j).counts.wf :=
    fun f j => countsWf_updMs (fun m _ => debtsWf_refreshAll (f m) j) hs st
  unfold State.restoreStack
  extract_lets act nominal above kept refreshed
  have hkept : refreshed.counts.wf := hrefreshed _ _
  split
  case isTrue => exact hkept
  case isFalse => exact hkept

@[simp] theorem countsWf_powerOff (s : State) : (State.powerOff s).counts.wf := by simp [State.powerOff]
@[simp] theorem countsWf_coldStart (s : State) : (State.coldStart s).counts.wf := by simp [State.coldStart]

theorem countsWf_removeCompute {s : State} (hs : s.counts.wf) : s.removeCompute.counts.wf := by
  rw [State.removeCompute, counts_setUcie, counts_setUcie]
  refine countsWf_forEach (fun s p h => ?_) ?_ _
  · split
    case isTrue => exact h
    case isFalse => exact countsWf_linkDown h ..
  · rw [counts_updCxl]
    exact ⟨fun _ => debtsWf_default, hs.2⟩

@[simp] theorem countsWf_railFault (s : State) (kind rail : Nat) (hs : s.counts.wf) : (State.railFault s kind rail).counts.wf := by
  simp [State.railFault, countsWf_removeCompute, hs]

@[simp] theorem countsWf_debugDone (s : State) (a : DbgAccess) (hs : s.counts.wf) : (State.debugDone s a).counts.wf := by
  unfold State.debugDone
  split
  case h_2 => exact countsWf_pump _ hs
  all_goals exact hs

/-! #### Commands keep the bounds -/

/-- Where a command answers a next state, its counts are within their bounds. -/
def answerKeeps (o : Host.Outcome State Fault Refusal) : Prop :=
  match o with
  | .next t => t.counts.wf
  | _ => True

@[simp] theorem answerKeeps_next (t : State) : answerKeeps (.next t) ↔ t.counts.wf := Iff.rfl
@[simp] theorem answerKeeps_refused (r : Refusal) : answerKeeps (.refused r) ↔ True := Iff.rfl

@[simp] theorem answerKeeps_ite (p : Prop) [Decidable p] (a b : Host.Outcome State Fault Refusal) :
    answerKeeps (if p then a else b) ↔ if p then answerKeeps a else answerKeeps b := by
  split <;> exact Iff.rfl

/-! Words of cluster units -/

theorem countsWf_issueAt {go : State → Nat → State} (hgo : ∀ s c, (go s c).counts = s.counts) {s : State} (hs : s.counts.wf) (cl : Nat)
    (u : Unit4) (delta words : Nat) : (issueAt s cl u delta words go).counts.wf := by
  unfold issueAt
  split
  case isTrue => exact hs
  case isFalse =>
    dsimp only
    split
    case h_1 => simp [hs]
    case h_2 => simp [hgo, hs]

theorem answerKeeps_issueWith {go : Nat → Unit4 → Wd → State → Nat → State} (hgo : ∀ cl u w s c, (go cl u w s c).counts = s.counts) (i : Instr)
    {s : State} (hs : s.counts.wf) (words : Nat) : answerKeeps (issueWith i s words go) := by
  unfold issueWith
  split
  case isTrue => trivial
  case isFalse =>
    split
    case h_1 => trivial
    case h_2 => exact countsWf_issueAt (hgo _ _ _) hs ..

theorem answerKeeps_idleWord (st : StreamId) (delta : Nat) {s : State} (hs : s.counts.wf) : answerKeeps (execIdleWord st delta s) := by
  unfold execIdleWord
  split
  case isTrue => trivial
  case isFalse =>
    split
    case isTrue => exact hs
    case isFalse =>
      split
      case h_1 => exact countsWf_issueAt (fun _ _ => rfl) hs ..
      case h_2 => simp [hs]

/-! HBM stacks -/

/-- A word of a memory stream: forced refreshes whose cycles have come, and then its own command (R260, R261). -/
theorem answerKeeps_memIssue {go : State → Nat → List Nat → State} (hgo : ∀ s j pcs, (go s j pcs).counts = s.counts)
    (i : Instr) (st delta : Nat) (c : MemCmd) (pclo pcn bank row : Nat) (all : Bool) {s : State} (hs : s.counts.wf) :
    answerKeeps (memIssue i st delta c pclo pcn bank row all go s) := by
  have hissued : ∀ (str : Stream) (j : Nat),
      (s.setMs st { (memWord ((s.ms st).paid j) c pclo pcn bank row all j).1 with str := str }).counts.wf := fun str j =>
    countsWf_setMs hs (debtsWf_of_eq (by simp) (debtsWf_memWord (debtsWf_paid (debtsWf_ms hs st) j) c pclo pcn bank row all j)) st
  have hcounted : ∀ (u : State) (p : Bool), u.counts.wf → (if p then u.memCount st 0 else u).counts.wf := fun u p hu => by
    cases p <;> simp [hu]
  unfold memIssue
  dsimp only
  split
  case isTrue => trivial
  case isFalse =>
    split
    case isTrue => exact hs
    case isFalse =>
      have hmoved := fun str j pcs => countsWf_of_eq (hgo _ j pcs) (hissued str j)
      split
      case h_1 =>
        rw [answerKeeps_next, counts_memFault, counts_updMs (fun _ => by simp), counts_memLog]
        exact hcounted _ _ (hmoved _ _ _)
      case h_2 => exact hcounted _ _ (hmoved _ _ _)

@[simp] theorem incs_payUntil (n : Nat) (j : Int) (m : Msq) : (m.payUntil n j).incs = m.incs := by
  have happly : ∀ (m : Msq) c pc b row j, (m.apply c pc b row j).incs = m.incs := incs_apply
  induction n generalizing m with
  | zero => rfl
  | succ n ih =>
    rw [Msq.payUntil]
    split
    case h_1 => rfl
    case h_2 => simp [ih, happly, apply_ite Msq.incs]

@[simp] theorem incs_paid (m : Msq) (j : Int) : (m.paid j).incs = m.incs := incs_payUntil ..

theorem answerKeeps_refreshDebtIncrease (st : Nat) {s : State} (hs : s.counts.wf) : answerKeeps (execRefreshDebtIncrease st s) := by
  rw [execRefreshDebtIncrease]
  split
  case isTrue =>
    split
    case isTrue =>
      refine countsWf_updMs (fun m hm => debtsWf_of_eq (debts_noteDebt _) ?_) (by simp [hs]) st
      exact debtsWf_increase (debtsWf_paid hm _) (by rw [incs_paid]; omega)
    case isFalse => exact hs
  case isFalse => exact hs

theorem answerKeeps_forcedRefresh (st pc bank : Nat) {s : State} (hs : s.counts.wf) : answerKeeps (execForcedRefresh st pc bank s) := by
  rw [execForcedRefresh]
  split
  case isTrue =>
    dsimp only
    split
    case isTrue => exact hs
    case isFalse =>
      have howed : ({ s.ms st with owed := (s.ms st).owed ++ [(48 * pc + bank, (increaseCycle (s.ms st).incs.toNat : Int))] } : Msq).debts.wf :=
        debtsWf_ms hs st
      simp only [answerKeeps_next, counts_memFault, counts_memCount, counts_memLog]
      exact countsWf_setMs hs (debtsWf_of_eq (debts_setPc _ _ (by rfl)) (debtsWf_paid howed _)) st
  case isFalse => exact hs

theorem debtsWf_autoAt {m : Msq} (hm : m.debts.wf) (t : Nat) : { m with autoAt := t }.debts.wf := hm

theorem answerKeeps_msqAutoRefresh (st : Nat) {s : State} (hs : s.counts.wf) : answerKeeps (execMsqAutoRefresh st s) := by
  rw [execMsqAutoRefresh]
  split
  case isTrue => exact hs
  case isFalse =>
    split
    case isTrue => exact hs
    case isFalse => exact countsWf_updMs (fun m _ => debtsWf_autoAt (debtsWf_refreshAll _ _) _) (by simp [hs]) st

theorem answerKeeps_msqRecoveryPrecharge (st : Nat) {s : State} (hs : s.counts.wf) : answerKeeps (execMsqRecoveryPrecharge st s) := by
  rw [execMsqRecoveryPrecharge]
  split
  case isTrue => exact countsWf_updMs (fun m hm => debtsWf_ite (debtsWf_closeAll hm _) hm) hs st
  case isFalse => exact hs

/-! Links -/

theorem answerKeeps_portRow {f : State → State} {s : State} (hf : s.counts.wf → (f s).counts.wf) (hs : s.counts.wf) (p : Nat) :
    answerKeeps (portRow p s f) := by
  rw [portRow]
  split
  case isTrue => exact hs
  case isFalse => exact hf hs

/-- A row of a port that acts where its condition holds. -/
theorem answerKeeps_portWhen {ok : State → Bool} {f : State → State} {s : State} (hf : s.counts.wf → (f s).counts.wf) (hs : s.counts.wf) (p : Nat) :
    answerKeeps (portRow p s fun s => whenPort s (ok s) f) := by
  refine answerKeeps_portRow (fun _ => ?_) hs p
  rw [whenPort]
  split
  case isTrue => exact hf hs
  case isFalse => exact hs

theorem answerKeeps_identReceive (p : Nat) (bytes : List Byte) {s : State} (hs : s.counts.wf) : answerKeeps (execIdentReceive p bytes s) := by
  refine answerKeeps_portWhen (fun h => ?_) hs p
  extract_lets o0 first noted leads begun agreed stored sent
  have hagreed : agreed.queues = (s.port p).queues := by simp [agreed, begun, noted, o0]
  have hstored : stored.counts.wf := by simp [stored, hagreed, h]
  have hsent : sent.counts.wf := by simp [sent, hstored]
  split
  case isTrue => exact countsWf_exchangeEnd hsent p
  case isFalse => exact hsent

theorem answerKeeps_measureDone (p : Nat) {s : State} (hs : s.counts.wf) : answerKeeps (execMeasureDone p s) := by
  refine answerKeeps_portWhen (fun h => ?_) hs p
  extract_lets d b hold exceeds up
  have hup : up.counts.wf := countsWf_updPort (fun o _ => queuesWf_of_eq (o := { o.dropped_ with credSvc := 56, credFoot := 8 }) (by simp)
    (queuesWf_empty le_rfl le_rfl)) h p
  split
  case isTrue => simp [hup]
  case isFalse => exact hup

theorem answerKeeps_trainingTimeout (p : Nat) {s : State} (hs : s.counts.wf) : answerKeeps (execTrainingTimeout p s) := by
  refine answerKeeps_portRow (fun h => ?_) hs p
  dsimp only
  split
  case isTrue => exact countsWf_linkDown (by simp [h]) ..
  case isFalse =>
    split
    case isTrue => exact countsWf_updPort (fun o _ => queuesWf_of_eq (by simp) (queuesWf_down o o.downAt)) (by simp [h]) p
    case isFalse => exact h

theorem answerKeeps_auditReceive (p : Nat) (bytes : List Byte) {s : State} (hs : s.counts.wf) : answerKeeps (execAuditReceive p bytes s) := by
  refine answerKeeps_portWhen (fun h => ?_) hs p
  extract_lets o ack fS fF badS badF fixS fixF newS newF fixed both noted
  have ho := queuesWf_port h p
  have hcred := ho.2.2.2.2
  have hnewS : newS ≤ 56 := (Nat.sub_le ..).trans (Nat.sub_le ..)
  have hnewF : newF ≤ 8 := (Nat.sub_le ..).trans (Nat.sub_le ..)
  have hfixed : fixed.queues.wf := queuesWf_ite (queuesWf_credits ho hnewS hcred.2) ho
  have hboth : both.queues.wf := queuesWf_ite (queuesWf_credits hfixed hfixed.2.2.2.2.1 hnewF) hfixed
  have hnoted : noted.queues.wf := hboth
  split
  case isTrue =>
    rw [counts_olfFault]
    exact countsWf_setPort h (queuesWf_of_eq (by simp) hnoted) p
  case isFalse => exact countsWf_setPort h hnoted p

theorem answerKeeps_lockLossTimeout (p : Nat) {s : State} (hs : s.counts.wf) : answerKeeps (execLockLossTimeout p s) := by
  refine answerKeeps_portRow (fun h => ?_) hs p
  split
  case h_1 => exact countsWf_linkDown (by simp [h]) ..
  case h_2 => exact h

theorem answerKeeps_laneLockLoss (p lane : Nat) {s : State} (hs : s.counts.wf) : answerKeeps (execLaneLockLoss p lane s) := by
  rw [execLaneLockLoss]
  split
  case isTrue => exact hs
  case isFalse =>
    refine answerKeeps_portWhen (fun h => ?_) hs p
    extract_lets lost judged w
    have hjudged : judged.counts.wf := by simp [judged, lost, h]
    split
    case isTrue => exact hjudged
    case isFalse =>
      split
      case isTrue => exact countsWf_linkDown hjudged ..
      case isFalse => simp [hjudged]

theorem answerKeeps_retrainReceive (p : Nat) (width : BitVec 2) {s : State} (hs : s.counts.wf) : answerKeeps (execRetrainReceive p width s) := by
  refine answerKeeps_portRow (fun h => ?_) hs p
  dsimp only
  split
  case isTrue => exact countsWf_beginRetrain h ..
  case isFalse =>
    split
    case isTrue => simp [h]
    case isFalse => exact h

theorem answerKeeps_widthReceive (p : Nat) (width : BitVec 2) {s : State} (hs : s.counts.wf) : answerKeeps (execWidthReceive p width s) := by
  refine answerKeeps_portWhen (fun h => ?_) hs p
  dsimp only
  split
  case isTrue => exact countsWf_linkDown h ..
  case isFalse =>
    split
    case isTrue => exact h
    case isFalse => exact countsWf_beginRetrain (by simp [h]) ..

/-! Service cells -/

theorem answerKeeps_serviceRequestReceive (p : Nat) (c : Cell) {s : State} (hs : s.counts.wf) : answerKeeps (execServiceRequestReceive p c s) := by
  refine answerKeeps_portWhen (fun h => ?_) hs p
  have htaken := countsWf_takeCell h p c
  dsimp only
  split
  case isTrue => exact countsWf_serve htaken ..
  case isFalse => simp [htaken]

theorem answerKeeps_serviceResponseReceive (p : Nat) (c : Cell) {s : State} (hs : s.counts.wf) : answerKeeps (execServiceResponseReceive p c s) := by
  refine answerKeeps_portWhen (fun h => ?_) hs p
  exact countsWf_sendWaiting (countsWf_takeResponse (countsWf_takeCell h p c) p c)

theorem answerKeeps_serviceCellForward (p : Nat) (c : Cell) {s : State} (hs : s.counts.wf) : answerKeeps (execServiceCellForward p c s) := by
  refine answerKeeps_portWhen (fun h => ?_) hs p
  have htaken := countsWf_takeCell h p c
  dsimp only
  split
  case h_1 => simp [htaken]
  case h_2 =>
    split
    case isTrue => exact countsWf_respond (by simp [htaken]) ..
    case isFalse => simp [htaken]

theorem answerKeeps_serviceMessageReceive (p : Nat) (c : Cell) {s : State} (hs : s.counts.wf) : answerKeeps (execServiceMessageReceive p c s) := by
  refine answerKeeps_portWhen (fun h => ?_) hs p
  have htaken := countsWf_takeCell h p c
  dsimp only
  split
  case isTrue => simp [htaken]
  case isFalse =>
    rw [counts_updSvc (fun v => by split <;> rfl)]
    exact htaken

theorem answerKeeps_serviceRequestTimeout (slot : Nat) {s : State} (hs : s.counts.wf) : answerKeeps (execServiceRequestTimeout slot s) := by
  unfold execServiceRequestTimeout
  split
  case h_1 => exact hs
  case h_2 =>
    refine countsWf_sendWaiting ?_
    rw [counts_answer]
    exact countsWf_updSvc (fun _ h => tagsWf_filter h _) (by simp [hs])

theorem answerKeeps_abortCellReceive (p : Nat) (c : Cell) {s : State} (hs : s.counts.wf) : answerKeeps (execAbortCellReceive p c s) := by
  refine answerKeeps_portRow (fun h => ?_) hs p
  have htaken := countsWf_takeCell h p c
  dsimp only
  repeat' split
  all_goals simp [htaken]

/-! Frames and cells -/

theorem answerKeeps_frameSend (p : Nat) {s : State} (hs : s.counts.wf) : answerKeeps (execFrameSend p s) := by
  rw [execFrameSend]
  split
  case isTrue => exact hs
  case isFalse =>
    split
    case isTrue => exact hs
    case isFalse =>
      extract_lets begun f start groups
      have hbegun : begun.counts.wf := by simp [begun, hs]
      have hgroups : groups.2.queues.wf := queuesWf_foldl_snd (fun x g hx => by dsimp only; exact queuesWf_frameGroup begun p f g hx) _
        (by dsimp only; exact queuesWf_port hbegun p)
      clear_value groups
      split
      case isTrue => exact hbegun
      case isFalse =>
        refine countsWf_setPort hbegun ?_ p
        exact hgroups

theorem answerKeeps_linkWordReceive (p : Nat) (bytes : List Byte) {s : State} (hs : s.counts.wf) : answerKeeps (execLinkWordReceive p bytes s) := by
  rw [execLinkWordReceive]
  split
  case isTrue => exact hs
  case isFalse =>
    split
    case isTrue => simp [hs]
    case isFalse =>
      extract_lets w frag b gathered credited
      have hgathered : gathered.counts.wf := by simp [gathered, hs]
      have hcredited : credited.counts.wf := countsWf_updPort (fun o ho => queuesWf_recredit (queuesWf_release ho _) _ _) hgathered p
      split
      case isTrue => exact hgathered
      case isFalse =>
        rw [answerKeeps_next]
        split
        case isTrue => exact countsWf_takeNak hcredited ..
        case isFalse => exact hcredited

theorem answerKeeps_cellReceive (p slot : Nat) (bytes : List Byte) (fec : FecObs) {s : State} (hs : s.counts.wf) :
    answerKeeps (execCellReceive p slot bytes fec s) := by
  rw [execCellReceive]
  split
  case isTrue => exact hs
  case isFalse =>
    split
    case isTrue => exact hs
    case isFalse =>
      extract_lets counted o drop numbered
      have hcounted : counted.counts.wf := by simp [counted, hs]
      have hnumbered : numbered.counts.wf := by simp [numbered, hcounted]
      have hdrop : ∀ o : Olf, (drop o).queues = o.queues := fun o => by simp [drop]
      split
      case isTrue => exact hcounted
      case isFalse =>
        split
        case isTrue => simp [hcounted]
        case isFalse =>
          split
          case h_1 => simp [hcounted]
          case h_2 c _ =>
            extract_lets stale taken credited
            have htaken : ∀ o : Olf, o.queues.wf → (taken o).queues.wf := fun o ho => queuesWf_credit (queuesWf_release ho _) _
            have hcredited : credited.counts.wf := countsWf_updPort htaken hnumbered p
            split
            case isTrue => exact countsWf_updPort (fun o ho => queuesWf_ite (queuesWf_of_eq (hdrop o) ho) (htaken o ho)) hcounted p
            case isFalse =>
              split
              case isTrue => simp [hcounted]
              case isFalse =>
                split
                case isTrue =>
                  split
                  case isTrue => simp [hdrop, hnumbered]
                  case isFalse => exact countsWf_of_eq (counts_holdCell ..) hcredited
                case isFalse => exact countsWf_updPort (fun o ho => queuesWf_receive ho c) hcredited p

/-! Registers -/

@[simp] theorem answerKeeps_regRow {w : State → RegAns × State} (s : State) (r : Nat) (v : Reg) (hw : (w s).2.counts.wf) (hs : s.counts.wf) :
    answerKeeps (regRow s r w v) := by
  rw [regRow]
  split
  case isTrue => exact hs
  case isFalse =>
    split
    case isTrue => simp [hs]
    case isFalse => exact hw

@[simp] theorem answerKeeps_unitRow {w : State → RegAns × State} (s : State) (u n r : Nat) (v : Reg) (hw : (w s).2.counts.wf) (hs : s.counts.wf) :
    answerKeeps (unitRow s u n r w v) := by
  refine answerKeeps_regRow s r v ?_ hs
  split
  case isTrue => exact hw
  case isFalse => simp [hs]

theorem answerKeeps_writeKeyArm {s : State} (hs : s.counts.wf) (r : Nat) (u v : Reg) : answerKeeps (regRow s r (·.writeKeyArm u) v) :=
  answerKeeps_regRow s r v (by simp [hs]) hs

theorem answerKeeps_olfCtlWrite (p : Nat) (v : Reg) {s : State} (hs : s.counts.wf) : answerKeeps (execOlfCtlWrite p v s) :=
  answerKeeps_unitRow _ _ _ _ _ (countsWf_writeOlfCtl hs ..) hs

theorem answerKeeps_olfRetrainCmd (p : Nat) {s : State} (hs : s.counts.wf) : answerKeeps (execOlfRetrainCmd p s) :=
  answerKeeps_unitRow _ _ _ _ _ (countsWf_writeOlfCmd hs ..) hs

theorem answerKeeps_olfDownCmd (p : Nat) {s : State} (hs : s.counts.wf) : answerKeeps (execOlfDownCmd p s) :=
  answerKeeps_unitRow _ _ _ _ _ (countsWf_writeOlfCmd hs ..) hs

/-! Jobs, phases and keystones -/

theorem answerKeeps_abortStop {s : State} (hs : s.counts.wf) : answerKeeps (execAbortStop s) := by
  unfold execAbortStop
  split
  case h_1 => exact countsWf_pump _ (countsWf_abortStop hs _)
  case h_2 => exact hs

theorem answerKeeps_jobStop {s : State} (hs : s.counts.wf) : answerKeeps (execJobStop s) := by
  rw [execJobStop]
  split
  case isTrue => exact hs
  case isFalse => exact countsWf_pump _ (countsWf_orderlyStop (by simp [hs]))

theorem counts_openPhase (s : State) (us : List Upset) (time : Nat) : (s.openPhase us time).counts = s.counts := by simp [State.openPhase]
theorem counts_afterEdge (s : State) (P : Nat) : (s.afterEdge P).counts = s.counts := by simp [State.afterEdge]

theorem answerKeeps_phaseEdge (upsets : List Upset) {s : State} (hs : s.counts.wf) : answerKeeps (execPhaseEdge upsets s) := by
  rw [execPhaseEdge_eq s upsets rfl, answerKeeps_next, counts_afterEdge, counts_openPhase]
  simp [hs]

theorem answerKeeps_keystoneTick {s : State} (hs : s.counts.wf) : answerKeeps (execKeystoneTick s) := by
  unfold execKeystoneTick
  extract_lets t named standing u want
  have hu : u.counts.wf := by
    unfold u
    split
    case isTrue => exact countsWf_namedKeystone hs false
    case isFalse => exact hs
  split
  case isTrue =>
    split
    case h_1 =>
      split
      case isTrue => exact countsWf_pump _ (countsWf_namedKeystone (by simp [hs]) _)
      case isFalse => exact hs
    case h_2 => exact hs
  case isFalse =>
    split
    case isTrue => exact hs
    case isFalse =>
      split
      case isTrue =>
        split
        case isTrue => exact countsWf_pump _ (by split <;> simp [hu])
        case isFalse => exact countsWf_pump _ (countsWf_fireKeystone hu ..)
      case isFalse => exact countsWf_pump _ hu

theorem answerKeeps_routerSlot {s : State} (hs : s.counts.wf) : answerKeeps (execRouterSlot s) := by
  rw [execRouterSlot]
  dsimp only
  split
  case isTrue => exact hs
  case isFalse =>
    rw [answerKeeps_next, counts_updTik, counts_deliver]
    exact countsWf_foldl (fun _ _ h => countsWf_egress h ..) (by simp [hs]) _

/-! Reset and power -/

theorem answerKeeps_resetBegin {s : State} (hs : s.counts.wf) : answerKeeps (execResetBegin s) := by
  rw [execResetBegin]
  split
  case isTrue =>
    rw [answerKeeps_next, counts_ibi, counts_signal, counts_updHst, counts_updCxl]
    refine countsWf_forEach (fun s p h => countsWf_updPort (fun o _ => queuesWf_down o _) h p) (countsWf_selfRefreshAll ?_) _
    split <;> simp [hs]
  case isFalse => exact hs

theorem answerKeeps_computeDieRelease (tact : List (List Reg)) {s : State} (hs : s.counts.wf) : answerKeeps (execComputeDieRelease tact s) := by
  rw [execComputeDieRelease]
  split
  case isTrue => exact countsWf_forEach (f := fun s st => s.restoreStack st (nth [] tact st)) (fun _ st h => countsWf_restoreStack h st _) hs (List.range 4)
  case isFalse => exact hs

theorem answerKeeps_undervoltage {s : State} (hs : s.counts.wf) : answerKeeps (execUndervoltage s) := by
  rw [execUndervoltage]
  split
  case isTrue => simp [countsWf_selfRefreshAll hs]
  case isFalse => exact hs

/-! #### A command, and a step -/

/-- Is it one of the events of a link that leave its queues as they are? -/
def portEvent : Instr → Bool
  | .detectRetest .. | .equaliseDone .. | .alignDone .. | .auditSend .. | .runchkSend .. | .runchkReceive .. | .runchkMissing .. | .lockLoss .. |
    .downHoldExpiry .. => true
  | _ => false

theorem answerKeeps_portEvent {i : Instr} (hi : portEvent i = true) {s : State} (hs : s.counts.wf) : answerKeeps (exec i s) := by
  cases i <;> cases hi
  all_goals
    simp [exec, execDetectRetest, execEqualiseDone, execAlignDone, execAuditSend, execRunchkSend, execRunchkReceive, execRunchkMissing,
      execLockLoss, execDownHoldExpiry, portRow, whenPort, hs]

/-- Is it one of the writes of registers but those of a port? -/
def registerRow : Instr → Bool
  | .timStep .. | .timCtlWrite .. | .timEthLatWrite .. | .timClear .. | .tikStepSetWrite .. | .tikClear .. | .spnClear .. | .cluClear .. | .msqClear
    .. | .msqScrub .. | .cxlClear .. | .olfClear .. | .cwyClear .. | .svcCtlWrite .. | .svcClear .. | .plcClear .. | .hstCtlWrite .. | .hstClear ..
    | .fltClear .. | .cfgPersist .. | .cfgForget .. | .cfgCompact .. | .cfgClear .. | .cfgGrpRefWrite .. | .cfgAszTRefWrite .. | .pwrClear .. |
    .secDbgChallenge .. | .secDbgUnlock .. | .secClear .. => true
  | _ => false

theorem answerKeeps_registerRow {i : Instr} (hi : registerRow i = true) {s : State} (hs : s.counts.wf) : answerKeeps (exec i s) := by
  cases i <;> cases hi
  all_goals
    simp [exec, execTimStep, execTimCtlWrite, execTimEthLatWrite, execTimClear, execTikStepSetWrite, execTikClear, execSpnClear, execCluClear,
      execMsqClear, execMsqScrub, execCxlClear, execOlfClear, execCwyClear, execSvcCtlWrite, execSvcClear, execPlcClear, execHstCtlWrite,
      execHstClear, execFltClear, execCfgPersist, execCfgForget, execCfgCompact, execCfgClear, execCfgGrpRefWrite, execCfgAszTRefWrite,
      execPwrClear, execSecDbgChallenge, execSecDbgUnlock, execSecClear, hs]

/-- Is it one of the host commands and host accesses? -/
def hostCommand : Instr → Bool
  | .identify .. | .bufReg .. | .bufFree .. | .load .. | .unload .. | .place .. | .switchGet .. | .switchDone .. | .arm .. | .start .. | .stop .. |
    .abort .. | .release .. | .dma .. | .regRead .. | .regWrite .. | .dump .. | .reset .. | .attest .. | .fwUpdate .. | .commandRingDoorbell .. |
    .completionDoorbell .. | .eventDoorbell .. | .mailboxDoorbell .. | .completionWrite .. | .eventsLost .. | .pcieReset .. | .diagWindowAccess .. |
    .registerWrite .. | .msqScrubDone .. | .transferAreaAccess .. => true
  | _ => false

theorem answerKeeps_hostCommand {i : Instr} (hi : hostCommand i = true) {s : State} (hs : s.counts.wf) : answerKeeps (exec i s) := by
  cases i <;> cases hi
  all_goals
    simp [exec, execIdentify, execBufReg, execBufFree, execLoad, execUnload, execPlace, execSwitchGet, execSwitchDone, execArm, execStart, execStop,
      execAbort, execRelease, execDma, execRegRead, execRegWrite, execDump, execReset, execAttest, execFwUpdate, execCommandRingDoorbell,
      execCompletionDoorbell, execEventDoorbell, execMailboxDoorbell, execCompletionWrite, execEventsLost, execPcieReset, execDiagWindowAccess,
      execRegisterWrite, execMsqScrubDone, execTransferAreaAccess, hostWrite, hs]

/-- Is it one of the words of ports and events of phases, droop and keeping? -/
def phaseEvent : Instr → Bool
  | .ptPage .. | .ptPad .. | .phaseMark .. | .planEndReached .. | .droopTrip .. | .droopLevel2Clear .. | .droopClear .. | .stretchHoldEnd .. |
    .assizePass .. | .journalAppend .. | .compactionComplete .. | .storeScrubPass .. | .hbmTempRead .. | .foldMillisecondEnd .. | .confirmReceive ..
    | .stopRequestReceive .. | .stopStepReceive .. | .cxlLinkTrain .. | .cxlHotAdd .. | .spanPoll .. | .tollhousePoll .. | .ucieTrainFail .. |
    .ucieModuleDown .. | .ucieModuleReturn .. | .watchdogExpiry .. => true
  | _ => false

theorem answerKeeps_phaseEvent {i : Instr} (hi : phaseEvent i = true) {s : State} (hs : s.counts.wf) : answerKeeps (exec i s) := by
  cases i <;> cases hi
  all_goals
    simp [exec, execPtPage, execPtPad, execPhaseMark, execPlanEndReached, execDroopTrip, execDroopLevel2Clear, execDroopClear, execStretchHoldEnd,
      execAssizePass, execJournalAppend, execCompactionComplete, execStoreScrubPass, execHbmTempRead, execFoldMillisecondEnd, execConfirmReceive,
      execStopRequestReceive, execStopStepReceive, execCxlLinkTrain, execCxlHotAdd, execSpanPoll, execTollhousePoll, execUcieTrainFail,
      execUcieModuleDown, execUcieModuleReturn, execWatchdogExpiry, droopChange, hs]

/-- Is it one of the events of reset, power and pins? -/
def moduleEvent : Instr → Bool
  | .drainEnd .. | .resetHoldExpiry .. | .selfRefreshTimeout .. | .coresHeldInReset .. | .tollhouseRelease .. | .firmwareStart .. | .selfTestDone ..
    | .inputGood .. | .railGood .. | .railStartTimeout .. | .powerDown .. | .overvoltage .. | .overcurrent .. | .railWindowFault .. | .thermalTrip
    .. | .feedReversed .. | .feedLoss .. | .feedReturn .. | .railSettled .. | .powerPolicyEval .. | .coolantFault .. | .resetNAssert .. |
    .resetNRelease .. | .flashOwnRise .. | .flashOwnFall .. | .pwrEnNAssert .. | .pwrEnNRelease .. | .i3cStatus .. | .i3cSensors .. | .i3cIdent .. |
    .i3cReset .. | .i3cAddressAssign .. | .debugPortAccess .. => true
  | _ => false

theorem answerKeeps_moduleEvent {i : Instr} (hi : moduleEvent i = true) {s : State} (hs : s.counts.wf) : answerKeeps (exec i s) := by
  cases i <;> cases hi
  all_goals
    simp [exec, execDrainEnd, execResetHoldExpiry, execSelfRefreshTimeout, execCoresHeldInReset, execTollhouseRelease, execFirmwareStart,
      execSelfTestDone, execInputGood, execRailGood, execRailStartTimeout, execPowerDown, execOvervoltage, execOvercurrent, execRailWindowFault,
      execThermalTrip, execFeedReversed, execFeedLoss, execFeedReturn, execRailSettled, execPowerPolicyEval, execCoolantFault, execResetNAssert,
      execResetNRelease, execFlashOwnRise, execFlashOwnFall, execPwrEnNAssert, execPwrEnNRelease, execI3cStatus, execI3cSensors, execI3cIdent,
      execI3cReset, execI3cAddressAssign, execDebugPortAccess, hs]

/-- Is it one of the events of placement and of time? -/
def placeEvent : Instr → Bool
  | .claimSend .. | .claimReceive .. | .electionClose .. | .switchRegather .. | .healthReceive .. | .mapReceive .. | .excludeReceive .. |
    .proposeReceive .. | .refuseReceive .. | .goReceive .. | .placeTimeout .. | .beaconSend .. | .beaconReceive .. | .timeWindowEnd .. |
    .announceIncrement .. | .rootLoss .. | .parentLoss .. | .holdoverExpiry .. | .followerSteer .. | .ppsOutEdge .. | .ppsInEdge .. |
    .ethFrameTransmit .. | .mgmtLaneTrain .. => true
  | _ => false

theorem answerKeeps_placeEvent {i : Instr} (hi : placeEvent i = true) {s : State} (hs : s.counts.wf) : answerKeeps (exec i s) := by
  cases i <;> cases hi
  all_goals
    simp [exec, execClaimSend, execClaimReceive, execElectionClose, execSwitchRegather, execHealthReceive, execMapReceive, execExcludeReceive,
      execProposeReceive, execRefuseReceive, execGoReceive, execPlaceTimeout, execBeaconSend, execBeaconReceive, execTimeWindowEnd,
      execAnnounceIncrement, execRootLoss, execParentLoss, execHoldoverExpiry, execFollowerSteer, execPpsOutEdge, execPpsInEdge,
      execEthFrameTransmit, execMgmtLaneTrain, asCandidate, hs]

/-- Is it one of the events that act in one of several ways? -/
def branchEvent : Instr → Bool
  | .faultRecord .. | .stepAbort .. | .pairTimeout .. | .stagingIssue .. | .stagingLineArrive .. | .stagingWriteAck .. | .interruptCoalesceEnd .. |
    .controlRequestTimeout .. | .stopCheck .. | .ucieDownTimeout .. | .crossingWriteLand .. | .readyDeadline .. | .goDeadline .. |
    .stepDigestHandover .. | .stepdigReceive .. | .stagingDeadline .. | .stagingDelivery .. | .stepDonePost .. | .oldBankErased .. | .cancelReceive
    .. | .ppsInTimeout .. | .ethFrameReceive .. | .readyReceive .. | .cxlAccessError .. | .stagingExternalWrite .. | .hostDmaComplete .. |
    .controlAcknowledgement .. | .stagingCapture .. | .shadowWrite .. | .overvoltageClear .. => true
  | _ => false

theorem answerKeeps_branchEvent {i : Instr} (hi : branchEvent i = true) {s : State} (hs : s.counts.wf) : answerKeeps (exec i s) := by
  cases i <;> cases hi
  all_goals
    simp only [exec, execFaultRecord, execStepAbort, execPairTimeout, execStagingIssue, execStagingLineArrive, execStagingWriteAck,
      execInterruptCoalesceEnd, execControlRequestTimeout, execStopCheck, execUcieDownTimeout, execCrossingWriteLand, execReadyDeadline,
      execGoDeadline, execStepDigestHandover, execStepdigReceive, execStagingDeadline, execStagingDelivery, execStepDonePost, execOldBankErased,
      execCancelReceive, execPpsInTimeout, execEthFrameReceive, execReadyReceive, execCxlAccessError, execStagingExternalWrite, execHostDmaComplete,
      execControlAcknowledgement, execStagingCapture, execShadowWrite, execOvervoltageClear]
    repeat' split
    all_goals simp [hs]

theorem answerKeeps_lockRegain (p : Nat) {s : State} (hs : s.counts.wf) : answerKeeps (execLockRegain p s) :=
  answerKeeps_portRow (fun h => countsWf_updPort (fun o ho => by split <;> exact ho) h p) hs p

theorem answerKeeps_asCandidate {f : State → State} {s : State} (hf : (f s).counts.wf) (hs : s.counts.wf) : answerKeeps (asCandidate s f) := by
  simp [asCandidate, hf, hs]

theorem answerKeeps_mapCompute {s : State} (hs : s.counts.wf) : answerKeeps (execMapCompute s) := by
  refine answerKeeps_asCandidate ?_ hs
  dsimp only
  repeat' split
  all_goals simp [hs]

theorem answerKeeps_releaseReceive {s : State} (hs : s.counts.wf) : answerKeeps (execReleaseReceive s) := by
  refine answerKeeps_asCandidate (countsWf_pump _ ?_) hs
  simp [hs]

theorem answerKeeps_cxlLinkDown {s : State} (hs : s.counts.wf) : answerKeeps (execCxlLinkDown s) := by
  unfold execCxlLinkDown
  refine countsWf_foldl (s := s.updCxl _) (fun s r h => ?_) hs _
  repeat' split
  all_goals simp [h]

theorem countsWf_ucie {s : State} (hs : s.counts.wf) (u : Ucie) : { s with ucie := u }.counts.wf := hs
theorem countsWf_rst {s : State} (hs : s.counts.wf) (r : Rst) : { s with rst := r }.counts.wf := hs

theorem answerKeeps_tollhousePollTimeout {s : State} (hs : s.counts.wf) : answerKeeps (execTollhousePollTimeout s) := by
  unfold execTollhousePollTimeout
  split
  case h_1 => exact hs
  case h_2 =>
    rw [answerKeeps_next, counts_raise]
    exact countsWf_ucie (by simp [hs]) _

theorem answerKeeps_watchdogFeed {s : State} (hs : s.counts.wf) : answerKeeps (execWatchdogFeed s) := by
  rw [execWatchdogFeed]
  split
  case isTrue => exact hs
  case isFalse => exact countsWf_ucie (by simp [hs]) _

theorem answerKeeps_autoResetTimer {s : State} (hs : s.counts.wf) : answerKeeps (execAutoResetTimer s) := by
  unfold execAutoResetTimer
  split
  case h_1 =>
    dsimp only
    split
    case isTrue => exact countsWf_rst (by simp [hs]) _
    case isFalse => simp [hs]
  case h_2 => exact hs

/-- A case per command: those that change the counts by their lemmas above, the others by the lemma of their kind. -/
theorem answerKeeps_exec (i : Instr) {s : State} (hs : s.counts.wf) : answerKeeps (exec i s) := by
  cases hpipe : pipelined i
  case true =>
    rw [exec_of_pipelined hpipe]
    exact answerKeeps_issueWith (fun _ _ _ _ _ => by simp) i hs 1
  case false =>
    cases i <;> cases hpipe
    case sqWait => rw [exec, execSqWait]; exact answerKeeps_issueWith (fun _ _ _ _ _ => by simp) _ hs _
    case sqBr => rw [exec, execSqBr]; exact answerKeeps_issueWith (fun _ _ _ _ _ => by simp) _ hs _
    case sqEnd => rw [exec, execSqEnd]; exact answerKeeps_issueWith (fun _ _ _ _ _ => by simp) _ hs _
    case idleWord => exact answerKeeps_idleWord _ _ hs
    case act | pre | refa | refb => exact answerKeeps_memIssue (fun _ _ _ => rfl) _ _ _ _ _ _ _ _ _ hs
    case rd => rw [exec, execRd]; exact answerKeeps_memIssue (fun _ _ _ => by simp) _ _ _ _ _ _ _ _ _ hs
    case wr => rw [exec, execWr]; exact answerKeeps_memIssue (fun _ _ _ => by simp) _ _ _ _ _ _ _ _ _ hs
    case refreshDebtIncrease => exact answerKeeps_refreshDebtIncrease _ hs
    case forcedRefresh => exact answerKeeps_forcedRefresh _ _ _ hs
    case msqAutoRefresh => exact answerKeeps_msqAutoRefresh _ hs
    case msqRecoveryPrecharge => exact answerKeeps_msqRecoveryPrecharge _ hs
    case identReceive => exact answerKeeps_identReceive _ _ hs
    case measureDone => exact answerKeeps_measureDone _ hs
    case trainingTimeout => exact answerKeeps_trainingTimeout _ hs
    case auditReceive => exact answerKeeps_auditReceive _ _ hs
    case lockLossTimeout => exact answerKeeps_lockLossTimeout _ hs
    case lockRegain => exact answerKeeps_lockRegain _ hs
    case laneLockLoss => exact answerKeeps_laneLockLoss _ _ hs
    case retrainReceive => exact answerKeeps_retrainReceive _ _ hs
    case widthReceive => exact answerKeeps_widthReceive _ _ hs
    case serviceRequestSend => exact countsWf_sendRequest hs _
    case serviceRequestReceive => exact answerKeeps_serviceRequestReceive _ _ hs
    case serviceResponseReceive => exact answerKeeps_serviceResponseReceive _ _ hs
    case serviceCellForward => exact answerKeeps_serviceCellForward _ _ hs
    case serviceMessageReceive => exact answerKeeps_serviceMessageReceive _ _ hs
    case serviceRequestTimeout => exact answerKeeps_serviceRequestTimeout _ hs
    case abortCellReceive => exact answerKeeps_abortCellReceive _ _ hs
    case frameSend => exact answerKeeps_frameSend _ hs
    case linkWordReceive => exact answerKeeps_linkWordReceive _ _ hs
    case cellReceive => exact answerKeeps_cellReceive _ _ _ _ hs
    case tikKeyArm | tikKeyDisarm => exact answerKeeps_writeKeyArm hs _ _ _
    case olfCtlWrite => exact answerKeeps_olfCtlWrite _ _ hs
    case olfRetrainCmd => exact answerKeeps_olfRetrainCmd _ hs
    case olfDownCmd => exact answerKeeps_olfDownCmd _ hs
    case abortStop => exact answerKeeps_abortStop hs
    case jobStop => exact answerKeeps_jobStop hs
    case phaseEdge => exact answerKeeps_phaseEdge _ hs
    case keystoneTick => exact answerKeeps_keystoneTick hs
    case routerSlot => exact answerKeeps_routerSlot hs
    case resetBegin => exact answerKeeps_resetBegin hs
    case computeDieRelease => exact answerKeeps_computeDieRelease _ hs
    case undervoltage => exact answerKeeps_undervoltage hs
    case cxlLinkDown => exact answerKeeps_cxlLinkDown hs
    case mapCompute => exact answerKeeps_mapCompute hs
    case releaseReceive => exact answerKeeps_releaseReceive hs
    case tollhousePollTimeout => exact answerKeeps_tollhousePollTimeout hs
    case watchdogFeed => exact answerKeeps_watchdogFeed hs
    case autoResetTimer => exact answerKeeps_autoResetTimer hs
    case detectRetest | equaliseDone | alignDone | auditSend | runchkSend | runchkReceive | runchkMissing | lockLoss | downHoldExpiry => exact answerKeeps_portEvent rfl hs
    case timStep | timCtlWrite | timEthLatWrite | timClear | tikStepSetWrite | tikClear | spnClear | cluClear | msqClear | msqScrub | cxlClear |
      olfClear | cwyClear | svcCtlWrite | svcClear | plcClear | hstCtlWrite | hstClear | fltClear | cfgPersist | cfgForget | cfgCompact | cfgClear |
      cfgGrpRefWrite | cfgAszTRefWrite | pwrClear | secDbgChallenge | secDbgUnlock | secClear => exact answerKeeps_registerRow rfl hs
    case identify | bufReg | bufFree | load | unload | place | switchGet | switchDone | arm | start | stop | abort | release | dma | regRead |
      regWrite | dump | reset | attest | fwUpdate | commandRingDoorbell | completionDoorbell | eventDoorbell | mailboxDoorbell | completionWrite |
      eventsLost | pcieReset | diagWindowAccess | registerWrite | msqScrubDone | transferAreaAccess => exact answerKeeps_hostCommand rfl hs
    case ptPage | ptPad | phaseMark | planEndReached | droopTrip | droopLevel2Clear | droopClear | stretchHoldEnd | assizePass | journalAppend |
      compactionComplete | storeScrubPass | hbmTempRead | foldMillisecondEnd | confirmReceive | stopRequestReceive | stopStepReceive | cxlLinkTrain
      | cxlHotAdd | spanPoll | tollhousePoll | ucieTrainFail | ucieModuleDown | ucieModuleReturn | watchdogExpiry => exact answerKeeps_phaseEvent rfl hs
    case drainEnd | resetHoldExpiry | selfRefreshTimeout | coresHeldInReset | tollhouseRelease | firmwareStart | selfTestDone | inputGood | railGood
      | railStartTimeout | powerDown | overvoltage | overcurrent | railWindowFault | thermalTrip | feedReversed | feedLoss | feedReturn |
      railSettled | powerPolicyEval | coolantFault | resetNAssert | resetNRelease | flashOwnRise | flashOwnFall | pwrEnNAssert | pwrEnNRelease |
      i3cStatus | i3cSensors | i3cIdent | i3cReset | i3cAddressAssign | debugPortAccess => exact answerKeeps_moduleEvent rfl hs
    case claimSend | claimReceive | electionClose | switchRegather | healthReceive | mapReceive | excludeReceive | proposeReceive | refuseReceive |
      goReceive | placeTimeout | beaconSend | beaconReceive | timeWindowEnd | announceIncrement | rootLoss | parentLoss | holdoverExpiry |
      followerSteer | ppsOutEdge | ppsInEdge | ethFrameTransmit | mgmtLaneTrain => exact answerKeeps_placeEvent rfl hs
    case faultRecord | stepAbort | pairTimeout | stagingIssue | stagingLineArrive | stagingWriteAck | interruptCoalesceEnd | controlRequestTimeout |
      stopCheck | ucieDownTimeout | crossingWriteLand | readyDeadline | goDeadline | stepDigestHandover | stepdigReceive | stagingDeadline |
      stagingDelivery | stepDonePost | oldBankErased | cancelReceive | ppsInTimeout | ethFrameReceive | readyReceive | cxlAccessError |
      stagingExternalWrite | hostDmaComplete | controlAcknowledgement | stagingCapture | shadowWrite | overvoltageClear => exact answerKeeps_branchEvent rfl hs

theorem answerKeeps_step {s : State} (hs : s.counts.wf) : answerKeeps (step s) := by
  unfold step
  split
  case h_1 => trivial
  case h_2 => exact answerKeeps_exec _ hs

/-- Settles O4: every command's answer keeps the refresh debts, the queues of the ports and the outstanding requests within their bounds. -/
theorem everyStepKeepsCountsInBounds : Obligations.EveryStepKeepsCountsInBounds := by
  unfold Obligations.EveryStepKeepsCountsInBounds
  intro s t hs hstep
  rw [countsOk_iff_wf] at hs ⊢
  have hanswer := answerKeeps_step hs
  rwa [hstep] at hanswer

end Sys2Proof.Machine

/-! ### Commands of a memory sequencer (O17) -/

namespace Sys2Proof.Machine

/-! #### Rules of a sequencer's banks and pseudo-channels -/

theorem Msq.bank_setBank (m : Msq) {pc b pc' b' : Nat} (x : Bank) (hb : b < 48) (hb' : b' < 48) :
    (m.setBank pc b x).bank pc' b' = if pc' = pc ∧ b' = b then x else m.bank pc' b' := by
  have hkey : 48 * pc' + b' = 48 * pc + b ↔ pc' = pc ∧ b' = b := by omega
  simp only [Msq.bank, get_banks_setBank, hkey]

@[simp] theorem bank_setPc (m : Msq) (pc pc' b : Nat) (x : Pc) : (m.setPc pc x).bank pc' b = m.bank pc' b := rfl

@[simp] theorem pc_setBank (m : Msq) (pc b pc' : Nat) (x : Bank) : (m.setBank pc b x).pc pc' = m.pc pc' := rfl

theorem pc_setPc (m : Msq) (pc pc' : Nat) (x : Pc) : (m.setPc pc x).pc pc' = if pc' = pc then x else m.pc pc' := get_pcs_setPc m pc x pc'

/-- A command changes banks and pseudo-channels and nothing else of its sequencer. -/
theorem apply_frame (m : Msq) (c : MemCmd) (pc b row : Nat) (j : Int) :
    m.apply c pc b row j = { m with banks := (m.apply c pc b row j).banks, pcs := (m.apply c pc b row j).pcs } := by
  cases c <;> simp only [Msq.apply, Msq.setBank, Msq.setPc]

/-- A bank after a command, by the command (R249, R250, R259, R260). -/
def Bank.after (x : Bank) (c : MemCmd) (row : Nat) (due j : Int) : Bank :=
  match c with
  | .act => { x with row := some row, act := some j, acts := x.acts + 1 }
  | .pre => x.close j
  | .rd => { x with rd := some j }
  | .wr => { x with wr := some j }
  | .refb => { x.refresh due with refb := some j }
  | .refa => x.refresh due

/-- A command acts on its bank, REFA on every bank of its pseudo-channel. -/
def MemCmd.reaches (c : MemCmd) (b b' : Nat) : Bool := c == .refa || b' == b

theorem bank_apply (m : Msq) (c : MemCmd) {pc b pc' b' : Nat} (row : Nat) (j : Int) (hb : b < 48) (hb' : b' < 48) :
    (m.apply c pc b row j).bank pc' b' =
      if pc' = pc ∧ c.reaches b b' = true then (m.bank pc' b').after c row (m.due j) j else m.bank pc' b' := by
  have hone : ∀ x : Bank, x = (m.bank pc b).after c row (m.due j) j → (m.setBank pc b x).bank pc' b' =
      if pc' = pc ∧ b' = b then (m.bank pc' b').after c row (m.due j) j else m.bank pc' b' := by
    rintro x rfl
    rw [Msq.bank_setBank m _ hb hb']
    split
    case isTrue h => rw [h.1, h.2]
    case isFalse => rfl
  cases c
  case refa =>
    have hkey : (48 * pc ≤ 48 * pc' + b' ∧ 48 * pc' + b' < 48 * pc + 48) ↔ pc' = pc := by omega
    simp [Msq.apply, Msq.bank, Msq.setPc, get_updRange, hkey, MemCmd.reaches, Bank.after]
  all_goals
    simp only [Msq.apply, bank_setPc, MemCmd.reaches, beq_iff_eq, reduceCtorEq, Bool.or_eq_true, false_or]
    exact hone _ rfl

theorem pc_apply_ne (m : Msq) (c : MemCmd) {pc pc' : Nat} (b row : Nat) (j : Int) (h : pc' ≠ pc) : (m.apply c pc b row j).pc pc' = m.pc pc' := by
  cases c
  case refa => rw [Msq.apply, pc_setPc, if_neg h, Msq.pc, Msq.pc]
  all_goals simp [Msq.apply, pc_setPc, h]

@[simp] theorem forced_apply (m : Msq) (c : MemCmd) (pc b row pc' : Nat) (j : Int) :
    ((m.apply c pc b row j).pc pc').forced = (m.pc pc').forced := by
  by_cases h : pc' = pc
  · cases c <;> simp [Msq.apply, pc_setPc, h]
  · rw [pc_apply_ne _ _ _ _ _ h]

/-! #### Commands of several banks and pseudo-channels -/

/-- Two sequencers agree on what checks and commands read of pseudo-channel `pc`. -/
structure Msq.Agree (m n : Msq) (pc : Nat) : Prop where
  bank : ∀ b, b < 48 → n.bank pc b = m.bank pc b
  pc : n.pc pc = m.pc pc
  due : ∀ j, n.due j = m.due j
  ttab : n.ttab = m.ttab

theorem Msq.Agree.refl (m : Msq) (pc : Nat) : m.Agree m pc := ⟨fun _ _ => rfl, rfl, fun _ => rfl, rfl⟩

theorem Msq.Agree.trans {m n o : Msq} {pc : Nat} (h : m.Agree n pc) (k : n.Agree o pc) : m.Agree o pc :=
  ⟨fun b hb => (k.bank b hb).trans (h.bank b hb), k.pc.trans h.pc, fun j => (k.due j).trans (h.due j), k.ttab.trans h.ttab⟩

/-- A command leaves the other pseudo-channels as they are. -/
theorem agree_apply (m : Msq) (c : MemCmd) {pc pc' b : Nat} (row : Nat) (j : Int) (hb : b < 48) (h : pc' ≠ pc) :
    m.Agree (m.apply c pc b row j) pc' :=
  ⟨fun b' hb' => by rw [bank_apply m c row j hb hb', if_neg (fun hpc => h hpc.1)], pc_apply_ne m c b row j h,
    fun i => by rw [apply_frame]; rfl, by rw [apply_frame]⟩

theorem spacings_congr {m n : Msq} {pc : Nat} (h : m.Agree n pc) (c : MemCmd) {b : Nat} (hb : b < 48) : n.spacings c pc b = m.spacings c pc b := by
  have hothers : ∀ o ∈ (List.range 48).filter (· ≠ b), n.bank pc o = m.bank pc o := fun o ho =>
    h.bank o (List.mem_range.mp (List.mem_filter.mp ho).1)
  have hbanks : n.banksOf pc = m.banksOf pc := List.map_congr_left fun o ho => h.bank o (List.mem_range.mp ho)
  have hact : ((List.range 48).filter (· ≠ b)).map (fun o => (if o / 4 = b / 4 then 5 else 4, (n.bank pc o).act)) =
      ((List.range 48).filter (· ≠ b)).map (fun o => (if o / 4 = b / 4 then 5 else 4, (m.bank pc o).act)) :=
    List.map_congr_left fun o ho => by rw [hothers o ho]
  have hrefb : ((List.range 48).filter (· ≠ b)).map (fun o => (16, (n.bank pc o).refb)) =
      ((List.range 48).filter (· ≠ b)).map (fun o => (16, (m.bank pc o).refb)) :=
    List.map_congr_left fun o ho => by rw [hothers o ho]
  simp only [Msq.spacings, h.bank b hb, h.pc, hbanks, hact, hrefb]

/-- The checks read one pseudo-channel. -/
theorem wrong_congr {m n : Msq} {pc : Nat} (h : m.Agree n pc) (c : MemCmd) {b : Nat} (hb : b < 48) (j : Int) :
    n.wrong c pc b j = m.wrong c pc b j := by
  have hbanks : n.banksOf pc = m.banksOf pc := List.map_congr_left fun o ho => h.bank o (List.mem_range.mp ho)
  have htt : n.tt = m.tt := funext fun i => by rw [Msq.tt, h.ttab, Msq.tt]
  have hfrom : n.from_ = m.from_ := funext fun x => by rw [Msq.from_, htt, Msq.from_]
  simp only [Msq.wrong, h.bank b hb, hbanks, spacings_congr h c hb, hfrom, htt]

theorem wrongAll_congr {m n : Msq} {pc : Nat} (h : m.Agree n pc) {b : Nat} (hb : b < 48) (j : Int) : n.wrongAll pc b j = m.wrongAll pc b j := by
  have htt : n.tt = m.tt := funext fun i => by rw [Msq.tt, h.ttab, Msq.tt]
  have hfrom : n.from_ = m.from_ := funext fun x => by rw [Msq.from_, htt, Msq.from_]
  simp only [Msq.wrongAll, h.bank b hb, wrong_congr h .pre hb, hfrom, h.pc]

/-- A command on each of the banks `banks` of a pseudo-channel. -/
def Msq.applyBanks (m : Msq) (c : MemCmd) (banks : List Nat) (row : Nat) (j : Int) (pc : Nat) : Msq :=
  banks.foldl (fun m b => m.apply c pc b row j) m

/-- A command on each of the banks `banks` of each pseudo-channel of `pcs`. -/
def Msq.applyRange (m : Msq) (c : MemCmd) (banks : List Nat) (row : Nat) (j : Int) (pcs : List Nat) : Msq :=
  pcs.foldl (fun m pc => m.applyBanks c banks row j pc) m

theorem applyBanks_frame (c : MemCmd) (banks : List Nat) (row : Nat) (j : Int) (pc : Nat) (m : Msq) :
    m.applyBanks c banks row j pc = { m with banks := (m.applyBanks c banks row j pc).banks, pcs := (m.applyBanks c banks row j pc).pcs } := by
  rw [Msq.applyBanks]
  induction banks generalizing m with
  | nil => rfl
  | cons b r ih => rw [List.foldl_cons, ih, apply_frame]

theorem applyRange_frame (c : MemCmd) (banks : List Nat) (row : Nat) (j : Int) (pcs : List Nat) (m : Msq) :
    m.applyRange c banks row j pcs = { m with banks := (m.applyRange c banks row j pcs).banks, pcs := (m.applyRange c banks row j pcs).pcs } := by
  rw [Msq.applyRange]
  induction pcs generalizing m with
  | nil => rfl
  | cons p r ih => rw [List.foldl_cons, ih, applyBanks_frame]

theorem agree_applyBanks (m : Msq) (c : MemCmd) {banks : List Nat} (hbanks : ∀ b ∈ banks, b < 48) (row : Nat) (j : Int) {pc pc' : Nat} (h : pc' ≠ pc) :
    m.Agree (m.applyBanks c banks row j pc) pc' := by
  rw [Msq.applyBanks]
  induction banks generalizing m with
  | nil => exact .refl m pc'
  | cons b r ih =>
    rw [List.forall_mem_cons] at hbanks
    exact (agree_apply m c row j hbanks.1 h).trans (ih _ hbanks.2)

/-- A command reads one pseudo-channel. -/
theorem agree_apply_congr {m n : Msq} {pc : Nat} (h : m.Agree n pc) (c : MemCmd) {b : Nat} (row : Nat) (j : Int) (hb : b < 48) :
    (m.apply c pc b row j).Agree (n.apply c pc b row j) pc := by
  refine ⟨fun b' hb' => ?_, ?_, fun i => ?_, ?_⟩
  · rw [bank_apply n c row j hb hb', bank_apply m c row j hb hb', h.bank b' hb', h.due]
  · cases c
    case pre | refb => exact h.pc
    all_goals simp [Msq.apply, pc_setPc, h.pc]
  · rw [apply_frame n, apply_frame m]; exact h.due i
  · rw [apply_frame n, apply_frame m]; exact h.ttab

theorem agree_applyBanks_congr (c : MemCmd) {banks : List Nat} (hbanks : ∀ b ∈ banks, b < 48) (row : Nat) (j : Int) {pc : Nat} {m n : Msq}
    (h : m.Agree n pc) : (m.applyBanks c banks row j pc).Agree (n.applyBanks c banks row j pc) pc := by
  rw [Msq.applyBanks, Msq.applyBanks]
  induction banks generalizing m n with
  | nil => exact h
  | cons b r ih =>
    rw [List.forall_mem_cons] at hbanks
    exact ih hbanks.2 (agree_apply_congr h c row j hbanks.1)

/-- A range of pseudo-channels leaves the others as they are. -/
theorem agree_applyRange_of_not_mem (c : MemCmd) {banks : List Nat} (hbanks : ∀ b ∈ banks, b < 48) (row : Nat) (j : Int) {pcs : List Nat} {pc : Nat}
    (h : pc ∉ pcs) (m : Msq) : m.Agree (m.applyRange c banks row j pcs) pc := by
  rw [Msq.applyRange]
  induction pcs generalizing m with
  | nil => exact .refl m pc
  | cons p r ih =>
    rw [List.mem_cons, not_or] at h
    exact (agree_applyBanks m c hbanks row j h.1).trans (ih h.2 _)

/-- Each pseudo-channel of a range ends as the commands on its own banks leave it. -/
theorem agree_applyRange_of_mem (c : MemCmd) {banks : List Nat} (hbanks : ∀ b ∈ banks, b < 48) (row : Nat) (j : Int) {pcs : List Nat} (hnd : pcs.Nodup)
    {pc : Nat} (h : pc ∈ pcs) (m : Msq) : (m.applyBanks c banks row j pc).Agree (m.applyRange c banks row j pcs) pc := by
  rw [Msq.applyRange]
  induction pcs generalizing m with
  | nil => cases h
  | cons p r ih =>
    obtain ⟨hp, hr⟩ := List.nodup_cons.mp hnd
    rw [List.foldl_cons]
    by_cases hpc : pc = p
    · subst hpc
      exact agree_applyRange_of_not_mem c hbanks row j hp _
    · have hother := agree_applyBanks m c hbanks row j hpc
      exact (agree_applyBanks_congr c hbanks row j hother).trans (ih hr ((List.mem_cons.mp h).resolve_left hpc) _)

end Sys2Proof.Machine

namespace Sys2Proof.Machine

/-! #### Forced refreshes at a word's issue (R261) -/

/-- The forced refreshes that are due change banks, pseudo-channels and what is owed, and nothing else of their sequencer. -/
theorem payUntil_frame (n : Nat) (j : Int) (m : Msq) : m.payUntil n j =
    { m with banks := (m.payUntil n j).banks, pcs := (m.payUntil n j).pcs, owed := (m.payUntil n j).owed } := by
  induction n generalizing m with
  | zero => rfl
  | succ n ih =>
    rw [Msq.payUntil]
    split
    case h_1 => rfl
    case h_2 =>
      dsimp only
      split
      case isTrue => rfl
      case isFalse =>
        rw [ih]
        split
        all_goals
          rw [apply_frame]

theorem paid_frame (m : Msq) (j : Int) : m.paid j = { m with banks := (m.paid j).banks, pcs := (m.paid j).pcs, owed := (m.paid j).owed } :=
  payUntil_frame _ j m

@[simp] theorem halted_paid (m : Msq) (j : Int) : (m.paid j).halted = m.halted := by rw [paid_frame]
@[simp] theorem faulted_paid (m : Msq) (j : Int) : (m.paid j).faulted = m.faulted := by rw [paid_frame]
@[simp] theorem cnt_paid (m : Msq) (j : Int) : (m.paid j).cnt = m.cnt := by rw [paid_frame]
@[simp] theorem fltLog_paid (m : Msq) (j : Int) : (m.paid j).fltLog = m.fltLog := by rw [paid_frame]
@[simp] theorem str_paid (m : Msq) (j : Int) : (m.paid j).str = m.str := by rw [paid_frame]

/-! #### A word of a memory stream (R248, R250, R257) -/

theorem mem_range' {lo n x : Nat} : x ∈ range' lo n ↔ lo ≤ x ∧ x < lo + n := by
  simp only [range', List.mem_map, List.mem_range]
  exact ⟨fun ⟨i, hi, hx⟩ => by omega, fun h => ⟨x - lo, by omega, by omega⟩⟩

theorem nodup_range' (lo n : Nat) : (range' lo n).Nodup := List.nodup_range.map (add_right_injective lo)

/-- The banks that a word addresses. -/
def wordBanks (all : Bool) (bank : Nat) : List Nat := if all then List.range 48 else [bank]

/-- The check of a word on one bank. -/
def Msq.check (m : Msq) (all : Bool) (c : MemCmd) (pc b : Nat) (j : Int) : Option (Nat × Nat) :=
  if all then m.wrongAll pc b j else m.wrong c pc b j

/-- A word goes through on pseudo-channel `pc`. -/
def Msq.passes (m : Msq) (all : Bool) (c : MemCmd) (bank : Nat) (j : Int) (pc : Nat) : Prop :=
  (m.pc pc).forced ≠ some j ∧ ∀ b ∈ wordBanks all bank, m.check all c pc b j = none

theorem wordBanks_lt {all : Bool} {bank b : Nat} (hbank : bank < 48) (h : b ∈ wordBanks all bank) : b < 48 := by
  cases all
  case false => rwa [List.mem_singleton.mp h]
  case true => exact List.mem_range.mp h

theorem passes_congr {m n : Msq} {pc : Nat} (h : m.Agree n pc) {all : Bool} {c : MemCmd} {bank : Nat} (hbank : bank < 48) {j : Int}
    (hp : m.passes all c bank j pc) : n.passes all c bank j pc := by
  refine ⟨by rw [h.pc]; exact hp.1, fun b hb => ?_⟩
  have hb' := wordBanks_lt hbank hb
  rw [Msq.check, wrongAll_congr h hb', wrong_congr h c hb']
  exact hp.2 b hb

/-- What a word does on one pseudo-channel: the step of `memWord`. -/
def wordStep (c : MemCmd) (bank row : Nat) (all : Bool) (j : Nat) (a : Msq × List Nat × Option (Nat × Nat × Nat × Nat) × Bool) (pc : Nat) :
    Msq × List Nat × Option (Nat × Nat × Nat × Nat) × Bool :=
  if (a.1.pc pc).forced = some (j : Int) then (a.1, a.2.1, a.2.2.1, true)
  else
    match (wordBanks all bank).filterMap (fun b => (a.1.check all c pc b j).map (fun w => (w.1, w.2, pc, b))) with
    | w :: _ => (a.1, a.2.1, some (a.2.2.1.getD w), true)
    | [] => (a.1.applyBanks c (wordBanks all bank) row j pc, a.2.1 ++ [pc], a.2.2.1, a.2.2.2)

theorem memWord_eq_foldl (m : Msq) (c : MemCmd) (pclo pcn bank row : Nat) (all : Bool) (j : Nat) :
    memWord m c pclo pcn bank row all j = (range' pclo pcn).foldl (wordStep c bank row all j) (m, [], none, false) := rfl

theorem wordStep_of_passes {m : Msq} {all : Bool} {c : MemCmd} {bank j pc : Nat} (hp : m.passes all c bank j pc) (row : Nat) (done : List Nat)
    (bad : Option (Nat × Nat × Nat × Nat)) (sup : Bool) : wordStep c bank row all j (m, done, bad, sup) pc =
      (m.applyBanks c (wordBanks all bank) row j pc, done ++ [pc], bad, sup) := by
  have hnone : (wordBanks all bank).filterMap (fun b => (m.check all c pc b j).map (fun w => (w.1, w.2, pc, b))) = [] :=
    List.filterMap_eq_nil_iff.mpr fun b hb => by rw [hp.2 b hb]; rfl
  simp only [wordStep, hp.1, if_false, hnone]

theorem foldl_wordStep_of_passes {all : Bool} {c : MemCmd} {bank : Nat} (hbank : bank < 48) (row j : Nat) {pcs : List Nat} (hnd : pcs.Nodup) {m : Msq}
    (h : ∀ pc ∈ pcs, m.passes all c bank j pc) (done : List Nat) : pcs.foldl (wordStep c bank row all j) (m, done, none, false) =
      (m.applyRange c (wordBanks all bank) row j pcs, done ++ pcs, none, false) := by
  induction pcs generalizing m done with
  | nil => rw [List.append_nil]; rfl
  | cons p r ih =>
    obtain ⟨hp, hr⟩ := List.nodup_cons.mp hnd
    rw [List.forall_mem_cons] at h
    have hrest : ∀ pc ∈ r, (m.applyBanks c (wordBanks all bank) row j p).passes all c bank j pc := fun pc hpc =>
      passes_congr (agree_applyBanks m c (fun _ => wordBanks_lt hbank) row j (ne_of_mem_of_not_mem hpc hp)) hbank (h.2 pc hpc)
    rw [List.foldl_cons, wordStep_of_passes h.1, ih hr hrest, List.append_assoc]
    rfl

/-- A word that every pseudo-channel of its range lets through is carried out on each, and nothing is wrong. -/
theorem memWord_of_passes {m : Msq} {all : Bool} {c : MemCmd} {pclo pcn bank : Nat} (row : Nat) {j : Nat} (hbank : bank < 48)
    (h : ∀ pc ∈ range' pclo pcn, m.passes all c bank j pc) :
    memWord m c pclo pcn bank row all j = (m.applyRange c (wordBanks all bank) row j (range' pclo pcn), range' pclo pcn, none, false) := by
  rw [memWord_eq_foldl, foldl_wordStep_of_passes hbank row j (nodup_range' ..) h, List.nil_append]

/-- The cycle in which a word of stack `st`'s stream issues. -/
def State.memCycle (s : State) (st delta : Nat) : Nat := s.memEdge s.tik.phaseNo + (s.ms st).str.issue delta

/-- The sequencer once a word of its stream has gone through: forced refreshes that are due, the word's command on each pseudo-channel of its
range, and the stream one word on. -/
def State.wordDone (s : State) (st delta : Nat) (c : MemCmd) (pclo pcn bank row : Nat) (all : Bool) : Msq :=
  { ((s.ms st).paid (s.memCycle st delta)).applyRange c (wordBanks all bank) row (s.memCycle st delta) (range' pclo pcn) with
    str := (s.ms st).str.issued 1 ((s.ms st).str.issue delta) }

theorem memIssue_of_passes {i : Instr} {s : State} {st delta : Nat} {c : MemCmd} {pclo pcn bank row : Nat} {all : Bool}
    {go : State → Nat → List Nat → State} (hwf : i.wf = true) (hbank : bank < 48) (hrun : (s.ms st).halted = false)
    (h : ∀ pc ∈ range' pclo pcn, ((s.ms st).paid (s.memCycle st delta)).passes all c bank (s.memCycle st delta) pc) :
    memIssue i st delta c pclo pcn bank row all go s =
      .next (go (s.setMs st (s.wordDone st delta c pclo pcn bank row all)) (s.memCycle st delta) (range' pclo pcn)) := by
  have hword : wordOk i = true := hwf
  have hmem := memWord_of_passes row hbank h
  rw [memIssue]
  simp only [hword, hrun]
  rw [← State.memCycle, hmem]
  rfl

/-- The range of a word that goes through, by the obligations' own condition. -/
theorem passes_of_free {m : Msq} {c : MemCmd} {pclo pcn bank j : Nat} (h : m.free c pclo pcn [bank] j = true) :
    m.halted = false ∧ ∀ pc ∈ range' pclo pcn, m.passes false c bank j pc := by
  simpa [Msq.free, Msq.passes, wordBanks, Msq.check, List.all_eq_true] using h

theorem onlyMsq_setMs (s : State) (st : Nat) (m : Msq) : onlyMsq s (s.setMs st m) st :=
  ⟨rfl, fun _ hx => State.ms_setMs_ne _ _ _ _ hx⟩

/-! #### What a word leaves in its sequencer -/

section
variable (s : State) (st delta : Nat) (c : MemCmd) (pclo pcn : Nat) {bank : Nat} (row : Nat)

@[simp] theorem str_wordDone (all : Bool) :
    (s.wordDone st delta c pclo pcn bank row all).str = (s.ms st).str.issued 1 ((s.ms st).str.issue delta) := rfl

@[simp] theorem incs_wordDone (all : Bool) : (s.wordDone st delta c pclo pcn bank row all).incs = ((s.ms st).paid (s.memCycle st delta)).incs := by
  rw [State.wordDone, applyRange_frame]

theorem agree_wordDone_of_not_mem (all : Bool) (hbank : bank < 48) {pc : Nat} (hpc : ¬ (pclo ≤ pc ∧ pc < pclo + pcn)) :
    ((s.ms st).paid (s.memCycle st delta)).Agree (s.wordDone st delta c pclo pcn bank row all) pc := by
  obtain ⟨hb, hp, hd, ht⟩ := agree_applyRange_of_not_mem c (fun _ => wordBanks_lt (all := all) hbank) row (s.memCycle st delta)
    (mt mem_range'.mp hpc) ((s.ms st).paid (s.memCycle st delta))
  exact ⟨hb, hp, hd, ht⟩

theorem agree_wordDone_of_mem (all : Bool) (hbank : bank < 48) {pc : Nat} (hpc : pclo ≤ pc ∧ pc < pclo + pcn) :
    (((s.ms st).paid (s.memCycle st delta)).applyBanks c (wordBanks all bank) row (s.memCycle st delta) pc).Agree
      (s.wordDone st delta c pclo pcn bank row all) pc := by
  obtain ⟨hb, hp, hd, ht⟩ := agree_applyRange_of_mem c (fun _ => wordBanks_lt (all := all) hbank) row (s.memCycle st delta) (nodup_range' pclo pcn)
    (mem_range'.mpr hpc) ((s.ms st).paid (s.memCycle st delta))
  exact ⟨hb, hp, hd, ht⟩

/-- A bank after a word that names one bank. -/
theorem bank_wordDone (hbank : bank < 48) {pc b : Nat} (hb : b < 48) :
    (s.wordDone st delta c pclo pcn bank row false).bank pc b =
      let m := (s.ms st).paid (s.memCycle st delta)
      if (pclo ≤ pc ∧ pc < pclo + pcn) ∧ c.reaches bank b = true then (m.bank pc b).after c row (m.due (s.memCycle st delta)) (s.memCycle st delta)
      else m.bank pc b := by
  by_cases hpc : pclo ≤ pc ∧ pc < pclo + pcn
  · have hword := bank_apply ((s.ms st).paid (s.memCycle st delta)) c (pc := pc) (pc' := pc) row (s.memCycle st delta) hbank hb
    rw [(agree_wordDone_of_mem s st delta c pclo pcn row false hbank hpc).bank b hb]
    simpa [hpc, Msq.applyBanks, wordBanks] using hword
  · rw [(agree_wordDone_of_not_mem s st delta c pclo pcn row false hbank hpc).bank b hb]
    simp [hpc]

end

theorem close_close (x : Bank) (i j : Int) : (x.close i).close j = x.close i := by
  by_cases h : x.row.isSome <;> simp [Bank.close, h]

@[simp] theorem row_close (x : Bank) (j : Int) : (x.close j).row = none := by
  rw [Bank.close]
  split
  case isTrue => rfl
  case isFalse h => simpa using h

theorem pre_close (x : Bank) (j : Int) : (x.close j).pre = if x.row.isSome then some j else x.pre := by
  by_cases h : x.row.isSome <;> simp [Bank.close, h]

/-- PRE on several banks of a pseudo-channel closes each of them. -/
theorem bank_applyBanks_pre {banks : List Nat} (hbanks : ∀ b ∈ banks, b < 48) (row : Nat) (j : Int) (pc : Nat) {b : Nat} (hb : b < 48) (m : Msq) :
    (m.applyBanks .pre banks row j pc).bank pc b = if b ∈ banks then (m.bank pc b).close j else m.bank pc b := by
  rw [Msq.applyBanks]
  induction banks generalizing m with
  | nil => simp
  | cons x r ih =>
    rw [List.forall_mem_cons] at hbanks
    rw [List.foldl_cons, ih hbanks.2, bank_apply m .pre row j hbanks.1 hb]
    by_cases hx : b = x
    · simp [hx, MemCmd.reaches, Bank.after, close_close]
    · simp [hx, MemCmd.reaches]

/-- A bank after PRE of every bank. -/
theorem bank_wordDone_all (s : State) (st delta pclo pcn : Nat) {bank : Nat} (row : Nat) (hbank : bank < 48) {pc b : Nat} (hb : b < 48) :
    (s.wordDone st delta .pre pclo pcn bank row true).bank pc b =
      let m := (s.ms st).paid (s.memCycle st delta)
      if pclo ≤ pc ∧ pc < pclo + pcn then (m.bank pc b).close (s.memCycle st delta) else m.bank pc b := by
  by_cases hpc : pclo ≤ pc ∧ pc < pclo + pcn
  · rw [(agree_wordDone_of_mem s st delta .pre pclo pcn row true hbank hpc).bank b hb,
      bank_applyBanks_pre (fun _ => wordBanks_lt hbank) row _ pc hb]
    simp [hpc, wordBanks, hb]
  · rw [(agree_wordDone_of_not_mem s st delta .pre pclo pcn row true hbank hpc).bank b hb]
    simp [hpc]

/-- The debt of a bank after a refresh: one less, down to −8 at the increases that are due (R260). -/
theorem debtOf_of_refresh {m n : Msq} {pc b : Nat} {due : Int} (hincs : n.incs = m.incs) (hdebt : (n.bank pc b).debt = ((m.bank pc b).refresh due).debt) :
    n.debtOf pc b = max (m.incs - due - 8) (m.debtOf pc b - 1) := by
  rw [Msq.debtOf, Msq.debtOf, hincs, hdebt, Bank.refresh]
  dsimp only
  omega

/-! #### Words and their fields -/

theorem bank_lt_of_act {st delta pclo pcn bank row : Nat} (h : (Instr.act st delta pclo pcn bank row).wf = true) : bank < 48 := by
  simp only [Instr.wf, wordOk, formOk, Bool.and_eq_true, decide_eq_true_eq] at h
  exact h.1.2.1.2

theorem bank_lt_of_pre {st delta pclo pcn bank : Nat} {all : Bool} (h : (Instr.pre st delta pclo pcn bank all).wf = true) : bank < 48 := by
  simp only [Instr.wf, wordOk, formOk, Bool.and_eq_true, decide_eq_true_eq] at h
  exact h.1.2.2

theorem bank_lt_of_refb {st delta pclo pcn bank : Nat} (h : (Instr.refb st delta pclo pcn bank).wf = true) : bank < 48 := by
  simp only [Instr.wf, wordOk, formOk, Bool.and_eq_true, decide_eq_true_eq] at h
  exact h.1.2.2

/-! #### Memory commands (O17) -/

section
variable {s : State} {st delta pclo pcn bank : Nat}

theorem exec_act_of_free {row : Nat} (hwf : (Instr.act st delta pclo pcn bank row).wf = true)
    (h : ((s.ms st).paid (s.memCycle st delta)).free .act pclo pcn [bank] (s.memCycle st delta) = true) :
    exec (.act st delta pclo pcn bank row) s = .next (s.setMs st (s.wordDone st delta .act pclo pcn bank row false)) := by
  obtain ⟨hhalted, hpass⟩ := passes_of_free h
  rw [show exec (.act st delta pclo pcn bank row) s = execAct st delta pclo pcn bank row s from rfl, execAct,
    memIssue_of_passes hwf (bank_lt_of_act hwf) (by simpa using hhalted) hpass]

theorem exec_pre_of_free (hwf : (Instr.pre st delta pclo pcn bank false).wf = true)
    (h : ((s.ms st).paid (s.memCycle st delta)).free .pre pclo pcn [bank] (s.memCycle st delta) = true) :
    exec (.pre st delta pclo pcn bank false) s = .next (s.setMs st (s.wordDone st delta .pre pclo pcn bank 0 false)) := by
  obtain ⟨hhalted, hpass⟩ := passes_of_free h
  rw [show exec (.pre st delta pclo pcn bank false) s = execPre st delta pclo pcn bank false s from rfl, execPre,
    memIssue_of_passes hwf (bank_lt_of_pre hwf) (by simpa using hhalted) hpass]

theorem exec_preAll_of_passes (hwf : (Instr.pre st delta pclo pcn bank true).wf = true) (hrun : (s.ms st).halted = false)
    (h : ∀ pc ∈ range' pclo pcn, ((s.ms st).paid (s.memCycle st delta)).passes true .pre bank (s.memCycle st delta) pc) :
    exec (.pre st delta pclo pcn bank true) s = .next (s.setMs st (s.wordDone st delta .pre pclo pcn bank 0 true)) := by
  rw [show exec (.pre st delta pclo pcn bank true) s = execPre st delta pclo pcn bank true s from rfl, execPre,
    memIssue_of_passes hwf (bank_lt_of_pre hwf) hrun h]

theorem exec_refb_of_free (hwf : (Instr.refb st delta pclo pcn bank).wf = true)
    (h : ((s.ms st).paid (s.memCycle st delta)).free .refb pclo pcn [bank] (s.memCycle st delta) = true) :
    exec (.refb st delta pclo pcn bank) s = .next (s.setMs st (s.wordDone st delta .refb pclo pcn bank 0 false)) := by
  obtain ⟨hhalted, hpass⟩ := passes_of_free h
  rw [show exec (.refb st delta pclo pcn bank) s = execRefb st delta pclo pcn bank s from rfl, execRefb,
    memIssue_of_passes hwf (bank_lt_of_refb hwf) (by simpa using hhalted) hpass]

theorem exec_refa_of_free (hwf : (Instr.refa st delta pclo pcn).wf = true)
    (h : ((s.ms st).paid (s.memCycle st delta)).free .refa pclo pcn [0] (s.memCycle st delta) = true) :
    exec (.refa st delta pclo pcn) s = .next (s.setMs st (s.wordDone st delta .refa pclo pcn 0 0 false)) := by
  obtain ⟨hhalted, hpass⟩ := passes_of_free h
  rw [show exec (.refa st delta pclo pcn) s = execRefa st delta pclo pcn s from rfl, execRefa,
    memIssue_of_passes hwf (by decide) (by simpa using hhalted) hpass]

/-- A command that names one bank changes that bank on each pseudo-channel of its range. -/
theorem bank_wordDone_same {c : MemCmd} (row : Nat) (hbank : bank < 48) {pc : Nat} (hpc : pclo ≤ pc ∧ pc < pclo + pcn) :
    (s.wordDone st delta c pclo pcn bank row false).bank pc bank =
      (((s.ms st).paid (s.memCycle st delta)).bank pc bank).after c row (((s.ms st).paid (s.memCycle st delta)).due (s.memCycle st delta))
        (s.memCycle st delta) := by
  rw [bank_wordDone s st delta c pclo pcn row hbank hbank]
  exact if_pos ⟨hpc, by simp [MemCmd.reaches]⟩

/-- A command that names one bank leaves the others as they are. -/
theorem bank_wordDone_other {c : MemCmd} (hc : c ≠ .refa) (row : Nat) (hbank : bank < 48) {pc b : Nat} (hb : b < 48)
    (h : ¬ ((pclo ≤ pc ∧ pc < pclo + pcn) ∧ b = bank)) :
    (s.wordDone st delta c pclo pcn bank row false).bank pc b = ((s.ms st).paid (s.memCycle st delta)).bank pc b := by
  rw [bank_wordDone s st delta c pclo pcn row hbank hb]
  exact if_neg fun hr => h ⟨hr.1, by simpa [MemCmd.reaches, hc] using hr.2⟩

/-- REFA refreshes every bank of each pseudo-channel of its range. -/
theorem bank_wordDone_refa (row : Nat) {pc b : Nat} (hb : b < 48) :
    (s.wordDone st delta .refa pclo pcn 0 row false).bank pc b =
      let m := (s.ms st).paid (s.memCycle st delta)
      if pclo ≤ pc ∧ pc < pclo + pcn then (m.bank pc b).refresh (m.due (s.memCycle st delta)) else m.bank pc b := by
  rw [bank_wordDone s st delta .refa pclo pcn row (by decide) hb]
  simp [MemCmd.reaches, Bank.after]

theorem refa_wordDone (row : Nat) {pc : Nat} (hpc : pclo ≤ pc ∧ pc < pclo + pcn) :
    ((s.wordDone st delta .refa pclo pcn 0 row false).pc pc).refa = some (s.memCycle st delta : Int) := by
  rw [(agree_wordDone_of_mem s st delta .refa pclo pcn row false (by decide) hpc).pc]
  simp [Msq.applyBanks, wordBanks, Msq.apply, pc_setPc]

end

/-- Settles O17, from what a word that goes through leaves in its sequencer (`State.wordDone`), bank by bank. -/
theorem memoryCommandsTakeEffect : Obligations.MemoryCommandsTakeEffect := by
  intro s st delta pclo pcn bank _
  dsimp only
  refine ⟨fun row hwf hfree => ?_, fun hwf hfree => ?_, fun hwf hhalted hfree => ?_, fun hwf hfree => ?_, fun hwf hfree => ?_⟩
  case refine_1 =>
    have hbank := bank_lt_of_act hwf
    refine ⟨_, exec_act_of_free hwf hfree, onlyMsq_setMs .., ?_⟩
    rw [State.ms_setMs]
    exact ⟨rfl, fun pc hpc => bank_wordDone_same row hbank hpc, fun pc b hb hn => bank_wordDone_other (by decide) row hbank hb hn⟩
  case refine_2 =>
    have hbank := bank_lt_of_pre hwf
    refine ⟨_, exec_pre_of_free hwf hfree, onlyMsq_setMs .., ?_⟩
    rw [State.ms_setMs]
    refine ⟨rfl, fun pc hpc => ?_, fun pc b hb hn => bank_wordDone_other (by decide) 0 hbank hb hn⟩
    rw [bank_wordDone_same 0 hbank hpc]
    exact ⟨row_close .., pre_close ..⟩
  case refine_3 =>
    have hbank := bank_lt_of_pre hwf
    have hpass : ∀ pc ∈ range' pclo pcn, ((s.ms st).paid (s.memCycle st delta)).passes true .pre bank (s.memCycle st delta) pc := fun pc hpc =>
      have hf := hfree pc (mem_range'.mp hpc)
      ⟨hf.1, fun b hb => hf.2 b (wordBanks_lt hbank hb)⟩
    refine ⟨_, exec_preAll_of_passes hwf (by simpa using hhalted) hpass, onlyMsq_setMs .., ?_⟩
    rw [State.ms_setMs]
    refine ⟨rfl, fun pc b hb hpc => ?_, fun pc b hb hpc => ?_⟩
    · rw [bank_wordDone_all s st delta pclo pcn 0 hbank hb]
      exact (congrArg Bank.row (if_pos hpc)).trans (row_close ..)
    · rw [bank_wordDone_all s st delta pclo pcn 0 hbank hb]
      exact if_neg hpc
  case refine_4 =>
    have hbank := bank_lt_of_refb hwf
    refine ⟨_, exec_refb_of_free hwf hfree, onlyMsq_setMs .., ?_⟩
    rw [State.ms_setMs]
    refine ⟨rfl, fun pc hpc => ?_, fun pc b hb hn => bank_wordDone_other (by decide) 0 hbank hb hn⟩
    have hafter := bank_wordDone_same (s := s) (st := st) (delta := delta) (c := .refb) 0 hbank hpc
    exact ⟨by rw [hafter]; rfl, by rw [hafter]; rfl, debtOf_of_refresh (incs_wordDone ..) (by rw [hafter]; rfl)⟩
  case refine_5 =>
    refine ⟨_, exec_refa_of_free hwf hfree, onlyMsq_setMs .., ?_⟩
    rw [State.ms_setMs]
    refine ⟨rfl, fun pc hpc => refa_wordDone 0 hpc, fun pc b hb hpc => ?_, fun pc b hb hpc => ?_⟩
    · have hafter := (bank_wordDone_refa (s := s) (st := st) (delta := delta) 0 hb).trans (if_pos hpc)
      exact ⟨by rw [hafter]; rfl, debtOf_of_refresh (incs_wordDone ..) (by rw [hafter]; rfl)⟩
    · exact (bank_wordDone_refa (s := s) (st := st) (delta := delta) 0 hb).trans (if_neg hpc)

end Sys2Proof.Machine

/-! ### Lines read and written (O18) -/

namespace Sys2Proof.Machine

/-! #### Reads of lines (R251, R252) -/

theorem readHbm_of_upsets_nil {s : State} (h : s.upsets = []) (st ls : Nat) (told : List (BitVec 16)) :
    readHbm s st ls told = (memRead s.mem (hbmAddr (hbmKey st ls)) 128, told, s) := by
  have hecc : eccRead s.upsets .hbm (hbmKey st ls) (memRead s.mem (hbmAddr (hbmKey st ls)) 128) =
      ⟨memRead s.mem (hbmAddr (hbmKey st ls)) 128, [], []⟩ := by rw [eccRead, h]; rfl
  rw [readHbm, hecc]
  rfl

theorem scrubWords_of_upsets_nil {s : State} (h : s.upsets = []) (area : Area) (line : Nat) (ws : List Nat) : s.scrubWords area line ws = s := by
  rw [State.scrubWords, h, List.filter_nil, ← h]

/-- The address of the line that a read or write names on pseudo-channel `pc`: column and bank of the word, the row that stands open (R245). -/
def Msq.lineAddr (m : Msq) (st bank col pc : Nat) : Nat := hbmAddr (hbmKey st (hbmLs pc col bank ((m.bank pc bank).row.getD 0)))

/-- The step of `rdLines`: one pseudo-channel's line. -/
def rdStep (st pclo bank col dspan q entry P trl j : Nat) (a : List (BitVec 16) × State) (pc : Nat) : List (BitVec 16) × State :=
  let s := a.2
  let r := readHbm s st (hbmLs pc col bank ((((s.ms st).bank pc bank).row).getD 0)) a.1
  let s := r.2.2
  let done := j + trl + 12 + (pc - pclo) / 8
  if s.memPhase done = P || s.memPhase done = P + 1 then
    (r.2.1, s.cross (s.destSpan dspan) q (entry + (pc - pclo)) true true r.1 false none none P)
  else if r.2.1.contains 0x1003 then (r.2.1, s)
  else (r.2.1 ++ [0x1003], ((s.memLog st 5 pc bank 0 done).memCount st 48).memFault st 0x1003)

theorem rdLines_eq_foldl (s : State) (st pclo bank col dspan q entry ph j : Nat) (pcs : List Nat) :
    rdLines s st pclo bank col dspan q entry ph j pcs =
      (pcs.foldl (rdStep st pclo bank col dspan q entry (s.tik.phaseNo + ph) ((s.ms st).tt 8) j) ([], s)).2 := rfl

/-- The crossing write of a line that RD reads on pseudo-channel `pc`. -/
def State.rdWrite (s : State) (st pclo bank col dspan q entry P pc : Nat) : MeshWrite :=
  { span := s.destSpan dspan, q, entry := entry + (pc - pclo), half0 := true, half1 := true,
    data := memRead s.mem ((s.ms st).lineAddr st bank col pc) 128, empty := false, tag := none, desc := none, phase := P }

theorem rdStep_of_inTime {s : State} (hups : s.upsets = []) {st pclo bank col dspan q entry P trl j pc : Nat}
    (htime : s.memPhase (j + trl + 12 + (pc - pclo) / 8) = P ∨ s.memPhase (j + trl + 12 + (pc - pclo) / 8) = P + 1) :
    rdStep st pclo bank col dspan q entry P trl j ([], s) pc = ([], { s with mesh := s.mesh ++ [s.rdWrite st pclo bank col dspan q entry P pc] }) := by
  have hread := readHbm_of_upsets_nil hups st (hbmLs pc col bank ((((s.ms st).bank pc bank).row).getD 0)) []
  rw [rdStep]
  simp only [hread, htime, Bool.or_eq_true, decide_eq_true_eq, if_true]
  rw [State.cross, if_neg (by decide), State.put, padTo_of_length (length_memRead ..)]
  rfl

theorem foldl_rdStep_of_inTime {st pclo bank col dspan q entry P trl j : Nat} (pcs : List Nat) {s : State} (hups : s.upsets = [])
    (htime : ∀ pc ∈ pcs, s.memPhase (j + trl + 12 + (pc - pclo) / 8) = P ∨ s.memPhase (j + trl + 12 + (pc - pclo) / 8) = P + 1) :
    pcs.foldl (rdStep st pclo bank col dspan q entry P trl j) ([], s) =
      ([], { s with mesh := s.mesh ++ pcs.map (s.rdWrite st pclo bank col dspan q entry P) }) := by
  induction pcs generalizing s with
  | nil => rw [List.map_nil, List.append_nil]; rfl
  | cons pc r ih =>
    rw [List.forall_mem_cons] at htime
    have htail := ih (s := { s with mesh := s.mesh ++ [s.rdWrite st pclo bank col dspan q entry P pc] }) hups htime.2
    rw [List.foldl_cons, rdStep_of_inTime hups htime.1, htail, List.map_cons, List.append_assoc]
    rfl

/-- Lines that arrive in time cross one after another. -/
theorem rdLines_of_inTime {s : State} (hups : s.upsets = []) {st pclo bank col dspan q entry ph j : Nat} (pcs : List Nat)
    (htime : ∀ pc ∈ pcs, s.memPhase (j + (s.ms st).tt 8 + 12 + (pc - pclo) / 8) = s.tik.phaseNo + ph ∨
      s.memPhase (j + (s.ms st).tt 8 + 12 + (pc - pclo) / 8) = s.tik.phaseNo + ph + 1) :
    rdLines s st pclo bank col dspan q entry ph j pcs =
      { s with mesh := s.mesh ++ pcs.map (s.rdWrite st pclo bank col dspan q entry (s.tik.phaseNo + ph)) } := by
  rw [rdLines_eq_foldl, foldl_rdStep_of_inTime pcs hups htime]

/-! #### Writes of lines (R253) -/

/-- The step of `wrLines`: one pseudo-channel's line. -/
def wrStep (st pclo bank col q entry j : Nat) (a : List (BitVec 16) × State) (pc : Nat) : List (BitVec 16) × State :=
  let s := a.2
  let i := pc - pclo
  let row := (((s.ms st).bank pc bank).row).getD 0
  let ls := hbmLs pc col bank row
  let r := s.readEntry (100 + st) 0 q (entry + i) s.tik.phaseNo (a.1.contains 0x1003)
  let e := r.1
  if !(e.w0 && e.w1) then (a.1 ++ [0x1003], r.2)
  else
    let bad := match e.tag with
      | some t => t.toNat != ls % 4096
      | none => false
    if bad then
      if a.1.contains 0x1007 then (a.1, s)
      else (a.1 ++ [0x1007], ((s.memLog st 6 pc bank 0 (j + i / 8)).memCount st 32).memFault st 0x1007)
    else if e.e0 || e.e1 then (a.1, s)
    else
      let key := hbmKey st ls
      (a.1, State.scrubWords { s with mem := memWrite s.mem (hbmAddr key) e.bytes } .hbm key (List.range 16))

theorem wrLines_eq_foldl (s : State) (st pclo bank col q entry j : Nat) (pcs : List Nat) :
    wrLines s st pclo bank col q entry j pcs = (pcs.foldl (wrStep st pclo bank col q entry j) ([], s)).2 := rfl

/-- An entry that WR stores: both halves written, no tag and no empty mark. -/
def LandEntry.plain (e : LandEntry) : Prop := e.w0 = true ∧ e.w1 = true ∧ e.e0 = false ∧ e.e1 = false ∧ e.tag = none

/-- The landing entry that WR stores on pseudo-channel `pc`. -/
def State.wrEntry (s : State) (st pclo q entry pc : Nat) : LandEntry := s.landAt (100 + st) q (readFrame s.tik.phaseNo) (entry + (pc - pclo))

theorem wrStep_of_plain {s : State} (hups : s.upsets = []) {st pclo bank col q entry j pc : Nat} (h : (s.wrEntry st pclo q entry pc).plain) :
    wrStep st pclo bank col q entry j ([], s) pc =
      ([], { s with mem := memWrite s.mem ((s.ms st).lineAddr st bank col pc) (s.wrEntry st pclo q entry pc).bytes }) := by
  obtain ⟨hw0, hw1, he0, he1, htag⟩ := h
  have hread : s.readEntry (100 + st) 0 q (entry + (pc - pclo)) s.tik.phaseNo (([] : List (BitVec 16)).contains 0x1003) =
      (s.wrEntry st pclo q entry pc, s) := by
    rw [State.readEntry]
    exact if_pos (by rw [State.wrEntry] at hw0 hw1; rw [hw0, hw1]; rfl)
  rw [wrStep]
  simp only [hread, hw0, hw1, he0, he1, htag]
  exact congrArg (Prod.mk []) (scrubWords_of_upsets_nil 
    (s := { s with mem := memWrite s.mem ((s.ms st).lineAddr st bank col pc) (s.wrEntry st pclo q entry pc).bytes }) hups ..)

theorem foldl_wrStep_of_plain {st pclo bank col q entry j : Nat} (pcs : List Nat) {s : State} (hups : s.upsets = [])
    (h : ∀ pc ∈ pcs, (s.wrEntry st pclo q entry pc).plain) :
    pcs.foldl (wrStep st pclo bank col q entry j) ([], s) =
      ([], { s with mem := pcs.foldl (fun mem pc => memWrite mem ((s.ms st).lineAddr st bank col pc) (s.wrEntry st pclo q entry pc).bytes) s.mem }) := by
  induction pcs generalizing s with
  | nil => rfl
  | cons pc r ih =>
    rw [List.forall_mem_cons] at h
    have htail := ih (s := { s with mem := memWrite s.mem ((s.ms st).lineAddr st bank col pc) (s.wrEntry st pclo q entry pc).bytes }) hups h.2
    rw [List.foldl_cons, wrStep_of_plain hups h.1, htail]
    rfl

/-- Plain entries are stored one after another. -/
theorem wrLines_of_plain {s : State} (hups : s.upsets = []) {st pclo bank col q entry j : Nat} (pcs : List Nat)
    (h : ∀ pc ∈ pcs, (s.wrEntry st pclo q entry pc).plain) :
    wrLines s st pclo bank col q entry j pcs =
      { s with mem := pcs.foldl (fun mem pc => memWrite mem ((s.ms st).lineAddr st bank col pc) (s.wrEntry st pclo q entry pc).bytes) s.mem } := by
  rw [wrLines_eq_foldl, foldl_wrStep_of_plain pcs hups h]

/-! #### RD and WR (O18) -/

theorem bank_lt_of_rd {st delta pclo pcn bank col dspan q entry ph : Nat} (h : (Instr.rd st delta pclo pcn bank col dspan q entry ph).wf = true) :
    bank < 48 := by
  simp only [Instr.wf, wordOk, formOk, Bool.and_eq_true, decide_eq_true_eq] at h
  obtain ⟨⟨-, ⟨⟨⟨⟨⟨⟨-, hbank⟩, -⟩, -⟩, -⟩, -⟩, -⟩⟩, -⟩ := h
  exact hbank

theorem bank_lt_of_wr {st delta pclo pcn bank col q entry : Nat} (h : (Instr.wr st delta pclo pcn bank col q entry).wf = true) : bank < 48 := by
  simp only [Instr.wf, wordOk, formOk, Bool.and_eq_true, decide_eq_true_eq] at h
  obtain ⟨⟨-, ⟨⟨⟨-, hbank⟩, -⟩, -⟩, -⟩, -⟩ := h
  exact hbank

section
variable {s : State} {st delta pclo pcn bank col q entry : Nat}

/-- RD and WR leave the open row, and with it the line, as they find it. -/
theorem lineAddr_wordDone {c : MemCmd} (hc : c = .rd ∨ c = .wr) (row : Nat) (hbank : bank < 48) (pc : Nat) :
    (s.wordDone st delta c pclo pcn bank row false).lineAddr st bank col pc = ((s.ms st).paid (s.memCycle st delta)).lineAddr st bank col pc := by
  have hrow : ((s.wordDone st delta c pclo pcn bank row false).bank pc bank).row = (((s.ms st).paid (s.memCycle st delta)).bank pc bank).row := by
    rw [bank_wordDone s st delta c pclo pcn row hbank hbank]
    dsimp only
    split
    case isTrue => rcases hc with rfl | rfl <;> rfl
    case isFalse => rfl
  rw [Msq.lineAddr, hrow, Msq.lineAddr]

theorem exec_rd_of_free {dspan ph : Nat} (hwf : (Instr.rd st delta pclo pcn bank col dspan q entry ph).wf = true)
    (h : ((s.ms st).paid (s.memCycle st delta)).free .rd pclo pcn [bank] (s.memCycle st delta) = true) :
    exec (.rd st delta pclo pcn bank col dspan q entry ph) s =
      .next (rdLines (s.setMs st (s.wordDone st delta .rd pclo pcn bank 0 false)) st pclo bank col dspan q entry ph (s.memCycle st delta)
        (range' pclo pcn)) := by
  obtain ⟨hhalted, hpass⟩ := passes_of_free h
  rw [show exec (.rd st delta pclo pcn bank col dspan q entry ph) s = execRd st delta pclo pcn bank col dspan q entry ph s from rfl, execRd,
    memIssue_of_passes hwf (bank_lt_of_rd hwf) (by simpa using hhalted) hpass]

theorem exec_wr_of_free (hwf : (Instr.wr st delta pclo pcn bank col q entry).wf = true)
    (h : ((s.ms st).paid (s.memCycle st delta)).free .wr pclo pcn [bank] (s.memCycle st delta) = true) :
    exec (.wr st delta pclo pcn bank col q entry) s =
      .next (wrLines (s.setMs st (s.wordDone st delta .wr pclo pcn bank 0 false)) st pclo bank col q entry (s.memCycle st delta)
        (range' pclo pcn)) := by
  obtain ⟨hhalted, hpass⟩ := passes_of_free h
  rw [show exec (.wr st delta pclo pcn bank col q entry) s = execWr st delta pclo pcn bank col q entry s from rfl, execWr,
    memIssue_of_passes hwf (bank_lt_of_wr hwf) (by simpa using hhalted) hpass]

end

/-- A range of pseudo-channels, counted from its first. -/
theorem forall_range' {lo n : Nat} {p : Nat → Prop} (h : ∀ i, i < n → p i) : ∀ pc ∈ range' lo n, p (pc - lo) := fun pc hpc => by
  have hbounds := mem_range'.mp hpc
  exact h (pc - lo) (by omega)

/-- Settles O18: the lines of a word are moved one after another, each from the bank's open row as the word finds it. -/
theorem memoryReadsAndWritesMoveLines : Obligations.MemoryReadsAndWritesMoveLines := by
  intro s st delta pclo pcn bank col q entry _ hups
  dsimp only
  refine ⟨fun dspan ph hwf hfree htime => ?_, fun hwf hfree hplain => ?_⟩
  case refine_1 =>
    have hbank := bank_lt_of_rd hwf
    have htt : ((s.setMs st (s.wordDone st delta .rd pclo pcn bank 0 false)).ms st).tt 8 = ((s.ms st).paid (s.memCycle st delta)).tt 8 := by
      rw [State.ms_setMs, State.wordDone, applyRange_frame]
      rfl
    have hlines := rdLines_of_inTime (s := s.setMs st (s.wordDone st delta .rd pclo pcn bank 0 false)) (st := st) (pclo := pclo) (bank := bank) (col := col)
      (dspan := dspan) (q := q) (entry := entry) (ph := ph) (j := s.memCycle st delta) hups (range' pclo pcn)
      (by rw [htt]; exact forall_range' htime)
    refine ⟨_, exec_rd_of_free hwf hfree, ?_⟩
    rw [hlines]
    refine ⟨?_, fun pc hlo hhi => ?_, rfl⟩
    · refine congrArg (s.mesh ++ ·) ?_
      rw [range', List.map_map]
      refine List.map_congr_left fun i _ => ?_
      simp only [Function.comp, State.rdWrite, State.ms_setMs, lineAddr_wordDone (.inl rfl) 0 hbank, Nat.add_sub_cancel_left]
      rfl
    · exact (congrArg (Msq.bank · pc bank) (State.ms_setMs ..)).trans (bank_wordDone_same 0 hbank ⟨hlo, hhi⟩)
  case refine_2 =>
    have hbank := bank_lt_of_wr hwf
    have hlines := wrLines_of_plain (s := s.setMs st (s.wordDone st delta .wr pclo pcn bank 0 false)) (st := st) (pclo := pclo) (bank := bank) (col := col)
      (q := q) (entry := entry) (j := s.memCycle st delta) hups (range' pclo pcn) (forall_range' hplain)
    refine ⟨_, exec_wr_of_free hwf hfree, ?_⟩
    rw [hlines]
    refine ⟨?_, fun pc hlo hhi => ?_, rfl⟩
    · simp only [range', List.foldl_map, State.ms_setMs, lineAddr_wordDone (.inr rfl) 0 hbank, State.wrEntry, Nat.add_sub_cancel_left]
      rfl
    · exact (congrArg (Msq.bank · pc bank) (State.ms_setMs ..)).trans (bank_wordDone_same 0 hbank ⟨hlo, hhi⟩)

end Sys2Proof.Machine

/-! ### Faults and upkeep of a memory sequencer (O19) -/

namespace Sys2Proof.Machine

/-! #### Log, counts and faults of a sequencer (R257, R270) -/

/-- The record of a fault in MSQ_FLT_LOG (R270). -/
def State.fltRecord (s : State) (kind pc bank param j : Nat) : Reg :=
  orAll [at_ kind 0 4, at_ pc 4 6, at_ bank 10 6, at_ param 16 5, at_ (s.memPhase j % 8) 21 3, at_ (j - s.memEdge (s.memPhase j)) 24 11,
    at_ (s.memPhase j / 8) 35 29]

theorem memLog_frame (s : State) (st kind pc bank param j : Nat) :
    s.memLog st kind pc bank param j = { s with msq := (s.memLog st kind pc bank param j).msq } := by
  rw [State.memLog]
  dsimp only
  split <;> rfl

/-- The log holds the first fault (R270). -/
theorem ms_memLog (s : State) (st kind pc bank param j : Nat) : (s.memLog st kind pc bank param j).ms st =
    { s.ms st with faulted := true, fltLog := if (s.ms st).faulted then (s.ms st).fltLog else s.fltRecord kind pc bank param j } := by
  rw [State.memLog]
  dsimp only
  cases h : (s.ms st).faulted
  case true => exact congrArg (fun f => { s.ms st with faulted := f }) h
  case false => exact State.ms_setMs ..

theorem ms_memLog_ne (s : State) {st x : Nat} (kind pc bank param j : Nat) (h : x ≠ st) : (s.memLog st kind pc bank param j).ms x = s.ms x := by
  rw [State.memLog]
  dsimp only
  split
  case isTrue => rfl
  case isFalse => exact State.ms_setMs_ne _ _ _ _ h

/-- A fault of a memory span over a state in which only sequencers have changed. -/
theorem memFault_spec {s u : State} (hframe : u = { s with msq := u.msq }) (st : Nat) (code : BitVec 16) :
    raisedOne s (u.memFault st code) code (100 + st) ∧ (u.memFault st code).msq = u.msq ∧
      u.memFault st code = { s with msq := (u.memFault st code).msq, flt := (u.memFault st code).flt } := by
  refine ⟨raisedOne_raise_detail (by rw [hframe]) .., rfl, ?_⟩
  rw [hframe]
  rfl

/-! #### Suppressed commands (R250, R257) -/

@[simp] theorem ms_memFault (s : State) (st x : Nat) (code : BitVec 16) : (s.memFault st code).ms x = s.ms x := rfl

/-- The state with a command of stack `st`'s stream on one bank counted, logged and its stream stopped for the step. -/
def State.stopped (s : State) (st kind pc bank param delta : Nat) : State :=
  State.updMs (State.memLog (State.memCount
    (s.setMs st { (s.ms st).paid (s.memCycle st delta) with str := (s.ms st).str.issued 1 ((s.ms st).str.issue delta) }) st 0)
    st kind pc bank param (s.memCycle st delta)) st (fun m => { m with halted := true, haltAt := s.memCycle st delta })

/-- The state once a command of stack `st`'s stream on one bank is suppressed for what the check names. -/
def State.suppressed (s : State) (st kind pc bank param delta : Nat) : State := (s.stopped st kind pc bank param delta).memFault st 0x1009

/-- A command of one pseudo-channel that the check finds wrong is suppressed. -/
theorem memIssue_of_wrong {i : Instr} {s : State} {st delta : Nat} {c : MemCmd} {pc bank row kind param : Nat} (hwf : i.wf = true)
    (hrun : (s.ms st).halted = false) (hforced : (((s.ms st).paid (s.memCycle st delta)).pc pc).forced ≠ some (s.memCycle st delta : Int))
    (hwrong : ((s.ms st).paid (s.memCycle st delta)).wrong c pc bank (s.memCycle st delta) = some (kind, param)) :
    memIssue i st delta c pc 1 bank row false (fun s _ _ => s) s = .next (s.suppressed st kind pc bank param delta) := by
  have hword : wordOk i = true := hwf
  have hmem : memWord ((s.ms st).paid (s.memCycle st delta)) c pc 1 bank row false (s.memCycle st delta) =
      ((s.ms st).paid (s.memCycle st delta), [], some (kind, param, pc, bank), true) := by
    rw [memWord_eq_foldl]
    simp [range', wordStep, hforced, wordBanks, Msq.check, hwrong]
  rw [memIssue]
  simp only [hword, hrun]
  rw [← State.memCycle, hmem]
  rfl

theorem ms_suppressed (s : State) (st kind pc bank param delta : Nat) : (s.suppressed st kind pc bank param delta).ms st =
    let m := (s.ms st).paid (s.memCycle st delta)
    { m with
      str := (s.ms st).str.issued 1 ((s.ms st).str.issue delta), cnt := satInc m.cnt 0 16 1, faulted := true, halted := true,
      haltAt := s.memCycle st delta,
      fltLog := if m.faulted then m.fltLog else s.fltRecord kind pc bank param (s.memCycle st delta) } := by
  rw [State.suppressed, ms_memFault, State.stopped, State.ms_updMs, ms_memLog, State.memCount, State.ms_updMs, State.ms_setMs]
  rfl

theorem ms_suppressed_ne (s : State) {st x : Nat} (kind pc bank param delta : Nat) (h : x ≠ st) :
    (s.suppressed st kind pc bank param delta).ms x = s.ms x := by
  rw [State.suppressed, ms_memFault, State.stopped, State.ms_updMs_ne _ _ _ _ h, ms_memLog_ne _ _ _ _ _ _ h, State.memCount,
    State.ms_updMs_ne _ _ _ _ h, State.ms_setMs_ne _ _ _ _ h]

/-- A suppression raises 0x1009 and changes the sequencer and the faults alone. -/
theorem suppressed_fault (s : State) (st kind pc bank param delta : Nat) :
    let t := s.suppressed st kind pc bank param delta
    raisedOne s t 0x1009 (100 + st) ∧ t = { s with msq := t.msq, flt := t.flt } := by
  have hframe : s.stopped st kind pc bank param delta = { s with msq := (s.stopped st kind pc bank param delta).msq } := by
    rw [State.stopped, memLog_frame]
    rfl
  obtain ⟨hraised, -, hfault⟩ := memFault_spec hframe st 0x1009
  exact ⟨hraised, hfault⟩

/-- A word of one bank that breaks the timing table or meets the wrong bank state (R250, R257). -/
theorem suppressed_of_wrong {i : Instr} {c : MemCmd} {s : State} {st delta pc bank row : Nat}
    (hexec : exec i s = memIssue i st delta c pc 1 bank row false (fun s _ _ => s) s) (hwf : i.wf = true) (hrun : (s.ms st).halted = false)
    (hforced : (((s.ms st).paid (s.memCycle st delta)).pc pc).forced ≠ some (s.memCycle st delta : Int))
    (hwrong : (((s.ms st).paid (s.memCycle st delta)).wrong c pc bank (s.memCycle st delta)).isSome = true) :
    ∃ kind param, ((s.ms st).paid (s.memCycle st delta)).wrong c pc bank (s.memCycle st delta) = some (kind, param) ∧
      exec i s = .next (s.suppressed st kind pc bank param delta) := by
  obtain ⟨⟨kind, param⟩, hsome⟩ := Option.isSome_iff_exists.mp hwrong
  exact ⟨kind, param, hsome, hexec.trans (memIssue_of_wrong hwf hrun hforced hsome)⟩

/-! #### Forced refreshes (R261) -/

/-- A sequencer owes the forced refresh of one bank, since cycle `j0`. -/
def Msq.owesOne (m : Msq) (pc b : Nat) (j0 : Int) : Prop := m.owed = [(48 * pc + b, j0)]

/-- The command that comes first in a forced refresh: PRE while the bank is open, and then REFB. -/
def Msq.refreshCmd (m : Msq) (pc b : Nat) : MemCmd := if (m.bank pc b).row.isSome then .pre else .refb

theorem payUntil_of_not_owed (n : Nat) (j : Int) {m : Msq} (h : m.owed = []) : m.payUntil n j = m := by
  cases n
  case zero => rfl
  case succ =>
    have hnone : m.firstForced = none := by rw [Msq.firstForced, h]; rfl
    rw [Msq.payUntil, hnone]

section
variable {m : Msq} {pc b : Nat} {j0 j : Int}

theorem payUntil_succ_of_owesOne (n : Nat) (hb : b < 48) (h : m.owesOne pc b j0) : m.payUntil (n + 1) j =
    if j < m.earliest (m.refreshCmd pc b) pc b j0 then m
    else
      let m' := m.apply (m.refreshCmd pc b) pc b 0 (m.earliest (m.refreshCmd pc b) pc b j0)
      Msq.payUntil n j (if m.refreshCmd pc b = .refb then { m' with owed := m'.owed.erase (48 * pc + b, j0) } else m') := by
  have hfirst : m.firstForced = some (48 * pc + b, j0) := by rw [Msq.firstForced, h]; rfl
  have hpc : (48 * pc + b) / 48 = pc := by omega
  have hbank : (48 * pc + b) % 48 = b := by omega
  have hnext : m.nextForced (48 * pc + b, j0) = (m.refreshCmd pc b, m.earliest (m.refreshCmd pc b) pc b j0) := by
    simp only [Msq.nextForced, hpc, hbank, Msq.refreshCmd]
  rw [Msq.payUntil, hfirst]
  simp only [hnext, hpc, hbank]

/-- A forced refresh whose first command's cycle has not come waits. -/
theorem payUntil_of_early (n : Nat) (hb : b < 48) (h : m.owesOne pc b j0) (hj : j < m.earliest (m.refreshCmd pc b) pc b j0) : m.payUntil n j = m := by
  cases n
  case zero => rfl
  case succ => rw [payUntil_succ_of_owesOne _ hb h, if_pos hj]

/-- The forced refresh of a closed bank whose cycle has come is done. -/
theorem payUntil_of_closed (n : Nat) (hb : b < 48) (h : m.owesOne pc b j0) (hclosed : (m.bank pc b).row = none) (hj : m.earliest .refb pc b j0 ≤ j) :
    m.payUntil (n + 1) j = { m.apply .refb pc b 0 (m.earliest .refb pc b j0) with owed := [] } := by
  have hcmd : m.refreshCmd pc b = .refb := by rw [Msq.refreshCmd, hclosed]; rfl
  have howed : (m.apply .refb pc b 0 (m.earliest .refb pc b j0)).owed.erase (48 * pc + b, j0) = [] := by
    rw [apply_frame, h]
    exact List.erase_cons_head ..
  rw [payUntil_succ_of_owesOne _ hb h, hcmd, if_neg (by omega)]
  dsimp only
  rw [if_pos rfl, howed, payUntil_of_not_owed _ _ rfl]

/-- The forced refresh of an open bank whose PRE's cycle has come closes it, and goes on from there. -/
theorem payUntil_of_open (n : Nat) (hb : b < 48) (h : m.owesOne pc b j0) (hopen : (m.bank pc b).row.isSome = true)
    (hj : m.earliest .pre pc b j0 ≤ j) : m.payUntil (n + 1) j = (m.apply .pre pc b 0 (m.earliest .pre pc b j0)).payUntil n j := by
  have hcmd : m.refreshCmd pc b = .pre := by rw [Msq.refreshCmd, hopen]; rfl
  rw [payUntil_succ_of_owesOne _ hb h, hcmd, if_neg (by omega)]
  rfl

theorem paid_of_owesOne (h : m.owesOne pc b j0) : m.paid j = m.payUntil 2 j := by
  rw [Msq.paid, show m.owed.length = 1 from congrArg List.length h]

/-- A closed bank stays closed since its last PRE, whatever of its forced refresh is done. -/
theorem payUntil_keeps_closed (n : Nat) (hb : b < 48) (h : m.owesOne pc b j0) (hclosed : (m.bank pc b).row = none) :
    ((m.payUntil n j).bank pc b).row = none ∧ ((m.payUntil n j).bank pc b).pre = (m.bank pc b).pre := by
  have hcmd : m.refreshCmd pc b = .refb := by rw [Msq.refreshCmd, hclosed]; rfl
  by_cases hj : j < m.earliest .refb pc b j0
  · rw [payUntil_of_early n hb h (hcmd ▸ hj)]
    exact ⟨hclosed, rfl⟩
  · cases n
    case zero => exact ⟨hclosed, rfl⟩
    case succ n =>
      have hbank : (m.payUntil (n + 1) j).bank pc b = (m.bank pc b).after .refb 0 (m.due (m.earliest .refb pc b j0)) (m.earliest .refb pc b j0) := by
        rw [payUntil_of_closed n hb h hclosed (by omega)]
        exact (bank_apply m .refb 0 _ hb hb).trans (if_pos (by simp [MemCmd.reaches]))
      rw [hbank]
      exact ⟨hclosed, rfl⟩

end

end Sys2Proof.Machine

namespace Sys2Proof.Machine

/-! #### Refresh debts rise (R260) -/

theorem noteDebt_frame (m : Msq) : m.noteDebt = { m with refMax := m.noteDebt.refMax } := by
  rw [Msq.noteDebt]
  split <;> rfl

theorem onlyMsqTime_updMs {s u : State} (hu : u = { s with tim := u.tim }) (st : Nat) (f : Msq → Msq) : onlyMsqTime s (u.updMs st f) u st := by
  refine ⟨?_, fun x hx => ?_⟩
  · rw [hu]
    rfl
  · rw [State.ms_updMs_ne _ _ _ _ hx, hu]
    rfl

theorem advance_tim_frame (s : State) (n : Nat) : s.advance n = { s with tim := (s.advance n).tim } := by
  rw [State.advance]
  split <;> rfl

theorem beat_tim_frame (s : State) (n period : Nat) : s.beat n period = { s with tim := (s.beat n period).tim } := by
  rw [State.beat_eq]

/-! #### Banks closed and refreshed (R257, R263) -/

/-- The step of `Msq.closeAll`: an entry that is open is precharged. -/
def closeStep (j : Int) (m : Msq) (p : Nat × Bank) : Msq :=
  if p.2.row.isSome then m.apply .pre (p.1 / 48) (p.1 % 48) 0 (m.earliest .pre (p.1 / 48) (p.1 % 48) j) else m

theorem closeAll_eq_foldl (m : Msq) (j : Int) : m.closeAll j = m.banks.foldl (closeStep j) m := rfl

/-- A step closes the bank of its entry when the entry is open, and leaves every other bank. -/
theorem bank_closeStep (j : Int) (m : Msq) (p : Nat × Bank) (pc : Nat) {b : Nat} (hb : b < 48) : (closeStep j m p).bank pc b =
    if p.1 = 48 * pc + b ∧ p.2.row.isSome = true then (m.bank pc b).close (m.earliest .pre pc b j) else m.bank pc b := by
  rw [closeStep]
  split
  case isTrue hopen =>
    have hkey : p.1 = 48 * pc + b ↔ pc = p.1 / 48 ∧ b = p.1 % 48 := by omega
    rw [bank_apply m .pre 0 _ (by omega) hb]
    simp only [MemCmd.reaches, Bank.after, hopen, hkey, beq_iff_eq, reduceCtorEq, Bool.or_eq_true, false_or, and_true]
    split
    case isTrue h => rw [h.1, h.2]
    case isFalse => rfl
  case isFalse hopen => rw [if_neg fun h => hopen h.2]

theorem closeStep_frame (j : Int) (m : Msq) (p : Nat × Bank) :
    closeStep j m p = { m with banks := (closeStep j m p).banks, pcs := (closeStep j m p).pcs } := by
  rw [closeStep]
  split
  case isTrue => exact apply_frame ..
  case isFalse => rfl

theorem foldl_closeStep_frame (j : Int) (l : Tbl Bank) (m : Msq) :
    l.foldl (closeStep j) m = { m with banks := (l.foldl (closeStep j) m).banks, pcs := (l.foldl (closeStep j) m).pcs } := by
  induction l generalizing m with
  | nil => rfl
  | cons p r ih => rw [List.foldl_cons, ih, closeStep_frame]

theorem debt_foldl_closeStep (j : Int) (l : Tbl Bank) (pc : Nat) {b : Nat} (hb : b < 48) (m : Msq) :
    ((l.foldl (closeStep j) m).bank pc b).debt = (m.bank pc b).debt := by
  induction l generalizing m with
  | nil => rfl
  | cons p r ih =>
    rw [List.foldl_cons, ih, bank_closeStep j m p pc hb]
    split
    case isTrue => exact (close_debt ..).1
    case isFalse => rfl

/-- A closed bank stays closed. -/
theorem row_foldl_closeStep (j : Int) (l : Tbl Bank) (pc : Nat) {b : Nat} (hb : b < 48) {m : Msq} (h : (m.bank pc b).row = none) :
    ((l.foldl (closeStep j) m).bank pc b).row = none := by
  induction l generalizing m with
  | nil => exact h
  | cons p r ih =>
    refine ih ?_
    rw [bank_closeStep j m p pc hb]
    split
    case isTrue => exact row_close ..
    case isFalse => exact h

/-- A bank that is listed open is closed. -/
theorem row_foldl_closeStep_of_mem (j : Int) {l : Tbl Bank} (pc : Nat) {b : Nat} (hb : b < 48) {x : Bank} (hx : (48 * pc + b, x) ∈ l)
    (hopen : x.row.isSome = true) (m : Msq) : ((l.foldl (closeStep j) m).bank pc b).row = none := by
  induction l generalizing m with
  | nil => cases hx
  | cons p r ih =>
    rcases List.mem_cons.mp hx with rfl | hx
    · refine row_foldl_closeStep j r pc hb ?_
      rw [bank_closeStep j m _ pc hb, if_pos ⟨rfl, hopen⟩, row_close]
    · exact ih hx _

/-- What a table gives that is not its default stands in it. -/
theorem Tbl.mem_of_get_ne {α : Type} {d : α} {t : Tbl α} {k : Nat} (h : Tbl.get d t k ≠ d) : (k, Tbl.get d t k) ∈ t := by
  induction t with
  | nil => exact absurd rfl h
  | cons e r ih =>
    rw [Tbl.get] at h ⊢
    split at h
    case isTrue hk => rw [if_pos hk, hk]; exact List.mem_cons_self ..
    case isFalse hk => rw [if_neg hk]; exact List.mem_cons_of_mem _ (ih h)

theorem row_closeAll (m : Msq) (j : Int) (pc : Nat) {b : Nat} (hb : b < 48) : ((m.closeAll j).bank pc b).row = none := by
  rw [closeAll_eq_foldl]
  cases hrow : (m.bank pc b).row.isSome
  case false => exact row_foldl_closeStep j _ pc hb (by simpa using hrow)
  case true =>
    have hlisted : m.bank pc b ≠ {} := fun h => by rw [h] at hrow; cases hrow
    exact row_foldl_closeStep_of_mem j pc hb (Tbl.mem_of_get_ne hlisted) hrow m

theorem debtOf_closeAll (m : Msq) (j : Int) (pc : Nat) {b : Nat} (hb : b < 48) : (m.closeAll j).debtOf pc b = m.debtOf pc b := by
  rw [Msq.debtOf, closeAll_eq_foldl, debt_foldl_closeStep j _ pc hb, foldl_closeStep_frame]
  rfl

/-- A refresh of every pseudo-channel outside a job leaves no debt and no counted activation. -/
theorem bank_refreshAll (m : Msq) (j : Int) (pc b : Nat) : (m.refreshAll j).bank pc b = { m.bank pc b with acts := 0, debt := 0 } :=
  Tbl.get_map (f := fun x : Bank => { x with acts := 0, debt := 0 }) rfl m.banks (48 * pc + b)

/-! #### The temperature of a stack (R270) -/

theorem orAll_triple (u v w : Reg) : orAll [u, v, w] = u ||| v ||| w := by simp [orAll]

/-- The fields of MSQ_TEMP. -/
theorem tempReg_fields {temp die : Nat} (htemp : temp < 256) (hdie : die < 16) :
    let w := orAll [at_ temp 0 8, at_ die 8 4, flag true 12]
    field w 0 8 = temp ∧ field w 8 4 = die ∧ bit w 12 = true := by
  have htemp0 : field (at_ temp 0 8) 0 8 = temp := (field_at (by decide) temp).trans (Nat.mod_eq_of_lt htemp)
  have htemp8 : field (at_ temp 0 8) 8 4 = 0 := field_at_above (lo := 0) (by decide) temp 4
  have hdie8 : field (at_ die 8 4) 8 4 = die := (field_at (by decide) die).trans (Nat.mod_eq_of_lt hdie)
  have hdie0 : field (at_ die 8 4) 0 8 = 0 := by
    rw [field, toNat_at (by decide)]
    omega
  have hflag : field (flag true 12) 0 8 = 0 ∧ field (flag true 12) 8 4 = 0 ∧ bit (flag true 12) 12 = true := by decide
  obtain ⟨hflag0, hflag8, hflag12⟩ := hflag
  dsimp only
  rw [orAll_triple]
  refine ⟨?_, ?_, ?_⟩
  · rw [field_or, field_or, htemp0, hdie0, hflag0, Nat.or_zero, Nat.or_zero]
  · rw [field_or, field_or, htemp8, hdie8, hflag8, Nat.or_zero, Nat.zero_or]
  · rw [bit, BitVec.getLsbD_or, show (flag true 12).getLsbD 12 = true from hflag12, Bool.or_true]

/-! #### Forced refreshes begun (R261) -/

theorem increasesBy_increaseCycle (n : Nat) : increasesBy (increaseCycle n) = n := by
  rw [increasesBy, increaseCycle]
  omega

/-- The sequencer of stack `st` once the forced refresh of a bank has begun. -/
def Msq.beginForced (m : Msq) (pc b : Nat) : Msq :=
  let j : Int := increaseCycle m.incs.toNat
  let n := Msq.paid { m with owed := m.owed ++ [(48 * pc + b, j)] } j
  n.setPc pc { n.pc pc with forced := some j }

/-- The sequencer that owes the forced refresh of a bank, from the cycle of the last increase. -/
def Msq.owing (m : Msq) (pc b : Nat) : Msq := { m with owed := [(48 * pc + b, (increaseCycle m.incs.toNat : Int))] }

/-- The state once the forced refresh of a bank has begun. -/
def State.forcedBegun (s : State) (st pc b : Nat) : State :=
  (((s.setMs st ((s.ms st).beginForced pc b)).memLog st 4 pc b 0 (increaseCycle (s.ms st).incs.toNat)).memCount st 16).memFault st 0x100A

theorem exec_forcedRefresh_of_due {s : State} {st pc b : Nat} (hst : st < 4) (hpc : pc < 64) (hb : b < 48) (hrun : (s.ms st).running = true)
    (hdebt : 9 ≤ (s.ms st).debtOf pc b) (howed : (s.ms st).owed = []) : exec (.forcedRefresh st pc b) s = .next (s.forcedBegun st pc b) := by
  have hdue : ¬ (s.ms st).debtOf pc b < 9 := by omega
  rw [show exec (.forcedRefresh st pc b) s = execForcedRefresh st pc b s from rfl, execForcedRefresh, if_pos (by simp [hst, hpc, hb])]
  dsimp only
  rw [if_neg (by simp [hrun, hdue, howed])]
  rfl

theorem ms_forcedBegun (s : State) (st pc b : Nat) : (s.forcedBegun st pc b).ms st =
    let m := (s.ms st).beginForced pc b
    { m with
      faulted := true, cnt := satInc m.cnt 16 16 1,
      fltLog := if m.faulted then m.fltLog else s.fltRecord 4 pc b 0 (increaseCycle (s.ms st).incs.toNat) } := by
  rw [State.forcedBegun, ms_memFault, State.memCount, State.ms_updMs, ms_memLog, State.ms_setMs]
  rfl

theorem forcedBegun_fault (s : State) (st pc b : Nat) :
    let t := s.forcedBegun st pc b
    raisedOne s t 0x100A (100 + st) ∧ t = { s with msq := t.msq, flt := t.flt } := by
  obtain ⟨hraised, -, hframe⟩ := memFault_spec (s := s)
    (u := ((s.setMs st ((s.ms st).beginForced pc b)).memLog st 4 pc b 0 (increaseCycle (s.ms st).incs.toNat)).memCount st 16)
    (by rw [memLog_frame]; rfl) st 0x100A
  exact ⟨hraised, hframe⟩

section
variable {m : Msq} {pc b : Nat}

theorem beginForced_eq (howed : m.owed = []) : let j : Int := increaseCycle m.incs.toNat
    let n := (m.owing pc b).payUntil 2 j
    m.beginForced pc b = n.setPc pc { n.pc pc with forced := some j } := by
  rw [Msq.beginForced, howed]
  rfl

theorem forced_beginForced (m : Msq) (pc b : Nat) : ((m.beginForced pc b).pc pc).forced = some (increaseCycle m.incs.toNat : Int) := by
  rw [Msq.beginForced, pc_setPc, if_pos rfl]

theorem cnt_beginForced (m : Msq) (pc b : Nat) : (m.beginForced pc b).cnt = m.cnt := cnt_paid ..

/-- A closed bank that the table lets through is refreshed at once. -/
theorem beginForced_of_closed (hb : b < 48) (howed : m.owed = []) (hrun : m.running = true) (hdebt : 9 ≤ m.debtOf pc b)
    (hclosed : (m.bank pc b).row.isSome = false) (hnow : m.earliest .refb pc b (increaseCycle m.incs.toNat) = increaseCycle m.incs.toNat) :
    ((m.beginForced pc b).bank pc b).acts = 0 ∧ ((m.beginForced pc b).bank pc b).refb = some (increaseCycle m.incs.toNat : Int) ∧
      (m.beginForced pc b).debtOf pc b = m.debtOf pc b - 1 ∧ (m.beginForced pc b).owed = [] := by
  have hpaid := payUntil_of_closed (m := m.owing pc b) 1 hb rfl (show (m.bank pc b).row = none by simpa using hclosed)
    (j := increaseCycle m.incs.toNat) hnow.le
  have hbank : (m.beginForced pc b).bank pc b =
      (m.bank pc b).after .refb 0 (m.due (increaseCycle m.incs.toNat)) (increaseCycle m.incs.toNat) := by
    rw [beginForced_eq howed, hpaid, bank_setPc]
    refine ((bank_apply _ .refb 0 _ hb hb).trans (if_pos (by simp [MemCmd.reaches]))).trans ?_
    exact congrArg (fun e => (m.bank pc b).after .refb 0 (m.due e) e) hnow
  have hincs : (m.beginForced pc b).incs = m.incs := incs_paid ..
  have hdue : m.due (increaseCycle m.incs.toNat) = m.incs.toNat := by
    rw [Msq.due, if_pos hrun, Int.toNat_natCast, increasesBy_increaseCycle]
  refine ⟨by rw [hbank]; rfl, by rw [hbank]; rfl, ?_, by rw [beginForced_eq howed, hpaid]; rfl⟩
  rw [debtOf_of_refresh (m := m) hincs (by rw [hbank]; rfl), hdue]
  omega

/-- An open bank whose PRE the table lets through is closed at once. -/
theorem beginForced_of_open (hb : b < 48) (howed : m.owed = []) (hopen : (m.bank pc b).row.isSome = true)
    (hnow : m.earliest .pre pc b (increaseCycle m.incs.toNat) = increaseCycle m.incs.toNat) :
    ((m.beginForced pc b).bank pc b).row = none ∧ ((m.beginForced pc b).bank pc b).pre = some (increaseCycle m.incs.toNat : Int) := by
  have hpaid := payUntil_of_open (m := m.owing pc b) 1 hb rfl hopen (j := increaseCycle m.incs.toNat) hnow.le
  have howes : ((m.owing pc b).apply .pre pc b 0 ((m.owing pc b).earliest .pre pc b (increaseCycle m.incs.toNat))).owesOne pc b
      (increaseCycle m.incs.toNat) := rfl
  have hbank : ((m.owing pc b).apply .pre pc b 0 ((m.owing pc b).earliest .pre pc b (increaseCycle m.incs.toNat))).bank pc b =
      (m.bank pc b).close (increaseCycle m.incs.toNat) := by
    refine ((bank_apply _ .pre 0 _ hb hb).trans (if_pos (by simp [MemCmd.reaches]))).trans ?_
    exact congrArg (m.bank pc b).close hnow
  obtain ⟨hrow, hpre⟩ := payUntil_keeps_closed (j := increaseCycle m.incs.toNat) 1 hb howes (by rw [hbank, row_close])
  rw [beginForced_eq howed, hpaid, bank_setPc]
  exact ⟨hrow, by rw [hpre, hbank, pre_close, if_pos hopen]⟩

/-- A bank whose first command the table does not let through yet waits. -/
theorem beginForced_of_early (hb : b < 48) (howed : m.owed = [])
    (hearly : increaseCycle m.incs.toNat < m.earliest (m.refreshCmd pc b) pc b (increaseCycle m.incs.toNat)) :
    (m.beginForced pc b).bank pc b = m.bank pc b ∧ (m.beginForced pc b).owed = [(48 * pc + b, (increaseCycle m.incs.toNat : Int))] := by
  have hpaid := payUntil_of_early (m := m.owing pc b) 2 hb rfl hearly
  rw [beginForced_eq howed, hpaid]
  exact ⟨rfl, rfl⟩

end

/-! #### Faults and upkeep (O19) -/

/-- The words of one bank and the commands that they issue. -/
theorem exec_word_of_bank {i : Instr} {c : MemCmd} {st delta pc bank row : Nat}
    (h : (i, c) ∈ [(Instr.act st delta pc 1 bank row, MemCmd.act), (.pre st delta pc 1 bank false, .pre), (.refb st delta pc 1 bank, .refb)])
    (s : State) : ∃ row, exec i s = memIssue i st delta c pc 1 bank row false (fun s _ _ => s) s := by
  simp only [List.mem_cons, Prod.mk.injEq, List.not_mem_nil, or_false] at h
  rcases h with ⟨rfl, rfl⟩ | ⟨rfl, rfl⟩ | ⟨rfl, rfl⟩
  · exact ⟨row, rfl⟩
  · exact ⟨0, rfl⟩
  · exact ⟨0, rfl⟩

/-- The increase of the refresh debts while a stream plays (R260). -/
theorem refreshDebtIncrease_spec {s : State} {st : Nat} (hst : st < 4) (hrun : (s.ms st).running = true) :
    let m := s.ms st
    ∃ t, exec (.refreshDebtIncrease st) s = .next t ∧
      onlyMsqTime s t (s.advance (s.tim.epoch.toNat * ns + (m.incs + 1).toNat * (15625 * 2 ^ 45))) st ∧
      (let m := m.paid (increaseCycle (m.incs + 1).toNat - 1)
       ∀ pc b, (t.ms st).debtOf pc b = m.debtOf pc b + 1 ∧ ((t.ms st).bank pc b).row = (m.bank pc b).row) ∧ (t.ms st).str = m.str := by
  have hexec : exec (.refreshDebtIncrease st) s = .next ((s.advance (s.increaseTime ((s.ms st).incs + 1).toNat)).updMs st (fun m =>
      Msq.noteDebt { m.paid (increaseCycle (m.incs + 1).toNat - 1) with incs := m.incs + 1 })) := by
    rw [show exec (.refreshDebtIncrease st) s = execRefreshDebtIncrease st s from rfl, execRefreshDebtIncrease, if_pos hst, if_pos hrun]
  have hms : ∀ n, (s.advance n).ms st = s.ms st := fun n => by rw [advance_tim_frame]; rfl
  rw [State.increaseTime, refreshTime] at hexec
  refine ⟨_, hexec, onlyMsqTime_updMs (advance_tim_frame ..) st _, fun pc b => ?_, ?_⟩
  · rw [State.ms_updMs, hms, noteDebt_frame]
    refine ⟨?_, rfl⟩
    simp only [Msq.debtOf, incs_paid, Msq.bank]
    omega
  · rw [State.ms_updMs, hms, noteDebt_frame]
    exact str_paid ..

/-- The refresh of a stack in autonomous mode (R263). -/
theorem msqAutoRefresh_spec {s : State} {st : Nat} (hst : st < 4) (hauto : (s.ms st).auto = true) :
    ∃ t, exec (.msqAutoRefresh st) s = .next t ∧
      onlyMsqTime s t (s.advance ((s.ms st).autoAt + s.autoTime (s.ms st))) st ∧ (t.ms st).autoAt = t.tim.now.toNat ∧
      ∀ pc b, pc < 64 → b < 48 → (t.ms st).debtOf pc b = 0 ∧ ((t.ms st).bank pc b).acts = 0 ∧ ((t.ms st).bank pc b).row = none := by
  let u := s.advance ((s.ms st).autoAt + s.autoTime (s.ms st))
  have hexec : exec (.msqAutoRefresh st) s =
      .next (u.updMs st (fun m => { (m.closeAll u.memNow).refreshAll u.memNow with autoAt := u.tim.now.toNat })) := by
    rw [show exec (.msqAutoRefresh st) s = execMsqAutoRefresh st s from rfl, execMsqAutoRefresh, if_neg (by omega), if_neg (by simp [hauto])]
  refine ⟨_, hexec, onlyMsqTime_updMs (advance_tim_frame ..) st _, by rw [State.ms_updMs, State.updMs_tim], fun pc b _ hb => ?_⟩
  rw [State.ms_updMs]
  have hbank := bank_refreshAll ((u.ms st).closeAll u.memNow) u.memNow pc b
  have hclosed := row_closeAll (u.ms st) u.memNow pc hb
  refine ⟨(congrArg (0 + ·.debt) hbank).trans rfl, (congrArg Bank.acts hbank).trans rfl, (congrArg Bank.row hbank).trans hclosed⟩

/-- After a suppression every open bank is precharged (R257). -/
theorem msqRecoveryPrecharge_spec {s : State} {st : Nat} (hst : st < 4) (hhalted : (s.ms st).halted = true) :
    ∃ t, exec (.msqRecoveryPrecharge st) s = .next t ∧ onlyMsq s t st ∧
      ∀ pc b, pc < 64 → b < 48 → ((t.ms st).bank pc b).row = none ∧ (t.ms st).debtOf pc b = (s.ms st).debtOf pc b := by
  have hexec : exec (.msqRecoveryPrecharge st) s = .next (s.setMs st ((s.ms st).closeAll ((s.ms st).haltAt + 1))) := by
    rw [show exec (.msqRecoveryPrecharge st) s = execMsqRecoveryPrecharge st s from rfl, execMsqRecoveryPrecharge, if_pos hst, State.updMs,
      if_pos hhalted]
  refine ⟨_, hexec, onlyMsq_setMs .., fun pc b _ hb => ?_⟩
  rw [State.ms_setMs]
  exact ⟨row_closeAll _ _ pc hb, debtOf_closeAll _ _ pc hb⟩

theorem hbmTempRead_spec {s : State} {st temp die : Nat} (hst : st < 4) (htemp : temp < 256) (hdie : die < 16) :
    ∃ t, exec (.hbmTempRead st temp die) s = .next t ∧ onlyMsqTime s t (s.beat (beatTemp st) (1000000 * ns)) st ∧
      field (t.ms st).temp 0 8 = temp ∧ field (t.ms st).temp 8 4 = die ∧ bit (t.ms st).temp 12 = true ∧
      (t.ms st).hot = decide (85 ≤ temp) := by
  have hexec : exec (.hbmTempRead st temp die) s = .next ((s.beat (beatTemp st) (1000000 * ns)).updMs st
      (fun m => { m with temp := orAll [at_ temp 0 8, at_ die 8 4, flag true 12], hot := decide (85 ≤ temp) })) := by
    rw [show exec (.hbmTempRead st temp die) s = execHbmTempRead st temp die s from rfl, execHbmTempRead, if_pos hst]
  obtain ⟨htemp, hdie, hvalid⟩ := tempReg_fields htemp hdie
  refine ⟨_, hexec, onlyMsqTime_updMs (beat_tim_frame ..) st _, ?_⟩
  rw [State.ms_updMs]
  exact ⟨htemp, hdie, hvalid, rfl⟩

/-- Settles O19: the suppression of a wrong word, and each command of the refresh duty by what it leaves in its sequencer. -/
theorem memoryFaultsAndUpkeep : Obligations.MemoryFaultsAndUpkeep := by
  refine ⟨fun s st delta pc bank row _ => ?_, fun s st hst => ?_⟩
  case refine_1 =>
    intro j m hrun hforced i c hi hwf hwrong
    obtain ⟨row, hexec⟩ := exec_word_of_bank hi s
    obtain ⟨kind, param, hsome, hnext⟩ := suppressed_of_wrong hexec hwf ((halted_paid ..).symm.trans hrun) hforced hwrong
    obtain ⟨hraised, hframe⟩ := suppressed_fault s st kind pc bank param delta
    have hms := ms_suppressed s st kind pc bank param delta
    refine ⟨_, hnext, congrArg Msq.halted hms, congrArg Msq.faulted hms, congrArg Msq.cnt hms, fun kind' param' hkind => ?_,
      fun p b => by rw [hms]; rfl, hraised, fun x hx => ms_suppressed_ne s kind pc bank param delta hx, hframe⟩
    obtain ⟨rfl, rfl⟩ := Prod.mk.inj (Option.some.inj (hsome.symm.trans hkind))
    rw [hms]
    rfl
  case refine_2 =>
    refine ⟨refreshDebtIncrease_spec hst, msqAutoRefresh_spec hst, msqRecoveryPrecharge_spec hst, fun pc b hpc hb hrun hdebt howed => ?_,
      fun pc b j0 j _ hb howed => ⟨fun hearly => ?_, fun hclosed hdue => ?_⟩, fun temp die htemp hdie => hbmTempRead_spec hst htemp hdie⟩
    case refine_1 =>
      intro j isOpen
      have hms := ms_forcedBegun s st pc b
      obtain ⟨hraised, hframe⟩ := forcedBegun_fault s st pc b
      refine ⟨_, exec_forcedRefresh_of_due hst hpc hb hrun hdebt howed, ?_, by rw [hms], ?_, hraised, hframe, fun hclosed hnow => ?_,
        fun hopen hnow => ?_, fun hearly => ?_⟩
      · rw [hms]
        exact forced_beginForced ..
      · rw [hms, ← cnt_beginForced (s.ms st) pc b]
      · rw [hms]
        exact beginForced_of_closed hb howed hrun hdebt hclosed hnow
      · rw [hms]
        exact beginForced_of_open hb howed hopen hnow
      · rw [hms]
        exact beginForced_of_early hb howed hearly
    case refine_2 =>
      rw [paid_of_owesOne howed]
      exact payUntil_of_early 2 hb howed hearly
    case refine_3 =>
      rw [paid_of_owesOne howed]
      exact payUntil_of_closed 1 hb howed hclosed hdue

end Sys2Proof.Machine

/-! ### What lasts without power, rails and feeds (O56) -/

namespace Sys2Proof.Machine

/-! #### Updates cut short, and what lasts (R433, R489) -/

/-- What a command that runs leaves of the flash slots, and the next free value, when it is cut short. -/
def cutSlot (x : Sec × Nat) (i : Instr) : Sec × Nat :=
  match i with
  | .fwUpdate _ _ _ len =>
    let slot := 1 - x.1.slot
    (x.1.putSlot slot ((range' x.2 len).map Config.freeByte ++ (x.1.slotImage slot).drop len), x.2 + len)
  | _ => x

theorem halfWritten_eq (s : State) (i : Instr) :
    s.halfWritten i = { s with sec := (cutSlot (s.sec, s.freeCtr) i).1, freeCtr := (cutSlot (s.sec, s.freeCtr) i).2 } := by
  rw [State.halfWritten.eq_def]
  split
  case h_1 => rfl
  case h_2 hother => rw [cutSlot.eq_2 _ _ hother]

/-- The flash slots and the next free value once every command of a list is cut short. -/
def cutSlots (l : List RunCmd) (x : Sec × Nat) : Sec × Nat := l.foldl (fun x r => cutSlot x r.cmd) x

theorem cutSlots_cons (r : RunCmd) (l : List RunCmd) (x : Sec × Nat) : cutSlots (r :: l) x = cutSlots l (cutSlot x r.cmd) := rfl

/-- What is cut short shows in the flash slots and the free values, and depends on nothing else but the commands that run. -/
theorem cutUpdates_eq (s : State) : s.cutUpdates =
    { s with sec := (cutSlots s.hst.running (s.sec, s.freeCtr)).1, freeCtr := (cutSlots s.hst.running (s.sec, s.freeCtr)).2 } := by
  rw [State.cutUpdates]
  generalize s.hst.running = l
  induction l generalizing s with
  | nil => rfl
  | cons r l ih => rw [List.foldl_cons, ih, halfWritten_eq, cutSlots_cons]

theorem cutUpdates_congr {s t : State} (hrun : t.hst.running = s.hst.running) (hsec : t.sec = s.sec) (hfree : t.freeCtr = s.freeCtr) :
    t.cutUpdates.sec = s.cutUpdates.sec ∧ t.cutUpdates.freeCtr = s.cutUpdates.freeCtr := by
  rw [cutUpdates_eq t, cutUpdates_eq s, hrun, hsec, hfree]
  exact ⟨rfl, rfl⟩

theorem putSlot_eq (x : Sec) (slot : Nat) (img : List Byte) :
    x.putSlot slot img = { x with slotA := (x.putSlot slot img).slotA, slotB := (x.putSlot slot img).slotB } := by
  rw [Sec.putSlot]
  split <;> rfl

theorem cutSlot_eq (x : Sec × Nat) (i : Instr) : (cutSlot x i).1 = { x.1 with slotA := (cutSlot x i).1.slotA, slotB := (cutSlot x i).1.slotB } := by
  rw [cutSlot.eq_def]
  split
  case h_1 => exact putSlot_eq ..
  case h_2 => rfl

theorem cutSlots_eq (l : List RunCmd) (x : Sec × Nat) :
    (cutSlots l x).1 = { x.1 with slotA := (cutSlots l x).1.slotA, slotB := (cutSlots l x).1.slotB } := by
  induction l generalizing x with
  | nil => rfl
  | cons r l ih => rw [cutSlots_cons, ih, cutSlot_eq]

/-- Of the security state only the flash slots change. -/
theorem sec_cutUpdates (s : State) : s.cutUpdates.sec = { s.sec with slotA := s.cutUpdates.sec.slotA, slotB := s.cutUpdates.sec.slotB } := by
  rw [cutUpdates_eq]
  exact cutSlots_eq ..

@[simp] theorem fuses_cutUpdates (s : State) : s.cutUpdates.sec.fuses = s.sec.fuses := by rw [sec_cutUpdates]
@[simp] theorem boot_cutUpdates (s : State) : s.cutUpdates.sec.boot = s.sec.boot := by rw [sec_cutUpdates]

theorem cutUpdates_frame (s : State) : s.cutUpdates = { s with sec := s.cutUpdates.sec, freeCtr := s.cutUpdates.freeCtr } := by rw [cutUpdates_eq]

/-- What lasts of the journal and of the boot records. -/
theorem lasting_flash (s : State) : s.lasting.cfg.bankA = s.cfg.bankA ∧ s.lasting.cfg.bankB = s.cfg.bankB ∧ s.lasting.sec.boot = s.sec.boot ∧
    s.lasting.sec.fuses = s.sec.fuses ∧ s.lasting.sec.slotA = s.cutUpdates.sec.slotA ∧ s.lasting.sec.slotB = s.cutUpdates.sec.slotB ∧
    s.lasting.freeCtr = s.cutUpdates.freeCtr := by
  have hcfg : s.cutUpdates.cfg = s.cfg := by rw [cutUpdates_eq]
  exact ⟨(congrArg Cfg.bankA hcfg :), (congrArg Cfg.bankB hcfg :), boot_cutUpdates s, fuses_cutUpdates s, rfl, rfl, rfl⟩

/-- A record written at this very moment is cut in the active bank and among the boot records, and nothing else. -/
theorem cutAppend_eq (b s : State) :
    b.cutAppend s = { b with freeCtr := (b.cutAppend s).freeCtr, cfg := (b.cutAppend s).cfg, sec := { b.sec with boot := (b.cutAppend s).sec.boot } } := by
  rw [State.cutAppend]
  dsimp only
  cases s.writesNow s.sec.bootAt
  case false => split <;> rfl
  case true =>
    rw [Bool.or_true]
    rfl

theorem banks_cutAppend (b s : State) :
    (s.cfg.appAt ≠ some s.tim.now.toNat → (b.cutAppend s).cfg.bankA = b.cfg.bankA ∧ (b.cutAppend s).cfg.bankB = b.cfg.bankB) ∧
      (s.cfg.appAt = some s.tim.now.toNat → s.cfg.active = false →
        (b.cutAppend s).cfg.bankA = { b.cfg.bankA with cells := cutLast b.cfg.bankA.cells (Config.cutAt b.freeCtr) } ∧
          (b.cutAppend s).cfg.bankB = b.cfg.bankB) := by
  rw [State.cutAppend]
  dsimp only
  refine ⟨fun happ => ?_, fun happ hactive => ?_⟩
  · have hnow : s.writesNow s.cfg.appAt = false := beq_false_of_ne happ
    rw [hnow]
    split <;> exact ⟨rfl, rfl⟩
  · have hnow : s.writesNow s.cfg.appAt = true := beq_iff_eq.mpr happ
    rw [hnow, hactive]
    exact ⟨rfl, rfl⟩

theorem boot_cutAppend (b s : State) :
    (s.sec.bootAt ≠ some s.tim.now.toNat → (b.cutAppend s).sec.boot = b.sec.boot) ∧
      (s.sec.bootAt = some s.tim.now.toNat → (b.cutAppend s).sec.boot = cutLast b.sec.boot (Config.cutAt b.freeCtr)) := by
  rw [State.cutAppend]
  dsimp only
  refine ⟨fun hboot => ?_, fun hboot => ?_⟩
  · have hnow : s.writesNow s.sec.bootAt = false := beq_false_of_ne hboot
    rw [hnow]
    split <;> rfl
  · have hnow : s.writesNow s.sec.bootAt = true := beq_iff_eq.mpr hboot
    rw [hnow, Bool.or_true]
    rfl

/-! #### Power goes and comes (R471, R473, R474) -/

/-- What stands without power. -/
theorem powerOff_spec (s : State) : s.powerOff.rst.stage = .off ∧ s.powerOff.pwr.rails = [] ∧ s.powerOff.pwr.good = false ∧
    s.powerOff.mem = State.reset.mem ∧ s.powerOff.sec.slotA = s.cutUpdates.sec.slotA ∧ s.powerOff.sec.fuses = s.sec.fuses := by
  obtain ⟨-, -, -, hfuses, hslot, -⟩ := lasting_flash s
  refine ⟨rfl, rfl, rfl, ?_, ?_, ?_⟩
  · exact (congrArg State.mem (cutAppend_eq s.lasting s)).trans rfl
  · exact (congrArg (fun t => t.sec.slotA) (cutAppend_eq s.lasting s)).trans hslot
  · exact (congrArg (fun t => t.sec.fuses) (cutAppend_eq s.lasting s)).trans hfuses

/-- Power goes a moment after, or with other power state: the flash slots are cut short alike. -/
theorem powerOff_of {s u : State} (hrun : u.hst.running = s.hst.running) (hsec : u.sec = s.sec) (hfree : u.freeCtr = s.freeCtr) :
    u.powerOff.rst.stage = .off ∧ u.powerOff.pwr.rails = [] ∧ u.powerOff.sec.slotA = s.cutUpdates.sec.slotA ∧ u.powerOff.sec.fuses = s.sec.fuses := by
  obtain ⟨hstage, hrails, -, -, hslot, hfuses⟩ := powerOff_spec u
  exact ⟨hstage, hrails, by rw [hslot, (cutUpdates_congr hrun hsec hfree).1], by rw [hfuses, hsec]⟩

/-- Only the board controller's hold of the flash may change. -/
theorem joinFlash_eq (s : State) : s.joinFlash = { s with pins := { s.pins with flashOut := s.joinFlash.pins.flashOut } } := by
  rw [State.joinFlash]
  split <;> rfl

theorem coldStart_spec (s : State) : s.coldStart.rst.stage = .inReset ∧ s.coldStart.pwr.rails = [] ∧ s.coldStart.pwr.good = true ∧
    s.coldStart.pwr.open_ = false ∧ s.coldStart.pwr.feedA = s.pwr.feedA ∧ s.coldStart.pwr.feedB = s.pwr.feedB ∧
    s.coldStart.mem = State.reset.mem ∧ s.coldStart.sec.slotA = s.cutUpdates.sec.slotA ∧ s.coldStart.sec.fuses = s.sec.fuses ∧
    s.coldStart.cfg.bankA = s.cfg.bankA := by
  obtain ⟨hbankA, -, -, hfuses, hslot, -⟩ := lasting_flash s
  have hpwr : s.cutUpdates.pwr = s.pwr := by rw [cutUpdates_eq]
  rw [State.coldStart, joinFlash_eq]
  exact ⟨rfl, rfl, rfl, rfl, (congrArg Pwr.feedA hpwr :), (congrArg Pwr.feedB hpwr :), rfl, hslot, hfuses, hbankA⟩

end Sys2Proof.Machine

namespace Sys2Proof.Machine

/-! #### Rails that start (R473) -/

theorem mem_railOrder (r : Rail) : r ∈ railOrder := by cases r <;> decide

/-- A rail starts once every rail whose turn comes before its own is good. -/
theorem railStarts_iff {s : State} {r : Rail} (hstage : s.rst.stage = .inReset) (hoff : s.pwr.computeOff = false) :
    s.railStarts r = true ↔ r ∉ s.pwr.rails ∧ ∀ x, railTurn x < railTurn r → x ∈ s.pwr.rails := by
  simp only [State.railStarts, hstage, hoff, beq_self_eq_true, Bool.false_and, Bool.not_false, Bool.true_and, Bool.and_eq_true, Bool.not_eq_true',
    List.contains_eq_mem, decide_eq_false_iff_not, List.all_eq_true, Bool.or_eq_true, decide_eq_true_eq]
  refine and_congr_right fun _ => ⟨fun h x hx => (h x (mem_railOrder x)).resolve_right (by omega), fun h x _ => ?_⟩
  by_cases hx : railTurn x < railTurn r
  · exact .inl (h x hx)
  · exact .inr (by omega)

theorem railStarts_of_missing {s : State} {r x : Rail} (hturn : railTurn x < railTurn r) (hx : x ∉ s.pwr.rails) : s.railStarts r = false := by
  have hall : railOrder.all (fun x => s.pwr.rails.contains x || decide (railTurn r ≤ railTurn x)) = false := by
    rw [List.all_eq_false]
    exact ⟨x, mem_railOrder x, by simp [hx, hturn]⟩
  rw [State.railStarts, hall, Bool.and_false]

theorem tollPowered_iff (s : State) : s.tollPowered = true ↔ ∀ r ∈ tollRails, r ∈ s.pwr.rails := by
  simp [State.tollPowered, List.all_eq_true, List.contains_eq_mem]

/-- The state once rail `r` is good. -/
def State.railUp (s : State) (r : Rail) : State := s.updPwr (fun p => { p with rails := p.rails ++ [r], railAt := s.tim.now.toNat })

theorem exec_railGood_of_starts {s : State} {r : Rail} (h : s.railStarts r = true) :
    exec (.railGood r) s = .next (if (s.railUp r).tollPowered && !s.tollPowered then (s.railUp r).feedsAtStart else s.railUp r).ibi :=
  if_pos h

/-- The rail before which the flash rail completes the tollhouse rails. -/
theorem tollPowered_railUp_flash {s : State} (hbefore : ∀ x, railTurn x < railTurn .tollFlash → x ∈ s.pwr.rails) :
    (s.railUp .tollFlash).tollPowered = true := by
  refine (tollPowered_iff _).mpr fun x hx => ?_
  by_cases hflash : x = .tollFlash
  · exact List.mem_append_right _ (by rw [hflash]; exact List.mem_singleton_self _)
  · refine List.mem_append_left _ (hbefore x ?_)
    simp only [tollRails, List.mem_cons, List.not_mem_nil, or_false] at hx
    rcases hx with rfl | rfl | rfl | rfl
    · decide
    · decide
    · decide
    · exact absurd rfl hflash

/-! #### Power faults and feeds (R470, R483) -/

theorem bit_or (v w : Reg) (i : Nat) : bit (v ||| w) i = (bit v i || bit w i) := BitVec.getLsbD_or

theorem bit_orAll (l : List Reg) (i : Nat) : bit (orAll l) i = l.any (bit · i) := by
  have hfold : ∀ (l : List Reg) (v : Reg), bit (l.foldl (· ||| ·) v) i = (bit v i || l.any (bit · i)) := fun l => by
    induction l with
    | nil => exact fun v => (Bool.or_false _).symm
    | cons w r ih => exact fun v => by rw [List.foldl_cons, ih, bit_or, List.any_cons, Bool.or_assoc]
  have hzero : bit 0 i = false := by simp [bit]
  rw [orAll, hfold, hzero, Bool.false_or]

/-- The first power fault is logged, and the log holds one. -/
theorem pwrLog_spec (s : State) (code kind rail : Nat) : (s.pwrLog code kind rail) = { s with pwr := { s.pwr with log := (s.pwrLog code kind rail).pwr.log } } ∧
    bit (s.pwrLog code kind rail).pwr.log 23 = true := by
  rw [State.pwrLog, State.updPwr_pwr, State.updPwr]
  split
  case isTrue h => exact ⟨rfl, h⟩
  case isFalse =>
    refine ⟨rfl, ?_⟩
    have hflag : bit (flag true 23) 23 = true := by decide
    simp [bit_orAll, hflag]

/-- A power fault is logged and raised. -/
theorem pwrFault_spec (s : State) (code : BitVec 16) (src kind rail : Nat) :
    let t := s.pwrFault code src kind rail
    raisedOne s t code src ∧ bit t.pwr.log 23 = true ∧ t = { s with pwr := { s.pwr with log := t.pwr.log }, flt := t.flt } := by
  obtain ⟨hframe, hlog⟩ := pwrLog_spec s code.toNat kind rail
  have hflt : (s.pwrLog code.toNat kind rail).flt = s.flt := by rw [hframe]
  refine ⟨raisedOne_raise_detail hflt .., hlog, ?_⟩
  have hraise : s.pwrFault code src kind rail =
      { s.pwrLog code.toNat kind rail with flt := (s.pwrFault code src kind rail).flt } := rfl
  rw [hframe] at hraise
  exact hraise

theorem feedRecord_spec (s : State) : raisedOne s s.feedRecord 0x5004 srcReg ∧
    s.feedRecord = { s with pwr := { s.pwr with cnt := satInc s.pwr.cnt 32 16 1, log := s.feedRecord.pwr.log }, flt := s.feedRecord.flt } := by
  obtain ⟨hraised, -, hframe⟩ := pwrFault_spec s.countFeed 0x5004 srcReg 0 0
  exact ⟨raisedOne_of_flt_eq rfl hraised, hframe⟩

theorem feedsAtStart_of_none {s : State} (ha : s.pwr.feedRevA = false) (hb : s.pwr.feedRevB = false) : s.feedsAtStart = s := by
  rw [State.feedsAtStart]
  simp [ha, hb]

theorem feedsAtStart_of_a {s : State} (ha : s.pwr.feedRevA = true) (hb : s.pwr.feedB = true) : s.feedsAtStart = s.feedRecord := by
  rw [State.feedsAtStart]
  simp [ha, hb]

/-- A feed's state is that of the feed alone. -/
theorem setFeed_spec (s : State) (f : Feed) (good rev : Bool) :
    (f = .a → (s.setFeed f good rev).pwr = { s.pwr with feedA := good, feedRevA := rev }) ∧
      (f = .b → (s.setFeed f good rev).pwr = { s.pwr with feedB := good, feedRevB := rev }) ∧
      s.setFeed f good rev = { s with pwr := (s.setFeed f good rev).pwr } ∧ (s.setFeed f good rev).tollPowered = s.tollPowered := by
  cases f
  case a => exact ⟨fun _ => rfl, nofun, rfl, rfl⟩
  case b => exact ⟨nofun, fun _ => rfl, rfl, rfl⟩

theorem setFeed_frame (s : State) (f : Feed) (good rev : Bool) : s.setFeed f good rev = { s with pwr := (s.setFeed f good rev).pwr } := rfl
theorem cnt_setFeed (s : State) (f : Feed) (good rev : Bool) : (s.setFeed f good rev).pwr.cnt = s.pwr.cnt := by cases f <;> rfl

/-! #### The compute die without its rails (R472, R480) -/

theorem Tbl.get_map_key {α : Type} (d : α) (l : List Nat) (f : Nat → α) (k : Nat) :
    Tbl.get d (l.map fun i => (i, f i)) k = if k ∈ l then f k else d := by
  induction l with
  | nil => rfl
  | cons i r ih =>
    rw [List.map_cons, Tbl.get, ih]
    by_cases h : k = i
    · simp [h]
    · simp [h]

theorem forEach_fixed {s : State} {l : List Nat} {f : State → Nat → State} (h : ∀ x ∈ l, f s x = s) : forEach s l f = s := by
  rw [forEach]
  induction l with
  | nil => rfl
  | cons x r ih =>
    rw [List.forall_mem_cons] at h
    rw [List.foldl_cons, h.1, ih h.2]

/-- The state once the compute-die rails are removed, before UCIe goes down. -/
def State.computeGone (s : State) : State :=
  { s with
    clusters := [], msq := [], landing := [], mesh := [], upsets := [], pts := []
    spans := (List.range 114).map (fun p => (p, { silent := true }))
    cxl := { s.cxl with linkUp := false, width := 0, speed := 0, sbuf := [] }
    pwr := { s.pwr with rails := s.pwr.rails.filter tollRails.contains, computeOff := true, settling := false } }

/-- With every link down, what is removed besides is UCIe. -/
theorem removeCompute_of_down {s : State} (h : ∀ p, p < 6 → (s.port p).st = 0) :
    s.removeCompute = (s.computeGone.setUcie false false).setUcie true false := by
  have hlinks : forEach s.computeGone (List.range 6) (fun s p => if (s.port p).st = 0 then s else s.linkDown p true) = s.computeGone :=
    forEach_fixed fun p hp => if_pos (h p (List.mem_range.mp hp))
  exact congrArg (fun u => (u.setUcie false false).setUcie true false) hlinks

theorem setUcie_frame (s : State) (m up : Bool) :
    s.setUcie m up = { s with ucie := (s.setUcie m up).ucie, tim := (s.setUcie m up).tim, hst := (s.setUcie m up).hst } := by
  rw [State.setUcie]
  dsimp only
  split
  case isTrue =>
    rw [timeEvent_frame]
    rfl
  case isFalse => rfl

theorem ucie_setUcie (s : State) (m up : Bool) : (s.setUcie m up).ucie =
    Ucie.settle (if m then { s.ucie with up1 := up } else { s.ucie with up0 := up }) s.tim.now.toNat := by
  rw [State.setUcie]
  dsimp only
  split
  case isTrue => rw [timeEvent_frame]; rfl
  case isFalse => rfl

/-- What the removal leaves, with every link down. -/
theorem removeCompute_spec {s : State} (h : ∀ p, p < 6 → (s.port p).st = 0) :
    let t := s.removeCompute
    t.ucie.up0 = false ∧ t.ucie.up1 = false ∧ t = { s.computeGone with ucie := t.ucie, tim := t.tim, hst := t.hst } := by
  dsimp only
  rw [removeCompute_of_down h]
  refine ⟨?_, ?_, ?_⟩
  · rw [ucie_setUcie, ucie_setUcie]
    rfl
  · rw [ucie_setUcie]
    rfl
  · rw [setUcie_frame, setUcie_frame s.computeGone]

end Sys2Proof.Machine

namespace Sys2Proof.Machine

theorem faultN_of_tollBad {s : State} (h : s.pwr.tollBad = true) : s.faultN = false := by simp [State.faultN, h]

/-- A rail of the removed compute die does not come (R480). -/
theorem exec_railGood_of_removed {s : State} {r : Rail} (hoff : s.pwr.computeOff = true) (hr : r ∉ tollRails) : exec (.railGood r) s = .next s := by
  have hcontains : tollRails.contains r = false := by simpa using hr
  have hstarts : s.railStarts r = false := by simp [State.railStarts, hoff, hr]
  refine (if_neg (by simp [hstarts])).trans (if_neg ?_)
  simp [hr]

/-- What a power fault leaves that removes the compute-die rails (R472, R480), with every link down; `u` is the state in which it is found. -/
theorem railFault_spec {s u : State} (hu : u = { s with pwr := u.pwr }) (hports : ∀ p, p < 6 → (s.port p).st = 0) (kind rail : Nat) :
    let t := u.railFault kind rail
    raisedOne s t 0x5005 srcReg ∧ t.pwr.computeOff = true ∧ bit t.pwr.log 23 = true ∧ t.pwr.rails = u.pwr.rails.filter tollRails.contains ∧
      (u.pwr.tollBad = true → t.faultN = false) ∧ (∀ r, r ∉ tollRails → exec (.railGood r) t = .next t) ∧
      (∀ p, p < 114 → (t.spn p).silent = true) ∧ t.clusters = [] ∧ t.cxl.linkUp = false ∧ t.ucie.up0 = false ∧ t.ucie.up1 = false ∧
      t = { s with spans := t.spans, clusters := t.clusters, msq := t.msq, landing := t.landing, mesh := t.mesh, upsets := t.upsets, pts := t.pts, cxl := t.cxl, pwr := t.pwr, pins := t.pins, ucie := t.ucie, tim := t.tim, hst := t.hst, flt := t.flt } := by
  obtain ⟨hraised, hlog, hfault⟩ := pwrFault_spec u 0x5005 srcReg kind rail
  generalize hv : u.pwrFault 0x5005 srcReg kind rail = v at hraised hlog hfault
  have hdown : ∀ p, p < 6 → (v.port p).st = 0 := fun p hp => by
    rw [hfault, hu]
    exact hports p hp
  obtain ⟨hup0, hup1, hgone⟩ := removeCompute_spec hdown
  have ht : u.railFault kind rail = v.removeCompute.ibi := by rw [State.railFault, hv]
  have hpins := ibi_frame v.removeCompute
  rw [ht]
  generalize v.removeCompute.ibi = t at hpins ⊢
  generalize v.removeCompute = w at hup0 hup1 hgone hpins
  have hflt : t.flt = v.flt := by rw [hpins, hgone]; rfl
  have hpwr : t.pwr = { u.pwr with log := v.pwr.log, rails := u.pwr.rails.filter tollRails.contains, computeOff := true, settling := false } := by
    rw [hpins, hgone, State.computeGone, congrArg State.pwr hfault]
  have hspans : t.spans = (List.range 114).map (fun p => (p, { silent := true })) := by rw [hpins, hgone]; rfl
  refine ⟨?_, by rw [hpwr], by rw [hpwr]; exact hlog, by rw [hpwr], fun hbad => faultN_of_tollBad (by rw [hpwr]; exact hbad),
    fun r hr => exec_railGood_of_removed (by rw [hpwr]) hr, fun p hp => ?_, by rw [hpins, hgone]; rfl, by rw [hpins, hgone]; rfl,
    by rw [hpins]; exact hup0, by rw [hpins]; exact hup1, ?_⟩
  · have hsame : u.flt = s.flt := by rw [hu]
    rwa [raisedOne, hflt, ← hsame]
  · rw [State.spn, hspans, Tbl.get_map_key, if_pos (List.mem_range.mpr hp)]
  · have hkept : v = { s with pwr := v.pwr, flt := v.flt } := by
      have hold : ∀ p f, { u with pwr := p, flt := f } = { s with pwr := p, flt := f } := fun p f => by rw [hu]
      exact (show v = { u with pwr := v.pwr, flt := v.flt } by rw [hfault]).trans (hold _ _)
    rw [hpins, hgone, State.computeGone, hkept]

theorem selfRefreshAll_of_up {s : State} (hoff : s.pwr.computeOff = false) (hup : s.rst.dieUp = true) :
    s.selfRefreshAll = forEach s (List.range 4) (fun s st => s.updMs st Msq.selfRefresh) := by
  rw [State.selfRefreshAll, hoff, hup]
  rfl

theorem selfRefreshAll_frame (s : State) : s.selfRefreshAll = { s with msq := s.selfRefreshAll.msq } := by
  have hframe : ∀ (l : List Nat) (s : State), forEach s l (fun s st => s.updMs st Msq.selfRefresh) =
      { s with msq := (forEach s l (fun s st => s.updMs st Msq.selfRefresh)).msq } := fun l => by
    induction l with
    | nil => exact fun _ => rfl
    | cons x r ih => exact fun s => (ih (s.updMs x Msq.selfRefresh)).trans rfl
  rw [State.selfRefreshAll]
  split
  case isTrue => rfl
  case isFalse => exact hframe _ _

/-- Every stack that a command for each stack reaches once ends as the command leaves it. -/
theorem ms_forEach_updMs (f : Msq → Msq) {l : List Nat} (hnd : l.Nodup) (s : State) (x : Nat) :
    (forEach s l (fun s st => s.updMs st f)).ms x = if x ∈ l then f (s.ms x) else s.ms x := by
  rw [forEach]
  induction l generalizing s with
  | nil => rfl
  | cons y r ih =>
    obtain ⟨hy, hr⟩ := List.nodup_cons.mp hnd
    rw [List.foldl_cons, ih hr]
    by_cases hx : x = y
    · simp [hx, hy]
    · simp [hx]

theorem ms_selfRefreshAll {s : State} (hoff : s.pwr.computeOff = false) (hup : s.rst.dieUp = true) {st : Nat} (hst : st < 4) :
    s.selfRefreshAll.ms st = (s.ms st).selfRefresh := by
  rw [selfRefreshAll_of_up hoff hup, ms_forEach_updMs _ List.nodup_range, if_pos (List.mem_range.mpr hst)]

/-- An undervoltage takes the stacks to self-refresh and leaves the module unusable (R268, R471). -/
theorem undervoltage_spec {s : State} (htoll : s.tollPowered = true) (hoff : s.pwr.computeOff = false) (hup : s.rst.dieUp = true) :
    ∃ t, exec .undervoltage s = .next t ∧ raisedOne s t 0x5003 srcReg ∧ t.unusable = true ∧
        (∀ st, st < 4 → (t.ms st).selfRef = true) ∧ t = { s with msq := t.msq, pwr := { s.pwr with log := t.pwr.log, dead := true }, flt := t.flt } := by
  have hfresh := selfRefreshAll_frame s
  have hms : ∀ st, st < 4 → (s.selfRefreshAll.ms st).selfRef = true := fun st hst => by rw [ms_selfRefreshAll hoff hup hst]; rfl
  have hexec : exec .undervoltage s = .next ((s.selfRefreshAll.updPwr (fun p => { p with dead := true })).pwrFault 0x5003 srcReg) := if_pos htoll
  generalize s.selfRefreshAll = u at hfresh hms hexec
  obtain ⟨hraised, -, hframe⟩ := pwrFault_spec (u.updPwr (fun p => { p with dead := true })) 0x5003 srcReg 0 0
  refine ⟨_, hexec, raisedOne_of_flt_eq (by rw [hfresh]; rfl) hraised, ?_, fun st hst => ?_, ?_⟩
  · rw [State.unusable, hframe]
    exact Bool.or_true _
  · rw [hframe]
    exact hms st hst
  · rw [hframe, State.updPwr, hfresh]

end Sys2Proof.Machine

namespace Sys2Proof.Machine

/-! #### Input and rails -/

/-- A good input starts the regulator stage from nothing (R471, R473). -/
theorem inputGood_spec {s : State} (fa fb : Bool) (hstage : s.rst.stage = .off) (hen : s.pins.pwrEnN = false) (hopen : s.pwr.open_ = false) :
    ∃ t, exec (.inputGood fa fb) s = .next t ∧ t.rst.stage = .inReset ∧ t.pwr.rails = [] ∧ t.pwr.good = true ∧ t.pwr.feedA = fa ∧
      t.pwr.feedB = fb ∧ t.mem = State.reset.mem ∧ t.sec.slotA = s.cutUpdates.sec.slotA ∧ t.sec.fuses = s.sec.fuses ∧ t.cfg.bankA = s.cfg.bankA := by
  let u := s.updPwr (fun p => { p with feedA := fa, feedB := fb })
  have hexec : exec (.inputGood fa fb) s = .next u.coldStart := if_neg (by simp [State.powered, hstage, hen, hopen])
  obtain ⟨hst, hrails, hgood, -, ha, hb, hmem, hslot, hfuses, hbank⟩ := coldStart_spec u
  have hcut : u.cutUpdates.sec = s.cutUpdates.sec := (cutUpdates_congr (s := s) (t := u) rfl rfl rfl).1
  exact ⟨_, hexec, hst, hrails, hgood, ha, hb, hmem, by rw [hslot, hcut], hfuses, hbank⟩

section
variable {s : State} {r : Rail}

/-- A rail in its turn, with no feed reversed (R473). -/
theorem railGood_spec (hstarts : s.railStarts r = true) (ha : s.pwr.feedRevA = false) (hb : s.pwr.feedRevB = false) :
    ∃ t, exec (.railGood r) s = .next t ∧ t.pwr = { s.pwr with rails := s.pwr.rails ++ [r], railAt := s.tim.now.toNat } ∧
      t = { s with pwr := t.pwr, pins := t.pins } := by
  have hfeeds : (s.railUp r).feedsAtStart = s.railUp r := feedsAtStart_of_none ha hb
  refine ⟨_, exec_railGood_of_starts hstarts, ?_⟩
  rw [hfeeds, ite_self, ibi_frame]
  exact ⟨rfl, rfl⟩

/-- The last of the tollhouse rails, with feed A reversed beside a good B (R470). -/
theorem railGood_flash_spec (hstarts : s.railStarts .tollFlash = true) (hnew : Rail.tollFlash ∉ s.pwr.rails)
    (hbefore : ∀ x, railTurn x < railTurn .tollFlash → x ∈ s.pwr.rails) (ha : s.pwr.feedRevA = true) (hb : s.pwr.feedB = true) :
    ∃ t, exec (.railGood .tollFlash) s = .next t ∧ raisedOne s t 0x5004 srcReg ∧ t.pwr.rails = s.pwr.rails ++ [.tollFlash] ∧
      t.pwr.cnt = satInc s.pwr.cnt 32 16 1 ∧ t = { s with pwr := t.pwr, flt := t.flt, pins := t.pins } := by
  have hfeeds : (s.railUp .tollFlash).feedsAtStart = (s.railUp .tollFlash).feedRecord := feedsAtStart_of_a ha hb
  have hwas : s.tollPowered = false := by
    rw [Bool.eq_false_iff]
    exact fun h => hnew ((tollPowered_iff s).mp h .tollFlash (by decide))
  have hexec : exec (.railGood .tollFlash) s = .next (s.railUp .tollFlash).feedRecord.ibi := by
    rw [exec_railGood_of_starts hstarts, hfeeds, tollPowered_railUp_flash hbefore, hwas]
    rfl
  obtain ⟨hraised, hframe⟩ := feedRecord_spec (s.railUp .tollFlash)
  refine ⟨_, hexec, ?_⟩
  rw [ibi_frame]
  generalize (s.railUp .tollFlash).feedRecord = u at hraised hframe
  refine ⟨raisedOne_of_flt_eq (u := s.railUp .tollFlash) rfl hraised, ?_, ?_, ?_⟩
  · rw [hframe]; rfl
  · rw [hframe]; rfl
  · rw [hframe]; rfl

/-- A rail that does not come in time leaves the module without power (R473). -/
theorem railStartTimeout_spec (hstarts : s.railStarts r = true) : ∃ t, exec (.railStartTimeout r) s = .next t ∧ t.rst.stage = .off ∧
    t.pwr.rails = [] ∧ t.sec.slotA = s.cutUpdates.sec.slotA ∧ t.sec.fuses = s.sec.fuses := by
  have hexec : exec (.railStartTimeout r) s = .next (s.advance (s.pwr.railAt + 1000000 * ns)).powerOff := if_pos hstarts
  exact ⟨_, hexec, powerOff_of (by simp) (by simp) (by simp)⟩

/-- A rail whose turn has not come does nothing (R473). -/
theorem exec_rail_of_not_starts (hstarts : s.railStarts r = false) (hr : r ∉ s.pwr.rails) :
    exec (.railGood r) s = .next s ∧ exec (.railStartTimeout r) s = .next s :=
  ⟨(if_neg (by simp [hstarts])).trans (if_neg (by simp [hr])), if_neg (by simp [hstarts])⟩

end

/-! #### Losses and feeds -/

theorem removesCompute_spec {s : State} (htoll : s.tollPowered = true) {c : Instr}
    (hc : c = .overcurrent ∨ (∃ r, r ∈ s.pwr.rails ∧ c = .railWindowFault r) ∨ (∃ h, s.pwr.computeOff = false ∧ c = .thermalTrip h)) :
    ∃ (u : State) (kind rail : Nat), u = { s with pwr := u.pwr } ∧ u.pwr.rails = s.pwr.rails ∧ (∀ r, r ∈ tollRails → c = .railWindowFault r → u.pwr.tollBad = true) ∧
      exec c s = .next (u.railFault kind rail) := by
  rcases hc with rfl | ⟨r, hr, rfl⟩ | ⟨h, hoff, rfl⟩
  · exact ⟨s, 2, 0, rfl, rfl, nofun, if_pos htoll⟩
  · refine ⟨s.updPwr (fun p => { p with tollBad := p.tollBad || tollRails.contains r }), 1, railRow r, rfl, rfl, fun x hx hcmd => ?_,
      if_pos (by simp [htoll, hr])⟩
    obtain rfl : r = x := Instr.railWindowFault.inj hcmd
    simp [hx]
  · exact ⟨s, if h then 4 else 3, 0, rfl, rfl, nofun, if_pos (by simp [htoll, hoff])⟩

theorem powerDown_spec {s : State} (hstage : s.rst.stage ≠ .off) : ∃ t, exec .powerDown s = .next t ∧ t.rst.stage = .off ∧ t.pwr.rails = [] ∧
    t.mem = State.reset.mem ∧ t.sec.fuses = s.sec.fuses ∧
    (s.cfg.appAt ≠ some s.tim.now.toNat → t.cfg.bankA = s.cfg.bankA ∧ t.cfg.bankB = s.cfg.bankB) ∧
    (s.cfg.appAt = some s.tim.now.toNat → s.cfg.active = false →
      t.cfg.bankA = { s.cfg.bankA with cells := cutLast s.cfg.bankA.cells (Config.cutAt s.cutUpdates.freeCtr) } ∧ t.cfg.bankB = s.cfg.bankB) ∧
    (s.sec.bootAt ≠ some s.tim.now.toNat → t.sec.boot = s.sec.boot) ∧
    (s.sec.bootAt = some s.tim.now.toNat → t.sec.boot = cutLast s.sec.boot (Config.cutAt s.cutUpdates.freeCtr)) := by
  have hexec : exec .powerDown s = .next s.powerOff := if_pos (by simpa [State.powered] using hstage)
  obtain ⟨hst, hrails, -, hmem, -, hfuses⟩ := powerOff_spec s
  obtain ⟨hbankA, hbankB, hboot, -, -, -, hfree⟩ := lasting_flash s
  have hbanks := banks_cutAppend s.lasting s
  have hboots := boot_cutAppend s.lasting s
  rw [hbankA, hbankB, hfree] at hbanks
  rw [hboot, hfree] at hboots
  exact ⟨_, hexec, hst, hrails, hmem, hfuses, hbanks.1, hbanks.2, hboots.1, hboots.2⟩

theorem overvoltage_spec (s : State) : ∃ t, exec .overvoltage s = .next t ∧ t.pwr.open_ = true ∧ t.pwr.good = false ∧
    (s.rst.stage ≠ .off → t.rst.stage = .off) ∧ (s.rst.stage = .off → t = { s with pwr := { s.pwr with open_ := true, good := false } }) := by
  refine ⟨_, rfl, rfl, rfl, fun hstage => ?_, fun hstage => ?_⟩
  · rw [if_pos (by simpa [State.powered] using hstage)]
    exact (powerOff_spec s).1
  · rw [if_neg (by simp [State.powered, hstage])]
    rfl

theorem overvoltageClear_spec {s : State} (hopen : s.pwr.open_ = true) : ∃ t, exec .overvoltageClear s = .next t ∧ t.pwr.open_ = false ∧
    (s.pins.pwrEnN = false → t.rst.stage = .inReset ∧ t.pwr.rails = []) ∧
    (s.pins.pwrEnN = true → t = { s with pwr := { s.pwr with open_ := false } }) := by
  let u := s.updPwr (fun p => { p with open_ := false })
  have hexec : exec .overvoltageClear s = .next (if s.pins.pwrEnN then u else u.coldStart) := if_pos hopen
  obtain ⟨hst, hrails, -, hclosed, -⟩ := coldStart_spec u
  refine ⟨_, hexec, ?_⟩
  cases s.pins.pwrEnN
  case false => exact ⟨hclosed, fun _ => ⟨hst, hrails⟩, nofun⟩
  case true => exact ⟨rfl, nofun, fun _ => rfl⟩

/-- A reversed feed with no other one takes every rail off (R470). -/
theorem feedReversed_alone_spec {s : State} (f : Feed) (hstage : s.rst.stage ≠ .off) : ∃ t, exec (.feedReversed f false) s = .next t ∧
    t.rst.stage = .off ∧ t.pwr.rails = [] ∧ t.sec.slotA = s.cutUpdates.sec.slotA := by
  obtain ⟨-, -, hframe, -⟩ := setFeed_spec s f false true
  have hexec : exec (.feedReversed f false) s = .next (s.setFeed f false true).powerOff := by
    refine (if_neg ?_).trans (if_pos rfl)
    rw [State.powered, hframe]
    simpa using hstage
  obtain ⟨hst, hrails, hslot, -⟩ := powerOff_of (s := s) (u := s.setFeed f false true) (by rw [hframe]) (by rw [hframe]) (by rw [hframe])
  exact ⟨_, hexec, hst, hrails, hslot⟩

/-- A feed reversed beside a good one. -/
theorem exec_feedReversed_beside {s : State} (f : Feed) (hstage : s.rst.stage ≠ .off) : exec (.feedReversed f true) s =
    .next (if s.tollPowered then (s.setFeed f false true).feedRecord.ibi else s.setFeed f false true) := by
  obtain ⟨-, -, hframe, htoll⟩ := setFeed_spec s f false true
  have hpow : (s.setFeed f false true).powered = true := by
    rw [State.powered, hframe]
    simpa using hstage
  have hexec : exec (.feedReversed f true) s = if (s.setFeed f false true).tollPowered then
      .next (s.setFeed f false true).feedRecord.ibi else .next (s.setFeed f false true) := (if_neg (by simp [hpow])).trans (if_neg (by simp))
  rw [hexec, htoll]
  split <;> rfl

/-- The reversal shows in PWR_STATUS (R470, R483). -/
theorem pwrStatus_reversed (s : State) (f : Feed) : bit (s.setFeed f false true).pwrStatus 2 = true := by
  have hflag : bit (flag true 2) 2 = true := by decide
  have hrev : ((s.setFeed f false true).pwr.feedRevA || (s.setFeed f false true).pwr.feedRevB) = true := by cases f <;> simp [State.setFeed]
  simp [State.pwrStatus, bit_orAll, hrev, hflag]

theorem feedReversed_beside_spec {s : State} (f : Feed) (hstage : s.rst.stage ≠ .off) (htoll : s.tollPowered = true) :
    ∃ t, exec (.feedReversed f true) s = .next t ∧ raisedOne s t 0x5004 srcReg ∧ t.pwr.cnt = satInc s.pwr.cnt 32 16 1 ∧
      (f = .a → t.pwr.feedRevA = true ∧ t.pwr.feedA = false) ∧ (f = .b → t.pwr.feedRevB = true ∧ t.pwr.feedB = false) ∧
      t = { s with pwr := t.pwr, flt := t.flt, pins := t.pins } := by
  obtain ⟨ha, hb, hset, -⟩ := setFeed_spec s f false true
  have hcnt := cnt_setFeed s f false true
  have hexec := exec_feedReversed_beside f hstage
  rw [if_pos htoll] at hexec
  generalize s.setFeed f false true = u at ha hb hset hcnt hexec
  obtain ⟨hraised, hframe⟩ := feedRecord_spec u
  refine ⟨_, hexec, ?_⟩
  rw [ibi_frame]
  generalize u.feedRecord = v at hraised hframe
  refine ⟨raisedOne_of_flt_eq (u := u) (by rw [hset]) hraised, by rw [hframe, hcnt], fun hf => ?_, fun hf => ?_, ?_⟩
  · rw [hframe, ha hf]
    exact ⟨rfl, rfl⟩
  · rw [hframe, hb hf]
    exact ⟨rfl, rfl⟩
  · rw [hframe, hset]

theorem feedLoss_spec {s : State} (f : Feed) (htoll : s.tollPowered = true) : ∃ t, exec (.feedLoss f) s = .next t ∧
    t.pwr.cnt = satInc s.pwr.cnt 32 16 1 ∧ (f = .a → t.pwr.feedA = false ∧ t.pwr.feedB = s.pwr.feedB) ∧
    (f = .b → t.pwr.feedB = false ∧ t.pwr.feedA = s.pwr.feedA) ∧ t = { s with pwr := t.pwr, pins := t.pins } := by
  cases f
  case a =>
    have hexec : exec (.feedLoss .a) s = .next (s.setFeed .a false s.pwr.feedRevA).countFeed.ibi := congrArg Host.Outcome.next (if_pos htoll)
    refine ⟨_, hexec, ?_⟩
    rw [ibi_frame]
    exact ⟨rfl, fun _ => ⟨rfl, rfl⟩, nofun, rfl⟩
  case b =>
    have hexec : exec (.feedLoss .b) s = .next (s.setFeed .b false s.pwr.feedRevB).countFeed.ibi := congrArg Host.Outcome.next (if_pos htoll)
    refine ⟨_, hexec, ?_⟩
    rw [ibi_frame]
    exact ⟨rfl, nofun, fun _ => ⟨rfl, rfl⟩, rfl⟩

theorem feedReturn_spec (s : State) (f : Feed) : ∃ t, exec (.feedReturn f) s = .next t ∧ (f = .a → t.pwr.feedA = true ∧ t.pwr.feedRevA = false) ∧
    (f = .b → t.pwr.feedB = true ∧ t.pwr.feedRevB = false) ∧ t = { s with pwr := t.pwr, pins := t.pins } := by
  obtain ⟨ha, hb, hset, -⟩ := setFeed_spec s f true false
  refine ⟨_, rfl, ?_⟩
  generalize s.setFeed f true false = u at ha hb hset
  rw [ibi_frame]
  refine ⟨fun hf => ?_, fun hf => ?_, ?_⟩
  · rw [ha hf]
    exact ⟨rfl, rfl⟩
  · rw [hb hf]
    exact ⟨rfl, rfl⟩
  · rw [hset]

/-- Settles O56, row by row: what lasts without power, which rails start, and what a fault removes. -/
theorem powerComesAndGoes : Obligations.PowerComesAndGoes := by
  intro s
  refine ⟨fun fa fb => inputGood_spec fa fb, fun r hstage hoff hnew hbefore => ?_, fun r x hr hturn hx => ?_, fun htoll => ⟨?_, fun c hc hports => ?_⟩,
    powerDown_spec, overvoltage_spec s, overvoltageClear_spec, fun f hstage htoll => ?_, fun f hstage htoll => ?_, feedReturn_spec s⟩
  case refine_1 =>
    have hstarts := (railStarts_iff hstage hoff).mpr ⟨hnew, hbefore⟩
    refine ⟨railGood_spec hstarts, ?_, railStartTimeout_spec hstarts⟩
    rintro rfl ha hb
    exact railGood_flash_spec hstarts hnew hbefore ha hb
  case refine_2 => exact exec_rail_of_not_starts (railStarts_of_missing hturn hx) hr
  case refine_3 => exact undervoltage_spec htoll
  case refine_4 =>
    obtain ⟨u, kind, rail, hu, hrails, hbad, hexec⟩ := removesCompute_spec htoll hc
    obtain ⟨hraised, hoff, hlog, hleft, hfault, hgone, hspans, hclu, hcxl, hup0, hup1, hframe⟩ := railFault_spec hu hports kind rail
    exact ⟨_, hexec, hraised, hoff, hlog, by rw [hleft, hrails], fun r hr hcmd => hfault (hbad r hr hcmd), hgone, hspans, hclu, hcxl, hup0, hup1,
      hframe⟩
  case refine_5 =>
    obtain ⟨t, hexec, hst, hrails, -⟩ := feedReversed_alone_spec f hstage
    have hbeside := exec_feedReversed_beside f hstage
    rw [if_neg (by simp [htoll])] at hbeside
    exact ⟨⟨t, hexec, hst, hrails⟩, _, hbeside, pwrStatus_reversed s f, setFeed_frame s f false true⟩
  case refine_6 => exact ⟨feedReversed_beside_spec f hstage htoll, feedReversed_alone_spec f hstage, feedLoss_spec f htoll⟩

end Sys2Proof.Machine

/-! ### The reset sequence (O55) -/

namespace Sys2Proof.Machine

/-! #### The journal at a drain (R430) -/

theorem cells_add (b : JBank) (r : JRec) : ∃ o, (b.add r).cells = b.cells ++ (if o = b.append then [] else [(b.append, zeros (o - b.append))]) ++ [(o, r.bytes)] :=
  ⟨_, rfl⟩

/-- A record appended stands in its bank. -/
theorem mem_cells_add (b : JBank) (r : JRec) : ∃ o, (o, r.bytes) ∈ (b.add r).cells := by
  obtain ⟨o, hcells⟩ := cells_add b r
  exact ⟨o, by rw [hcells]; exact List.mem_append_right _ (List.mem_singleton_self _)⟩

/-- The journal only adds to its bank. -/
theorem mem_cells_journal {s : State} {x : Nat × List Byte} (h : x ∈ s.cfg.bank.cells) (ty : BitVec 16) (b : List Byte) :
    x ∈ (s.journal ty b).cfg.bank.cells := by
  cases htakes : s.cfg.takes ty b.length
  case false =>
    rw [journal_of_not_takes htakes]
    exact h
  case true =>
    obtain ⟨o, hcells⟩ := cells_add s.cfg.bank (s.jrec ty b s.cfg.nextSeq)
    rw [(journal_of_takes htakes).2, hcells, List.append_assoc]
    exact List.mem_append_left _ h

/-- A record that the journal takes stands in its bank. -/
theorem mem_cells_journal_of_takes {s : State} {ty : BitVec 16} {b : List Byte} (h : s.cfg.takes ty b.length = true) :
    ∃ o, (o, (s.jrec ty b s.cfg.nextSeq).bytes) ∈ (s.journal ty b).cfg.bank.cells := by
  rw [(journal_of_takes h).2]
  exact mem_cells_add ..

theorem recStart_le (a n : Nat) : recStart a n ≤ a + 4095 := by
  rw [recStart]
  split
  case isTrue => rw [roundUp]; omega
  case isFalse => omega

/-- Below the reserved part of a bank, a record of another type leaves the append point at most one record inside it. -/
theorem append_journal_le {s : State} (h : s.cfg.bank.append < bankReserve) {ty : BitVec 16} {b : List Byte} (hb : recLen b.length ≤ 64)
    (hty : (ty == jrGeneration || ty == jrReset || ty == jrRepair) = false) : (s.journal ty b).cfg.bank.append ≤ bankReserve + 64 := by
  cases htakes : s.cfg.takes ty b.length
  case false =>
    rw [journal_of_not_takes htakes]
    exact (Nat.le_of_lt h).trans (Nat.le_add_right ..)
  case true =>
    rw [(journal_of_takes htakes).2]
    have hstart : recStart s.cfg.bank.append (recLen b.length) < bankReserve := by
      simp only [Cfg.takes, Bool.or_assoc] at htakes
      rw [Bool.or_assoc] at hty
      rw [hty, Bool.or_false, Bool.and_eq_true, decide_eq_true_eq] at htakes
      exact htakes.1
    exact Nat.add_le_add (Nat.le_of_lt hstart) hb

/-- A RESET record fits while the append point is not far inside the reserved part (R466). -/
theorem takes_reset {c : Cfg} (h : c.bank.append ≤ bankReserve + 64) : c.takes jrReset 3 = true := by
  have hstart := recStart_le c.bank.append (recLen 3)
  have hlen : recLen 3 = 64 := by decide
  have hroom : bankReserve + 64 + 4095 + 64 ≤ bankBytes := by decide
  have hfits : recStart c.bank.append (recLen 3) + recLen 3 ≤ bankBytes := by omega
  simp [Cfg.takes, hfits]

theorem foldl_journal_frame (ty : BitVec 16) (l : List (List Byte)) (s : State) : l.foldl (fun s b => s.journal ty b) s =
    { s with cfg := (l.foldl (fun s b => s.journal ty b) s).cfg } := by
  induction l generalizing s with
  | nil => rfl
  | cons b r ih => rw [List.foldl_cons, ih, journal_frame]

theorem mem_cells_foldl_journal (ty : BitVec 16) (l : List (List Byte)) {s : State} {x : Nat × List Byte} (h : x ∈ s.cfg.bank.cells) :
    x ∈ (l.foldl (fun s b => s.journal ty b) s).cfg.bank.cells := by
  induction l generalizing s with
  | nil => exact h
  | cons b r ih => exact ih (mem_cells_journal h ty b)

/-- The payload of the RESET record. -/
def State.resetPayload (s : State) : List Byte := [BitVec.ofNat 8 s.rst.cause, if s.rst.planned then 1 else 0, BitVec.ofNat 8 s.flt.gen.toNat]

/-- The FAULT records that a reset carries over: the newest 64 of severity STEP or above (R430). -/
def State.resetFaults (s : State) : List (List Byte) :=
  let recs := ((range' (s.flt.nextSeq - min s.flt.nextSeq faultLogSize) (min s.flt.nextSeq faultLogSize)).map
    (fun q => Tbl.get (zeros 64) s.flt.log (q % faultLogSize))).filter (fun b => 3 ≤ leAt b 2 1)
  recs.drop (recs.length - 64)

theorem resetAppends_eq (s : State) : s.resetAppends =
    let u := s.journal jrFreq s.freqRecord
    let v := u.journal jrReset u.resetPayload
    v.resetFaults.foldl (fun s b => s.journal jrFault b) v := rfl

/-- The appends before a reset put the RESET record into the journal, and change configuration only (R430). -/
theorem resetAppends_spec (s : State) : s.resetAppends = { s with cfg := s.resetAppends.cfg } ∧
    (s.cfg.bank.append < bankReserve → ∃ r o, (o, JRec.bytes r) ∈ s.resetAppends.cfg.bank.cells ∧ r.ty = jrReset ∧ r.payload = s.resetPayload) := by
  rw [resetAppends_eq]
  extract_lets u v
  have hu : u = { s with cfg := u.cfg } := journal_frame ..
  have hv : v = { u with cfg := v.cfg } := journal_frame ..
  refine ⟨?_, fun happend => ?_⟩
  · rw [foldl_journal_frame, hv, hu]
  · have htakes : u.cfg.takes jrReset u.resetPayload.length = true :=
      takes_reset (append_journal_le happend (by rw [State.freqRecord, leBytes_length]; decide) (by decide))
    obtain ⟨o, hmem⟩ := mem_cells_journal_of_takes htakes
    refine ⟨u.jrec jrReset u.resetPayload u.cfg.nextSeq, o, mem_cells_foldl_journal _ _ hmem, rfl, ?_⟩
    rw [hu]
    rfl

/-- The end of a drain (R428, R430). -/
theorem endDrain_spec (s : State) : s.endDrain = { s with flt := { s.flt with draining := false }, cfg := s.endDrain.cfg } ∧
    (s.cfg.bank.append < bankReserve → ∃ r o, (o, JRec.bytes r) ∈ s.endDrain.cfg.bank.cells ∧ r.ty = jrReset ∧ r.payload = s.resetPayload) :=
  resetAppends_spec (s.updFlt (fun f => { f with draining := false }))

/-! #### Before S (R428, R430) -/

/-- The end of a drain at a later machine time. -/
theorem endDrain_of_later {s u : State} (hu : u = { s with tim := { s.tim with now := u.tim.now } }) :
    u.endDrain.flt = { s.flt with draining := false } ∧
      (s.cfg.bank.append < bankReserve → ∃ r o, (o, JRec.bytes r) ∈ u.endDrain.cfg.bank.cells ∧ r.ty = jrReset ∧ r.payload = s.resetPayload) ∧
      u.endDrain.tim = u.tim ∧ u.endDrain = { s with flt := u.endDrain.flt, cfg := u.endDrain.cfg, tim := { s.tim with now := u.endDrain.tim.now } } := by
  obtain ⟨hframe, hrecord⟩ := endDrain_spec u
  generalize u.endDrain = t at hframe hrecord
  have hflt : u.flt = s.flt := by rw [hu]
  have htim : t.tim = u.tim := by rw [hframe]
  have hpayload : u.resetPayload = s.resetPayload := by rw [hu]; rfl
  have hcfg : u.cfg = s.cfg := by rw [hu]
  refine ⟨by rw [hframe, hflt], ?_, htim, ?_⟩
  · rwa [hpayload, hcfg] at hrecord
  · rw [htim, hframe, hu]

theorem drainEnd_spec {s : State} (hstage : s.rst.stage = .draining) (hdraining : s.flt.draining = true) :
    ∃ t, exec .drainEnd s = .next t ∧ t.flt = { s.flt with draining := false } ∧
      (s.cfg.bank.append < bankReserve → ∃ r o, (o, JRec.bytes r) ∈ t.cfg.bank.cells ∧ r.ty = jrReset ∧
        r.payload = [BitVec.ofNat 8 s.rst.cause, if s.rst.planned then 1 else 0, BitVec.ofNat 8 s.flt.gen.toNat]) ∧
      (s.drained = false → s.rst.drainAt + s.drainLimit < 2 ^ 112 → s.rst.drainAt + s.drainLimit ≤ t.tim.now.toNat) ∧
      (s.drained = true → t.tim = s.tim) ∧ t = { s with flt := t.flt, cfg := t.cfg, tim := { s.tim with now := t.tim.now } } := by
  have hexec : exec .drainEnd s = .next (if s.drained then s.endDrain else (s.advance (s.rst.drainAt + s.drainLimit)).endDrain) := by
    rw [show exec .drainEnd s = execDrainEnd s from rfl, execDrainEnd, if_pos (by simp [hstage, hdraining])]
  cases hdrained : s.drained
  case true =>
    obtain ⟨hflt, hrecord, htim, hframe⟩ := endDrain_of_later (s := s) (u := s) rfl
    rw [if_pos hdrained] at hexec
    exact ⟨_, hexec, hflt, hrecord, nofun, fun _ => htim, hframe⟩
  case false =>
    obtain ⟨hflt, hrecord, htim, hframe⟩ := endDrain_of_later (advance_frame s (s.rst.drainAt + s.drainLimit))
    rw [if_neg (by simp [hdrained])] at hexec
    exact ⟨_, hexec, hflt, hrecord, fun _ hlimit => by rw [htim]; exact (advance_reaches s _ hlimit).1, nofun, hframe⟩

theorem resetHoldExpiry_again_spec {s : State} {c : Nat} (hstage : s.rst.stage ≠ .off) (hagain : s.rst.again = some c) :
    ∃ t, exec .resetHoldExpiry s = .next t ∧ t.rst = { s.rst with stage := .draining, planned := false, cause := c, again := none } ∧
      (s.resetFrom < 2 ^ 112 → s.resetFrom ≤ t.tim.now.toNat) ∧
      t = { s with rst := t.rst, flt := { s.flt with draining := false }, tim := { s.tim with now := t.tim.now } } := by
  have hexec := (if_pos ⟨hstage, by rw [hagain]; nofun⟩ : exec .resetHoldExpiry s = _)
  refine ⟨_, hexec, ?_⟩
  have hadv := advance_frame s s.resetFrom
  have hreach := fun h => (advance_reaches s s.resetFrom h).1
  generalize s.advance s.resetFrom = u at hadv hreach
  refine ⟨?_, hreach, ?_⟩
  · rw [hadv]
    simp [hagain]
  · rw [hadv]

theorem resetHoldExpiry_unplanned_spec {s : State} (hstage : s.rst.stage = .held) (hplanned : s.rst.planned = false) (hagain : s.rst.again = none) :
    ∃ t, exec .resetHoldExpiry s = .next t ∧ t.rst = { s.rst with stage := .draining } ∧
      (s.resetFrom < 2 ^ 112 → s.resetFrom ≤ t.tim.now.toNat) ∧ t = { s with rst := t.rst, tim := { s.tim with now := t.tim.now } } := by
  have hadv := advance_frame s s.resetFrom
  have hreach := fun h => (advance_reaches s s.resetFrom h).1
  have hexec : exec .resetHoldExpiry s = .next { s.advance s.resetFrom with rst := { (s.advance s.resetFrom).rst with stage := .draining } } := by
    have hkept : ¬ (s.advance s.resetFrom).rst.planned = true := by rw [hadv]; simp [hplanned]
    exact (if_neg fun h => h.2 hagain).trans ((if_pos hstage).trans (congrArg Host.Outcome.next (if_neg hkept)))
  refine ⟨_, hexec, ?_⟩
  generalize s.advance s.resetFrom = u at hadv hreach
  exact ⟨by rw [hadv], hreach, by rw [hadv]⟩

end Sys2Proof.Machine

namespace Sys2Proof.Machine

/-! #### Commands superseded at S (R396, R406) -/

theorem cutSlot_of_no_hdr {i : Instr} (h : hdrOf i = none) (x : Sec × Nat) : cutSlot x i = x := by
  refine cutSlot.eq_2 _ _ fun hdr hbuf ofs len hi => ?_
  rw [hi] at h
  cases h

theorem cutSlots_of_no_hdr {l : List RunCmd} (h : ∀ r ∈ l, hdrOf r.cmd = none) (x : Sec × Nat) : cutSlots l x = x := by
  induction l generalizing x with
  | nil => rfl
  | cons r l ih =>
    rw [List.forall_mem_cons] at h
    rw [cutSlots_cons, cutSlot_of_no_hdr h.1, ih h.2]

/-- With no host command left running, nothing more is cut short. -/
theorem cutUpdates_of_no_hdr {s : State} (h : ∀ r ∈ s.hst.running, hdrOf r.cmd = none) : s.cutUpdates = s := by
  rw [cutUpdates_eq, cutSlots_of_no_hdr h]

theorem running_finish (s : State) (r : RunCmd) (status : Nat) (fault : BitVec 16) (detail : Nat) (result : List Byte) :
    (s.finish r status fault detail result).hst.running = if (hdrOf r.cmd).isSome then s.hst.running.erase r else s.hst.running := by
  rw [State.finish]
  split
  case h_1 h => rw [h]; rfl
  case h_2 h =>
    rw [h]
    dsimp only
    split
    case isTrue => rfl
    case isFalse => split <;> rfl

/-- Every command of a list ends with SUPERSEDED. -/
def State.superseded (s : State) (l : List RunCmd) : State := l.foldl (fun s x => s.finish x sSuperseded 0 0 []) s

theorem superseded_frame (l : List RunCmd) (s : State) : s.superseded l = { s with hst := (s.superseded l).hst } := by
  rw [State.superseded]
  induction l generalizing s with
  | nil => rfl
  | cons x r ih => rw [List.foldl_cons, ih, finish_frame]

/-- A host command that has ended does not run any more. -/
theorem count_superseded {r : RunCmd} (hr : (hdrOf r.cmd).isSome = true) (l : List RunCmd) (s : State) :
    (s.superseded l).hst.running.count r = s.hst.running.count r - l.count r := by
  rw [State.superseded]
  induction l generalizing s with
  | nil => rfl
  | cons x l ih =>
    rw [List.foldl_cons, ih, running_finish, List.count_cons]
    by_cases hx : x = r
    · rw [hx, if_pos hr, List.count_erase_self]
      simp
      omega
    · split
      case isTrue => rw [List.count_erase_of_ne (Ne.symm hx)]; simp [hx]
      case isFalse => simp [hx]

theorem no_hdr_superseded (s : State) (l : List RunCmd) (h : ∀ r, s.hst.running.count r ≤ l.count r) :
    ∀ r ∈ (s.superseded l).hst.running, hdrOf r.cmd = none := fun r hr => by
  by_contra hhdr
  have hcount := count_superseded (Option.isSome_iff_ne_none.mpr hhdr) l s
  have hpos := List.count_pos_iff.mpr hr
  have hle := h r
  omega

theorem writeCompletion_frame (s : State) : s.writeCompletion = { s with hst := s.writeCompletion.hst } := by
  rw [State.writeCompletion]
  split
  case h_1 => rfl
  case h_2 =>
    split
    case isTrue => rfl
    case isFalse =>
      dsimp only
      split <;> rfl

/-- An interrupt leaves commands and rings as they are. -/
theorem hst_signal (s : State) (v : Nat) : (s.signal v).hst.running = s.hst.running ∧ (s.signal v).hst.compRing = s.hst.compRing := by
  rw [State.signal]
  dsimp only
  split
  case isTrue => split <;> exact ⟨rfl, rfl⟩
  case isFalse =>
    split
    case isTrue => split <;> exact ⟨rfl, rfl⟩
    case isFalse => exact ⟨rfl, rfl⟩

theorem running_writeCompletion (s : State) : s.writeCompletion.hst.running = s.hst.running := by
  rw [State.writeCompletion]
  split
  case h_1 => rfl
  case h_2 =>
    split
    case isTrue => rfl
    case isFalse =>
      dsimp only
      split
      case isTrue => exact (hst_signal ..).1
      case isFalse => rfl

/-- The oldest completion stands in the ring at its tail (R394, R396). -/
theorem compRing_writeCompletion {s : State} {c : Cpl} {rest : List Cpl} (hdone : s.hst.done = c :: rest) (hon : bit s.hst.ctl 0 = true)
    (hroom : s.compFull = false) : Tbl.get [] s.writeCompletion.hst.compRing s.hst.compTail = c.bytes s.hst.compPhase := by
  rw [State.writeCompletion, hdone]
  dsimp only
  rw [hon, hroom, if_neg (by decide)]
  split
  case isTrue =>
    rw [(hst_signal ..).2]
    exact Tbl.get_set ..
  case isFalse => exact Tbl.get_set ..

theorem writeCompletions_spec (s : State) : s.writeCompletions = { s with hst := s.writeCompletions.hst } ∧
    s.writeCompletions.hst.running = s.hst.running := by
  rw [State.writeCompletions]
  generalize List.range s.hst.done.length = l
  induction l generalizing s with
  | nil => exact ⟨rfl, rfl⟩
  | cons x r ih =>
    obtain ⟨hframe, hrun⟩ := ih s.writeCompletion
    rw [List.foldl_cons]
    refine ⟨?_, hrun.trans (running_writeCompletion s)⟩
    rw [hframe, writeCompletion_frame]

theorem writeCompletions_nil {s : State} (h : s.hst.done = []) : s.writeCompletions = s := by
  rw [State.writeCompletions, h]
  rfl

theorem writeCompletions_one {s : State} {c : Cpl} (h : s.hst.done = [c]) : s.writeCompletions = s.writeCompletion := by
  rw [State.writeCompletions, h]
  rfl

/-- The state once every command that runs or waits has ended with SUPERSEDED. -/
def State.allSuperseded (s : State) : State :=
  (s.cutUpdates.updHst (fun h => { h with waiting := [] })).superseded (s.hst.running ++ s.hst.waiting)

theorem supersedeAll_eq (s : State) : s.supersedeAll = if s.dmp.running then
    { s.allSuperseded with dmp := { s.allSuperseded.dmp with
      running := false, stage := 0, body := [], deaf := [], last := (s.allSuperseded.dmp.last &&& ~~~(flag true 17)) ||| flag true 18 } }
    else s.allSuperseded := rfl

theorem allSuperseded_spec (s : State) : s.allSuperseded = { s.cutUpdates with hst := s.allSuperseded.hst } ∧
    ∀ r ∈ s.allSuperseded.hst.running, hdrOf r.cmd = none := by
  have hcut : s.cutUpdates.hst = s.hst := by rw [cutUpdates_eq]
  refine ⟨(superseded_frame ..).trans rfl, no_hdr_superseded _ _ fun r => ?_⟩
  rw [State.updHst_hst, hcut, List.count_append]
  exact Nat.le_add_right ..

/-- What supersession leaves: the host interface, the dump, and what is cut short. -/
theorem supersedeAll_spec (s : State) : s.supersedeAll = { s.cutUpdates with hst := s.allSuperseded.hst, dmp := s.supersedeAll.dmp } ∧
    (s.dmp.running = false → s.supersedeAll.dmp = s.dmp) := by
  have hframe := (allSuperseded_spec s).1
  have hdmp : s.allSuperseded.dmp = s.dmp := by rw [hframe, cutUpdates_eq]
  rw [supersedeAll_eq]
  split
  case isTrue h =>
    refine ⟨?_, fun hn => by simp [hn] at h⟩
    generalize s.allSuperseded = u at hframe
    rw [hframe]
  case isFalse =>
    refine ⟨?_, fun _ => hdmp⟩
    generalize s.allSuperseded = u at hframe
    rw [hframe]

/-! #### S (R268, R406, R430) -/

/-- The state with every link down. -/
def State.linksDown (s : State) : State := forEach s (List.range 6) (fun s p => s.updPort p (fun o => o.down s.tim.now.toNat))

theorem linksDown_frame (s : State) : s.linksDown = { s with olf := s.linksDown.olf } :=
  forEach_keeps (fun u => u = { s with olf := u.olf }) _ (fun u p hu => by rw [hu]; rfl) _ s rfl

theorem port_linksDown (s : State) {p : Nat} (hp : p < 6) : s.linksDown.port p = (s.port p).down s.tim.now.toNat := by
  have hpass := forEach_passes (g := fun u => (u.port p, u.tim)) (f := fun s p => s.updPort p (fun o => o.down s.tim.now.toNat)) (q := p)
    (fun u x hx => Prod.ext (State.port_updPort_ne _ _ _ _ (Ne.symm hx)) rfl)
    (fun u v huv => by
      obtain ⟨hport, htim⟩ := Prod.mk.inj huv
      simp only [State.port_updPort, State.updPort_tim, hport, htim]) (List.range 6) s List.nodup_range (List.mem_range.mpr hp)
  exact (congrArg Prod.fst hpass).trans (State.port_updPort ..)

/-- The host interface at S (R406, R430, R432). -/
def Hst.resetting (h : Hst) : Hst :=
  { h.ringsOff with st := stResetting, ready := false, bufs := [], running := [], waiting := [], done := [], vectors := h.vectors ++ [3] }

/-- The beginning of the reset noted, and updates cut short. -/
def State.beginMarked (v : State) : State :=
  { v.cutUpdates with rst := { v.rst with stage := .begun, last := v.tim.now.toNat, idle := false } }

/-- S, `v` being the state once a planned reset's commands have ended. -/
def State.resetBegun (v : State) : State :=
  let s := v.beginMarked.selfRefreshAll.linksDown
  let s := s.updCxl (fun x => { x with linkUp := false, width := 0, speed := 0 })
  let s := s.updHst (fun h => { h.ringsOff with st := stResetting, ready := false, bufs := [], running := [], waiting := [], done := [] })
  (s.signal 3).ibi

theorem exec_resetBegin {s : State} (hstage : s.rst.stage = .draining) (hdraining : s.flt.draining = false) :
    exec .resetBegin s = .next (if s.rst.planned then s.supersedeAll.writeCompletions else s).resetBegun := by
  rw [show exec .resetBegin s = execResetBegin s from rfl, execResetBegin, if_pos (by simp [hstage, hdraining])]
  rfl

theorem beginMarked_eq (v : State) : v.beginMarked = { v with
    sec := v.cutUpdates.sec, freeCtr := v.cutUpdates.freeCtr, rst := { v.rst with stage := .begun, last := v.tim.now.toNat, idle := false } } := by
  rw [State.beginMarked, cutUpdates_frame]

theorem resetBegun_spec {v : State} (hoff : v.pwr.computeOff = false) (hup : v.rst.dieUp = true) :
    ∃ t, v.resetBegun = t ∧ t.rst = { v.rst with stage := .begun, last := v.tim.now.toNat, idle := false } ∧ t.hst = v.hst.resetting ∧ t.dmp = v.dmp ∧
      (∀ st, st < 4 → (t.ms st).selfRef = true ∧ (t.ms st).running = false) ∧ (∀ p, p < 6 → (t.port p).st = 0 ∧ (t.port p).lock = false) ∧
      t.cxl.linkUp = false ∧ t.faultN = false ∧
      t = { v.cutUpdates with msq := t.msq, olf := t.olf, cxl := t.cxl, hst := t.hst, pins := t.pins, rst := t.rst } := by
  have hmark := beginMarked_eq v
  have hcut := cutUpdates_frame v
  have hms : ∀ st, st < 4 → (v.beginMarked.selfRefreshAll.ms st).selfRef = true ∧ (v.beginMarked.selfRefreshAll.ms st).running = false :=
    fun st hst => by
      rw [ms_selfRefreshAll (by rw [hmark]; exact hoff) (by rw [hmark]; exact hup) hst]
      exact ⟨rfl, rfl⟩
  have hrefresh := selfRefreshAll_frame v.beginMarked
  rw [State.resetBegun]
  generalize v.beginMarked = a at hmark hms hrefresh
  generalize a.selfRefreshAll = b at hms hrefresh
  have hlinks := linksDown_frame b
  have hport : ∀ p, p < 6 → (b.linksDown.port p).st = 0 ∧ (b.linksDown.port p).lock = false := fun p hp => by
    rw [port_linksDown b hp]
    exact ⟨rfl, rfl⟩
  generalize b.linksDown = c at hlinks hport
  have hc : c = { v with sec := v.cutUpdates.sec, freeCtr := v.cutUpdates.freeCtr, msq := b.msq, olf := c.olf
                         rst := { v.rst with stage := .begun, last := v.tim.now.toNat, idle := false } } := by
    rw [hlinks, hrefresh, hmark]
  have hrst : c.rst = { v.rst with stage := .begun, last := v.tim.now.toNat, idle := false } := by rw [hc]
  have hhst : c.hst = v.hst := by rw [hc]
  have hkept : ∀ st, c.ms st = b.ms st := fun st => by rw [hlinks]; rfl
  rw [ibi_frame]
  generalize (State.signal _ 3).ibi.pins = pins
  refine ⟨_, rfl, hrst, congrArg Hst.resetting hhst, (congrArg State.dmp hc :), fun st hst => ?_, hport, rfl, ?_, ?_⟩
  · have hstack := hms st hst
    rw [← hkept st] at hstack
    exact hstack
  · have hidle : c.rst.idle = false := by rw [hrst]
    simp [State.faultN, hidle]
  · rw [hcut, hc]
    rfl

/-- The state once a planned reset's commands have ended. -/
def State.commandsEnded (s : State) : State := s.supersedeAll.writeCompletions

theorem hst_supersedeAll (s : State) : s.supersedeAll.hst = s.allSuperseded.hst := by rw [(supersedeAll_spec s).1]

/-- The end of the commands changes the host interface and the dump, besides what is cut short. -/
theorem commandsEnded_spec (s : State) : s.commandsEnded = { s.cutUpdates with hst := s.commandsEnded.hst, dmp := s.supersedeAll.dmp } ∧
    s.commandsEnded.cutUpdates = s.commandsEnded := by
  obtain ⟨hwrite, hrun⟩ := writeCompletions_spec s.supersedeAll
  obtain ⟨hsup, -⟩ := supersedeAll_spec s
  refine ⟨?_, cutUpdates_of_no_hdr ?_⟩
  · rw [State.commandsEnded]
    generalize s.supersedeAll.writeCompletions = w at hwrite
    generalize s.supersedeAll = u at hwrite hsup
    rw [hwrite, hsup]
  · rw [State.commandsEnded, hrun, hst_supersedeAll]
    exact (allSuperseded_spec s).2

theorem hst_commandsEnded_of_none {s : State} (hdone : s.hst.done = []) (hrun : s.hst.running = []) (hwait : s.hst.waiting = []) :
    s.commandsEnded.hst.vectors = s.hst.vectors := by
  have hcut : s.cutUpdates = s := cutUpdates_of_no_hdr (by rw [hrun]; nofun)
  have hall : s.allSuperseded.hst = { s.hst with waiting := [] } := by
    rw [State.allSuperseded, hcut, hrun, hwait]
    rfl
  have hnone : s.supersedeAll.hst.done = [] := by rw [hst_supersedeAll, hall, hdone]
  rw [State.commandsEnded, writeCompletions_nil hnone, hst_supersedeAll, hall]

/-- The completion of a ring command (R396). -/
theorem hst_finish_of_ring {s : State} {r : RunCmd} {h : Hdr} (hhdr : hdrOf r.cmd = some h) (hvia : h.via ≠ .mbox) (horphan : r ∉ s.hst.orphans)
    (status : Nat) (fault : BitVec 16) (detail : Nat) (result : List Byte) : (s.finish r status fault detail result).hst =
      { s.hst with
        running := s.hst.running.erase r, orphans := s.hst.orphans.erase r
        done := s.hst.done ++ [⟨h.via, h.tag, h.irq, (rawOpcode h).getD (opcodeOf r.cmd), status, fault, r.idx, detail, result⟩] } := by
  have hnot : s.hst.orphans.contains r = false := by simpa using horphan
  rw [State.finish, hhdr]
  simp only [hnot, Bool.false_eq_true, if_false, hvia]
  rfl

/-- The one command that runs, from ring 0, ends in the completion ring (R396, R406). -/
theorem compRing_commandsEnded {s : State} {r : RunCmd} {h : Hdr} (hrun : s.hst.running = [r]) (hwait : s.hst.waiting = []) (hdone : s.hst.done = [])
    (hhdr : hdrOf r.cmd = some h) (hvia : h.via = .ring0) (horphan : r ∉ s.hst.orphans) (hon : bit s.hst.ctl 0 = true) (hroom : s.compFull = false) :
    Tbl.get [] s.commandsEnded.hst.compRing s.hst.compTail =
      Cpl.bytes ⟨.ring0, h.tag, h.irq, (rawOpcode h).getD (opcodeOf r.cmd), sSuperseded, 0, r.idx, 0, []⟩ s.hst.compPhase := by
  have hcut : s.cutUpdates.hst = s.hst := by rw [cutUpdates_eq]
  have hall : s.allSuperseded.hst = { s.hst with
      waiting := [], running := [], orphans := s.hst.orphans.erase r
      done := [⟨.ring0, h.tag, h.irq, (rawOpcode h).getD (opcodeOf r.cmd), sSuperseded, 0, r.idx, 0, []⟩] } := by
    rw [State.allSuperseded, hrun, hwait, State.superseded, List.append_nil, List.foldl_cons, List.foldl_nil,
      hst_finish_of_ring hhdr (by rw [hvia]; decide) (by rw [State.updHst_hst, hcut]; exact horphan), State.updHst_hst, hcut, hvia, hrun, hdone,
      List.erase_cons_head]
    rfl
  have hsup := (hst_supersedeAll s).trans hall
  have hfull : s.supersedeAll.compFull = false := by
    rw [State.compFull, hsup]
    exact hroom
  have hring := compRing_writeCompletion (congrArg Hst.done hsup) (by rw [hsup]; exact hon) hfull
  rw [State.commandsEnded, writeCompletions_one (congrArg Hst.done hsup)]
  rw [hsup] at hring
  exact hring

theorem resetting_spec (h : Hst) : h.resetting.st = stResetting ∧ h.resetting.ready = false ∧ h.resetting.running = [] ∧ h.resetting.waiting = [] ∧
    h.resetting.bufs = [] ∧ bit h.resetting.ctl 0 = false ∧ h.resetting.vectors = h.vectors ++ [3] ∧ h.resetting.vectors.getLast? = some 3 ∧
    h.resetting.compRing = h.compRing :=
  ⟨rfl, rfl, rfl, rfl, rfl, by simp [Hst.resetting, Hst.ringsOff, bit], rfl, List.getLast?_concat .., rfl⟩

theorem resetBegin_spec {s : State} (hstage : s.rst.stage = .draining) (hdraining : s.flt.draining = false) (hoff : s.pwr.computeOff = false)
    (hup : s.rst.dieUp = true) :
    ∃ t, exec .resetBegin s = .next t ∧ t.rst = { s.rst with stage := .begun, last := s.tim.now.toNat, idle := false } ∧
        t.hst.st = stResetting ∧ t.hst.ready = false ∧ t.hst.running = [] ∧ t.hst.waiting = [] ∧ t.hst.bufs = [] ∧ bit t.hst.ctl 0 = false ∧
        (s.hst.done = [] ∧ s.hst.running = [] ∧ s.hst.waiting = [] ∨ s.rst.planned = false → t.hst.vectors = s.hst.vectors ++ [3]) ∧
        t.hst.vectors.getLast? = some 3 ∧
        (∀ r h, s.rst.planned = true → s.hst.running = [r] → s.hst.waiting = [] → s.hst.done = [] → hdrOf r.cmd = some h → h.via = .ring0 →
          r ∉ s.hst.orphans → bit s.hst.ctl 0 = true → s.compFull = false → Tbl.get [] t.hst.compRing s.hst.compTail =
            Cpl.bytes ⟨.ring0, h.tag, h.irq, (rawOpcode h).getD (opcodeOf r.cmd), 15, 0, r.idx, 0, []⟩ s.hst.compPhase) ∧
        (s.dmp.running = false ∨ s.rst.planned = false → t.dmp = s.dmp) ∧
        (∀ st, st < 4 → (t.ms st).selfRef = true ∧ (t.ms st).running = false) ∧
        (∀ p, p < 6 → (t.port p).st = 0 ∧ (t.port p).lock = false) ∧ t.cxl.linkUp = false ∧ t.faultN = false ∧
        t = { s.cutUpdates with msq := t.msq, olf := t.olf, cxl := t.cxl, hst := t.hst, pins := t.pins, rst := t.rst, dmp := t.dmp } := by
  have hexec := exec_resetBegin hstage hdraining
  cases hplanned : s.rst.planned
  case false =>
    rw [if_neg (by simp [hplanned])] at hexec
    obtain ⟨t, ht, hrst, hhst, hdmp, hms, hports, hcxl, hfault, hframe⟩ := resetBegun_spec hoff hup
    obtain ⟨hst, hready, hrun, hwait, hbufs, hctl, hvectors, hlast, -⟩ := resetting_spec s.hst
    rw [← hhst] at hst hready hrun hwait hbufs hctl hvectors hlast
    rw [ht] at hexec
    have hkept : t.dmp = s.cutUpdates.dmp := by rw [hdmp, cutUpdates_eq]
    exact ⟨t, hexec, hrst, hst, hready, hrun, hwait, hbufs, hctl, fun _ => hvectors, hlast, fun _ _ h => absurd h (by decide), fun _ => hdmp, hms, hports,
      hcxl, hfault, by rw [hkept]; exact hframe⟩
  case true =>
    rw [if_pos hplanned, ← State.commandsEnded] at hexec
    obtain ⟨hended, hcut⟩ := commandsEnded_spec s
    have hvectors := hst_commandsEnded_of_none (s := s)
    have hring := @compRing_commandsEnded s
    have hdmpKept := (supersedeAll_spec s).2
    generalize s.commandsEnded = v at hexec hended hcut hvectors hring
    have hpwr : v.pwr = s.pwr := by rw [hended, cutUpdates_eq]
    have hvrst : v.rst = s.rst := by rw [hended, cutUpdates_eq]
    have htim : v.tim = s.tim := by rw [hended, cutUpdates_eq]
    obtain ⟨t, ht, hrst, hhst, hdmp, hms, hports, hcxl, hfault, hframe⟩ := resetBegun_spec (v := v) (by rw [hpwr]; exact hoff) (by rw [hvrst]; exact hup)
    obtain ⟨hst, hready, hrun, hwait, hbufs, hctl, hnew, hlast, hcomp⟩ := resetting_spec v.hst
    rw [← hhst] at hst hready hrun hwait hbufs hctl hnew hlast hcomp
    rw [ht] at hexec
    refine ⟨t, hexec, by rw [hrst, hvrst, htim], hst, hready, hrun, hwait, hbufs, hctl, fun h => ?_, hlast, fun r h _ => ?_, fun h => ?_, hms, hports,
      hcxl, hfault, ?_⟩
    · obtain ⟨hdone, hnone, hwaits⟩ := h.resolve_right (by simp)
      rw [hnew, hvectors hdone hnone hwaits]
    · rw [hcomp]
      exact hring
    · rw [hdmp, hended]
      exact hdmpKept (h.resolve_right (by simp))
    · rw [hcut] at hframe
      rw [hframe, hended]

end Sys2Proof.Machine

namespace Sys2Proof.Machine

/-! #### S + 10 µs (R268, R269, R430, R433) -/

theorem selfRefreshTimeout_spec {s : State} {st : Nat} (hst : st < 4) (hstage : s.rst.stage = .begun) :
    ∃ t, exec (.selfRefreshTimeout st) s = .next t ∧ t.ms st = { s.ms st with selfRef := false } ∧ (∀ x, x ≠ st → t.ms x = s.ms x) ∧
      t = { s with msq := t.msq, tim := { s.tim with now := t.tim.now } } := by
  have hexec : exec (.selfRefreshTimeout st) s = _ := (if_neg (Nat.not_le_of_lt hst)).trans (if_pos hstage)
  refine ⟨_, hexec, ?_⟩
  have hadv := advance_frame s (s.rst.last + 10000 * ns).toNat
  generalize s.advance (s.rst.last + 10000 * ns).toNat = u at hadv
  have hms : ∀ x, u.ms x = s.ms x := fun x => by rw [hadv]; rfl
  refine ⟨by rw [State.ms_updMs, hms], fun x hx => by rw [State.ms_updMs_ne _ _ _ _ hx, hms], ?_⟩
  rw [hadv]
  rfl

/-- The module at S + 10 µs before the flash and the in-band interrupt are looked at. -/
def State.heldCore (s : State) : State :=
  { s.lasting with
    mem := s.mem, upsets := s.upsets.filter (fun u => u.area != Area.landing)
    msq := (List.range 4).map (fun st => (st, { selfRef := (s.ms st).selfRef }))
    rst := { planned := s.rst.planned, cause := s.rst.cause, again := s.rst.again } }

theorem heldInReset_frame (s : State) : s.heldInReset = { s.heldCore with pins := s.heldInReset.pins } := by
  rw [show s.heldInReset = s.heldCore.joinFlash.ibi from rfl, ibi_frame, joinFlash_eq]

/-- The interrupt leaves the hold of the flash as it is. -/
@[simp] theorem flashOut_ibi (s : State) : s.ibi.pins.flashOut = s.pins.flashOut := by
  rw [State.ibi]
  dsimp only
  split <;> rfl

/-- The board controller holds the flash from here on where RESET_N is low and it asks for it (R504). -/
theorem flashOut_joinFlash {s : State} (h : s.rst.stage = .inReset) :
    s.joinFlash.pins.flashOut = (s.pins.flashOut || !s.pins.resetN && s.pins.flashOwn) := by
  cases hreset : s.pins.resetN <;> cases hown : s.pins.flashOwn <;> simp [State.joinFlash, h, hreset, hown]

theorem pins_lasting (s : State) : s.lasting.pins =
    { s.pins with i3cAddr := BitVec.ofNat 7 (0x30 + field s.pins.sensed 12 3), i3cDyn := false, i3cAns := none, ppsRise := none } := by
  have hcut : s.cutUpdates.pins = s.pins := by rw [cutUpdates_eq]
  rw [← hcut]
  rfl

theorem coresHeldInReset_spec {s : State} (hstage : s.rst.stage = .begun) :
    ∃ t, exec .coresHeldInReset s = .next t ∧ t.rst = { stage := .inReset, planned := s.rst.planned, cause := s.rst.cause, again := s.rst.again } ∧
      t.pins.flashOut = (s.pins.flashOut || !s.pins.resetN && s.pins.flashOwn) ∧
      t.tim = State.reset.tim ∧ t.job = {} ∧ t.clusters = State.reset.clusters ∧ t.spans = State.reset.spans ∧ t.olf = State.reset.olf ∧
      t.svc = State.reset.svc ∧ t.flt = State.reset.flt ∧ t.hst.st = stResetting ∧ t.plc = { straps := s.pins.sensed } ∧ t.mem = s.mem ∧
      (∀ st, st < 4 → t.ms st = { selfRef := (s.ms st).selfRef }) ∧ t.sec.fuses = s.sec.fuses ∧
      t.sec.slotA = s.cutUpdates.sec.slotA ∧ t.sec.slotB = s.cutUpdates.sec.slotB ∧ t.sec.boot = s.sec.boot ∧ t.cfg.bankA = s.cfg.bankA ∧
      t.cfg.bankB = s.cfg.bankB ∧ t.pending = s.pending := by
  have hexec : exec .coresHeldInReset s = _ := if_pos hstage
  refine ⟨_, hexec, ?_⟩
  have hflash : s.heldInReset.pins.flashOut = (s.heldCore.pins.flashOut || !s.heldCore.pins.resetN && s.heldCore.pins.flashOwn) :=
    (flashOut_ibi _).trans (flashOut_joinFlash rfl)
  rw [show s.heldCore.pins = s.lasting.pins from rfl, pins_lasting] at hflash
  have hframe := heldInReset_frame s
  generalize s.heldInReset = t at hflash hframe
  obtain ⟨hbankA, hbankB, hboot, hfuses, hslotA, hslotB, -⟩ := lasting_flash s
  have hpins : s.cutUpdates.pins = s.pins := by rw [cutUpdates_eq]
  have hpending : s.cutUpdates.pending = s.pending := by rw [cutUpdates_eq]
  have hms : ∀ st, st < 4 → s.heldCore.ms st = { selfRef := (s.ms st).selfRef } := fun st hst =>
    (Tbl.get_map_key ..).trans (if_pos (List.mem_range.mpr hst))
  rw [hframe]
  exact ⟨rfl, hflash, rfl, rfl, rfl, rfl, rfl, rfl, rfl, rfl, (congrArg (fun p : Pins => ({ straps := p.sensed } : Plc)) hpins :), rfl, hms,
    hfuses, hslotA, hslotB, hboot, hbankA, hbankB, hpending⟩

/-! #### The boot ROM (R486 to R491) -/

/-- Whether an image verifies depends on the fuses alone. -/
theorem fwVerifies_congr {s t : State} (h : t.sec.fuses = s.sec.fuses) (img : List Byte) : t.fwVerifies img = s.fwVerifies img := by
  rw [State.fwVerifies, State.fwVerifies, h]

theorem chooseSlot_of_no_trial {s : State} (h : s.sec.newest.trial = false) : s.chooseSlot = (s.sec.newest, s) := by
  rw [State.chooseSlot]
  simp [h]

/-- The firmware of the chosen slot starts where it verifies. -/
theorem bootChain_of_verifies {s : State} (htrial : s.sec.newest.trial = false)
    (h : s.fwVerifies (s.sec.slotImage s.sec.newest.slot) = true) : s.bootChain = State.issueAk { s with sec := s.sec.bootFrom s.sec.newest } := by
  rw [State.bootChain, chooseSlot_of_no_trial htrial]
  exact if_pos h

/-- The other slot follows where the chosen one does not verify. -/
def State.otherSlot (s : State) : State := s.badImage.bootAppend ⟨1 - s.sec.newest.slot, false, 0⟩

theorem sec_otherSlot (s : State) : s.otherSlot.sec.fuses = s.sec.fuses ∧ ∀ slot, s.otherSlot.sec.slotImage slot = s.sec.slotImage slot :=
  ⟨rfl, fun _ => rfl⟩

/-- The module has no firmware where neither slot verifies. -/
theorem bootChain_of_not_verifies {s : State} (htrial : s.sec.newest.trial = false)
    (h : s.fwVerifies (s.sec.slotImage s.sec.newest.slot) = false) (hother : s.fwVerifies (s.sec.slotImage (1 - s.sec.newest.slot)) = false) :
    s.bootChain = { s.otherSlot.badImage with sec := { s.otherSlot.badImage.sec with noFw := true } } := by
  have hfails : s.otherSlot.fwVerifies (s.otherSlot.sec.slotImage (1 - s.sec.newest.slot)) = false := by
    obtain ⟨hfuses, himage⟩ := sec_otherSlot s
    rw [fwVerifies_congr hfuses, himage, hother]
  rw [State.bootChain, chooseSlot_of_no_trial htrial]
  exact (if_neg (by simp [h])).trans (if_neg (ne_true_of_eq_false hfails))

theorem issueAk_spec (s : State) : s.issueAk = { s with sec := s.issueAk.sec } ∧ s.issueAk.sec.idLocked = true ∧
    s.issueAk.sec = { s.sec with akCert := s.issueAk.sec.akCert, idLocked := true } := by
  rw [State.issueAk]
  split
  case isTrue h => exact ⟨rfl, h, by rw [← h]⟩
  case isFalse => exact ⟨rfl, rfl, rfl⟩

/-- An image that does not verify raises 0x7001 and changes the counts of the security state besides. -/
theorem badImage_spec (s : State) : s.badImage = { s with sec := { s.sec with cnt := s.badImage.sec.cnt }, flt := s.badImage.flt } ∧
    s.badImage.flt.raised.map (·.code) = s.flt.raised.map (·.code) ++ [0x7001] := by
  obtain ⟨r, hraised, hcode, -⟩ := State.raise_raised { s with sec := { s.sec with cnt := satInc s.sec.cnt 0 16 1 } } 0x7001 srcToll 0 0 none 0
  refine ⟨rfl, ?_⟩
  rw [show s.badImage.flt.raised = _ from hraised, List.map_append, List.map_cons, List.map_nil, hcode]

/-- TOLLHOUSE_RELEASE once RESET_N is high, the flash is the module's own and every rail is good. -/
theorem exec_tollhouseRelease {s : State} (hstage : s.rst.stage = .inReset) (hreset : s.pins.resetN = true) (hflash : s.pins.flashOut = false)
    (hoff : s.pwr.computeOff = false) (hrails : s.pwr.rails.length = 11) : ∃ u : State, u = { s with tim := u.tim } ∧
      exec .tollhouseRelease s = .next (State.ibi { u.bootChain with rst := { u.bootChain.rst with stage := .bootRom } }) := by
  have hgood : s.railsGood = true := by simp [State.railsGood, hoff, hrails]
  exact ⟨s.advance (s.rst.last + 2000000 * ns).toNat, advance_tim_frame .., if_pos (by simp [hstage, hreset, hflash, hgood])⟩

theorem tollhouseRelease_of_verifies {s : State} {b : BootRec} (hstage : s.rst.stage = .inReset) (hreset : s.pins.resetN = true)
    (hflash : s.pins.flashOut = false) (hoff : s.pwr.computeOff = false) (hrails : s.pwr.rails.length = 11) (hb : s.sec.newest = b)
    (htrial : b.trial = false) (hverifies : s.fwVerifies (s.sec.slotImage b.slot) = true) :
    ∃ t, exec .tollhouseRelease s = .next t ∧ t.rst.stage = .bootRom ∧ t.sec.slot = b.slot ∧ t.sec.trial = false ∧
      t.sec.measure = measureOf (s.sec.slotImage b.slot) ∧ t.sec.akValid = true ∧ t.sec.noFw = s.sec.noFw ∧
      t.sec.boot = s.sec.boot ∧ t.sec.idLocked = true ∧
      t = { s with tim := t.tim, sec := t.sec, rst := t.rst, pins := t.pins } := by
  subst hb
  obtain ⟨u, hu, hexec⟩ := exec_tollhouseRelease hstage hreset hflash hoff hrails
  have hsec : u.sec = s.sec := by rw [hu]
  rw [bootChain_of_verifies (by rw [hsec]; exact htrial) (by rw [fwVerifies_congr (by rw [hsec] : u.sec.fuses = s.sec.fuses), hsec]; exact hverifies), hsec] at hexec
  obtain ⟨hframe, hlocked, hkept⟩ := issueAk_spec { u with sec := s.sec.bootFrom s.sec.newest }
  generalize State.issueAk { u with sec := s.sec.bootFrom s.sec.newest } = v at hexec hframe hlocked hkept
  refine ⟨_, hexec, ?_⟩
  rw [ibi_frame]
  refine ⟨rfl, ?_, ?_, ?_, ?_, ?_, ?_, hlocked, ?_⟩
  · exact (congrArg Sec.slot hkept :)
  · exact (congrArg Sec.trial hkept :).trans htrial
  · exact (congrArg Sec.measure hkept :)
  · exact (congrArg Sec.akValid hkept :)
  · exact (congrArg Sec.noFw hkept :)
  · exact (congrArg Sec.boot hkept :)
  · rw [hframe, hu]

theorem tollhouseRelease_of_not_verifies {s : State} {b : BootRec} (hstage : s.rst.stage = .inReset) (hreset : s.pins.resetN = true)
    (hflash : s.pins.flashOut = false) (hoff : s.pwr.computeOff = false) (hrails : s.pwr.rails.length = 11) (hb : s.sec.newest = b)
    (htrial : b.trial = false) (hfails : s.fwVerifies (s.sec.slotImage b.slot) = false)
    (hother : s.fwVerifies (s.sec.slotImage (1 - b.slot)) = false) :
    ∃ t, exec .tollhouseRelease s = .next t ∧ t.rst.stage = .bootRom ∧ t.sec.noFw = true ∧
      (t.flt.raised.map (·.code)) = s.flt.raised.map (·.code) ++ [0x7001, 0x7001] ∧
      t = { s with tim := t.tim, sec := t.sec, rst := t.rst, pins := t.pins, flt := t.flt } := by
  subst hb
  obtain ⟨u, hu, hexec⟩ := exec_tollhouseRelease hstage hreset hflash hoff hrails
  have hsec : u.sec = s.sec := by rw [hu]
  have hflt : u.flt = s.flt := by rw [hu]
  have hverifies := fwVerifies_congr (s := s) (t := u) (by rw [hsec])
  rw [bootChain_of_not_verifies (by rw [hsec]; exact htrial) (by rw [hverifies, hsec]; exact hfails) (by rw [hverifies, hsec]; exact hother)] at hexec
  have hfirst : u.otherSlot = { u with sec := u.otherSlot.sec, flt := u.otherSlot.flt } := rfl
  have hcodes : u.otherSlot.flt.raised.map (·.code) = u.flt.raised.map (·.code) ++ [0x7001] := (badImage_spec u).2
  generalize u.otherSlot = v at hexec hfirst hcodes
  obtain ⟨hsecond, hagain⟩ := badImage_spec v
  generalize v.badImage = w at hexec hsecond hagain
  refine ⟨_, hexec, ?_⟩
  rw [ibi_frame]
  refine ⟨rfl, rfl, ?_, ?_⟩
  · rw [show (w.flt.raised.map (·.code)) = _ from hagain, hcodes, hflt, List.append_assoc, List.singleton_append]
  · rw [hsecond, hfirst, hu]

end Sys2Proof.Machine

namespace Sys2Proof.Machine

/-! #### Firmware starts (R362, R363, R431, R464, R467) -/

theorem updCfg_of {s u : State} (h : ∃ c, u = { s with cfg := c }) (f : Cfg → Cfg) : ∃ c, u.updCfg f = { s with cfg := c } := by
  obtain ⟨c, rfl⟩ := h
  exact ⟨f c, rfl⟩

/-- Opening the journal changes configuration only. -/
theorem openJournal_frame (s : State) : s.openJournal = { s with cfg := s.openJournal.cfg } := by
  have hopens : ∃ c, s.openJournal = { s with cfg := c } := by
    have hfound : ∀ f, ∃ c, s.updCfg f = { s with cfg := c } := updCfg_of ⟨s.cfg, rfl⟩
    rw [State.openJournal]
    refine updCfg_of ?_ _
    split
    case isTrue => exact hfound _
    case isFalse => split <;> exact updCfg_of (hfound _) _
  obtain ⟨c, hc⟩ := hopens
  rw [hc]

theorem newestRec_none {recs : List JRec} {ty : BitVec 16} (h : ∀ r ∈ recs, r.ty ≠ ty) : newestRec recs ty = none := by
  rw [newestRec, List.filter_eq_nil_iff.mpr fun r hr => by simpa using h r hr]
  rfl

section
variable {recs : List JRec} (hbare : ∀ r ∈ recs, r.ty = jrBank ∨ r.ty = jrSeal)
include hbare

/-- A journal that holds nothing but its own marks holds no record of another type. -/
theorem ne_of_bare {ty : BitVec 16} (hbank : jrBank ≠ ty) (hseal : jrSeal ≠ ty) : ∀ r ∈ recs, r.ty ≠ ty := fun r hr => by
  obtain hty | hty := hbare r hr
  · rwa [hty]
  · rwa [hty]

theorem nextGeneration_of_bare : nextGeneration recs = (1, true) := by
  rw [nextGeneration, newestRec_none (ne_of_bare hbare (by decide) (by decide))]

theorem restoreFreq_of_bare (s : State) : s.restoreFreq recs = s := by
  rw [State.restoreFreq, newestRec_none (ne_of_bare hbare (by decide) (by decide))]

theorem restoreRegs_of_bare (s : State) : s.restoreRegs recs = s := by
  rw [State.restoreRegs, List.filter_eq_nil_iff.mpr fun r hr => by
    simp [ne_of_bare hbare (ty := jrRegister) (by decide) (by decide) r hr]]
  rfl

end

/-- A record entered takes the next SEQ and is shown to the host; generation and the kind of the reset stay (R414, R418). -/
theorem enterRecord_spec (s : State) (r : Raised) (sev : Nat) : s.enterRecord r sev =
      { s with flt := (s.enterRecord r sev).flt, hst := (s.enterRecord r sev).hst, pins := (s.enterRecord r sev).pins } ∧
    (s.enterRecord r sev).flt.nextSeq = s.flt.nextSeq + 1 ∧ (s.enterRecord r sev).flt.gen = s.flt.gen ∧
    (s.enterRecord r sev).flt.unplanned = s.flt.unplanned ∧ (s.enterRecord r sev).flt.raised = s.flt.raised := by
  have hcount : (s.flt.count sev).nextSeq = s.flt.nextSeq ∧ (s.flt.count sev).gen = s.flt.gen ∧
      (s.flt.count sev).unplanned = s.flt.unplanned ∧ (s.flt.count sev).raised = s.flt.raised := by
    rw [Flt.count]
    split_ifs <;> exact ⟨rfl, rfl, rfl, rfl⟩
  obtain ⟨hseq, hgen, hunplanned, hraised⟩ := hcount
  have henter : ∃ f bytes, s.enterRecord r sev = (State.faultEvent { s with flt := f } bytes false).ibi ∧ f.nextSeq = s.flt.nextSeq + 1 ∧
      f.gen = s.flt.gen ∧ f.unplanned = s.flt.unplanned ∧ f.raised = s.flt.raised :=
    ⟨_, _, rfl, congrArg (· + 1) hseq, hgen, hunplanned, hraised⟩
  obtain ⟨f, bytes, henter, hflt⟩ := henter
  rw [ibi_frame, State.faultEvent, event_frame] at henter
  rw [henter]
  exact ⟨rfl, hflt⟩

/-- An unplanned reset is recorded with a free code of two bytes (log 52). -/
theorem noteUnplanned_spec (s : State) : s.noteUnplanned =
      { s with flt := s.noteUnplanned.flt, hst := s.noteUnplanned.hst, pins := s.noteUnplanned.pins, freeCtr := s.freeCtr + 2 } ∧
    s.noteUnplanned.flt.nextSeq = s.flt.nextSeq + 1 ∧ s.noteUnplanned.flt.gen = s.flt.gen ∧
    s.noteUnplanned.flt.unplanned = s.flt.unplanned ∧ s.noteUnplanned.flt.raised = s.flt.raised := by
  obtain ⟨r, hnote⟩ : ∃ r, s.noteUnplanned = (s.freeBytes 2).2.enterRecord r 0 := ⟨_, rfl⟩
  obtain ⟨hframe, hflt⟩ := enterRecord_spec (s.freeBytes 2).2 r 0
  rw [hnote]
  exact ⟨hframe, hflt⟩

/-- Do the straps fail their test (R362, R498): an open pin, or an even number of high ones? -/
def strapsBad (straps opens : BitVec 16) : Bool :=
  opens ≠ 0 || ((List.range 16).filter (straps &&& ~~~opens).getLsbD).length % 2 = 0

/-- PLC_STRAPS of these pins (R362, R498). -/
def strapsOf (straps opens : BitVec 16) : Reg := at_ (straps &&& ~~~opens).toNat 0 16 ||| at_ opens.toNat 16 16

theorem field_strapsOf (straps opens : BitVec 16) : field (strapsOf straps opens) 0 16 = (straps &&& ~~~opens).toNat := by
  have hbelow : field (at_ opens.toNat 16 16) 0 16 = 0 := by
    rw [field, toNat_at (by decide)]
    omega
  rw [strapsOf, field_or, hbelow, field_at (by decide), Nat.mod_eq_of_lt (BitVec.isLt _), Nat.or_zero]

/-- The straps as firmware judges them, with the pins `pins`. -/
def State.strapsRead (s : State) (straps opens : BitVec 16) (pins : Pins) : State :=
  { s with plc := { s.plc with straps := strapsOf straps opens, strapFault := strapsBad straps opens }, pins := pins }

theorem senseStraps_eq (s : State) (straps opens : BitVec 16) : ∃ pins, s.senseStraps straps opens =
    if strapsBad straps opens then (s.strapsRead straps opens pins).raise 0x6004 srcToll 0 else s.strapsRead straps opens pins := by
  let read := s.strapsRead straps opens { s.pins with straps := straps, opens := opens }
  let addressed := s.strapsRead straps opens
    { s.pins with straps := straps, opens := opens, i3cAddr := BitVec.ofNat 7 (0x30 + field read.plc.straps 12 3) }
  have hsense : s.senseStraps straps opens = let x := if s.pins.i3cDyn then read else addressed
      if strapsBad straps opens then x.raise 0x6004 srcToll 0 else x := rfl
  rw [hsense]
  split
  case isTrue => exact ⟨_, rfl⟩
  case isFalse => exact ⟨_, rfl⟩

/-- What firmware shows of the straps (R362), and 0x6004 where they are bad. -/
theorem senseStraps_spec (s : State) (straps opens : BitVec 16) : ∃ raised pins, s.senseStraps straps opens =
      { s.strapsRead straps opens pins with flt := { s.flt with raised := raised } } ∧
    (strapsBad straps opens = true → ∃ r ∈ raised, r.code = 0x6004) := by
  obtain ⟨pins, hsense⟩ := senseStraps_eq s straps opens
  rw [hsense]
  split
  case isTrue =>
    exact ⟨_, pins, raiseFull_eq _ _ (show (0x6004 : BitVec 16) ≠ 0x9001 by decide), fun _ => ⟨_, List.mem_append_right _ (List.mem_singleton_self _), rfl⟩⟩
  case isFalse h => exact ⟨s.flt.raised, pins, rfl, fun hb => absurd hb h⟩

/-- The module as firmware starts, before the journal is opened. -/
def State.firmwareBegun (s : State) : State :=
  { s with rst := { s.rst with stage := .firmware }
           ucie := { up0 := !s.pwr.computeOff, up1 := !s.pwr.computeOff, fedAt := s.tim.now.toNat,
                     downAt := if s.pwr.computeOff then some s.tim.now.toNat else none } }

/-- The first generation, as a journal without records gives it (R431, R464; log 6). -/
def State.firstGeneration (s : State) : State :=
  (s.updFlt (fun f => { f with gen := 1, unplanned := true,
                               ueLines := (s.journalRecs.filter (fun r => r.ty == jrUeLine)).map (fun r =>
                                 (leAt r.payload 0 1, leAt r.payload 1 1, leAt r.payload 4 4 / 128)) })).journal jrGeneration [1]

/-- The hall number formed (R363). -/
def State.hallFormed (s : State) : State := s.updPlc (fun p => { p with hall := s.hallNumber })

theorem exec_firmwareStart {s : State} (straps opens : BitVec 16) (hstage : s.rst.stage = .bootRom) (hfw : s.sec.noFw = false)
    (hbare : ∀ r ∈ s.firmwareBegun.openJournal.journalRecs, r.ty = jrBank ∨ r.ty = jrSeal) : exec (.firmwareStart straps opens) s =
    .next (s.firmwareBegun.openJournal.firstGeneration.noteUnplanned.senseStraps straps opens).hallFormed.ibi := by
  have hexec : exec (.firmwareStart straps opens) s = if s.rst.stage = .bootRom && !s.sec.noFw then
      let u := s.firmwareBegun.openJournal
      let recs := u.journalRecs
      let (g, unplanned) := nextGeneration recs
      let u := u.updFlt (fun f => { f with gen := g, unplanned := unplanned,
                                           ueLines := (recs.filter (fun r => r.ty == jrUeLine)).map (fun r =>
                                             (leAt r.payload 0 1, leAt r.payload 1 1, leAt r.payload 4 4 / 128)) })
      let u := u.journal jrGeneration [BitVec.ofNat 8 g.toNat]
      let u := if unplanned then u.noteUnplanned else u
      .next (((u.senseStraps straps opens).restoreFreq recs).restoreRegs recs).hallFormed.ibi
    else .next s := rfl
  rw [if_pos (by simp [hstage, hfw])] at hexec
  dsimp only at hexec
  rw [nextGeneration_of_bare hbare] at hexec
  rw [hexec, restoreFreq_of_bare hbare, restoreRegs_of_bare hbare]
  rfl

theorem firstGeneration_spec (s : State) : s.firstGeneration = { s with cfg := s.firstGeneration.cfg, flt := s.firstGeneration.flt } ∧
    s.firstGeneration.flt.gen = 1 ∧ s.firstGeneration.flt.unplanned = true ∧ s.firstGeneration.flt.nextSeq = s.flt.nextSeq ∧
    (s.cfg.takes jrGeneration 1 = true →
      ∃ r o, (o, JRec.bytes r) ∈ s.firstGeneration.cfg.bank.cells ∧ r.ty = jrGeneration ∧ r.payload = [1]) := by
  rw [State.firstGeneration, journal_frame]
  refine ⟨rfl, rfl, rfl, rfl, fun htakes => ?_⟩
  obtain ⟨o, hmem⟩ := mem_cells_journal_of_takes (b := [1]) (s := s.updFlt _) htakes
  exact ⟨_, o, hmem, rfl, rfl⟩

/-- With an open pin the straps are bad (R362). -/
theorem strapsBad_of_open {straps opens : BitVec 16} (h : opens ≠ 0) : strapsBad straps opens = true := by
  rw [strapsBad, decide_eq_true h, Bool.true_or]

/-- What stage the reset is in, and UCIe, do not show in the journal opened. -/
theorem cfg_openJournal_firmwareBegun (s : State) : s.firmwareBegun.openJournal.cfg = s.openJournal.cfg := by
  rw [State.openJournal, State.openJournal]
  simp only [State.updCfg, apply_ite State.cfg]
  rfl

theorem firmwareStart_spec {s : State} (straps opens : BitVec 16) (hstage : s.rst.stage = .bootRom) (hfw : s.sec.noFw = false)
    (hoff : s.pwr.computeOff = false) (hbare : ∀ r ∈ s.openJournal.journalRecs, r.ty = jrBank ∨ r.ty = jrSeal)
    (htakes : s.openJournal.cfg.takes jrGeneration 1 = true) :
    ∃ t, exec (.firmwareStart straps opens) s = .next t ∧ t.rst.stage = .firmware ∧ t.ucie.up0 = true ∧ t.ucie.up1 = true ∧
      t.flt.gen = 1 ∧ t.flt.unplanned = true ∧ (∃ r o, (o, JRec.bytes r) ∈ t.cfg.bank.cells ∧ r.ty = jrGeneration ∧ r.payload = [1]) ∧
      field t.plc.straps 0 16 = (straps &&& ~~~opens).toNat ∧
      t.plc.hall = field s.plc.ctl 44 1 * 32768 + field t.plc.straps 0 12 * 8 + field t.plc.straps 12 3 ∧
      (opens ≠ 0 → t.plc.strapFault = true ∧ ∃ r ∈ t.flt.raised, r.code = 0x6004) ∧ t.flt.nextSeq = s.flt.nextSeq + 1 ∧
      t = { s with rst := t.rst, ucie := t.ucie, cfg := t.cfg, flt := t.flt, plc := t.plc, pins := t.pins, hst := t.hst, freeCtr := s.freeCtr + 2 } := by
  rw [State.journalRecs, ← cfg_openJournal_firmwareBegun] at hbare
  rw [← cfg_openJournal_firmwareBegun] at htakes
  have hexec := exec_firmwareStart straps opens hstage hfw hbare
  have hopened := openJournal_frame s.firmwareBegun
  generalize s.firmwareBegun.openJournal = u at hexec hopened htakes
  obtain ⟨hfirst, hgen, hunplanned, hseq, hrecord⟩ := firstGeneration_spec u
  replace hrecord := hrecord htakes
  generalize u.firstGeneration = v at hexec hfirst hgen hunplanned hseq hrecord
  obtain ⟨hnoted, hnotedSeq, hnotedGen, hnotedKind, -⟩ := noteUnplanned_spec v
  generalize v.noteUnplanned = w at hexec hnoted hnotedSeq hnotedGen hnotedKind
  obtain ⟨raised, pins, hsense, hbad⟩ := senseStraps_spec w straps opens
  rw [hsense, ibi_frame] at hexec
  have hcfg : w.cfg = v.cfg := by rw [hnoted]
  have hplc : w.plc = s.plc := by rw [hnoted, hfirst, hopened]; rfl
  have hucie : w.ucie = s.firmwareBegun.ucie := by rw [hnoted, hfirst, hopened]
  have hrst : w.rst = s.firmwareBegun.rst := by rw [hnoted, hfirst, hopened]
  have huflt : u.flt = s.flt := by rw [hopened]; rfl
  refine ⟨_, hexec, ?_⟩
  refine ⟨?_, ?_, ?_, hnotedGen.trans hgen, hnotedKind.trans hunplanned, ?_, field_strapsOf straps opens, ?_, fun hopen => ?_, ?_, ?_⟩
  · exact congrArg Rst.stage hrst
  · exact (congrArg Ucie.up0 hucie).trans (by simp [State.firmwareBegun, hoff])
  · exact (congrArg Ucie.up1 hucie).trans (by simp [State.firmwareBegun, hoff])
  · rw [← hcfg] at hrecord
    exact hrecord
  · rw [← hplc]
    rfl
  · exact ⟨strapsBad_of_open hopen, hbad (strapsBad_of_open hopen)⟩
  · rw [← huflt, ← hseq]
    exact hnotedSeq
  · rw [hnoted, hfirst, hopened]
    rfl

end Sys2Proof.Machine

namespace Sys2Proof.Machine

/-! #### Cells left out of a memory -/

/-- With every cell of an address left out, the address reads as zero. -/
theorem memGet_filter_of_drop {p : Nat → Bool} {a : Nat} (h : p a = false) (m : List Host.Cell) : memGet (m.filter (fun c => p c.1)) a = 0 := by
  induction m with
  | nil => rfl
  | cons c r ih =>
    rw [List.filter_cons]
    split
    case isTrue hc =>
      have hne : a ≠ c.1 := fun heq => by rw [← heq, h] at hc; cases hc
      rw [memGet, if_neg hne, ih]
      split <;> rfl
    case isFalse => exact ih

/-- With the cell of an address kept, the address reads as before. -/
theorem memGet_filter_of_keep {p : Nat → Bool} {a : Nat} (h : p a = true) {m : List Host.Cell} (hm : memWf m = true) :
    memGet (m.filter (fun c => p c.1)) a = memGet m a := by
  induction m with
  | nil => rfl
  | cons c r ih =>
    obtain ⟨-, hfrom, hr⟩ := (memWf_cons c r).mp hm
    rw [List.filter_cons]
    split
    case isTrue => rw [memGet, memGet, ih hr]
    case isFalse hc =>
      have hne : a ≠ c.1 := fun heq => hc (by rw [← heq, h])
      rw [ih hr, memGet, if_neg hne]
      split
      case isTrue hlt => exact memGet_of_memFrom hfrom (by omega)
      case isFalse => rfl

/-! #### The die's release (R258, R268, R269, R508) -/

theorem restoreStack_frame (s : State) (st : Nat) (tact : List Reg) : s.restoreStack st tact =
    { s with mem := (s.restoreStack st tact).mem, upsets := (s.restoreStack st tact).upsets, msq := (s.restoreStack st tact).msq } := by
  rw [State.restoreStack]
  split <;> rfl

/-- The stacks change at the released one alone, which is in autonomous refresh; whether it kept its contents shows (R268, R269). -/
theorem msq_restoreStack (s : State) (st : Nat) (tact : List Reg) : ∃ m, (s.restoreStack st tact).msq = (s.setMs st m).msq ∧
    m.kept = (s.ms st).selfRef ∧ m.auto = true ∧ m.selfRef = false := by
  rw [State.restoreStack]
  split <;> exact ⟨_, rfl, rfl, rfl, rfl⟩

/-- Whether a stack kept its contents, and its refresh. -/
def Msq.refresh (m : Msq) : Bool × Bool × Bool := (m.kept, m.auto, m.selfRef)

theorem ms_restoreStack (s : State) (st : Nat) (tact : List Reg) :
    ((s.restoreStack st tact).ms st).refresh = ((s.ms st).selfRef, true, false) := by
  obtain ⟨m, hmsq, hkept, hauto, hself⟩ := msq_restoreStack s st tact
  have hms : (s.restoreStack st tact).ms st = m := by
    rw [State.ms, hmsq]
    exact State.ms_setMs ..
  rw [hms, Msq.refresh, hkept, hauto, hself]

theorem ms_restoreStack_ne (s : State) {st x : Nat} (tact : List Reg) (h : x ≠ st) : (s.restoreStack st tact).ms x = s.ms x := by
  obtain ⟨m, hmsq, -⟩ := msq_restoreStack s st tact
  rw [State.ms, hmsq]
  exact State.ms_setMs_ne _ _ _ _ h

/-- Does the release of stack `st` leave an address as it is: where the stack kept its contents, or outside the stack? -/
def Msq.leaves (m : Msq) (st a : Nat) : Bool :=
  m.selfRef || (decide (a < hbmBase + st * stackLines * 128) || decide (hbmBase + st * stackLines * 128 + stackLines * 128 ≤ a))

theorem mem_restoreStack (s : State) (st : Nat) (tact : List Reg) :
    (s.restoreStack st tact).mem = s.mem.filter (fun c => (s.ms st).leaves st c.1) := by
  rw [State.restoreStack]
  cases hself : (s.ms st).selfRef
  case true =>
    have hall : s.mem.filter (fun c => (s.ms st).leaves st c.1) = s.mem := List.filter_eq_self.mpr fun c _ => by simp [Msq.leaves, hself]
    rw [hall]
    rfl
  case false =>
    simp only [Msq.leaves, hself, Bool.false_or]
    rw [if_neg (by decide), memZero]
    rfl

/-- The stacks released one after another. -/
def State.restoreStacks (s : State) (l : List Nat) (tact : List (List Reg)) : State := forEach s l (fun s st => s.restoreStack st (nth [] tact st))

theorem restoreStacks_frame (s : State) (l : List Nat) (tact : List (List Reg)) : s.restoreStacks l tact =
    { s with mem := (s.restoreStacks l tact).mem, upsets := (s.restoreStacks l tact).upsets, msq := (s.restoreStacks l tact).msq } := by
  refine forEach_keeps (fun t => t = { s with mem := t.mem, upsets := t.upsets, msq := t.msq }) _ (fun t st ht => ?_) l s rfl
  rw [restoreStack_frame, ht]

theorem ms_restoreStacks {l : List Nat} (hl : l.Nodup) {st : Nat} (hst : st ∈ l) (s : State) (tact : List (List Reg)) :
    ((s.restoreStacks l tact).ms st).refresh = ((s.ms st).selfRef, true, false) := by
  refine (forEach_passes (g := fun u => (u.ms st).refresh) (fun u x hx => ?_) (fun u v huv => ?_) l s hl hst).trans (ms_restoreStack ..)
  · rw [ms_restoreStack_ne u _ hx.symm]
  · have hself : (u.ms st).selfRef = (v.ms st).selfRef := congrArg (·.2.2) huv
    rw [ms_restoreStack, ms_restoreStack, hself]

theorem mem_restoreStacks {l : List Nat} (hl : l.Nodup) (s : State) (tact : List (List Reg)) :
    (s.restoreStacks l tact).mem = s.mem.filter (fun c => l.all (fun st => (s.ms st).leaves st c.1)) := by
  rw [State.restoreStacks, forEach]
  induction l generalizing s with
  | nil => exact (List.filter_eq_self.mpr fun _ _ => rfl).symm
  | cons x r ih =>
    obtain ⟨hx, hr⟩ := List.nodup_cons.mp hl
    rw [List.foldl_cons, ih hr, mem_restoreStack, List.filter_filter]
    refine List.filter_congr fun c _ => ?_
    have hrest : (r.all fun st => ((s.restoreStack x (nth [] tact x)).ms st).leaves st c.1) = r.all fun st => (s.ms st).leaves st c.1 := by
      rw [Bool.eq_iff_iff, List.all_eq_true, List.all_eq_true]
      exact forall₂_congr fun st hst => by rw [ms_restoreStack_ne _ _ (ne_of_mem_of_not_mem hst hx)]
    rw [hrest, List.all_cons, Bool.and_comm]

/-- An address of stack `st` lies outside every other stack. -/
theorem leaves_of_other {st x a : Nat} (hx : x ≠ st) (hlo : hbmBase + st * stackLines * 128 ≤ a) (hhi : a < hbmBase + (st + 1) * stackLines * 128)
    (m : Msq) : m.leaves x a = true := by
  simp only [Msq.leaves, Bool.or_eq_true, decide_eq_true_eq]
  simp only [stackLines] at hlo hhi ⊢
  omega

/-- An address below the stacks lies outside every one of them. -/
theorem leaves_of_below {a : Nat} (ha : a < hbmBase) (m : Msq) (st : Nat) : m.leaves st a = true := by
  simp only [Msq.leaves, Bool.or_eq_true, decide_eq_true_eq]
  omega

theorem computeDieRelease_spec {s : State} (tact : List (List Reg)) (hstage : s.rst.stage = .firmware) (hoff : s.pwr.computeOff = false) :
    ∃ t, exec (.computeDieRelease tact) s = .next t ∧ t.rst = { s.rst with stage := .die, dieUp := true } ∧ t.pins.perstN = true ∧
      (∀ st, st < 4 → (t.ms st).kept = (s.ms st).selfRef ∧ (t.ms st).auto = true ∧ (t.ms st).selfRef = false ∧
        ((s.ms st).selfRef = false → ∀ a, hbmBase + st * stackLines * 128 ≤ a → a < hbmBase + (st + 1) * stackLines * 128 →
          memGet t.mem a = 0) ∧
        ((s.ms st).selfRef = true → memWf s.mem = true → ∀ a, hbmBase + st * stackLines * 128 ≤ a →
          a < hbmBase + (st + 1) * stackLines * 128 → memGet t.mem a = memGet s.mem a)) ∧
      (memWf s.mem = true → ∀ a, a < hbmBase → memGet t.mem a = memGet s.mem a) ∧
      t = { s with mem := t.mem, upsets := t.upsets, msq := t.msq, rst := t.rst, pins := t.pins } := by
  have hexec : exec (.computeDieRelease tact) s = .next { s.restoreStacks (List.range 4) tact with
      rst := { (s.restoreStacks (List.range 4) tact).rst with stage := .die, dieUp := true }
      pins := { (s.restoreStacks (List.range 4) tact).pins with perstN := true } } := if_pos (by simp [hstage, hoff])
  refine ⟨_, hexec, ?_⟩
  have hframe := restoreStacks_frame s (List.range 4) tact
  have hrefresh := fun st (hst : st < 4) => ms_restoreStacks List.nodup_range (List.mem_range.mpr hst) s tact
  have hmem := mem_restoreStacks (List.nodup_range (n := 4)) s tact
  generalize s.restoreStacks (List.range 4) tact = u at hframe hrefresh hmem
  have hrst : u.rst = s.rst := by rw [hframe]
  refine ⟨by rw [hrst], rfl, fun st hst => ?_, fun hwf a ha => ?_, by rw [hframe]⟩
  · have hone := hrefresh st hst
    refine ⟨congrArg (·.1) hone, congrArg (·.2.1) hone, congrArg (·.2.2) hone, fun hself a hlo hhi => ?_, fun hself hwf a hlo hhi => ?_⟩
    · refine (congrArg (memGet · a) hmem).trans (memGet_filter_of_drop (p := fun a => (List.range 4).all fun st => (s.ms st).leaves st a) ?_ _)
      refine List.all_eq_false.mpr ⟨st, List.mem_range.mpr hst, ?_⟩
      simp only [Msq.leaves, hself, Bool.false_or, Bool.or_eq_true, decide_eq_true_eq]
      simp only [stackLines] at hlo hhi ⊢
      omega
    · refine (congrArg (memGet · a) hmem).trans
        (memGet_filter_of_keep (p := fun a => (List.range 4).all fun st => (s.ms st).leaves st a) (List.all_eq_true.mpr fun x _ => ?_) hwf)
      by_cases hx : x = st
      · rw [hx, Msq.leaves, hself, Bool.true_or]
      · exact leaves_of_other hx hlo hhi _
  · exact (congrArg (memGet · a) hmem).trans (memGet_filter_of_keep (p := fun a => (List.range 4).all fun st => (s.ms st).leaves st a)
      (List.all_eq_true.mpr fun x _ => leaves_of_below ha _ _) hwf)

/-! #### IDLE (R112, R119, R122, R430, R489) -/

/-- With no tile found failed, a row's repair is what it was known to be, and nothing is journaled (R119). -/
theorem repairRow_nil_frame (s : State) (row : Nat) : s.repairRow row [] = { s with rows := (s.repairRow row []).rows } := by
  have hnone : (s.failedCols row []).filter (fun c => !(s.failedCols row []).contains c) = [] :=
    List.filter_eq_nil_iff.mpr fun c hc => by simp [hc]
  rw [State.repairRow]
  dsimp only
  rw [hnone]
  rfl

/-- Firmware that confirms itself is not in trial any more; only the security state changes. -/
theorem confirmFirmware_spec (s : State) : s.confirmFirmware = { s with sec := s.confirmFirmware.sec } ∧ s.confirmFirmware.sec.trial = false := by
  rw [State.confirmFirmware]
  split
  case isTrue => exact ⟨rfl, rfl⟩
  case isFalse h => exact ⟨rfl, eq_false_of_ne_true h⟩

/-- The rows repaired. -/
def State.rowsRepaired (s : State) : State := forEach s (List.range 25) (fun s row => s.repairRow row [])

theorem rowsRepaired_frame (s : State) : s.rowsRepaired = { s with rows := s.rowsRepaired.rows } := by
  refine forEach_keeps (fun t => t = { s with rows := t.rows }) _ (fun t row ht => ?_) _ s rfl
  rw [repairRow_nil_frame, ht]

/-- The die and its store tested (R112, R122). -/
def State.tested (s : State) : State :=
  { s with padsSet := true, mem := s.mem.filter (fun c => isHbm c.1), upsets := s.upsets.filter (fun u => u.area == Area.hbm)
           rst := { s.rst with stage := .none, idle := true } }

/-- The host interface in IDLE (R406). -/
def State.idled (s : State) : State :=
  ((s.setSt stIdle).updHst (fun h => { h with ready := true, resetDone := true })).signal 3

theorem hst_idled (s : State) : s.idled.hst = { s.hst with st := stIdle, ready := true, resetDone := true, vectors := s.hst.vectors ++ [3] } := by
  rw [State.idled, signal_eq _ _ (by decide)]
  rfl

theorem idled_frame (s : State) : s.idled = { s with hst := s.idled.hst } := signal_frame ..

theorem selfTestDone_spec {s : State} (hstage : s.rst.stage = .die) :
    ∃ t, exec (.selfTestDone []) s = .next t ∧ t.rst = { s.rst with stage := .none, idle := true } ∧ t.hst.st = stIdle ∧ t.hst.ready = true ∧
      t.hst.resetDone = true ∧ t.hst.vectors = s.hst.vectors ++ [3] ∧ t.padsSet = true ∧ (∀ a, a < hbmBase → memGet t.mem a = 0) ∧
      t.sec.trial = false ∧ (memWf s.mem = true → ∀ a, hbmBase ≤ a → memGet t.mem a = memGet s.mem a) ∧
      t = { s with rows := t.rows, padsSet := t.padsSet, mem := t.mem, upsets := t.upsets, sec := t.sec, rst := t.rst, hst := t.hst, pins := t.pins } := by
  have hexec : exec (.selfTestDone []) s = .next s.rowsRepaired.tested.confirmFirmware.idled.ibi := by
    rw [show exec (.selfTestDone []) s = execSelfTestDone [] s from rfl, execSelfTestDone, if_pos hstage, List.filter_nil, ← State.rowsRepaired]
    generalize s.rowsRepaired = u
    rfl
  have hrepaired := rowsRepaired_frame s
  generalize s.rowsRepaired = u at hexec hrepaired
  obtain ⟨hconfirmed, htrial⟩ := confirmFirmware_spec u.tested
  generalize u.tested.confirmFirmware = v at hexec hconfirmed htrial
  have hidle := hst_idled v
  rw [ibi_frame, idled_frame, hidle] at hexec
  have hrst : v.rst = { s.rst with stage := .none, idle := true } := by rw [hconfirmed, hrepaired]; rfl
  have hhst : v.hst = s.hst := by rw [hconfirmed, hrepaired]; rfl
  have hmem : v.mem = s.mem.filter (fun c => isHbm c.1) := by rw [hconfirmed, hrepaired]; rfl
  refine ⟨_, hexec, hrst, rfl, rfl, rfl, ?_, ?_, fun a ha => ?_, htrial, fun hwf a ha => ?_, ?_⟩
  · rw [← hhst]
  · rw [hconfirmed]
    rfl
  · exact (congrArg (memGet · a) hmem).trans (memGet_filter_of_drop (p := isHbm) (by rw [isHbm, decide_eq_false (Nat.not_le_of_lt ha)]) _)
  · exact (congrArg (memGet · a) hmem).trans (memGet_filter_of_keep (p := isHbm) (by rw [isHbm, decide_eq_true ha]) hwf)
  · rw [hconfirmed, hrepaired]
    rfl

/-- Settles O55: one lemma per step of the sequence, from the drain to IDLE. -/
theorem resetsRunTheirSequence : Obligations.ResetsRunTheirSequence := by
  intro s
  refine ⟨drainEnd_spec, fun _ => resetHoldExpiry_again_spec, resetHoldExpiry_unplanned_spec, resetBegin_spec, fun _ => selfRefreshTimeout_spec,
    coresHeldInReset_spec, ?_, ?_, computeDieRelease_spec, selfTestDone_spec⟩
  · exact fun b hstage hreset hflash hoff hrails hb htrial => ⟨tollhouseRelease_of_verifies hstage hreset hflash hoff hrails hb htrial,
      tollhouseRelease_of_not_verifies hstage hreset hflash hoff hrails hb htrial⟩
  · exact fun straps opens hstage hfw hoff _ => firmwareStart_spec straps opens hstage hfw hoff

end Sys2Proof.Machine
